-- ==== Sys2Proof/Word.lean ====
section
/-!
DEFINITION. The words of the module and the numbers of its units (R14, R15, R19, R316).
-/
namespace Sys2Proof

abbrev Byte := BitVec 8
/-- One FP32 value, as its 32 bits (R52). -/
abbrev F32 := BitVec 32
abbrev Word64 := BitVec 64
/-- Unit numbers of R19, R301 and R316. -/
abbrev TileNo := Fin 64
abbrev CoreNo := Fin 256
abbrev SlotNo := Fin 4
abbrev StackNo := Fin 32
abbrev PortNo := Fin 8
abbrev HostPort := Fin 4
abbrev PartNo := Fin 64
abbrev CuffNo := Fin 40
abbrev RingNo := BitVec 20
abbrev CtxNo := BitVec 16

/-- A table of many like things that are mostly at their reset value: the listed indices, strictly rising, none of
them at the table's default (the one canonical form of R519's "wide and sparse" state). -/
abbrev Tbl (α : Type) := List (Nat × α)

end Sys2Proof
end

