-- ==== Sys2Proof/Syntax.lean ====
section
/-!
DEFINITION. The commands of the block: one constructor of `Instr` for each row of the table of operations and events, with the
row's operands. A packet is an operand of the rows at which it arrives (R142).
-/
namespace Sys2Proof

/-- The outcome of an error check of one line as the read finds it (R270, R273): the physical finding, an operand. -/
inductive Ecc where
  | clean | corrected | uncorrectable
  /-- The die has corrected the line inside itself, and reports it (R268). -/
  | dieCorrected
  /-- The line's code-block section was corrected, a failed section 31 regenerated, or an uncorrectable error found in a section 0 to 30 (R269, R270). -/
  | sectionCorrected | sectionUncorrectable
  deriving DecidableEq, Repr

/-- A packet of the mesh: the header fields of R142 and the payload; `here` is the router it stands at. -/
structure Packet where
  cls : BitVec 3
  typ : BitVec 5
  srcTile : TileNo
  srcUnit : BitVec 4
  dstTile : TileNo
  dstUnit : BitVec 4
  partition : BitVec 7
  context : CtxNo
  length : BitVec 13
  addr : BitVec 56
  tag : BitVec 8
  tree : BitVec 16
  node : BitVec 16
  role : Bool
  nonfinite : Bool
  poison : Bool
  last : Bool
  status : BitVec 4
  origClass : BitVec 3
  sys : Bool
  offset : BitVec 32
  payload : List Byte
  here : TileNo
  /-- The input port of that router it came in by: a neighbour's direction, or 4 for the local port (R137, R147). -/
  input : Fin 5 := 4
  /-- Its last hop was a down hop of R151, which the input port it came in by shows. -/
  descended : Bool := false
  deriving DecidableEq, Repr

/-- Where a gate runs (R330): in the ring unit, or in a task slot of a core. -/
inductive GatePlace where
  | ring (r : RingNo)
  | core (c : CoreNo) (slot : SlotNo)
  deriving DecidableEq, Repr

/-- Where a descriptor in a counted wait stands (R331); an index counts from the front of its list. -/
inductive WaitPlace where
  | ring (r : RingNo)
  | slot (c : CoreNo) (slot : SlotNo)
  | coreHeld (c : CoreNo) (index : Nat)
  | cuffHeld (n : CuffNo) (index : Nat)
  | stationHeld (t : TileNo) (index : Nat)
  | phase (p : PartNo) (index : Nat)
  | stepClose (p : PartNo)
  deriving DecidableEq, Repr

/-- What a not-before time holds (R381). -/
inductive HeldUntil where
  | gate (g : GatePlace)
  | phase (p : PartNo)
  deriving DecidableEq, Repr

/-- The binding a management message arrives on (R479). -/
inductive Binding where
  | smbus
  | vdm (p : HostPort)
  deriving DecidableEq, Repr

/-- How a Weala request arrives (R413): as a write of MG_REQ_CMD through a host port, or over MCTP. -/
inductive ReqSource where
  | bar0 (port : HostPort) (value : Word64)
  | mctp (b : Binding) (token : BitVec 24)
  deriving DecidableEq, Repr

/-- The owner's authority carried by a request block (R413): whether it carries the key and a signature that verifies,
the SHA-256 digest of the key it carries, and whether the flash takes what the request writes to it (R416). -/
structure Auth where
  sigValid : Bool
  keyDigest : BitVec 256
  flashOk : Bool := true
  deriving DecidableEq, Repr

/-- A map offered to PERSIST_MAP (R413): none persists the running map. -/
structure OfferedMap where
  entries : List Word64
  camormetSigned : Bool
  grade : BitVec 2
  deriving DecidableEq, Repr

/-- A router's choice as a hop begins (R140, R155): the packet's place in the list, the slot of the outgoing link's frame, and the sub-words that the
receiver corrects. -/
structure Hop where
  index : Nat
  slot : Fin 32
  corrected : Nat
  deriving DecidableEq, Repr

/-- What a Cuff's turn shows (R256, R270): the check of the first line it reads, and the mean read latency of a far Cuff's device. -/
structure CuffRead where
  ecc : Ecc
  latNs : BitVec 16
  deriving DecidableEq, Repr

/-- How a host link leaves L0 (R512): into recovery or lost, with the errors that AER has found. -/
structure LinkLoss where
  lost : Bool
  correctable : Nat
  uncorrectable : Nat
  deriving DecidableEq, Repr

/-- What a host link comes up with: FLIT mode, and what the host has written to the port's PCIe configuration: ATS, MSI-X, and the vectors it masks
(R335, R473, R511). -/
structure HostConfig where
  flit : Bool
  ats : Bool
  msix : Bool
  masked : List Nat
  deriving DecidableEq, Repr

/-- What a started expansion port found (R281). -/
inductive XpResult where
  | mapped (capacity256MiB : Nat) (width speed : BitVec 3)
  | noDevice
  | unsupported (width speed : BitVec 3)
  deriving DecidableEq, Repr

/-- A flash area that READ_AREA names (R406). -/
inductive FlashArea where
  | directory | imageA | imageB | settings | map | ledgerMirror | audit | factory
  deriving DecidableEq, Repr

/-- One domain's Visor samples over an interval (R437, R439), at index tile × 4 + k. -/
structure VisorSample where
  index : Nat
  mean : BitVec 16
  peak : BitVec 16
  vmean : BitVec 16
  vmin : BitVec 16
  /-- Thefa time of the lowest sample (R439). -/
  vminTime : Word64
  off : Bool
  deriving DecidableEq, Repr

/-- A unit whose controller faults (R278, R298). -/
inductive CtrlUnit where
  | stack (s : StackNo)
  | port (p : PortNo)
  deriving DecidableEq, Repr

/-- Why a tile becomes a hole (R48). -/
inductive HoleCause where
  | router | seam | vddl | selfTest
  deriving DecidableEq, Repr

/-- A busbar pair (R427). -/
inductive BusPair where
  | A | B
  deriving DecidableEq, Repr

/-- The commands: every row of the table of operations and events, in the table's order. A BAR0 write carries the host port
it comes through and the value written (R485, R486). -/
inductive Instr where
  | diagRequest (port : HostPort) (value : Word64)
  | clusterModeEntry (tile : TileNo)
  | clusterModeReturn (tile : TileNo) (failed : BitVec 20)
  | segmentFailure (core : CoreNo) (phys : Fin 5)
  | substituteSelftestDone (core : CoreNo) (pass : Bool)
  | spareSelftest (tile : TileNo)
  | spareSelftestResult (core : CoreNo) (pass : Bool)
  | tileHole (tile : TileNo) (cause : HoleCause)
  | lsCommit (port : HostPort) (p : PartNo) (value : Word64)
  | lsPairInvalid (p : PartNo)
  | taskAdmit (core : CoreNo)
  | sliceExpiry (core : CoreNo)
  | minRunExpiry (core : CoreNo)
  | fetchTagComplete (core : CoreNo) (slot : SlotNo) (tag : Nat)
  | storeTagComplete (core : CoreNo) (slot : SlotNo) (tag : Nat)
  | swapComplete (core : CoreNo) (slot : SlotNo)
  | fetchFailure (core : CoreNo) (slot : SlotNo) (status : BitVec 8)
  | gauntlet (core : CoreNo) (slot : SlotNo)
  | attn (core : CoreNo) (slot : SlotNo)
  | attnBwd (core : CoreNo) (slot : SlotNo)
  | attnRound (core : CoreNo) (slot : SlotNo)
  | copy (core : CoreNo) (slot : SlotNo)
  | sparseMetaCheck (core : CoreNo) (slot : SlotNo)
  | tlSparseClear (port : HostPort) (core : CoreNo) (value : Word64)
  | linkReplay (tile : TileNo) (dir : Fin 4) (good : Bool)
  | linkDown (tile : TileNo) (dir : Fin 4)
  | escapeTableLoad
  | packetHop (hop : Hop)
  | rdReq (pkt : Packet) (ecc : Ecc)
  | wrReq (pkt : Packet) (ecc : Ecc)
  | rdRsp (pkt : Packet)
  | wrAck (pkt : Packet)
  | addReq (pkt : Packet) (ecc : Ecc)
  | addlReq (pkt : Packet) (ecc : Ecc)
  | addRsp (pkt : Packet)
  | redData (pkt : Packet)
  | redCredit (pkt : Packet)
  | bcastData (pkt : Packet)
  | mgReq (pkt : Packet)
  | mgRsp (pkt : Packet)
  | errRsp (pkt : Packet)
  | redTimeout (tile : TileNo) (slot : Fin 16)
  | brimBurstHop (index : Nat)
  | clockWake (tile : TileNo)
  | fbCommit (port : HostPort) (value : Word64)
  | quietTablesApplied
  | phase (p : PartNo)
  | phaseDrained (p : PartNo)
  | route (core : CoreNo) (slot : SlotNo)
  | routeBwd (core : CoreNo) (slot : SlotNo)
  | dispatch (core : CoreNo) (slot : SlotNo)
  | dispatchCountPhase (p : PartNo) (key : Nat)
  | dispatchDirectoryValid (core : CoreNo) (slot : SlotNo)
  | dispatchBwd (core : CoreNo) (slot : SlotNo)
  | combine (core : CoreNo) (slot : SlotNo)
  | combineBwd (core : CoreNo) (slot : SlotNo)
  | stream (tile : TileNo)
  | streamStart (tile : TileNo)
  | rotate (core : CoreNo) (slot : SlotNo)
  | rotateShardReceived (core : CoreNo) (slot : SlotNo)
  | fbMapAreaWrite (port : HostPort) (p : PartNo) (value : Word64)
  | fbMoeClear (port : HostPort) (p : PartNo) (value : Word64)
  | palmInit (core : CoreNo)
  | palmContribution (core : CoreNo) (slot : SlotNo)
  | reduce (core : CoreNo) (slot : SlotNo)
  | stepClose (p : PartNo)
  | censusFinal (p : PartNo)
  | updateApply (cuff : CuffNo)
  | updatePark (cuff : CuffNo)
  | cuffUpdateStart (cuff : CuffNo)
  | cuffChunk (cuff : CuffNo) (read : CuffRead)
  | rootBufferTimeout (cuff : CuffNo) (tree : BitVec 16)
  | correctedWriteback (line : Nat)
  | scrubLine (stack : StackNo) (ecc : Ecc)
  | refresh (stack : StackNo)
  | phyRecalibration (stack : StackNo) (pc : Fin 32) (ok : Bool)
  | hcWithdraw (port : HostPort) (stack : StackNo) (value : Word64)
  | hcLoadWindow (stack : StackNo) (util : Byte)
  | hcLoadRead (port : HostPort) (stack : StackNo)
  | xpLinkRecovery (p : PortNo)
  | xpLinkLost (p : PortNo)
  | promote (cuff : CuffNo)
  | drain (cuff : CuffNo)
  | mboxGo (port : HostPort) (p : PortNo) (value : Word64)
  | mboxComplete (p : PortNo) (returnCode : BitVec 16) (output : List Byte)
  | mboxTimeout (p : PortNo)
  | ringCreate (port : HostPort) (value : Word64)
  | ringChange (port : HostPort) (value : Word64)
  | ringDisable (port : HostPort) (value : Word64)
  | doorbell (port : HostPort) (ctx : CtxNo) (slot : BitVec 9) (size : Nat) (value : Word64)
  | ringRead (r : RingNo)
  | headWriteback (r : RingNo)
  | fenceRelease (r : RingNo)
  | nop (r : RingNo)
  | signal (r : RingNo)
  | wait (g : GatePlace)
  | timed (g : GatePlace)
  | waitPoll (g : GatePlace)
  | waitTimeoutExpiry (w : WaitPlace)
  | holdoffExpiry (r : RingNo)
  | platformEventSet (port : HostPort) (value : Word64)
  | partitionCreate (port : HostPort) (value : Word64)
  | partitionChange (port : HostPort) (value : Word64)
  | partitionRemove (port : HostPort) (value : Word64)
  | ownershipSwitch (p : PartNo)
  | stackHandoverZeroDone (stack : StackNo)
  | contextBind (port : HostPort) (value : Word64)
  | contextUnbind (port : HostPort) (value : Word64)
  | contextMove (port : HostPort) (value : Word64)
  | contextEntriesChange (port : HostPort) (value : Word64)
  | pageAllocate (port : HostPort) (value : Word64)
  | pageZeroDone (first : BitVec 16)
  | pageFree (port : HostPort) (value : Word64)
  | coreReset (port : HostPort) (value : Word64)
  | clusterReset (port : HostPort) (value : Word64)
  | partitionReset (port : HostPort) (value : Word64)
  | moduleReset (port : HostPort) (value : Word64)
  | resetDrainEnd (level : Fin 4) (target : BitVec 8) (drain100ns : BitVec 16)
  | resetClearDone (level : Fin 4) (target : BitVec 8)
  | refPpsEdge (ref : Fin 2) (cycles : Nat) (phaseNs : Int)
  | refPpsTimeout (ref : Fin 2)
  | refFreqLoss (ref : Fin 2)
  | toleranceWindowEnd (freqA freqB ocxo : Int)
  | slewDone
  | holdoverDegrade
  | tbSet (port : HostPort) (value : Word64)
  | tbCtlWrite (port : HostPort) (value : Word64)
  | tbNowLowRead (port : HostPort)
  | notBeforeReached (what : HeldUntil)
  | exportRingSet (port : HostPort) (p : PartNo) (value : Word64)
  | wealaStart
  | mainPowerStart
  | fabricReady
  | tileSramReady (tile : TileNo) (badBanks : BitVec 64)
  | stackTrainResult (stack : StackNo) (ok : Bool)
  | hostPortWaiting (p : HostPort) (sris : Bool)
  | hostLinkUp (p : HostPort) (width speed : BitVec 3) (cfg : HostConfig)
  | xpReady (p : PortNo) (result : XpResult)
  | coreReady (core : CoreNo) (failed : BitVec 5)
  | functionTimeout (fn : Fin 367)
  | setSetting (src : ReqSource) (id : BitVec 16) (value : BitVec 256) (auth : Auth)
  | persistMap (src : ReqSource) (map : Option OfferedMap) (auth : Auth)
  | writeImage (src : ReqSource) (imageB : Bool) (offset : Nat) (data : List Byte) (auth : Auth)
  | commitImage (src : ReqSource) (imageB : Bool) (version : Nat) (gens : BitVec 2) (camormetSigned : Bool) (auth : Auth)
  | readArea (src : ReqSource) (area : FlashArea) (offset length : Nat) (auth : Auth)
  | readLedger (src : ReqSource) (auth : Auth)
  | setEndpointId (b : Binding) (eid : Byte)
  | getEndpointId (b : Binding)
  | getEndpointUuid (b : Binding)
  | getMctpVersionSupport (b : Binding) (msgType : Byte)
  | getMessageTypeSupport (b : Binding)
  | gettid (b : Binding)
  | settid (b : Binding) (tid : Byte)
  | getpldmversion (b : Binding) (pldmType : Byte)
  | getpldmtypes (b : Binding)
  | getpldmcommands (b : Binding) (pldmType : Byte)
  | getpdrrepositoryinfo (b : Binding)
  | getpdr (b : Binding) (record : Nat)
  | getsensorreading (b : Binding) (sensor : Nat)
  | getstatesensorreadings (b : Binding) (sensor : Nat)
  | seteventreceiver (b : Binding) (eid : Byte)
  | throttleTick (vA vB iA iB : BitVec 16) (power : BitVec 32)
  | freqStep (tile : TileNo)
  | sensorSample (tile : TileNo) (readings : List Int)
  | thermalNapEnd (tile : TileNo)
  | visorInterval (samples : List VisorSample)
  | pwVminRead (port : HostPort) (index : Fin 256)
  | pwLimitWrite (port : HostPort) (value : Word64)
  | runRequest (port : HostPort) (tile : TileNo) (value : Word64)
  | napRequest (port : HostPort) (tile : TileNo) (value : Word64)
  | dozeRequest (port : HostPort) (tile : TileNo) (value : Word64)
  | offRequest (port : HostPort) (tile : TileNo) (value : Word64)
  | autoNapEntry (tile : TileNo)
  | powerDownDone (tile : TileNo)
  | wakeRampDone (tile : TileNo)
  | claspRelease (port : HostPort) (value : Word64)
  | wakeComplete (tile : TileNo) (failed : BitVec 20) (badBanks : BitVec 64)
  | domainOvercurrent (tile : TileNo) (k : Fin 4)
  | vddlPhaseLoss (tile : TileNo)
  | senseLineOpen (tile : TileNo) (k : Fin 4)
  | softStartTimeout (tile : TileNo) (k : Fin 4)
  | busDroop (vA vB : BitVec 16)
  | rampResume (vA vB : BitVec 16)
  | rampAbort (tile : TileNo) (k : Fin 4)
  | busPairLost (pair : BusPair) (v : BitVec 16)
  | undervoltageShutdown
  | overvoltageShutdown
  | coolantOkAssert
  | coolantLoss
  | coolantTimeout
  | pwrEnAssert
  | pwrEnDeassert
  | auxLoss
  | watchdogExpiry
  | pumpHoldExpiry
  | perstRelease (p : HostPort)
  | perstAssert (p : HostPort)
  | registerWrite (port : HostPort) (offset : Nat) (bytes : List Byte)
  | slewHoldFine
  | thefaWholeSecond
  | hostLinkRecovery (p : HostPort) (loss : LinkLoss)
  | xpLinkReturnL0 (p : PortNo)
  | atsInvalidateRequest (p : HostPort) (ctx : CtxNo) (page : Nat)
  | ctrlFault (unit : CtrlUnit)
  | busPairRecovered (pair : BusPair) (v : BitVec 16)
  | fabricUndrainedTimeout (tile : TileNo)
  | palmInitDone (core : CoreNo)
  | cmemScrubLine (core : CoreNo) (bank : Fin 16) (ecc : Ecc)
  | mctpMessageRead
  | smbusClockLowTimeout
  deriving DecidableEq, Repr

end Sys2Proof
end

