-- ==== Sys2Proof/Decode.lean ====
section
/-!
DEFINITION. The decoder over the rows of the table that give bits. No row of this hardware's table gives any: its commands are
operations and events, not words.
-/
namespace Sys2Proof

/-- The command that the low `nbits` bits of `w` spell: none, for every word. -/
def decodeTableWord (_nbits _w : Nat) : Option Instr := none

end Sys2Proof
end

