-- ==== Sys2Proof/Config.lean ====
section
/-!
DEFINITION. What one module fixes and the spec leaves open: the free values, as constants without a body. A claim that
mentions one holds whatever it is.
-/
namespace Sys2Proof

/-- Free values (log 2), each applied to a fresh number: a byte, a bit and a 64-bit word that the spec leaves open. -/
opaque Config.freeByte : Nat → Byte
opaque Config.freeBool : Nat → Bool
opaque Config.freeWord : Nat → Word64

/-- The UUID of the management endpoint (R479). -/
opaque Config.uuid : BitVec 128

/-- The signed diagnostic images of the boot image's catalogue, by number (R507). -/
opaque Config.diagImage : Byte → Bool

/-- The voltage of a tile's domain at a core clock of n steps of 25 MHz, in mV (R432). -/
opaque Config.vddlAt : TileNo → Nat → Nat

/-- The data base of the Liner stream whose index lies at an address: a Liner operand does not name it (R110). -/
opaque Config.linerDataBase : Nat → Nat

/-- Bytes of a router input's buffer beyond one largest packet, by class 0 to 4, and 5 and 6 for the lanes of ESC (R147). -/
opaque Config.classBuffer : Nat → Nat

/-- The straps SMB_ADDR1 and SMB_ADDR0, as the platform ties them (R467, R478). -/
opaque Config.smbStraps : BitVec 2

end Sys2Proof
end

