-- ==== Sys2Proof/Machine/Float.lean ====
section
/-!
DEFINITION. Floating-point numbers exactly: a binary layout read as a number, and a number rounded into a layout to nearest
even (R52, R53, R63). FP32 addition, subtraction, multiplication, division and square root are built on them (R72).
-/
namespace Sys2Proof.Machine

/-- An exact number: NaN, an infinity, or (−1)^neg × m × 2^e. A zero keeps its sign. -/
inductive FNum where
  | nan
  | inf (neg : Bool)
  | fin (neg : Bool) (m : Nat) (e : Int)
  deriving DecidableEq, Repr

/-- Bits of a natural number: ⌊log2 n⌋ + 1, and 0 for 0. -/
def bitLen (n : Nat) : Nat := if n = 0 then 0 else n.log2 + 1

/-- m ÷ 2^k to nearest, ties to even. -/
def shiftRne (m k : Nat) : Nat :=
  let q := m >>> k
  let r := m - (q <<< k)
  let half := (1 <<< k) / 2
  if k = 0 then m
  else if r > half ∨ (r = half ∧ q % 2 = 1) then q + 1 else q

/-- m ÷ 2^k towards zero. -/
def shiftTz (m k : Nat) : Nat := m >>> k

/-- The direction of a rounding: to nearest even, or towards zero (numeric generation 1 of R72). -/
inductive Rounding where
  | nearest | zero
  deriving DecidableEq, Repr

/-- The magnitude code of m × 2^e with p significand bits and least quantum 2^emin, with the exponent taken as unbounded
(R63): quantum index × 2^(p−1) + the rounded significand. Codes rise with magnitude, so a layout's largest finite code
bounds what it can hold. -/
def magCode (rm : Rounding) (p : Nat) (emin : Int) (m : Nat) (e : Int) : Nat :=
  if m = 0 then 0 else
    let q : Int := max emin (e + (bitLen m : Int) - (p : Int))
    let n := if q ≤ e then m <<< (e - q).toNat
             else match rm with
               | .nearest => shiftRne m (q - e).toNat
               | .zero => shiftTz m (q - e).toNat
    (q - emin).toNat * 2 ^ (p - 1) + n

/-- The number a magnitude code stands for in a layout of p significand bits and least quantum 2^emin. -/
def magValue (p : Nat) (emin : Int) (code : Nat) : Nat × Int :=
  let k := code >>> (p - 1)
  let f := code - (k <<< (p - 1))
  if k = 0 then (f, emin) else (f + 2 ^ (p - 1), emin + (k : Int) - 1)

/-- Reading a layout with an infinity code `infCode`: every code above it is a NaN. -/
def ieeeDecode (p : Nat) (emin : Int) (width infCode : Nat) (bits : Nat) : FNum :=
  let neg := bits >>> (width - 1) % 2 = 1
  let mag := bits % 2 ^ (width - 1)
  if mag > infCode then .nan
  else if mag = infCode then .inf neg
  else let (m, e) := magValue p emin mag; .fin neg m e

/-- Writing into such a layout: overflow gives the infinity, NaN the canonical positive NaN `nanCode` (R53, R63). -/
def ieeeEncode (rm : Rounding) (p : Nat) (emin : Int) (width infCode nanCode : Nat) : FNum → Nat
  | .nan => nanCode
  | .inf neg => (if neg then 2 ^ (width - 1) else 0) + infCode
  | .fin neg m e =>
    (if neg then 2 ^ (width - 1) else 0) + min (magCode rm p emin m e) infCode

/-- The number of an FP32 value (R52). -/
def f32Num (a : F32) : FNum := ieeeDecode 24 (-149) 32 0x7F800000 a.toNat

/-- A number rounded once to FP32, to nearest even (R72). -/
def f32Of (n : FNum) : F32 := BitVec.ofNat 32 (ieeeEncode .nearest 24 (-149) 32 0x7F800000 0x7FC00000 n)

/-- The canonical FP32 NaN (R52). -/
def f32Nan : F32 := 0x7FC00000
def f32Zero : F32 := 0x00000000
def f32One : F32 := 0x3F800000
def f32Half : F32 := 0x3F000000
def f32Two : F32 := 0x40000000
def f32NegInf : F32 := 0xFF800000
def f32PosInf : F32 := 0x7F800000

/-- Infinite or NaN (R20). -/
def f32NonFinite (a : F32) : Bool := a.extractLsb' 23 8 = 0xFF

/-- NaN. -/
def f32IsNan (a : F32) : Bool := f32NonFinite a && !(a.extractLsb' 0 23 = 0)

/-- +0 or −0. -/
def f32IsZero (a : F32) : Bool := a.extractLsb' 0 31 = 0

/-- Sign reversed; NaN stays the canonical NaN. -/
def f32Neg (a : F32) : F32 := if f32IsNan a then f32Nan else a ^^^ 0x80000000

/-- An exact number times 2^k. -/
def FNum.scale : FNum → Int → FNum
  | .fin s m e, k => .fin s m (e + k)
  | n, _ => n

/-- The signed significand of a finite number on the grid 2^g, for g at or below its exponent. -/
def signedOn (s : Bool) (m : Nat) (e g : Int) : Int :=
  let v : Int := ((m <<< (e - g).toNat : Nat) : Int)
  if s then -v else v

/-- The exact sum of two numbers under IEEE 754: a zero sum of non-zero terms is +0, and −0 only from −0 and −0. -/
def FNum.add : FNum → FNum → FNum
  | .nan, _ => .nan
  | _, .nan => .nan
  | .inf s, .inf t => if s = t then .inf s else .nan
  | .inf s, .fin .. => .inf s
  | .fin .., .inf t => .inf t
  | .fin s m e, .fin t n f =>
    let g := min e f
    let v := signedOn s m e g + signedOn t n f g
    if v = 0 then .fin (s && t) 0 0 else .fin (v < 0) v.natAbs g

/-- The exact product under IEEE 754. -/
def FNum.mul : FNum → FNum → FNum
  | .nan, _ => .nan
  | _, .nan => .nan
  | .inf s, .inf t => .inf (s != t)
  | .inf s, .fin t n _ => if n = 0 then .nan else .inf (s != t)
  | .fin s m _, .inf t => if m = 0 then .nan else .inf (s != t)
  | .fin s m e, .fin t n f => .fin (s != t) (m * n) (e + f)

/-- A quotient with at least 40 significant bits and a sticky last bit, which rounds to FP32 as the exact quotient does. -/
def FNum.div : FNum → FNum → FNum
  | .nan, _ => .nan
  | _, .nan => .nan
  | .inf _, .inf _ => .nan
  | .inf s, .fin t _ _ => .inf (s != t)
  | .fin s _ _, .inf t => .fin (s != t) 0 0
  | .fin s m e, .fin t n f =>
    if n = 0 then (if m = 0 then .nan else .inf (s != t))
    else
      let k := 40 + bitLen n
      let q := (m <<< k) / n
      let sticky := if (m <<< k) % n = 0 then 0 else 1
      .fin (s != t) (2 * q + sticky) (e - f - (k : Int) - 1)

/-- ⌊√n⌋ bit by bit from bit k − 1 downwards. -/
def isqrtFrom : Nat → Nat → Nat → Nat
  | 0, _, r => r
  | k + 1, n, r =>
    let c := r + 2 ^ k
    isqrtFrom k n (if c * c ≤ n then c else r)

/-- ⌊√n⌋. -/
def isqrt (n : Nat) : Nat := isqrtFrom (bitLen n / 2 + 1) n 0

/-- A square root with a sticky last bit: √−0 is −0, and a value below zero gives NaN. -/
def FNum.sqrt : FNum → FNum
  | .nan => .nan
  | .inf neg => if neg then .nan else .inf false
  | .fin neg m e =>
    if m = 0 then .fin neg 0 0
    else if neg then .nan
    else
      let odd : Nat := if e % 2 = 0 then 0 else 1
      let n := m <<< (64 + odd)
      let r := isqrt n
      let sticky := if r * r = n then 0 else 1
      .fin false (2 * r + sticky) ((e - (odd : Int) - 64) / 2 - 1)

/-- FP32 operations of the vector unit, each rounded once to nearest even (R72). -/
def f32Add (a b : F32) : F32 := f32Of ((f32Num a).add (f32Num b))
def f32Sub (a b : F32) : F32 := f32Add a (f32Neg b)
def f32Mul (a b : F32) : F32 := f32Of ((f32Num a).mul (f32Num b))
def f32Div (a b : F32) : F32 := f32Of ((f32Num a).div (f32Num b))
def f32Sqrt (a : F32) : F32 := f32Of (f32Num a).sqrt

/-- The key that orders FP32 values that are not NaN: −0 below +0 (R72). -/
def f32Key (a : F32) : Int :=
  if a.getLsbD 31 then -((a.extractLsb' 0 31).toNat : Int) - 1 else ((a.extractLsb' 0 31).toNat : Int)

/-- Maximum and minimum: one of the two operands exactly, the canonical NaN if either is NaN, +0 above −0 (R72). -/
def f32Max (a b : F32) : F32 :=
  if f32IsNan a || f32IsNan b then f32Nan else if f32Key a < f32Key b then b else a
def f32Min (a b : F32) : F32 :=
  if f32IsNan a || f32IsNan b then f32Nan else if f32Key a < f32Key b then a else b

/-- A value times 2^k, exact unless it leaves the range (R74). -/
def f32Scale (a : F32) (k : Int) : F32 := f32Of ((f32Num a).scale k)

/-- The FP32 value nearest to a natural number. -/
def f32OfNat (n : Nat) : F32 := f32Of (.fin false n 0)

/-- A compensated pair: high part and error term (R68). -/
structure Pair where
  hi : F32
  lo : F32
  deriving DecidableEq, Repr

def Pair.zero : Pair := ⟨f32Zero, f32Zero⟩

/-- The twosum of R69: the rounded sum and its error. -/
def twosum (x y : F32) : F32 × F32 :=
  let s := f32Add x y
  let bb := f32Sub s x
  let err := f32Add (f32Sub x (f32Sub s bb)) (f32Sub y bb)
  (s, err)

/-- Pair addition, a first (R69): the exact sequence of FP32 operations. DEDUCED (log 58): a pair whose hi is infinite goes through the
sequence like any other, which gives NaN for (infinity, +0) plus a finite pair, although R69's prose says that such a pair behaves as
that FP32 value; the sequence is what the rule calls exact. -/
def pairAdd (a b : Pair) : Pair :=
  let (s, t) := twosum a.hi b.hi
  let t := f32Add t (f32Add a.lo b.lo)
  let (hi, lo) := twosum s t
  if f32NonFinite hi then ⟨hi, f32Zero⟩ else ⟨hi, lo⟩

/-- An FP32 value entering pair arithmetic (R68). -/
def Pair.ofF32 (v : F32) : Pair := ⟨v, f32Zero⟩

/-- A pair converted to FP32: hi + lo rounded once (R70). -/
def Pair.toF32 (p : Pair) : F32 := f32Add p.hi p.lo

/-- One level of the lane tree: lanes 2i and 2i + 1, the even lane on the left (R73). -/
def treeLevel {α : Type} (f : α → α → α) : List α → List α
  | a :: b :: rest => f a b :: treeLevel f rest
  | l => l

/-- Seven levels over 128 lanes; lanes beyond the last element hold `z` (R73). -/
def laneTree {α : Type} (f : α → α → α) (z : α) (l : List α) : α :=
  let lanes := l ++ List.replicate (128 - l.length) z
  let l7 := treeLevel f (treeLevel f (treeLevel f (treeLevel f (treeLevel f (treeLevel f (treeLevel f lanes))))))
  l7.headD z

/-- A list cut into groups of n, the last one shorter; fuel is the list's length. -/
def groupsOf {α : Type} (n : Nat) : Nat → List α → List (List α)
  | 0, _ => []
  | fuel + 1, l => if l.isEmpty then [] else l.take n :: groupsOf n fuel (l.drop n)

/-- The lane sum of R73: groups of 128 in ascending order, each group's tree result added to the running sum on its right. -/
def laneFold {α : Type} (f : α → α → α) (z : α) (l : List α) : α :=
  (groupsOf 128 l.length l).foldl (fun acc g => f acc (laneTree f z g)) z

/-- lanesum: an FP32 sum across lanes (R73). -/
def lanesum (l : List F32) : F32 := laneFold f32Add f32Zero l

/-- pairsum: each element enters as (v, +0) and every addition is the pair addition (R73). -/
def pairsum (l : List F32) : Pair := laneFold pairAdd Pair.zero (l.map Pair.ofF32)

end Sys2Proof.Machine
end

