-- ==== Sys2Proof/Machine/VecFun.lean ====
section
/-!
DEFINITION. The six functions of the vector unit whose results a numeric generation fixes (R72, R422): exponential, natural
logarithm, hyperbolic tangent, error function, logistic sigmoid and reciprocal square root. Each is worked out in fixed point
at 2^−320 and rounded once: to nearest even in generation 2, towards zero in generation 1.
-/
namespace Sys2Proof.Machine

/-- Fraction bits of the fixed point. -/
def vfP : Nat := 320
/-- 1 in fixed point. -/
def vfOne : Nat := 2 ^ vfP

/-- Terms x^n ÷ n! from the n-th on, for x in fixed point below 1: the running term is `t`. -/
def expTerms : Nat → Nat → Nat → Nat → Nat → Nat
  | 0, _, _, _, acc => acc
  | fuel + 1, x, n, t, acc => expTerms fuel x (n + 1) (t * x / vfOne / (n + 1)) (acc + t)

/-- Terms z^(2k+1) ÷ (2k+1): half of log((1 + z) ÷ (1 − z)), for z in fixed point. -/
def atanhTerms : Nat → Nat → Nat → Nat → Nat → Nat
  | 0, _, _, _, acc => acc
  | fuel + 1, z2, k, t, acc => atanhTerms fuel z2 (k + 1) (t * z2 / vfOne) (acc + t / (2 * k + 1))

/-- log 2 in fixed point: 2 × atanh(1 ÷ 3). -/
def vfLn2 : Nat := 2 * atanhTerms 110 (vfOne / 9) 0 (vfOne / 3) 0

/-- e^(−x) for x in fixed point, as a mantissa in fixed point (in (½, 1]) and a power of two to take away. -/
def expNeg (x : Nat) : Nat × Nat :=
  let k := x / vfLn2
  let r := x - k * vfLn2
  (vfOne * vfOne / expTerms 90 r 0 vfOne 0, k)

/-- A number m × 2^e in fixed point, rounded down; e at or above −320 loses nothing. -/
def toFixed (m : Nat) (e : Int) : Nat :=
  let k := e + (vfP : Int)
  if 0 ≤ k then m <<< k.toNat else m >>> (-k).toNat

/-- A fixed-point result times 2^(−k), with a sticky last bit: none of these values is a binary fraction (Lindemann). -/
def ofFixed (neg : Bool) (v : Nat) (k : Nat) : FNum :=
  .fin neg (2 * v + 1) (-(vfP : Int) - 1 - (k : Int))

/-- A number just below m × 2^e in magnitude, and just above. -/
def justBelow (neg : Bool) (m : Nat) (e : Int) : FNum := .fin neg (m * 2 ^ 100 - 1) (e - 100)
def justAbove (neg : Bool) (m : Nat) (e : Int) : FNum := .fin neg (m * 2 ^ 100 + 1) (e - 100)

/-- The exact value of exp at a number. Beyond ±200 the value is far outside FP32 on either side. -/
def expNum : FNum → FNum
  | .nan => .nan
  | .inf neg => if neg then .fin false 0 0 else .inf false
  | .fin neg m e =>
    if m = 0 then .fin false 1 0
    else if (bitLen m : Int) + e > 8 then (if neg then justAbove false 1 (-400) else justAbove false 1 400)
    else if (bitLen m : Int) + e < -280 then (if neg then justBelow false 1 0 else justAbove false 1 0)
    else
      let x := toFixed m e
      if neg then let (v, k) := expNeg x; ofFixed false v k
      else
        let k := x / vfLn2
        let r := x - k * vfLn2
        .fin false (2 * expTerms 90 r 0 vfOne 0 + 1) ((k : Int) - (vfP : Int) - 1)

/-- The exact value of the natural logarithm: m × 2^e is put as f × 2^q with f in [1, 2). -/
def logNum : FNum → FNum
  | .nan => .nan
  | .inf neg => if neg then .nan else .inf false
  | .fin neg m e =>
    if m = 0 then .inf true
    else if neg then .nan
    else
      let q : Int := e + (bitLen m : Int) - 1
      let f := toFixed m (e - q)
      if f = vfOne ∧ q = 0 then .fin false 0 0
      else
        let z := (f - vfOne) * vfOne / (f + vfOne)
        let l := 2 * atanhTerms 110 (z * z / vfOne) 0 z 0
        let v : Int := (l : Int) + q * (vfLn2 : Int)
        ofFixed (v < 0) v.natAbs 0

/-- The exact value of tanh. -/
def tanhNum : FNum → FNum
  | .nan => .nan
  | .inf neg => .fin neg 1 0
  | .fin neg m e =>
    if m = 0 then .fin neg 0 0
    else if (bitLen m : Int) + e > 6 then justBelow neg 1 0
    else if (bitLen m : Int) + e < -60 then justBelow neg m e
    else
      let (v, k) := expNeg (2 * toFixed m e)
      let t := v >>> k
      ofFixed neg ((vfOne - t) * vfOne / (vfOne + t)) 0

/-- The exact value of the logistic sigmoid 1 ÷ (1 + e^−x). -/
def sigmoidNum : FNum → FNum
  | .nan => .nan
  | .inf neg => if neg then .fin false 0 0 else .fin false 1 0
  | .fin neg m e =>
    if m = 0 then .fin false 1 (-1)
    else if (bitLen m : Int) + e > 8 then (if neg then justAbove false 1 (-400) else justBelow false 1 0)
    else if (bitLen m : Int) + e < -280 then (if neg then justBelow false 1 (-1) else justAbove false 1 (-1))
    else
      let (v, k) := expNeg (toFixed m e)
      let t := v >>> k
      if neg then ofFixed false (v * vfOne / (vfOne + t)) k
      else if t = 0 then justBelow false 1 0
      else ofFixed false (vfOne * vfOne / (vfOne + t)) 0

/-- Terms of Σ (−1)^n x^2n ÷ (n! (2n + 1)) for x² in fixed point. -/
def erfTerms : Nat → Nat → Nat → Nat → Int → Int
  | 0, _, _, _, acc => acc
  | fuel + 1, x2, n, t, acc =>
    let term : Int := ((t / (2 * n + 1) : Nat) : Int)
    erfTerms fuel x2 (n + 1) (t * x2 / vfOne / (n + 1)) (if n % 2 = 0 then acc + term else acc - term)

/-- Terms of the arctangent of 1 ÷ d in fixed point. -/
def atanInv : Nat → Nat → Nat → Nat → Int → Int
  | 0, _, _, _, acc => acc
  | fuel + 1, d2, k, t, acc =>
    let term : Int := ((t / (2 * k + 1) : Nat) : Int)
    atanInv fuel d2 (k + 1) (t / d2) (if k % 2 = 0 then acc + term else acc - term)

/-- π in fixed point, by Machin's formula. -/
def vfPi : Nat :=
  (16 * atanInv 80 25 0 (vfOne / 5) 0 - 4 * atanInv 30 57121 0 (vfOne / 239) 0).toNat

/-- 2 ÷ √π in fixed point. -/
def vfTwoOverSqrtPi : Nat := 2 * vfOne * vfOne / isqrt (vfPi * vfOne)

/-- The exact value of erf: x × (2 ÷ √π) × the series in x². From 6 on, erf is within 2^−55 of 1. -/
def erfNum : FNum → FNum
  | .nan => .nan
  | .inf neg => .fin neg 1 0
  | .fin neg m e =>
    if m = 0 then .fin neg 0 0
    else if (bitLen m : Int) + e > 3 ∨ toFixed m e ≥ 6 * vfOne then justBelow neg 1 0
    else
      let x2 := toFixed (m * m) (2 * e)
      let s := (erfTerms 240 x2 0 vfOne 0).toNat
      let g := s * vfTwoOverSqrtPi / vfOne
      .fin neg (2 * m * g + 1) (e - (vfP : Int) - 1)

/-- The reciprocal square root, with a sticky last bit. -/
def rsqrtNum : FNum → FNum
  | .nan => .nan
  | .inf neg => if neg then .nan else .fin false 0 0
  | .fin neg m e =>
    if m = 0 then .inf neg
    else if neg then .nan
    else
      let odd : Nat := if e % 2 = 0 then 0 else 1
      let n := m <<< odd
      let k := 40 + bitLen n
      let r := isqrt ((1 <<< (2 * k)) / n)
      let sticky := if r * r * n = 1 <<< (2 * k) then 0 else 1
      .fin false (2 * r + sticky) (-((e - (odd : Int)) / 2) - (k : Int) - 1)

/-- The function names of R72. -/
inductive VecFn where
  | exp | log | tanh | erf | sigmoid | rsqrt
  deriving DecidableEq, Repr

def vecNum : VecFn → FNum → FNum
  | .exp, n => expNum n
  | .log, n => logNum n
  | .tanh, n => tanhNum n
  | .erf, n => erfNum n
  | .sigmoid, n => sigmoidNum n
  | .rsqrt, n => rsqrtNum n

/-- A value rounded as generation `gen` rounds it (R72): towards zero in generation 1, except that what rounding to nearest
would overflow gives the infinity in both. -/
def genRound (gen : Nat) (n : FNum) : F32 :=
  if gen = 1 ∧ !f32NonFinite (f32Of n) then
    BitVec.ofNat 32 (ieeeEncode .zero 24 (-149) 32 0x7F800000 0x7FC00000 n)
  else f32Of n

/-- A function of the vector unit at an FP32 input in a numeric generation (R72, R422). -/
def vecFn (gen : Nat) (f : VecFn) (x : F32) : F32 := genRound gen (vecNum f (f32Num x))

end Sys2Proof.Machine
end

