-- ==== Sys2Proof/Machine/Formats.lean ====
section
/-!
DEFINITION. The formats the module reads and writes (R52 to R56), conversion from FP32 (R63), quantisation to MX blocks (R64),
packing in memory (R54), and the array arithmetic from products to the accumulator (R57 to R62, R65, R66).
-/
namespace Sys2Proof.Machine

/-- The format codes of R55 that are not reserved. -/
inductive Fmt where
  | fp32 | bf16 | fp16 | e4m3 | e5m2
  | mxE4m3 | mxE5m2 | mxE2m3 | mxE3m2 | mxE2m1 | mxInt8
  | split3 | pair
  deriving DecidableEq, Repr

/-- The format a 4-bit code names (R55). -/
def fmtOf : Nat → Option Fmt
  | 0 => some .fp32 | 1 => some .bf16 | 2 => some .fp16 | 3 => some .e4m3 | 4 => some .e5m2
  | 5 => some .mxE4m3 | 6 => some .mxE5m2 | 7 => some .mxE2m3 | 8 => some .mxE3m2 | 9 => some .mxE2m1
  | 10 => some .mxInt8 | 11 => some .split3 | 12 => some .pair
  | _ => none

/-- An MX format: a block of 32 elements and an E8M0 scale (R52). -/
def Fmt.isMx : Fmt → Bool
  | .mxE4m3 | .mxE5m2 | .mxE2m3 | .mxE3m2 | .mxE2m1 | .mxInt8 => true
  | _ => false

/-- Bits of one element in memory (R52, R54). -/
def Fmt.width : Fmt → Nat
  | .fp32 | .split3 => 32
  | .bf16 | .fp16 => 16
  | .e4m3 | .e5m2 | .mxE4m3 | .mxE5m2 | .mxInt8 => 8
  | .mxE2m3 | .mxE3m2 => 6
  | .mxE2m1 => 4
  | .pair => 64

/-- Mantissa bits, the fraction bits of a significand (R58). -/
def Fmt.frac : Fmt → Nat
  | .fp32 | .split3 | .pair => 23
  | .bf16 => 7
  | .fp16 => 10
  | .e4m3 | .mxE4m3 | .mxE2m3 => 3
  | .e5m2 | .mxE5m2 | .mxE3m2 => 2
  | .mxE2m1 => 1
  | .mxInt8 => 6

/-- The exponent of the smallest subnormal (R52). -/
def Fmt.emin : Fmt → Int
  | .fp32 | .split3 | .pair => -149
  | .bf16 => -133
  | .fp16 => -24
  | .e4m3 | .mxE4m3 => -9
  | .e5m2 | .mxE5m2 => -16
  | .mxE2m3 => -3
  | .mxE3m2 => -4
  | .mxE2m1 => -1
  | .mxInt8 => -6

/-- The largest magnitude code of a layout without infinities (R52, R64). -/
def Fmt.maxCode : Fmt → Nat
  | .e4m3 | .mxE4m3 => 0x7E
  | .mxE5m2 => 0x7B
  | .mxE2m3 | .mxE3m2 => 0x1F
  | .mxE2m1 => 0x7
  | .mxInt8 => 127
  | _ => 0

/-- The largest normal exponent of an MX element format (R64). -/
def Fmt.emax : Fmt → Int
  | .mxE4m3 => 8
  | .mxE5m2 => 15
  | .mxE2m3 | .mxE2m1 => 2
  | .mxE3m2 => 4
  | _ => 0

/-- The number of one element's code, its block scale not applied (R52); a pair is hi + lo (R68, R70). -/
def fmtNum (f : Fmt) (bits : Nat) : FNum :=
  match f with
  | .fp32 | .split3 => f32Num (BitVec.ofNat 32 bits)
  | .pair => (f32Num (BitVec.ofNat 32 bits)).add (f32Num (BitVec.ofNat 32 (bits / 2 ^ 32)))
  | .bf16 => ieeeDecode 8 (-133) 16 0x7F80 bits
  | .fp16 => ieeeDecode 11 (-24) 16 0x7C00 bits
  | .e5m2 | .mxE5m2 => ieeeDecode 3 (-16) 8 0x7C bits
  | .e4m3 | .mxE4m3 =>
    if bits % 128 = 0x7F then .nan
    else let (m, e) := magValue 4 (-9) (bits % 128); .fin (128 ≤ bits) m e
  | .mxE2m3 => let (m, e) := magValue 4 (-3) (bits % 32); .fin (32 ≤ bits) m e
  | .mxE3m2 => let (m, e) := magValue 3 (-4) (bits % 32); .fin (32 ≤ bits) m e
  | .mxE2m1 => let (m, e) := magValue 2 (-1) (bits % 8); .fin (8 ≤ bits) m e
  | .mxInt8 => if bits < 128 then .fin false bits (-6) else .fin true (256 - bits) (-6)

/-- Conversion of a number to a non-MX format (R63); SATURATE acts on finite values with an E4M3 destination. -/
def fmtCode (f : Fmt) (saturate : Bool) (n : FNum) : Nat :=
  match f with
  | .bf16 => ieeeEncode .nearest 8 (-133) 16 0x7F80 0x7FC0 n
  | .fp16 => ieeeEncode .nearest 11 (-24) 16 0x7C00 0x7E00 n
  | .e5m2 => ieeeEncode .nearest 3 (-16) 8 0x7C 0x7E n
  | .e4m3 =>
    match n with
    | .fin neg m e =>
      let c := magCode .nearest 4 (-9) m e
      let sgn := if neg then 128 else 0
      if c ≤ 0x7E then sgn + c else if saturate then sgn + 0x7E else 0x7F
    | _ => 0x7F
  | _ => (f32Of n).toNat

/-- An FP32 value converted under R63. -/
def convertTo (f : Fmt) (saturate : Bool) (v : F32) : Nat := fmtCode f saturate (f32Num v)

/-- An element read to FP32: its number, times the block scale's power of two, rounded once (R97). -/
def toF32 (f : Fmt) (scale : Option Int) (bits : Nat) : F32 :=
  match scale with
  | none => f32Nan
  | some k => f32Of ((fmtNum f bits).scale k)

/-- The exponent of an E8M0 scale; 0xFF is NaN (R52). -/
def e8m0 (b : Nat) : Option Int := if b = 255 then none else some ((b : Int) - 127)

/-- floor(log2 of a magnitude) of a non-zero finite number. -/
def FNum.log2 : FNum → Int
  | .fin _ m e => (bitLen m : Int) - 1 + e
  | _ => 0

/-- The larger magnitude by the value bits of FP32. -/
def maxMag (a b : F32) : F32 :=
  if (a.extractLsb' 0 31).toNat < (b.extractLsb' 0 31).toNat then b else a

/-- One value of a QUANT block, divided by the scale and rounded in the element format, clamped to its largest magnitude (R64). -/
def quantElem (f : Fmt) (se : Int) (v : F32) : Nat :=
  match (f32Num v).scale (-se) with
  | .fin neg m e =>
    if f = .mxInt8 then
      let c := min (if e + 6 ≥ 0 then m <<< (e + 6).toNat else shiftRne m (-(e + 6)).toNat) 127
      if neg then (256 - c) % 256 else c
    else
      let c := min (magCode .nearest (f.frac + 1) f.emin m e) f.maxCode
      (if neg then 2 ^ (f.width - 1) else 0) + c
  | _ => 0

/-- QUANT of a block: the E8M0 scale byte and the element codes (R64). -/
def quantBlock (f : Fmt) (vs : List F32) : Nat × List Nat :=
  if vs.any f32NonFinite then (0xFF, vs.map fun _ => 0)
  else
    let amax := vs.foldl maxMag f32Zero
    if f32IsZero amax then (0, vs.map fun _ => 0)
    else
      let se := max (-127) (min 127 ((f32Num amax).log2 - f.emax))
      ((se + 127).toNat, vs.map (quantElem f se))

/-- Codes of a given width packed little-endian into bytes, element 0 lowest (R54). -/
def packCodes (width : Nat) (codes : List Nat) : Nat :=
  codes.foldr (fun c acc => c + 2 ^ width * acc) 0

/-- The low n bytes of a number, least significant first (R15). -/
def bytesOf : Nat → Nat → List Byte
  | 0, _ => []
  | n + 1, v => BitVec.ofNat 8 v :: bytesOf n (v / 256)

/-- The number a byte list spells, least significant first (R15). -/
def natOfBytes (l : List Byte) : Nat := l.foldr (fun b acc => b.toNat + 256 * acc) 0

/-- Packed codes as bytes. -/
def packBytes (width : Nat) (codes : List Nat) : List Byte :=
  bytesOf ((codes.length * width + 7) / 8) (packCodes width codes)

/-- n bytes at a place of a byte source, as a number. -/
def readNat (rd : Nat → Byte) (a : Nat) : Nat → Nat
  | 0 => 0
  | n + 1 => (rd a).toNat + 256 * readNat rd (a + 1) n

/-- The code of element i of a packed array at `base` (R54): its bits in the little-endian bit stream. -/
def elemCode (rd : Nat → Byte) (f : Fmt) (base i : Nat) : Nat :=
  let bit := i * f.width
  let n := (bit % 8 + f.width + 7) / 8
  readNat rd (base + bit / 8) n / 2 ^ (bit % 8) % 2 ^ f.width

/-! ### From products to the accumulator -/

/-- The formats a GEMM's operands may combine (R56). -/
def gemmPair : Fmt → Fmt → Bool
  | .mxInt8, .mxInt8 | .bf16, .bf16 | .fp16, .fp16 | .split3, .split3 => true
  | a, b =>
    let set : Fmt → Bool := fun f => match f with
      | .e4m3 | .e5m2 | .mxE4m3 | .mxE5m2 | .mxE2m3 | .mxE3m2 | .mxE2m1 => true
      | _ => false
    set a && set b

/-- Whether two operand numbers make an invalid or non-finite product, by R62: NaN, or an infinity of a sign. -/
inductive ProdClass where
  | finite | infPos | infNeg | invalid
  deriving DecidableEq, Repr

def prodClass (a b : FNum) : ProdClass :=
  match a.mul b with
  | .nan => .invalid
  | .inf neg => if neg then .infNeg else .infPos
  | .fin .. => .finite

/-- Product exponent ea + eb of two finite operands, with the exponent of a significand's integer bit (R58). -/
def prodExp (fa fb : Nat) : FNum → FNum → Option Int
  | .fin _ m e, .fin _ n f =>
    if m = 0 ∨ n = 0 then none else some (e + (fa : Int) + (f + (fb : Int)))
  | _, _ => none

/-- One product on the grid 2^(E − F − 3): shifted right by E − e with three guard bits kept, the magnitude truncated and the
sign then applied (R59). -/
def alignedProd (fa fb : Nat) (E : Int) (a b : FNum) : Int :=
  match a, b, prodExp fa fb a b with
  | .fin s m _, .fin t n _, some e =>
    let v : Int := (((m * n) <<< 3) >>> (E - e).toNat : Nat)
    if s != t then -v else v
  | _, _, _ => 0

/-- The largest of a list of exponents. -/
def maxExp : List Int → Option Int
  | [] => none
  | x :: xs => some (xs.foldl max x)

/-- A chunk sum of finite products: S × 2^(E − F − 3), zero when every product or the integer sum is zero (R59). -/
def finiteChunk (fa fb : Nat) (ps : List (FNum × FNum)) : FNum :=
  match maxExp (ps.filterMap fun p => prodExp fa fb p.1 p.2) with
  | none => .fin false 0 0
  | some E =>
    let S := (ps.map fun p => alignedProd fa fb E p.1 p.2).foldl (· + ·) 0
    .fin (S < 0) S.natAbs (E - ((fa + fb : Nat) : Int) - 3)

/-- A chunk's result before scaling: non-finite products are resolved first (R62). -/
def chunkResult (fa fb : Nat) (ps : List (FNum × FNum)) : FNum :=
  let cs := ps.map fun p => prodClass p.1 p.2
  if cs.contains .invalid || (cs.contains .infPos && cs.contains .infNeg) then .nan
  else if cs.contains .infPos then .inf false
  else if cs.contains .infNeg then .inf true
  else finiteChunk fa fb ps

/-- The chunk result meets the accumulator: a zero chunk sum leaves it unchanged, else one rounding to nearest even (R60, R62). -/
def accumulate (acc : F32) (sum : FNum) : F32 :=
  match sum with
  | .fin _ 0 _ => acc
  | n => f32Of ((f32Num acc).add n)

/-- One chunk of an operand row: up to 32 element numbers, and the exponent of the block scale (none: the scale is NaN). -/
structure Chunk where
  elems : List FNum
  scale : Option Int
  deriving DecidableEq, Repr

/-- The chunk sum of two operand chunks, scaled (R59, R60, R62). -/
def chunkSum (fa fb : Nat) (a b : Chunk) : FNum :=
  match a.scale, b.scale with
  | some sa, some sb => (chunkResult fa fb (a.elems.zip b.elems)).scale (sa + sb)
  | _, _ => .nan

/-- The high part of a SPLIT3 operand: x rounded to BF16, the largest finite BF16 where that overflows (R65). -/
def split3Hi (x : F32) : FNum :=
  match f32Num x with
  | .fin neg m e =>
    match fmtNum .bf16 (fmtCode .bf16 false (.fin neg m e)) with
    | .inf _ => .fin neg 0xFF 120
    | n => n
  | n => n

/-- The number with its sign reversed. -/
def FNum.neg : FNum → FNum
  | .nan => .nan
  | .inf s => .inf (!s)
  | .fin s m e => .fin (!s) m e

/-- The low part: x − hi rounded to BF16, +0 for a non-finite x (R65). -/
def split3Lo (x : F32) : FNum :=
  match f32Num x with
  | .fin neg m e => fmtNum .bf16 (fmtCode .bf16 false ((FNum.fin neg m e).add (split3Hi x).neg))
  | _ => .fin false 0 0

/-- A factor that is not finite counts as zero in the cross terms (R66). -/
def dropNonFinite : FNum → FNum
  | .fin s m e => .fin s m e
  | _ => .fin false 0 0

/-- The Split3 chunk sum: S_hh + S_hl + S_lh exactly, infinity and NaN decided by S_hh alone (R66). -/
def split3Sum (a b : List F32) : FNum :=
  let ah := a.map split3Hi
  let al := a.map split3Lo
  let bh := b.map split3Hi
  let bl := b.map split3Lo
  match chunkResult 7 7 (ah.zip bh) with
  | .fin s m e =>
    let hl := finiteChunk 7 7 ((ah.map dropNonFinite).zip bl)
    let lh := finiteChunk 7 7 (al.zip (bh.map dropNonFinite))
    ((FNum.fin s m e).add hl).add lh
  | n => n

/-- An operand row along K, already cut into chunks of 32 (R57): element numbers with their scales, or FP32 values for SPLIT3. -/
inductive OpRow where
  | nums (frac : Nat) (chunks : List Chunk)
  | split (chunks : List (List F32))
  deriving DecidableEq, Repr

/-- One output element: chunks added to the accumulator strictly in ascending order (R61). -/
def dotRows (acc : F32) : OpRow → OpRow → F32
  | .nums fa as, .nums fb bs => (as.zip bs).foldl (fun c p => accumulate c (chunkSum fa fb p.1 p.2)) acc
  | .split as, .split bs => (as.zip bs).foldl (fun c p => accumulate c (split3Sum p.1 p.2)) acc
  | _, _ => acc

end Sys2Proof.Machine
end

