-- ==== Sys2Proof/Machine/State.lean ====
section
/-!
DEFINITION. The state of the module: every register, queue, buffer, table, counter, mode and pin the spec gives it, as plain
data. A field's default is its reset value (R488); a table of like things lists only those away from their default.
-/
namespace Sys2Proof.Machine

/-- A descriptor that a ring unit has read (R300, R315): where it came from and its up to four entries as one number. -/
structure Task where
  ring : RingNo
  index : BitVec 32
  ctx : CtxNo
  part : PartNo
  raw : BitVec 2048
  /-- It reached its unit after a pending PHASE's drain mark (R191). -/
  afterMark : Bool := false
  /-- It was admitted after its unit received the close mark of its step, or its step was already the previous one (R230). -/
  late : Bool := false
  /-- The loss-scale exponent it took at admission, or at the end of its hold (R78, R227). -/
  exp : Option Int := none
  /-- It produced a value that R228 counts. -/
  census : Bool := false
  /-- Which of all the descriptors read it is: a ring that is created anew numbers its entries from 0 again. -/
  serial : Nat := 0
  deriving DecidableEq, Repr

/-- Slot states (R83). -/
inductive SlotState where
  | empty | ready | running | late | blocked
  deriving DecidableEq, Repr

/-- One transfer of an engine (R92): `rows` rows of `len` bytes each, `stride` bytes apart, from a device address on. -/
structure Xfer where
  addr : Nat
  len : Nat
  rows : Nat := 1
  stride : Nat := 0
  deriving DecidableEq, Repr

/-- A fetch tag in use: its number, its transfer, and the packets whose data have not landed (R92). -/
structure FetchTag where
  tag : Nat
  xfer : Xfer
  left : Nat
  deriving DecidableEq, Repr

/-- A store tag in use: its number, the ranges it stores to, and the packets that are not acknowledged (R92). -/
structure StoreTag where
  tag : Nat
  parts : List (Nat × Nat)
  left : Nat
  deriving DecidableEq, Repr

/-- A frame of SAVE on its way out (R105, R108): the area's allocation word, limit, data base and index base, the frame's number, its
index fields and its stored bytes. -/
structure Frame where
  alloc : Nat
  limit : Nat
  data : Nat
  index : Nat
  number : Nat
  enc : Nat
  fmt : Nat
  count : Nat
  bytes : List Byte
  deriving DecidableEq, Repr

/-- What a task has for the store engine: one transfer as its rows, a frame that needs its place first, a tally to be signalled, or a point that
waits for every earlier store to complete (R92, R108, R131, R204). -/
inductive Out where
  | store (parts : List (Nat × List Byte))
  | frame (f : Frame)
  | tally (a : Nat) (v : Word64)
  | barrier
  deriving DecidableEq, Repr

/-- One task slot of a core. -/
structure Slot where
  state : SlotState := .empty
  task : Option Task := none
  /-- Operand-store units held in each half (R84). -/
  footprint : Nat := 0
  /-- Half B is the compute region (R88). -/
  computeB : Bool := false
  /-- The bytes of the compute region and of the transfer region, by the device address they came from (R88, R91), and the ranges that have
  landed in each. -/
  compute : Tbl Byte := []
  transfer : Tbl Byte := []
  got : List (Nat × Nat) := []
  landed : List (Nat × Nat) := []
  /-- Outstanding fetch and store tags (R92). -/
  fetchTags : List FetchTag := []
  storeTags : List StoreTag := []
  /-- Transfers into the transfer region that the sequencer has still to request (R92). -/
  toFetch : List Xfer := []
  /-- K-slices of a Gauntlet's GEMM fetched so far, and whether the last of them is still in the transfer region (R89). -/
  slice : Nat := 0
  ahead : Bool := false
  /-- What the task's stages have put out and the store engine has not taken; it lies in the transfer region once it has been swapped there. -/
  outs : List Out := []
  outsReady : Bool := false
  /-- The frame whose allocation is asked for (R108). -/
  adding : Option Frame := none
  /-- Ranges whose stores have completed (R94). -/
  stored : List (Nat × Nat) := []
  /-- A COMPRESS task has sent its first header (R131). -/
  headerOut : Bool := false
  /-- The destination ranges that the descriptor names; a failure under R94 leaves those bytes of them undefined that no completed store
  covers, once `spoilt` is set. -/
  dest : List (Nat × Nat) := []
  spoilt : Bool := false
  /-- A swap has been requested and has not completed (R90). -/
  swapPending : Bool := false
  /-- The hold of R78: its step's predecessor is not final yet. -/
  stepHeld : Bool := false
  /-- A WAIT or TIMED gate has started in the slot (R330). -/
  gateStarted : Bool := false
  /-- The records of a sparse A operand have been checked (R132). -/
  metaChecked : Bool := false
  /-- The fetches in hand belong to that check (R132). -/
  checking : Bool := false
  /-- The work is over and its outcome is `status`; the slot waits for its store tags (R94). -/
  ended : Bool := false
  status : BitVec 8 := 0
  detail : BitVec 16 := 0
  /-- The record could not be written because the COMPLETE ring is full (R326). -/
  recordHeld : Bool := false
  /-- Outputs of a Palm contribution that waits for its sequence, and the number of the first row (R202, R223, R225). -/
  outRows : List (List F32) := []
  outRow0 : Nat := 0
  /-- Collective progress: has joined, head in hand, round in hand (R111, R112, R215). -/
  joined : Bool := false
  head : Nat := 0
  round : Nat := 0
  /-- The array accumulators kept between rounds, and the running softmax of ATTN (R86, R113). -/
  acc : List F32 := []
  rowMax : List F32 := []
  rowSum : List F32 := []
  /-- REDUCE: pairs sent so far and chunks not yet credited (R161, R234). -/
  sent : Nat := 0
  outstanding : Nat := 0
  started : Bool := false
  deriving DecidableEq, Repr

/-- One core: its registers, queues and slots. -/
structure Core where
  /-- TL_CORE_CTL (R87): SLICE 0x0400, MIN_RUN 0x08, SWITCH_EN 1. -/
  ctl : BitVec 32 := 0x01080400
  /-- TL_SPARSE_STAT (R135). -/
  pruned : BitVec 48 := 0
  sparseFaults : BitVec 16 := 0
  /-- Descriptors waiting for admission, in order of arrival (R84). -/
  queue : List Task := []
  /-- The held list of R191. -/
  held : List Task := []
  /-- PALM_INITs in order of arrival; the first one is running when `palmBusy` (R84, R221). -/
  palmQueue : List Task := []
  palmBusy : Bool := false
  /-- The slot that owns the sequencer, and the slot it last ran (R85). -/
  current : Option SlotNo := none
  lastRan : Option SlotNo := none
  /-- The running slot has run for MIN_RUN (R85). -/
  minRun : Bool := false
  /-- The running slot has run for SLICE (R85). -/
  sliceDone : Bool := false
  slots : Tbl Slot := []
  /-- Transfers requested of each engine and not granted a tag, in the order of the requests (R92). -/
  fetchQueue : List (SlotNo × Xfer) := []
  storeQueue : List (SlotNo × List (Nat × List Byte)) := []
  /-- Cancelled fetch tags whose responses are still due: their numbers are not free (R94). -/
  cancelled : List FetchTag := []
  deriving DecidableEq, Repr

/-- A Palm slot (R222). -/
structure Palm where
  isOpen : Bool := false
  owner : CtxNo := 0
  base : Nat := 0
  elements : Nat := 0
  nextSeq : BitVec 32 := 0
  nonfinite : Bool := false
  broken : Bool := false
  deriving DecidableEq, Repr

/-- The loss scale of a partition: shadows as written pairs, the values in force, and LS_STATUS (R75). -/
structure LossScale where
  shadowExp : Word64 := 0xFFFFFFEF00000010
  shadowMax : Word64 := 0xFFFFFFDF00000020
  shadowGrowth : Word64 := 0xFFFFF82F000007D0
  shadowMode : Word64 := 0xFFFFFFFE00000001
  maxExp : Int := 32
  growth : Nat := 2000
  dynamic : Bool := true
  expNow : Int := 16
  expPrev : Int := 16
  clean : Nat := 0
  halvings : Nat := 0
  floorHits : Nat := 0
  /-- The pair in force was found invalid (R79). -/
  invalid : Bool := false
  deriving DecidableEq, Repr

/-- The census of the step now running (R228, R231). -/
structure Census where
  values : Nat := 0
  fromStages : Bool := false
  fromRoute : Bool := false
  fromPalms : Bool := false
  late : Bool := false
  firstCore : Nat := 255
  deriving DecidableEq, Repr

/-- A pending PHASE (R192): its descriptor, the step it has reached, and the map copied at step 2. -/
structure PendingPhase where
  task : Task
  /-- 1 waiting for an earlier PHASE, 4 draining, 5 waiting for NOT_BEFORE. -/
  step : Nat
  map : List Byte
  /-- A unit of the partition was lost meanwhile: step 6 fails (R193). -/
  lost : Bool := false
  deriving DecidableEq, Repr

/-- An open collective (R198, R215, R321). `stage` 0 gathers, 1 has moved its rows or computes. -/
structure Coll where
  opcode : BitVec 8
  key : Nat
  /-- The first participant's descriptor, with which the others must agree. -/
  first : Task
  members : List (CoreNo × SlotNo × Task)
  stage : Nat := 0
  /-- The blocks that have left their cores, by head × 256 + shard, as rows of codes (R112, R215). -/
  blocks : Tbl (List (List Nat)) := []
  /-- Gradients travelling with the shards, by shard: dK, dV, or the pair accumulator as hi, lo words (R114, R216). -/
  travel : Tbl (List F32) := []
  deriving DecidableEq, Repr

/-- A collective that a disagreement or an unreadable record has ended before every participant had come (R198, R205): those that come later end
with the same status. -/
structure EndedColl where
  opcode : BitVec 8
  key : Nat
  status : BitVec 8
  came : List CoreNo
  deriving DecidableEq, Repr

/-- A partition (R340, R361): its entry and everything kept once per partition. -/
structure Partition where
  entry : BitVec 128 := 0
  ls : LossScale := {}
  /-- Commits of the loss scale that a reset of the partition holds, in the order of their writes (R420). -/
  lsHeld : List Word64 := []
  quietShadow : Word64 := 0xFFFFFFFF00000000
  quiet : Bool := false
  /-- The slot tables in force, as the partition's QUIET they were worked out for (R178). -/
  quietTables : Bool := false
  redTmo : BitVec 26 := 10000
  mapArea : BitVec 15 := 0
  /-- The second half of the area holds the current map (R183). -/
  secondHalf : Bool := false
  gen : BitVec 32 := 0
  phaseTime : Word64 := 0
  phaseQuality : BitVec 4 := 0
  /-- The tables the units have loaded, as the map's bytes (R192). -/
  map : List Byte := []
  phases : List PendingPhase := []
  /-- A drain mark is out, and not withdrawn (R192). -/
  drainMark : Bool := false
  /-- Descriptors that have reached the coordinator, in order (R192, R229). -/
  coord : List Task := []
  colls : List Coll := []
  endedColls : List EndedColl := []
  dropped : BitVec 48 := 0
  spilled : BitVec 48 := 0
  cur : BitVec 32 := 0
  lastNonfinite : Bool := false
  census : Census := {}
  /-- The pending STEP_CLOSE: the close mark is out (R229). -/
  closing : Option Task := none
  exportRing : BitVec 21 := 0
  exportSeq : Word64 := 0
  deriving DecidableEq, Repr

/-- One burst on the Brim: its header (R164), its data, the station it stands at and where it heads (east, north, west, south). -/
structure Burst where
  srcTile : TileNo
  partition : PartNo
  group : BitVec 12
  seq : BitVec 32
  last : Bool
  poison : Bool
  /-- Offset of the burst's first byte within the broadcast, DOFF included. -/
  offset : Nat
  data : List Byte
  here : TileNo
  heading : Fin 4
  /-- The direction it came in by, whose buffer it fills at `here`; none at its source (R167). -/
  via : Option (Fin 4) := none
  /-- Destination tiles to which its source has sent mesh copies (R171). -/
  copied : List TileNo := []
  /-- It has lost a start to a burst that came towards it: it starts next (R167). -/
  lost : Bool := false
  deriving DecidableEq, Repr

/-- A read of a station (R213): its tag, its offset in the source, its length, and its data once they have come. -/
structure StationRead where
  tag : Nat
  offset : Nat
  len : Nat
  data : Option (List Byte) := none
  deriving DecidableEq, Repr

/-- A running STREAM: bytes not yet delivered over all destinations, and the first error met. -/
structure StreamRun where
  task : Task
  group : Nat
  remaining : Nat
  status : BitVec 8
  /-- Bytes asked for so far, the reads whose data have not gone into a burst, what waits to fill one, and bytes sent in bursts (R213). -/
  asked : Nat := 0
  reads : List StationRead := []
  buffer : List Byte := []
  poison : Bool := false
  sent : Nat := 0
  /-- A failed read has stopped it (R214). -/
  stopped : Bool := false
  recordHeld : Bool := false
  deriving DecidableEq, Repr

/-- A Brim station (R163, R213). -/
structure Station where
  inbox : List Task := []
  queue : List Task := []
  held : List Task := []
  running : Option StreamRun := none
  deriving DecidableEq, Repr

/-- An operation in a Cuff's queue (R238): an UPDATE, PROMOTE or DRAIN and how far it has come (R251). -/
structure CuffOp where
  task : Task
  /-- The entry a PROMOTE or DRAIN takes at another Cuff whose memory it touches (R288). -/
  guest : Bool := false
  /-- Byte ranges it reads or writes at this Cuff, for the overlap rule (R238, R288). -/
  ranges : List (Nat × Nat) := []
  done : Nat := 0
  nonfinite : Nat := 0
  firstNonfinite : Nat := 0xFFFFFFFF
  poisoned : Nat := 0
  firstPoisoned : Nat := 0xFFFFFFFF
  gradNonfinite : Bool := false
  gradPoison : Bool := false
  lastWrite : Word64 := 0
  /-- It has ended and its record waits for room in its COMPLETE ring (R326). -/
  recordHeld : Bool := false
  deriving DecidableEq, Repr

/-- A root buffer of a Cuff: chunks of one tree, at most 8 (R238). -/
structure RootBuf where
  tree : BitVec 16
  chunks : List Packet
  deriving DecidableEq, Repr

/-- A Cuff (R236, R238, R254 to R256). -/
structure Cuff where
  inbox : List Task := []
  held : List Task := []
  queue : List CuffOp := []
  active : List CuffOp := []
  roots : List RootBuf := []
  /-- Trees whose chunks were discarded before their UPDATE came (R238). -/
  discarded : List (BitVec 16) := []
  records : Word64 := 0
  poisonSkips : BitVec 32 := 0
  aborts : BitVec 16 := 0
  outstanding : BitVec 9 := 0x100
  latNs : BitVec 16 := 0
  /-- The active operation whose turn it is, by its place (R238). -/
  turn : Nat := 0
  deriving DecidableEq, Repr

/-- An outcome that waits to become a completion record (R325, R326). -/
structure Outcome where
  task : Task
  status : BitVec 8
  detail : BitVec 16
  time : Word64
  quality : BitVec 4
  census : Bool
  deriving DecidableEq, Repr

/-- Ring states (R337); GATED is shown while a gate stands at the front. -/
inductive RingState where
  | disabled | active | faulted
  deriving DecidableEq, Repr

/-- A ring (R303, R306). -/
structure Ring where
  entry : BitVec 256 := 0
  head : BitVec 32 := 0
  tail : BitVec 32 := 0
  state : RingState := .disabled
  fault : BitVec 8 := 0
  /-- Its COMPLETE ring has faulted, so it reads no more (R328). -/
  stopped : Bool := false
  eventSeq : Word64 := 0
  /-- HEAD_WB is behind the head (R311). -/
  headDue : Bool := false
  /-- Descriptors read and not yet sent, oldest first (R312, R313, R330). -/
  sendQueue : List Task := []
  /-- A gate at the front has started (R330). -/
  gateStarted : Bool := false
  /-- A gate that was sent to a core slot and holds back every later descriptor until it has completed (R330). -/
  gateOut : Option (BitVec 32) := none
  /-- Indices of descriptors read whose record is not written, in ring order (R313). -/
  open_ : List (BitVec 32) := []
  /-- Outcomes that wait for room in this COMPLETE ring (R326). -/
  waiting : List Outcome := []
  /-- A holdoff runs, and records were written during it (R335). -/
  holdoff : Bool := false
  holdoffDue : Bool := false
  deriving DecidableEq, Repr

/-- A context (R345): its binding word, its address-range entries, its reject count and completion sequence. -/
structure Context where
  binding : BitVec 8 := 0
  ranges : Tbl (BitVec 128) := []
  rejects : BitVec 32 := 0
  seq : Word64 := 0
  deriving DecidableEq, Repr

/-- An HBM stack and its controller (R291 to R297). -/
structure Stack where
  withdrawn : Bool := false
  cause : BitVec 4 := 0
  attempts : Nat := 0
  /-- The zero fill for a new owner runs (R343). -/
  zeroing : Bool := false
  ceCtrl : BitVec 32 := 0
  ceDie : BitVec 32 := 0
  ueLines : BitVec 32 := 0
  ueForeground : BitVec 16 := 0
  periodH : BitVec 8 := 0x18
  scrubEnable : Bool := true
  /-- Setting of the pass in hand; a change takes effect at the next pass (R294). -/
  passPeriodH : BitVec 8 := 0x18
  passEnable : Bool := true
  /-- The pass in hand has begun (R294). -/
  passBegun : Bool := false
  position : BitVec 30 := 0
  passes : BitVec 16 := 0
  scrubTime : Word64 := 0
  util : Byte := 0
  peak : Byte := 0
  busy : Bool := false
  busyThresh : Byte := 0xE6
  /-- Thefa time of the last STACK_BUSY event (R296). -/
  busyEventTime : Option Word64 := none
  /-- Slots forced by refresh, and recalibration failures in succession by pseudo-channel (R274, R278). -/
  forcedSlots : Nat := 0
  recalFails : Tbl Nat := []
  deriving DecidableEq, Repr

/-- An expansion port (R298, R299, R509). -/
structure XPort where
  linkUp : Bool := false
  withdrawn : Bool := false
  cause : BitVec 4 := 0
  width : BitVec 3 := 0
  speed : BitVec 3 := 0
  degraded : Bool := false
  capacity : Nat := 0
  recovering : Bool := false
  poisonReads : BitVec 32 := 0
  recoveries : BitVec 16 := 0
  mboxCmd : Word64 := 0
  mboxBusy : Bool := false
  mboxRefused : Bool := false
  mboxNoLink : Bool := false
  mboxTimeout : Bool := false
  mboxTruncated : Bool := false
  mboxReturn : BitVec 16 := 0
  mboxOutLength : Nat := 0
  mboxPayload : Tbl Byte := []
  /-- XP_PERST_N is driven high (R475). -/
  perstReleased : Bool := false
  deriving DecidableEq, Repr

/-- A host port (R474, R511, R512). -/
structure HPort where
  linkUp : Bool := false
  width : BitVec 3 := 0
  speed : BitVec 3 := 0
  flit : Bool := false
  sris : Bool := false
  atsEnabled : Bool := false
  /-- PERST_Np is released by the platform; the pin's pull-down asserts it (R467). -/
  perstReleased : Bool := false
  recovering : Bool := false
  recoveries : BitVec 16 := 0
  correctable : BitVec 16 := 0
  uncorrectable : BitVec 16 := 0
  /-- Translations held (context, page), and invalidations completed (R473). -/
  ats : List (CtxNo × Nat) := []
  atsCompleted : Nat := 0
  /-- The upper half latched by a 4-byte read: register offset and value (R487). -/
  latch : Option (Nat × BitVec 32) := none
  /-- MSI-X as PCIe has it (R335): the host has enabled it, and the vectors it has masked. -/
  msixOn : Bool := false
  msixMasked : List Nat := []
  deriving DecidableEq, Repr

/-- One direction of a mesh link (R140, R180, R181). -/
structure Link where
  cyclesOut : Word64 := 0
  corrected : BitVec 32 := 0
  replays : BitVec 16 := 0
  down : Bool := false
  /-- Consecutive failed replays of the cycle in hand, and the times of the replays of the last second. -/
  failedReplays : Nat := 0
  replayTimes : List Word64 := []
  /-- The 32 slots of its frame where a QUIET partition shares it: partition + 1, or 0 for a slot left over; empty elsewhere (R155, R178). -/
  frame : List Nat := []
  deriving DecidableEq, Repr

/-- A reduction node slot of a router (R157 to R162). -/
structure RedNode where
  a : List Packet := []
  b : List Packet := []
  stopped : Bool := false
  /-- Chunks sent to the parent and not yet credited (R161). -/
  outstanding : Nat := 0
  deriving DecidableEq, Repr

/-- A medium core of a tile in cluster mode (R30): one physical segment on its own sequencer. A defective one is held in reset. -/
structure MediumCore where
  running : Bool := false
  /-- Bytes of its 4 MiB operand store, which its image alone fills (log 37). -/
  store : Tbl Byte := []
  deriving DecidableEq, Repr

/-- Whether a tile's cores run descriptors or an image (R29 to R33). Image 0, which no diagnostics request can name, stands for Weala's
recovery image. -/
inductive TileMode where
  | core
  | entering (image : Byte) (token : BitVec 16)
  | cluster (image : Byte)
  deriving DecidableEq, Repr

/-- Tile power states, the transitional ones included (R441). -/
inductive PState where
  | run | idle | nap | doze | off | entering | waking | claspHeld
  deriving DecidableEq, Repr

/-- One Visor domain pointer set (R438, R465). -/
structure VisorPtr where
  wr : BitVec 32 := 0
  rd : BitVec 32 := 0
  lost : BitVec 32 := 0
  lastEvent : Option Word64 := none
  deriving DecidableEq, Repr

/-- A tile: organisation, router, reduction slots, power and heat. -/
structure Tile where
  mode : TileMode := .core
  /-- The medium cores, by 5 × cluster + physical segment, while the tile is in cluster mode (R30). -/
  medium : Tbl MediumCore := []
  /-- Segments found failing while the tile is in cluster mode, by 5 × cluster + physical segment: applied at the return (R44). -/
  failedSegs : BitVec 20 := 0
  links : Tbl Link := []
  notOwner : BitVec 16 := 0
  absorbed : BitVec 16 := 0
  redDiscard : BitVec 16 := 0
  protocol : Byte := 0
  nodes : Tbl RedNode := []
  station : Station := {}
  /-- TL_CMEM_ERR by cluster: CE_LINES, UE_LINES, PASSES (R513), and scrub positions by cluster × 16 + bank (R273). -/
  cmemCe : Tbl (BitVec 32) := []
  cmemUe : Tbl (BitVec 16) := []
  cmemPasses : Tbl (BitVec 16) := []
  cmemPos : Tbl Nat := []
  banksDone : Tbl Nat := []
  spareTests : List Nat := []
  power : PState := .run
  thermal : Bool := false
  /-- The thermal NAP ends only at module reset: fewer than 4 working sensors (R447). -/
  napForGood : Bool := false
  freq : Nat := 40
  ceil : Nat := 48
  clasped : BitVec 4 := 0
  /-- Clasps latched at a fault are never released (R442). -/
  claspFault : BitVec 4 := 0
  faulted : BitVec 4 := 0
  phases : BitVec 5 := 16
  target : BitVec 6 := 40
  loadLines : BitVec 32 := 0x28282850
  retWord : Word64 := 0
  retCompl : Word64 := 0xFFFFFFFFFFFFFFFF
  reqState : BitVec 3 := 0
  autoNap : Bool := false
  /-- A request held while an entry or wake runs (R454). -/
  heldReq : Option Word64 := none
  /-- The state an entry goes to, the state a wake left, the banks retained. -/
  goal : PState := .run
  fromState : PState := .run
  retained : BitVec 64 := 0
  domainsUp : BitVec 4 := 0
  /-- Domains ramping, and ramps held by a bus droop (R434, R436); the start-up retry has been used. -/
  ramping : BitVec 4 := 0
  rampHeld : BitVec 4 := 0
  rampRetried : BitVec 4 := 0
  senseLost : Tbl Nat := []
  temp : Int := 0
  hottest : Nat := 0
  sensorsFailed : BitVec 16 := 0
  vddlCurrent : BitVec 16 := 0
  /-- Throttled since the last release, and when it was last reported (R448). -/
  throttled : Bool := false
  throttleTime : Option Word64 := none
  refuse : Tbl (BitVec 16) := []
  pwLast : BitVec 128 := 0
  visorPtr : Tbl VisorPtr := []
  visorHist : Tbl (BitVec 128) := []
  /-- Latest Visor entry by domain (R440). -/
  visorLast : Tbl (BitVec 128) := []
  deriving DecidableEq, Repr

/-- One entry of MG_READY_TIME (R404, R405). -/
structure Fn where
  state : BitVec 3 := 0
  quality : BitVec 4 := 0
  time : Word64 := 0
  deriving DecidableEq, Repr

/-- A segment failure being worked on, in order of detection (R42 to R44). -/
structure MapChange where
  core : CoreNo
  /-- The segments declared defective and not yet applied. -/
  segs : List (Fin 5)
  /-- 0 waiting for its turn, 4 self-testing the substitute. -/
  step : Nat
  /-- The segment under self-test at step 4; 7 for none. -/
  sub : Nat := 7
  deriving DecidableEq, Repr

/-- The kinds of reset (R356) and how far one has come (R357): 1 to 3 draining, 5 clearing. -/
structure Reset where
  level : Fin 4
  target : BitVec 8
  step : Nat
  immediate : Bool
  /-- Lower-level resets inside it that it has taken over; each counts as completed with it (R360). -/
  inner : Nat := 0
  deriving DecidableEq, Repr

/-- A partition commit in force once its units have drained and its stacks are zeroed (R343). -/
structure Ownership where
  part : PartNo
  entry : BitVec 128
  /-- The units have drained and switched; its new stacks are being zeroed. -/
  switched : Bool
  deriving DecidableEq, Repr

/-- Partitions' and contexts' set-up registers (R361 to R365). -/
structure SetupRegs where
  partSel : BitVec 6 := 0
  partShadow : BitVec 128 := 0
  ctxSel : BitVec 16 := 0
  ctxShadow : Word64 := 0
  rangeShadow : Tbl (BitVec 128) := []
  pageSel : BitVec 16 := 0
  pageShadow : BitVec 32 := 0
  reset : Word64 := 0
  resetLevel : BitVec 2 := 0
  resetTarget : Byte := 0
  abandoned : Bool := false
  drain : BitVec 16 := 0
  merged : BitVec 16 := 0
  resetCount : BitVec 16 := 0
  ringSel : BitVec 20 := 0
  ringShadow : BitVec 256 := 0
  platformEvent : BitVec 21 := 0
  diagTiles : Word64 := 0
  diagWord : Word64 := 0
  diagPassed : BitVec 64 := 0
  diagBusy : Bool := false
  diagResult : BitVec 3 := 0
  diagFirst : BitVec 6 := 0
  diagToken : BitVec 16 := 0
  diagLeft : List TileNo := []
  deriving DecidableEq, Repr

/-- A reference input (R372 to R375, R395). -/
structure Ref where
  state : BitVec 3 := 0
  outWindows : BitVec 4 := 0
  inWindows : BitVec 8 := 0
  freq : Int := 0
  phaseNs : Int := 0
  /-- Consecutive consistent PPS intervals; seconds out of phase; a loss fell in this window; windows in tolerance while qualifying. -/
  consistent : Nat := 0
  outPhase : Nat := 0
  lossInWindow : Bool := false
  /-- An edge has been seen at its input. -/
  seen : Bool := false
  deriving DecidableEq, Repr

/-- The sources that govern the counter (R376, R391). -/
inductive Source where
  | free | refA | refB | holdover
  deriving DecidableEq, Repr

/-- The time base (R366 to R395). -/
structure TimeBase where
  running : Bool := false
  now : Word64 := 0
  timeSet : Bool := false
  epoch : BitVec 16 := 0
  source : Source := .free
  slewing : Bool := false
  /-- The difference that the slew in hand removes, in ns (R377). -/
  errNs : Nat := 0
  /-- Thefa time since which the reference has been locked, and of the entry into holdover, which a lock of 1,024 s preceded (R378). -/
  lockedSince : Word64 := 0
  holdStart : Word64 := 0
  holdLong : Bool := false
  /-- A switch has moved to the reference that is not preferred, and stays there (R376). -/
  stayOther : Bool := false
  /-- A slew or holdover has an estimated error below 1 µs (R369). -/
  fine : Bool := false
  everLocked : Bool := false
  armed : Option (BitVec 32) := none
  prefer : Bool := false
  revert : Bool := false
  tolPpb : BitVec 10 := 50
  /-- Frequency windows learned and their mean offset in 0.1 ppb (R374). -/
  learnedWindows : List Int := []
  refs : Tbl Ref := []
  /-- PPS_OUT pulses given (R477). -/
  ppsPulses : Nat := 0
  deriving DecidableEq, Repr

/-- A settings record of the flash (R408). -/
structure SettingRec where
  id : BitVec 16
  seq : BitVec 32
  time : Word64
  quality : BitVec 4
  value : BitVec 256
  valueC : BitVec 256
  sealWord : BitVec 32
  bank : Bool
  deriving DecidableEq, Repr

/-- An entry of the fuse ledger (R414). -/
structure LedgerEntry where
  id : BitVec 16
  index : Nat
  time : Word64
  quality : BitVec 4
  epoch : BitVec 16
  value : BitVec 256
  deriving DecidableEq, Repr

/-- A boot image slot (R407). -/
structure Image where
  version : Nat := 0
  gens : BitVec 2 := 3
  signed : Bool := true
  data : Tbl Byte := []
  deriving DecidableEq, Repr

/-- A copy of the defect and Mitten map (R410). `ok` stands for its CRC matching the ledger's. -/
structure MapCopy where
  generation : Nat := 0
  grade : BitVec 2 := 0
  entries : Tbl Word64 := []
  ok : Bool := true
  deriving DecidableEq, Repr

/-- An audit log entry (R411). -/
structure Audit where
  time : Word64
  quality : BitVec 4
  epoch : BitVec 16
  kind : BitVec 16
  seq : Word64
  args : List Nat
  deriving DecidableEq, Repr

/-- A message Weala holds or has sent on a management binding (R479, R480). -/
inductive MgmtMsg where
  | endpointId (eid : Byte)
  | endpointIdSet (eid : Byte)
  | uuid (u : BitVec 128)
  | versions (l : List (BitVec 32))
  | types (l : List Byte)
  | tid (t : Byte)
  | done
  | commands (l : List Byte)
  | pdrInfo (count : Nat)
  | pdr (handle : Nat) (sensor : Nat)
  | reading (sensor : Nat) (value : Int)
  | stateReading (sensor : Nat) (state : Nat)
  | error
  | platformEvent (what : Nat) (value : Int)
  | requestResult (op : Byte) (result : Byte) (data : List Byte)
  deriving DecidableEq, Repr

/-- Weala: its run state, flash, fuses, settings, requests and event log (R397 to R426, R510). -/
structure Weala where
  running : Bool := false
  recovery : Bool := false
  /-- Cause of the previous stop (R411, R472). -/
  stopCause : Nat := 5
  bootB : Bool := false
  imageA : Image := {}
  imageB : Image := {}
  records : List SettingRec := []
  recordSeq : BitVec 32 := 0
  activeBank : Bool := false
  mapA : MapCopy := {}
  mapB : MapCopy := { ok := false }
  mirror : List LedgerEntry := []
  fuses : List LedgerEntry := []
  audit : List Audit := []
  auditSeq : Word64 := 0
  /-- Settings in force by ID, those away from their manufacture default (R412). -/
  settings : Tbl (BitVec 256) := []
  /-- IDENTITY_LEVEL and NUMERIC_GENERATION selected at this start-up (R412, R424). -/
  level : Nat := 2
  generation : Nat := 2
  reqBuf : Tbl Byte := []
  reqCmd : Word64 := 0
  reqResult : Byte := 0
  reqToken : BitVec 24 := 0
  /-- Requests taken and not yet answered, in order of arrival (R413); BUSY is 1 while there is one. -/
  reqQueue : List Instr := []
  evLog : Tbl (BitVec 512) := []
  /-- Entries written since Weala's last start; EV_PTR shows bits [31:0] (R510). -/
  evWr : Word64 := 0
  evRd : BitVec 32 := 0
  evLost : BitVec 32 := 0
  /-- Endpoint IDs by binding (0 SMBus, 1 + p VDM of HPp), PLDM terminus and event receiver (R479, R480). -/
  eids : Tbl Byte := []
  tid : Byte := 0
  receiver : Option (Binding × Byte) := none
  /-- Messages held for the SMBus bus owner, while there is one of which SMB_ALERT_N is asserted (R479), and messages sent over PCIe VDM. -/
  smbOut : List MgmtMsg := []
  vdmOut : List (HostPort × MgmtMsg) := []
  deriving DecidableEq, Repr

/-- Where start-up stands (R397, R470): auxiliary only, each wait, and main power. -/
inductive StartStage where
  | off | waitCoolant | waitMain | main
  deriving DecidableEq, Repr

/-- Module power, interlocks and pins (R427 to R429, R452, R453, R456 to R458, R466 to R472). -/
structure Power where
  aux : Bool := false
  pwrEn : Bool := false
  coolantOk : Bool := false
  stage : StartStage := .off
  /-- PWR_EN must be deasserted and asserted again before main power starts (R453). -/
  needPwrEnCycle : Bool := false
  /-- PUMP_REQ's 60 s after a shutdown run (R452). -/
  pumpHold : Bool := false
  modReady : Bool := false
  shelfEn : Bool := false
  pumpReq : Bool := false
  /-- Coolant was lost in service and its 2 s run (R452). -/
  coolantLost : Bool := false
  vA : BitVec 16 := 0
  vB : BitVec 16 := 0
  iA : BitVec 16 := 0
  iB : BitVec 16 := 0
  power : BitVec 32 := 0
  limitNow : BitVec 32 := 0
  limit : BitVec 9 := 270
  busMin : BitVec 10 := 470
  throttleC : BitVec 8 := 95
  hystC : BitVec 4 := 5
  alertC : BitVec 8 := 100
  lostA : Bool := false
  lostB : Bool := false
  drooped : Bool := false
  ticksSinceLower : Nat := 10
  vmin : Tbl (BitVec 128) := []
  /-- The time that the last read of PW_VMIN showed, by entry (R439). -/
  vminRead : Tbl Word64 := []
  deriving DecidableEq, Repr

/-- What can stop the block with a fault. -/
inductive Fault where
  /-- Raised by nothing: every failure the spec describes is a status, an event or a counter, and the block goes on. Safe. -/
  | never
  deriving DecidableEq, Repr

/-- What the block refuses to give a meaning to. -/
inductive Refusal where
  /-- Raised by exec for a command whose meaning is not written yet. Safe: nothing is claimed of it. -/
  | notModelled (mnemonic : String)
  deriving DecidableEq, Repr

/-- The state of the module. -/
structure State where
  pending : List Instr := []
  /-- The next free value to be taken (the model's own field, log 3). -/
  freeCtr : Nat := 0
  /-- Bytes by device address (R258) away from their reset content, the poisoned lines (R271), and lines whose corrected
  write-back is due (R270), by line number (address ÷ 64); the sections of the code blocks follow the lines of the whole map. -/
  mem : List Host.Cell := []
  poison : Tbl Bool := []
  writeback : Tbl Bool := []
  /-- Page owners (R349): context + 1 of each allocated page, and runs being zeroed (first page, count, context). -/
  pages : Tbl Nat := []
  pageRuns : List (Nat × Nat × CtxNo) := []
  /-- Data base + 1 of the Liner stream whose index entry stands at an address, as the SAVE that wrote the entry named it (R105, R109). -/
  liners : Tbl Nat := []
  cores : Tbl Core := []
  palms : Tbl Palm := []
  parts : Tbl Partition := []
  cuffs : Tbl Cuff := []
  rings : Tbl Ring := []
  /-- Descriptors read so far (the model's own count, log 61). -/
  taskCtr : Nat := 0
  ctxs : Tbl Context := []
  hbm : Tbl Stack := []
  xports : Tbl XPort := []
  hports : Tbl HPort := []
  tiles : Tbl Tile := []
  packets : List Packet := []
  bursts : List Burst := []
  /-- Escape next hops in force, at (router × 64 + destination) × 2 + (the last hop was down), as tile + 1; a load is under way (R151). -/
  escape : Tbl Nat := []
  escapeLoading : Bool := false
  /-- A QUIET change waits for its frame boundary (R178). -/
  quietDue : Bool := false
  /-- The running Mitten map where it differs from the entry of a cluster without defects (R34). -/
  mitten : Tbl Word64 := []
  holes : BitVec 64 := 0
  gradeStored : BitVec 2 := 0
  changes : List MapChange := []
  resets : List Reset := []
  owning : List Ownership := []
  setup : SetupRegs := {}
  fns : Tbl Fn := []
  tb : TimeBase := {}
  weala : Weala := {}
  pw : Power := {}
  /-- MSI-X messages sent, as (port, vector), the latest first (R335). -/
  msix : List (HostPort × Nat) := []
  /-- The ring from which a host port's ring unit takes its next turn (R312). -/
  ringTurn : Tbl Nat := []
  /-- MSI-X pending bits that are set, as (port, vector) (R335). -/
  msixPending : List (HostPort × Nat) := []
  deriving DecidableEq, Repr

/-- The module before auxiliary power: every register at its reset value, nothing started (R481, R488). -/
def State.reset : State := {}

end Sys2Proof.Machine
end

