-- ==== Sys2Proof/Machine/Operands.lean ====
section
/-!
DEFINITION. Reading operands: bit fields, tables, and the fields of every descriptor (R315 to R324). Bits are numbered from the
first byte of the descriptor across all of its entries (R315).
-/
namespace Sys2Proof.Machine
open Sys2Proof

/-- Bits [lo + n - 1 : lo] of a number. -/
def bits (v lo n : Nat) : Nat := (v >>> lo) % 2 ^ n

/-- Bit `i` of a number. -/
def bitOf (v i : Nat) : Bool := v.testBit i

/-- A number placed at bit `lo`, n bits wide. -/
def place (v lo n : Nat) : Nat := (v % 2 ^ n) <<< lo

/-- A signed value as its n-bit two's complement (R14). -/
def signedBits (v : Int) (n : Nat) : Nat := (v % (2 ^ n : Int)).toNat

/-- An n-bit two's complement field as a signed value. -/
def ofSigned (v n : Nat) : Int := if v < 2 ^ (n - 1) then (v : Int) else (v : Int) - 2 ^ n

/-- A pair is valid when its halves are complements of each other (R17). -/
def pairOk (w : Word64) : Bool := w.extractLsb' 0 32 ^^^ w.extractLsb' 32 32 == 0xFFFFFFFF

/-- The value half of a pair. -/
def pairVal (w : Word64) : Nat := w.toNat % 2 ^ 32

/-- A value with its complement (R17). -/
def mkPair (v : BitVec 32) : Word64 := (~~~v) ++ v

/-- Entry `k` of a table whose unlisted entries are `d`. -/
def tget {α : Type} (d : α) : Tbl α → Nat → α
  | [], _ => d
  | (j, w) :: r, k => if j = k then w else tget d r k

/-- Set entry `k`, keeping the canonical form: indices rising, no entry equal to `d`. Whatever the list's form was, entry `k` then reads as
`v` and every other entry as before. -/
def tput {α : Type} [DecidableEq α] (d : α) : Tbl α → Nat → α → Tbl α
  | [], k, v => if v = d then [] else [(k, v)]
  | (j, w) :: r, k, v =>
    if k < j then (if v = d then (j, w) :: tput d r k v else (k, v) :: (j, w) :: r)
    else if k = j then (if v = d then tput d r k v else (k, v) :: r)
    else (j, w) :: tput d r k v

/-- Apply a function to every listed entry, keeping the canonical form. -/
def tmap {α : Type} [DecidableEq α] (d : α) (f : Nat → α → α) : Tbl α → Tbl α
  | [] => []
  | (j, w) :: r => tput d (tmap d f r) j (f j w)

/-- One 32-bit sequence number comes before another, modulo 2^32 (R519). -/
def seqBefore (a b : BitVec 32) : Bool := a != b && decide ((b - a).toNat < 2 ^ 31)

/-- Saturating increment of an n-bit counter. -/
def satInc {n : Nat} (c : BitVec n) : BitVec n := if c.toNat + 1 < 2 ^ n then c + 1 else c

/-- Saturating addition to an n-bit counter. -/
def satAdd {n : Nat} (c : BitVec n) (k : Nat) : BitVec n :=
  if c.toNat + k < 2 ^ n then BitVec.ofNat n (c.toNat + k) else BitVec.ofNat n (2 ^ n - 1)

/-! CRC-32C in the reflected form (R522): the reflection of 0x1EDC6F41 is 0x82F63B78. -/

/-- Eight steps of the register for one byte already added in. -/
def crcShift : Nat → BitVec 32 → BitVec 32
  | 0, c => c
  | n + 1, c => crcShift n (if c.getLsbD 0 then (c >>> 1) ^^^ 0x82F63B78 else c >>> 1)

/-- The CRC-32C of bytes in ascending address order (R522). -/
def crc32c (bs : List Byte) : BitVec 32 :=
  bs.foldl (fun c b => crcShift 8 (c ^^^ b.setWidth 32)) 0xFFFFFFFF ^^^ 0xFFFFFFFF

/-! The header (R315). -/

/-- Field of n bits at bit `lo` of a descriptor. -/
def Task.f (t : Task) (lo n : Nat) : Nat := bits t.raw.toNat lo n

/-- Single bit of a descriptor. -/
def Task.b (t : Task) (i : Nat) : Bool := t.raw.toNat.testBit i

def Task.opcode (t : Task) : Nat := t.f 0 8
def Task.cont (t : Task) : Nat := t.f 8 2
def Task.fence (t : Task) : Bool := t.b 10
def Task.saturate (t : Task) : Bool := t.b 11
def Task.irq (t : Task) : Bool := t.b 12
def Task.sigMode (t : Task) : Nat := t.f 13 2
def Task.bwd (t : Task) : Bool := t.b 15
def Task.dbuf (t : Task) : Bool := t.b 16
def Task.footprint (t : Task) : Nat := t.f 18 6
def Task.tindex (t : Task) : Nat := t.f 24 8
def Task.tkind (t : Task) : Nat := t.f 32 4
def Task.mapGen (t : Task) : Nat := t.f 40 16
def Task.step (t : Task) : BitVec 32 := t.raw.extractLsb' 64 32
def Task.sigAddr (t : Task) : Nat := t.f 128 56
def Task.sigValue (t : Task) : Word64 := t.raw.extractLsb' 192 64
/-- FP32 field at bit `lo`. -/
def Task.fp (t : Task) (lo : Nat) : F32 := t.raw.extractLsb' lo 32
/-- Address field at bit `lo`: 56 bits (R319). -/
def Task.addr (t : Task) (lo : Nat) : Nat := t.f lo 56

/-! The opcodes (R317). -/

/-- The rows of R317. -/
inductive Op where
  | nop | copy | signal | wait | timed | gauntlet | attn | route | dispatch | combine | stream | rotate
  | phase | stepClose | palmInit | reduce | update | promote | drain
  deriving DecidableEq, Repr

/-- The opcode a code names; every other value is reserved (R317). -/
def opOf : Nat → Option Op
  | 0x00 => some .nop | 0x01 => some .copy | 0x08 => some .signal | 0x09 => some .wait | 0x0A => some .timed
  | 0x10 => some .gauntlet | 0x11 => some .attn
  | 0x20 => some .route | 0x21 => some .dispatch | 0x22 => some .combine | 0x23 => some .stream | 0x24 => some .rotate
  | 0x28 => some .phase | 0x29 => some .stepClose
  | 0x30 => some .palmInit | 0x31 => some .reduce | 0x32 => some .update | 0x33 => some .promote | 0x34 => some .drain
  | _ => none

/-- The opcode of a descriptor. -/
def Task.op (t : Task) : Option Op := opOf t.opcode

/-- The target kinds a row of R317 allows: 0 RING, 1 CORE, 2 CUFF, 3 STATION, 4 COORD. -/
def Op.tkinds : Op → List Nat
  | .nop | .signal => [0]
  | .wait | .timed => [0, 1]
  | .copy | .gauntlet | .attn | .route | .dispatch | .combine | .rotate | .palmInit | .reduce => [1]
  | .stream => [3]
  | .phase | .stepClose => [4]
  | .update | .promote | .drain => [2]

/-- The continuation counts a row of R317 allows. -/
def Op.conts : Op → List Nat
  | .gauntlet => [1, 2, 3]
  | .attn | .route | .dispatch | .combine | .rotate | .update | .promote | .drain => [1]
  | _ => [0]

/-- The footprints a row of R317 allows. -/
def Op.footprintOk : Op → Nat → Bool
  | .copy, n | .gauntlet, n | .attn, n | .route, n | .dispatch, n | .combine, n | .rotate, n => decide (1 ≤ n ∧ n ≤ 32)
  | .reduce, n => n == 1
  | _, n => n == 0

/-- BWD may be 1 only for these (R317). -/
def Op.bwdAllowed : Op → Bool
  | .attn | .route | .dispatch | .combine => true
  | _ => false

/-- MAP_GEN is used by the opcodes of R191, R192 and R233. -/
def Op.usesMapGen : Op → Bool
  | .attn | .dispatch | .combine | .stream | .rotate | .reduce | .phase | .update => true
  | _ => false

/-- SATURATE is used by the opcodes that convert to a destination format (R315). -/
def Op.usesSaturate : Op → Bool
  | .gauntlet | .attn | .combine | .rotate | .update | .promote | .drain => true
  | _ => false

end Sys2Proof.Machine
end

