-- ==== Sys2Proof/Machine/Ops.lean ====
section
/-!
DEFINITION. The operations every family shares: the units' places in the tables of State, the device address map and memory
(R258 to R263, R270, R271), ownership and the checks of a context's accesses (R340, R347 to R349), events (R333), the rings'
records (R325, R326, R328, R335), completion, and the states of functions (R404, R405).
-/
namespace Sys2Proof.Machine
open Sys2Proof

/-! Units in their tables. -/

def getCore (s : State) (c : CoreNo) : Core := tget {} s.cores c.val
def setCore (s : State) (c : CoreNo) (v : Core) : State := { s with cores := tput {} s.cores c.val v }
def getSlot (s : State) (c : CoreNo) (k : SlotNo) : Slot := tget {} (getCore s c).slots k.val
def setSlot (s : State) (c : CoreNo) (k : SlotNo) (v : Slot) : State :=
  let co := getCore s c
  setCore s c { co with slots := tput {} co.slots k.val v }
def getPart (s : State) (p : PartNo) : Partition := tget {} s.parts p.val
def setPart (s : State) (p : PartNo) (v : Partition) : State := { s with parts := tput {} s.parts p.val v }
def getCuff (s : State) (n : CuffNo) : Cuff := tget {} s.cuffs n.val
def setCuff (s : State) (n : CuffNo) (v : Cuff) : State := { s with cuffs := tput {} s.cuffs n.val v }
def getRing (s : State) (r : Nat) : Ring := tget {} s.rings r
def setRing (s : State) (r : Nat) (v : Ring) : State := { s with rings := tput {} s.rings r v }
def getCtx (s : State) (c : CtxNo) : Context := tget {} s.ctxs c.toNat
def setCtx (s : State) (c : CtxNo) (v : Context) : State := { s with ctxs := tput {} s.ctxs c.toNat v }
def getStack (s : State) (k : StackNo) : Stack := tget {} s.hbm k.val
def setStack (s : State) (k : StackNo) (v : Stack) : State := { s with hbm := tput {} s.hbm k.val v }
def getXp (s : State) (p : PortNo) : XPort := tget {} s.xports p.val
def setXp (s : State) (p : PortNo) (v : XPort) : State := { s with xports := tput {} s.xports p.val v }
def getHp (s : State) (p : HostPort) : HPort := tget {} s.hports p.val
def setHp (s : State) (p : HostPort) (v : HPort) : State := { s with hports := tput {} s.hports p.val v }
def getTile (s : State) (t : TileNo) : Tile := tget {} s.tiles t.val
def setTile (s : State) (t : TileNo) (v : Tile) : State := { s with tiles := tput {} s.tiles t.val v }
def getPalm (s : State) (c : CoreNo) (k : Nat) : Palm := tget {} s.palms (c.val * 16 + k)
def setPalm (s : State) (c : CoreNo) (k : Nat) (v : Palm) : State := { s with palms := tput {} s.palms (c.val * 16 + k) v }
def getFn (s : State) (f : Nat) : Fn := tget {} s.fns f

/-- Tile of a core and its cluster (R29). -/
def coreTile (c : CoreNo) : TileNo := ⟨c.val / 4, by omega⟩
def coreCluster (c : CoreNo) : Nat := c.val % 4
/-- Core of a tile's cluster. -/
def coreAt (t : TileNo) (k : Fin 4) : CoreNo := ⟨t.val * 4 + k.val, by omega⟩
/-- The tiles, cores, stacks and ports, in ascending number. -/
def allTiles : List TileNo := List.finRange 64
def tileCores (t : TileNo) : List CoreNo := (List.finRange 4).map (coreAt t)
def allStacks : List StackNo := List.finRange 32
def allPorts : List PortNo := List.finRange 8

/-- Take a fresh free value (log 2). -/
def freshByte (s : State) : Byte × State := (Config.freeByte s.freeCtr, { s with freeCtr := s.freeCtr + 1 })
def freshBool (s : State) : Bool × State := (Config.freeBool s.freeCtr, { s with freeCtr := s.freeCtr + 1 })
def freshWord (s : State) : Word64 × State := (Config.freeWord s.freeCtr, { s with freeCtr := s.freeCtr + 1 })

/-! Tiles and what hangs on them (R23, R24). -/

/-- The tile of stack s (R24). -/
def stackTile (k : StackNo) : TileNo :=
  if h : k.val < 8 then ⟨8 * k.val, by omega⟩
  else if h2 : k.val < 16 then ⟨56 + (k.val - 8), by omega⟩
  else if h3 : k.val < 24 then ⟨63 - 8 * (k.val - 16), by omega⟩
  else ⟨7 - (k.val - 24), by omega⟩

/-- The tile of host port p (R24). -/
def hostTile (p : HostPort) : TileNo :=
  match p with
  | ⟨0, _⟩ => 3 | ⟨1, _⟩ => 31 | ⟨2, _⟩ => 60 | ⟨_, _⟩ => 32

/-- The tile of expansion port p (R24). -/
def portTile (p : PortNo) : TileNo :=
  match p with
  | ⟨0, _⟩ => 1 | ⟨1, _⟩ => 5 | ⟨2, _⟩ => 15 | ⟨3, _⟩ => 47 | ⟨4, _⟩ => 62 | ⟨5, _⟩ => 58 | ⟨6, _⟩ => 48 | ⟨_, _⟩ => 16

/-- The stacks of a tile, lower number first: STACK_LO, then STACK_HI of a corner tile (R144). -/
def tileStacks (t : TileNo) : List StackNo := allStacks.filter fun k => stackTile k == t
def tilePort (t : TileNo) : Option PortNo := allPorts.find? fun p => portTile p == t
def tileHost (t : TileNo) : Option HostPort := (List.finRange 4).find? fun p => hostTile p == t

/-- Tile t is a hole (R48). -/
def isHole (s : State) (t : TileNo) : Bool := s.holes.getLsb t

/-- The tile's power state keeps it in the fabric (R441, R445, R446). -/
def poweredIn (x : Tile) : Bool := match x.power with | .run | .idle | .nap => true | _ => false
/-- Tile t carries no traffic: a hole, or a tile taken out for DOZE or OFF (R151, R445). -/
def tileOut (s : State) (t : TileNo) : Bool := isHole s t || !poweredIn (getTile s t)
/-- The fields of a TL block that are not Weala's answer (R430, R491): VDDL is on and the tile is no hole. -/
def tlAnswers (s : State) (t : TileNo) : Bool := !isHole s t && (getTile s t).domainsUp.getLsbD 0

/-- The neighbour of a tile: 0 east, 1 north, 2 west, 3 south (R180, R23). -/
def neighbour (t : TileNo) (d : Fin 4) : Option TileNo :=
  let x := t.val % 8
  let y := t.val / 8
  if d.val = 0 then (if x < 7 then some (Fin.ofNat 64 (t.val + 1)) else none)
  else if d.val = 1 then (if y < 7 then some (Fin.ofNat 64 (t.val + 8)) else none)
  else if d.val = 2 then (if 0 < x then some (Fin.ofNat 64 (t.val - 1)) else none)
  else (if 0 < y then some (Fin.ofNat 64 (t.val - 8)) else none)

/-- The direction facing d. -/
def opposite (d : Fin 4) : Fin 4 := d + 2

def getLink (s : State) (t : TileNo) (d : Fin 4) : Link := tget {} (getTile s t).links d.val
def setLink (s : State) (t : TileNo) (d : Fin 4) (v : Link) : State :=
  let ti := getTile s t
  setTile s t { ti with links := tput {} ti.links d.val v }

/-- The link from tile t in direction d is usable: a neighbour in the fabric, and neither direction declared down (R150). -/
def linkUsable (s : State) (t : TileNo) (d : Fin 4) : Bool :=
  match neighbour t d with
  | none => false
  | some u => !tileOut s t && !tileOut s u && !(getLink s t d).down && !(getLink s u (opposite d)).down

/-- Neighbours over usable links. -/
def usableNeighbours (s : State) (t : TileNo) : List TileNo :=
  (List.finRange 4).filterMap fun d => if linkUsable s t d then neighbour t d else none

/-- Tiles joined to `seen` within n more hops. -/
def spread (s : State) : Nat → List TileNo → List TileNo
  | 0, seen => seen
  | n + 1, seen => spread s n (seen ++ (seen.flatMap (usableNeighbours s)).eraseDups.filter fun u => !seen.contains u)

/-- A path joins two tiles (R151: up/down routing reaches every tile the graph joins). -/
def reachable (s : State) (a b : TileNo) : Bool :=
  if tileOut s a || tileOut s b then false
  else if s.holes == 0 && s.tiles.all fun e => poweredIn e.2 && e.2.links.all fun l => !l.2.down then true
  else (spread s 63 [a]).contains b

/-! The Mitten map (R34 to R36). -/

/-- The entry of a cluster without defects: s0 to s3 on p0 to p3, p4 spare, FULL. -/
def mittenFull : Word64 := mkPair 0x4688

/-- The running entry of a cluster. -/
def mittenEntry (s : State) (c : CoreNo) : BitVec 32 := (tget mittenFull s.mitten c.val).extractLsb' 0 32
def setMitten (s : State) (c : CoreNo) (e : BitVec 32) : State := { s with mitten := tput mittenFull s.mitten c.val (mkPair e) }
/-- Physical segment of logical segment i, and the spare's (R34). -/
def lsPhys (e : BitVec 32) (i : Nat) : Nat := bits e.toNat (3 * i) 3
def sparePhys (e : BitVec 32) : Nat := bits e.toNat 12 3
def clusterState (e : BitVec 32) : Nat := bits e.toNat 16 2
def defectMask (e : BitVec 32) : Nat := bits e.toNat 18 5
def bankFail (e : BitVec 32) : Bool := e.toNat.testBit 23
/-- A core stands under its number: FULL or DEGRADED (R47). -/
def corePresent (s : State) (c : CoreNo) : Bool := clusterState (mittenEntry s c) < 2
def coreDegraded (s : State) (c : CoreNo) : Bool := clusterState (mittenEntry s c) == 1
/-- Footprint units of a half: 32, or 24 on a degraded core (R84). -/
def coreUnits (s : State) (c : CoreNo) : Nat := if coreDegraded s c then 24 else 32

/-! Functions and their states (R404, R405). -/

def fnWeala : Nat := 0
def fnFabric : Nat := 1
def fnSram (t : TileNo) : Nat := 2 + t.val
def fnStack (k : StackNo) : Nat := 66 + k.val
def fnPort (p : PortNo) : Nat := 98 + p.val
def fnHost (p : HostPort) : Nat := 106 + p.val
def fnCore (c : CoreNo) : Nat := 110 + c.val
def fnModule : Nat := 366
def fnState (s : State) (f : Nat) : Nat := (getFn s f).state.toNat
def fnReady (s : State) (f : Nat) : Bool := fnState s f == 3
def isFailedOrAbsent (s : State) (f : Nat) : Bool := fnState s f == 4 || fnState s f == 5

/-- Core n takes descriptors: its function is READY, which a core in cluster mode is not (R32, R400). -/
def coreAvailable (s : State) (c : CoreNo) : Bool := corePresent s c && fnReady s (fnCore c)

/-! Time and its quality (R368, R369). -/

/-- The quality code of the counter now (R369): UNSET before any set, whatever governs it. -/
def qualityOf (tb : TimeBase) : BitVec 4 :=
  if !tb.timeSet then 0
  else match tb.source with
    | .free => if tb.everLocked then (if tb.fine then 3 else 2) else 1
    | .holdover => if tb.fine then 3 else 2
    | .refA => if tb.slewing then (if tb.fine then 3 else 2) else 4
    | .refB => if tb.slewing then (if tb.fine then 3 else 2) else 5

def now (s : State) : Word64 := s.tb.now
def quality (s : State) : BitVec 4 := qualityOf s.tb

/-! Management messages (R478 to R480). -/

/-- The binding can carry messages: Weala runs, and the port's link is in L0 (R478, R479). -/
def bindingUp (s : State) : Binding → Bool
  | .smbus => s.weala.running
  | .vdm p => s.weala.running && (getHp s p).linkUp

/-- What is sent to the SMBus bus owner, and over a host port. -/
def onSmb (b : Binding) (l : List MgmtMsg) : List MgmtMsg := match b with | .smbus => l | .vdm _ => []
def onVdm (b : Binding) (l : List MgmtMsg) : List (HostPort × MgmtMsg) := match b with | .smbus => [] | .vdm p => l.map fun m => (p, m)

/-- Messages leave on a binding: Weala holds those for the SMBus owner, with SMB_ALERT_N asserted, until they are read (R479). -/
def sendOn (s : State) (b : Binding) (l : List MgmtMsg) : State :=
  { s with weala := { s.weala with smbOut := s.weala.smbOut ++ onSmb b l, vdmOut := s.weala.vdmOut ++ onVdm b l } }

/-- The answer to a management message goes back on its binding. -/
def reply (s : State) (b : Binding) (m : MgmtMsg) : State := sendOn s b [m]

/-- SMB_ALERT_N is asserted (R479). -/
def smbAlert (s : State) : Bool := !s.weala.smbOut.isEmpty

/-- The messages of `l` that the registered event receiver can be sent (R480). -/
def forReceiver (s : State) (l : List MgmtMsg) : List MgmtMsg :=
  match s.weala.receiver with
  | some (b, _) => if bindingUp s b then l else []
  | none => []
def receiverBinding (s : State) : Binding := match s.weala.receiver with | some (b, _) => b | none => .smbus

/-- A PlatformEventMessage (R480). -/
def platformMessage (s : State) (what : Nat) (value : Int) : State :=
  sendOn s (receiverBinding s) (forReceiver s [.platformEvent what value])

/-- What the state sensors 69 to 71 report: the coolant, the module's condition, the quality code (R480). -/
def stateSensor (s : State) (n : Nat) : Nat :=
  match n with
  | 69 => if s.pw.coolantOk then 1 else 0
  | 70 => if s.pw.stage != .main then 0 else if fnReady s fnModule then 3 else if s.pw.modReady then 2 else 1
  | _ => (quality s).toNat

/-- The registered receiver is told of each state change of sensors 69 to 71 between s and t (R480). -/
def announce (s t : State) : State :=
  sendOn t (receiverBinding t)
    (forReceiver t (([69, 70, 71].filter fun n => stateSensor s n != stateSensor t n).map fun n => .platformEvent n (stateSensor t n)))

/-! The outcome of a command. -/

/-- A command's next state, for every row but the time base's and the settings': the queue is no effect's business, no unit's work
reaches the time base (R367), and nothing but a counted change burns a fuse (R414). -/
def finish (s t : State) : Host.Outcome State Fault Refusal :=
  .next (announce s { t with pending := s.pending, tb := s.tb, weala := { t.weala with fuses := s.weala.fuses } })

/-- The next state of a row that acts on the time base, which becomes `tb`. -/
def finishTime (s : State) (tb : TimeBase) (t : State) : Host.Outcome State Fault Refusal :=
  .next (announce s { t with pending := s.pending, tb := tb, weala := { t.weala with fuses := s.weala.fuses } })

/-- The next state of a row with which main power may go, the time base with it, and a waiting request may be answered. -/
def finishPower (s : State) (tb : TimeBase) (t : State) : Host.Outcome State Fault Refusal :=
  .next (announce s { t with pending := s.pending, tb := tb })

/-- The next state of a row that may burn a fuse. -/
def finishFuse (s t : State) : Host.Outcome State Fault Refusal :=
  .next (announce s { t with pending := s.pending, tb := s.tb })

/-- The row where `occasion` stands; elsewhere the happening is not that row's and nothing changes (log 8). -/
def whenever (occasion : Bool) (s t : State) : State := if occasion then t else s

/-! Partitions and contexts (R340, R345, R361, R362). -/

def Partition.valid (p : Partition) : Bool := p.entry.toNat.testBit 12
def Partition.x0 (p : Partition) : Nat := bits p.entry.toNat 0 3
def Partition.y0 (p : Partition) : Nat := bits p.entry.toNat 3 3
def Partition.x1 (p : Partition) : Nat := bits p.entry.toNat 6 3
def Partition.y1 (p : Partition) : Nat := bits p.entry.toNat 9 3
def entryHasTile (e : BitVec 128) (t : TileNo) : Bool :=
  let n := e.toNat
  n.testBit 12 && decide (bits n 0 3 ≤ t.val % 8 ∧ t.val % 8 ≤ bits n 6 3 ∧ bits n 3 3 ≤ t.val / 8 ∧ t.val / 8 ≤ bits n 9 3)
def entryHasStack (e : BitVec 128) (k : StackNo) : Bool := e.toNat.testBit 12 && e.toNat.testBit (32 + k.val)
def entryHasPort (e : BitVec 128) (p : PortNo) : Bool := e.toNat.testBit 12 && e.toNat.testBit (64 + p.val)
def partHasTile (s : State) (p : PartNo) (t : TileNo) : Bool := entryHasTile (getPart s p).entry t
def partHasStack (s : State) (p : PartNo) (k : StackNo) : Bool := entryHasStack (getPart s p).entry k
def partHasPort (s : State) (p : PartNo) (q : PortNo) : Bool := entryHasPort (getPart s p).entry q
def allParts : List PartNo := List.finRange 64
def tileOwner (s : State) (t : TileNo) : Option PartNo := allParts.find? fun p => partHasTile s p t
def stackOwner (s : State) (k : StackNo) : Option PartNo := allParts.find? fun p => partHasStack s p k
def portOwner (s : State) (q : PortNo) : Option PartNo := allParts.find? fun p => partHasPort s p q
/-- The corner tile (R341). -/
def cornerTile (p : Partition) : TileNo := Fin.ofNat 64 (p.y0 * 8 + p.x0)
def partTiles (s : State) (p : PartNo) : List TileNo := allTiles.filter (partHasTile s p)

def Context.bound (c : Context) : Bool := c.binding.toNat.testBit 6
def Context.part (c : Context) : PartNo := Fin.ofNat 64 (c.binding.toNat % 64)
def Context.phaseRight (c : Context) : Bool := c.binding.toNat.testBit 7

/-! The device address map (R258). -/

/-- The regions of R258 and R261: a stack's window, one cluster memory, a port's window, a host port's addresses. -/
inductive Region where
  | stack (k : StackNo)
  | cmem (t : TileNo) (c : Fin 4)
  | port (p : PortNo)
  | host (p : HostPort)
  deriving DecidableEq, Repr

/-- The window an address lies in (R258); none: no window. -/
def regionOf (a : Nat) : Option Region :=
  if a.testBit 55 then some (.host (Fin.ofNat 4 (bits a 53 2)))
  else if a < 32 * 2 ^ 36 then some (.stack (Fin.ofNat 32 (a / 2 ^ 36)))
  else if 2 ^ 50 ≤ a ∧ a < 2 ^ 50 + 64 * 2 ^ 30 then
    some (.cmem (Fin.ofNat 64 ((a - 2 ^ 50) / 2 ^ 30)) (Fin.ofNat 4 (((a - 2 ^ 50) / 2 ^ 28) % 4)))
  else if 2 ^ 53 ≤ a ∧ a < 2 ^ 53 + 8 * 2 ^ 46 then some (.port (Fin.ofNat 8 ((a - 2 ^ 53) / 2 ^ 46)))
  else none

/-- First address of a window (R258). -/
def stackBase (k : StackNo) : Nat := k.val * 2 ^ 36
def cmemBase (c : CoreNo) : Nat := 2 ^ 50 + c.val * 2 ^ 28
def portBase (p : PortNo) : Nat := 2 ^ 53 + p.val * 2 ^ 46
/-- The mapped part of a stack's window ends here (R258). -/
def stackMapped : Nat := 0x8B8000000

/-- The tile that serves a region (R258). -/
def regionTile : Region → TileNo
  | .stack k => stackTile k
  | .cmem t _ => t
  | .port p => portTile p
  | .host p => hostTile p

/-- The cluster memory stands in the address map (R47, R259, R400): its tile's SRAM is ready and no bank of it failed. -/
def cmemMapped (s : State) (t : TileNo) (c : Fin 4) : Bool :=
  !isHole s t && fnReady s (fnSram t) && !(clusterState (mittenEntry s (coreAt t c)) == 2 && bankFail (mittenEntry s (coreAt t c)))

/-- Every byte of [a, a + n) lies in the mapped part of the region (R259). A host address has no hole of the module's. -/
def regionMaps (s : State) (r : Region) (a n : Nat) : Bool :=
  match r with
  | .stack k => fnReady s (fnStack k) && !(getStack s k).withdrawn && decide (a - stackBase k + n ≤ stackMapped)
  | .cmem t c => cmemMapped s t c
  | .port p => fnReady s (fnPort p) && !(getXp s p).withdrawn && decide (a - portBase p + n ≤ (getXp s p).capacity * 2 ^ 28)
  | .host _ => true

/-- The windows in which a whole range lies (R261). -/
def rangeRegion (a n : Nat) : Option Region :=
  match regionOf a with
  | none => none
  | some r => if a + (n - 1) < 2 ^ 56 && regionOf (a + (n - 1)) == some r then some r else none

/-- The link a host address needs is in L0 (R260). -/
def linkUpFor (s : State) (r : Region) : Bool :=
  match r with
  | .host p => (getHp s p).linkUp
  | _ => true

/-! Memory, by byte and by line (R263, R270, R271). -/

/-- The byte at a device address: what was last written; a byte that nothing has written reads as 0 (R272, R350; log 4). -/
def memByte (s : State) (a : Nat) : Byte := tget 0 s.mem a
/-- n bytes from an address. -/
def memBytes (s : State) (a n : Nat) : List Byte := (List.range n).map fun i => memByte s (a + i)
/-- n bytes from an address as one little-endian number (R15). -/
def memNat (s : State) (a n : Nat) : Nat := natOfBytes (memBytes s a n)

/-- Store bytes from an address on, with no regard to poison. -/
def putBytes (s : State) : Nat → List Byte → State
  | _, [] => s
  | a, b :: r => putBytes { s with mem := tput 0 s.mem a b } (a + 1) r

/-- Poison marker of a line of 64 bytes (R271). -/
def linePoison (s : State) (l : Nat) : Bool := tget false s.poison l
def setPoison (s : State) (l : Nat) (v : Bool) : State := { s with poison := tput false s.poison l v }
/-- Some line of the range is poisoned. -/
def rangePoisoned (s : State) (a n : Nat) : Bool :=
  if n = 0 then false else s.poison.any fun e => decide (a / 64 ≤ e.1 ∧ e.1 ≤ (a + n - 1) / 64)

/-- Write zeros over a range, with good check words (R272, R350, R33). -/
def zeroRange (s : State) (a n : Nat) : State :=
  { s with
    mem := s.mem.filter fun c => decide (c.1 < a ∨ a + n ≤ c.1)
    poison := s.poison.filter fun e => decide ((e.1 * 64 < a) ∨ a + n < e.1 * 64 + 64)
    writeback := s.writeback.filter fun e => decide ((e.1 * 64 < a) ∨ a + n < e.1 * 64 + 64) }

/-- Give n bytes free values (R94, R282, R283). -/
def freeBytes (s : State) (a : Nat) : Nat → State
  | 0 => s
  | n + 1 => let (b, s) := freshByte s; freeBytes { s with mem := tput 0 s.mem a b } (a + 1) n

/-- A slow-tier address: a write of part of a poisoned line there is the device's business (R283). -/
def isPortAddr (a : Nat) : Bool := decide (2 ^ 53 ≤ a ∧ a < 2 ^ 54)

/-- The part of one write that falls in line l: the bytes and whether it was stored. A whole line clears the marker; a part of
a poisoned line fails and leaves it poisoned in the fast tier and on the wafer (R270, R271), and in the slow tier stores the bytes,
with the marker left or cleared as the device will (R283). -/
def writeLine (s : State) (l a : Nat) (bs : List Byte) : State × Bool :=
  let lo := max a (l * 64)
  let hi := min (a + bs.length) (l * 64 + 64)
  let part := (bs.drop (lo - a)).take (hi - lo)
  let s' : State := { s with writeback := tput false s.writeback l false }
  if !linePoison s l then (putBytes s' lo part, true)
  else if hi - lo = 64 then (putBytes (setPoison s' l false) lo part, true)
  else if isPortAddr a then
    let (keep, s') := freshBool s'
    let s' := if keep then s' else setPoison (freeBytes s' (l * 64) 64) l false
    (putBytes s' lo part, true)
  else (s, false)

/-- A write of bytes: each line in turn; false when some line failed as poisoned (R270). -/
def writeMem (s : State) (a : Nat) (bs : List Byte) : State × Bool :=
  if bs = [] then (s, true)
  else
    let first := a / 64
    let count := (a + bs.length - 1) / 64 - first + 1
    (List.range count).foldl
      (fun (acc : State × Bool) i => let r := writeLine acc.1 (first + i) a bs; (r.1, acc.2 && r.2)) (s, true)

/-- A write whose failure its rule does not report. -/
def storeMem (s : State) (a : Nat) (bs : List Byte) : State := (writeMem s a bs).1

/-! Access checks (R259 to R261, R348, R349). -/

/-- The rights of an address-range entry (R347, R362). -/
inductive Right where
  | read | write | add
  deriving DecidableEq, Repr

def entryBase (e : BitVec 128) : Nat := bits e.toNat 0 56
def entryLast (e : BitVec 128) : Nat := bits e.toNat 64 56
def entryValid (e : BitVec 128) : Bool := e.toNat.testBit 123
def entryGrants (e : BitVec 128) : Right → Bool
  | .read => e.toNat.testBit 120
  | .write => e.toNat.testBit 121
  | .add => e.toNat.testBit 122

/-- A single valid entry of the context covers the range with the right (R348). -/
def entryCovers (s : State) (ctx : CtxNo) (rt : Right) (a n : Nat) : Bool :=
  (getCtx s ctx).bound && (getCtx s ctx).ranges.any fun e =>
    entryValid e.2 && entryGrants e.2 rt && decide (entryBase e.2 ≤ a ∧ a + n ≤ entryLast e.2 + 1)

/-- Page number of an on-wafer SRAM address (R349), and the first page of a cluster memory. -/
def pageOf (a : Nat) : Nat := (a - 2 ^ 50) / 2 ^ 20
/-- Every page the range touches is allocated to the context (R349); ranges off the wafer touch none. -/
def pagesOk (s : State) (ctx : CtxNo) (a n : Nat) : Bool :=
  match regionOf a with
  | some (.cmem _ _) =>
    (List.range (pageOf (a + n - 1) - pageOf a + 1)).all fun i => tget 0 s.pages (pageOf a + i) == ctx.toNat + 1
  | _ => true

/-- Range checks of a transfer at its source: one region, a right, the pages (R261, R348, R349). -/
def rangeOk (s : State) (ctx : CtxNo) (rt : Right) (a n : Nat) : Bool :=
  n == 0 || ((rangeRegion a n).isSome && entryCovers s ctx rt a n && pagesOk s ctx a n)

/-- The completion statuses of R327. -/
def stOk : BitVec 8 := 0x00
def stOpcode : BitVec 8 := 0x01
def stReserved : BitVec 8 := 0x02
def stFormat : BitVec 8 := 0x03
def stStage : BitVec 8 := 0x04
def stShape : BitVec 8 := 0x05
def stParam : BitVec 8 := 0x06
def stSeed : BitVec 8 := 0x07
def stRange : BitVec 8 := 0x08
def stCore : BitVec 8 := 0x09
def stOperandStore : BitVec 8 := 0x0A
def stPhaseMap : BitVec 8 := 0x0B
def stStalePhase : BitVec 8 := 0x0C
def stStaleStep : BitVec 8 := 0x0D
def stLossScale : BitVec 8 := 0x0E
def stPalmSpace : BitVec 8 := 0x0F
def stPalm : BitVec 8 := 0x10
def stPalmSeq : BitVec 8 := 0x11
def stOverlap : BitVec 8 := 0x12
def stDispatchIncomplete : BitVec 8 := 0x13
def stTimeout : BitVec 8 := 0x20
def stSkipped : BitVec 8 := 0x21
def stReset : BitVec 8 := 0x22
def stCoreFault : BitVec 8 := 0x23
def stNotOwner : BitVec 8 := 0x24
def stAbsorbed : BitVec 8 := 0x25
def stUnreachable : BitVec 8 := 0x26
def stPoisoned : BitVec 8 := 0x27
def stWithdrawn : BitVec 8 := 0x28
def stRedMismatch : BitVec 8 := 0x29
def stRedTimeout : BitVec 8 := 0x2A
def stLinerSpace : BitVec 8 := 0x2B
def stLiner : BitVec 8 := 0x2C
def stSparseMeta : BitVec 8 := 0x2D
def stSparseOverfull : BitVec 8 := 0x2E
def stDispatchMismatch : BitVec 8 := 0x2F
def stReceiveSpace : BitVec 8 := 0x30
def stRouteRecord : BitVec 8 := 0x31

/-- Fabric statuses as completion statuses (R145, R327). -/
def ofFabric (n : Nat) : BitVec 8 :=
  match n with
  | 1 => stNotOwner | 2 => stAbsorbed | 3 => stUnreachable | 4 => stRedMismatch | 5 => stRedTimeout
  | 6 => stPoisoned | 7 => stWithdrawn | _ => stOk

/-- What the serving side of an access from a tile answers, apart from the context's checks: a hole of the map (R259), no path (R151),
a host link that is down (R260), poisoned data on a read (R270). -/
def serveStatus (s : State) (src : TileNo) (isRead : Bool) (a n : Nat) : Option (BitVec 8) :=
  if n = 0 then none
  else match rangeRegion a n with
    | none => some stWithdrawn
    | some r =>
      if !regionMaps s r a n then some stWithdrawn
      else if !reachable s src (regionTile r) then some stUnreachable
      else if !linkUpFor s r then some stUnreachable
      else if isRead && rangePoisoned s a n then some stPoisoned
      else none

/-- The status with which a context's transfer fails, if it fails (R94): its own checks first, then the serving side. -/
def transferStatus (s : State) (src : TileNo) (ctx : CtxNo) (rt : Right) (a n : Nat) : Option (BitVec 8) :=
  if rangeOk s ctx rt a n then serveStatus s src (rt == .read) a n else some stRange

/-- A context's write: the check, then the bytes; a poisoned line that the write covers in part fails it (R270). -/
def writeFor (s : State) (src : TileNo) (ctx : CtxNo) (a : Nat) (bs : List Byte) : State × Option (BitVec 8) :=
  match transferStatus s src ctx .write a bs.length with
  | some st => (s, some st)
  | none => let r := writeMem s a bs; (r.1, if r.2 then none else some stPoisoned)

/-- An indivisible 64-bit add (R262): the word's old value, or none where its line is poisoned (R271). -/
def addWord (s : State) (a : Nat) (v : Word64) : State × Option Word64 :=
  if rangePoisoned s a 8 then (s, none)
  else
    let old : Word64 := BitVec.ofNat 64 (memNat s a 8)
    (storeMem s a (bytesOf 8 (old + v).toNat), some old)

/-- A tally lies in the fast tier or on-wafer SRAM, 8-byte aligned (R329, R262). -/
def tallyOk (a : Nat) : Bool :=
  a % 8 == 0 && (match regionOf a with | some (.stack _) => true | some (.cmem _ _) => true | _ => false)

/-! Rings (R303, R306). -/

def Ring.base (r : Ring) : Nat := bits r.entry.toNat 0 56
def Ring.headWb (r : Ring) : Nat := bits r.entry.toNat 64 56
def Ring.log2 (r : Ring) : Nat := bits r.entry.toNat 128 5
def Ring.kind (r : Ring) : Nat := bits r.entry.toNat 133 2
def Ring.enabled (r : Ring) : Bool := r.entry.toNat.testBit 135
def Ring.ctx (r : Ring) : CtxNo := r.entry.extractLsb' 136 16
def Ring.dbSlot (r : Ring) : Nat := bits r.entry.toNat 152 9
def Ring.link (r : Ring) : Nat := bits r.entry.toNat 161 20
def Ring.home (r : Ring) : HostPort := Fin.ofNat 4 (bits r.entry.toNat 181 2)
def Ring.gateStop (r : Ring) : Bool := r.entry.toNat.testBit 183
def Ring.msixEn (r : Ring) : Bool := r.entry.toNat.testBit 192
def Ring.msixPort (r : Ring) : HostPort := Fin.ofNat 4 (bits r.entry.toNat 193 2)
def Ring.msixVec (r : Ring) : Nat := bits r.entry.toNat 195 11
def Ring.holdoffUs (r : Ring) : Nat := bits r.entry.toNat 208 16
/-- Entries of the ring. -/
def Ring.size (r : Ring) : Nat := 2 ^ r.log2
/-- Bytes of an entry by kind: SUBMIT, COMPLETE, EVENT (R301), EXPORT (R384). -/
def ringEntryBytes (kind : Nat) : Nat :=
  match kind with | 0 => 64 | 1 => 32 | 2 => 64 | _ => 8320
/-- Entries the ring holds (R306). -/
def Ring.count (r : Ring) : Nat := (r.tail - r.head).toNat
/-- Address of the entry with a running index. -/
def Ring.slotAddr (r : Ring) (i : BitVec 32) : Nat := r.base + (i.toNat % r.size) * ringEntryBytes r.kind
/-- The pass of a running index (R306). -/
def Ring.pass (r : Ring) (i : BitVec 32) : Bool := i.toNat.testBit r.log2

/-- What an access of the ring unit to [a, a + n) meets, in the entries now in force (R302, R328, R348): RANGE, WITHDRAWN, UNREACHABLE, which in
host memory a link that is not in L0 gives, or POISONED. -/
def ringAccess (s : State) (r : Ring) (rt : Right) (a n : Nat) : Option (BitVec 8) :=
  if !((rangeRegion a n).isSome && entryCovers s r.ctx rt a n && pagesOk s r.ctx a n) then some stRange
  else serveStatus s (hostTile r.home) (rt == .read) a n

/-! MSI-X (R335). -/

/-- Send the vector of a ring, or note that a holdoff keeps it (R335); a message whose port is down is lost, and a masked vector's is pending. -/
def raiseMsix (s : State) (rn : Nat) : State :=
  let r := getRing s rn
  if !r.msixEn then s
  else if r.holdoff then setRing s rn { r with holdoffDue := true }
  else if !(getHp s r.msixPort).linkUp || !(getHp s r.msixPort).msixOn then s
  else if (getHp s r.msixPort).msixMasked.contains r.msixVec then
    if s.msixPending.contains (r.msixPort, r.msixVec) then s else { s with msixPending := s.msixPending ++ [(r.msixPort, r.msixVec)] }
  else
    let s := { s with msix := (r.msixPort, r.msixVec) :: s.msix }
    setRing s rn { r with holdoff := decide (0 < r.holdoffUs) }

/-! Events (R333) and Weala's event log (R510). -/

/-- An event: its code, the partition and context it concerns, whom it is for, and its arguments. `only` narrows the tenants
to contexts its owning rule names. -/
structure Event where
  code : Nat
  part : Option PartNo := none
  ctx : CtxNo := 0
  tenants : Bool := false
  everyone : Bool := false
  platform : Bool := true
  only : Option (List CtxNo) := none
  args : List Nat := []

/-- The 64-byte record (R333). -/
def eventRecord (s : State) (ev : Event) (pass : Bool) (seq : Word64) : Nat :=
  let argWord (i : Nat) : Nat := place (ev.args.getD i 0) (192 + 64 * i) 64
  place ev.code 0 16 + place (quality s).toNat 16 4 + place (if pass then 1 else 0) 20 1
    + place (match ev.part with | some p => p.val | none => 0x7F) 24 7 + place ev.ctx.toNat 32 16
    + place (now s).toNat 64 64 + place seq.toNat 128 64
    + argWord 0 + argWord 1 + argWord 2 + argWord 3 + argWord 4

/-- Enter an event in Weala's log (R510): the oldest entry is overwritten, and counted when it had not been consumed. -/
def logEvent (s : State) (ev : Event) : State :=
  if !s.weala.running then s
  else
    let w := s.weala
    let n := w.evWr
    let rec512 : BitVec 512 := BitVec.ofNat 512 (eventRecord s ev (n.toNat.testBit 12) n)
    let full := decide ((n.extractLsb' 0 32 - w.evRd).toNat ≥ 4096)
    { s with weala := { w with
        evLog := tput 0 w.evLog (n.toNat % 4096) rec512
        evWr := n + 1
        evLost := if full then satInc w.evLost else w.evLost } }

/-- The ring is the platform owner's EVENT ring in force (R339). -/
def isPlatformRing (s : State) (rn : Nat) : Bool :=
  s.setup.platformEvent.toNat.testBit 20 && (s.setup.platformEvent.toNat % 2 ^ 20 == rn)

/-- The event is for the EVENT ring `rn` (R333, R339, R344): its context is concerned, or it is the platform owner's,
or its context is the delegate of the partition concerned. -/
def eventFor (s : State) (ev : Event) (rn : Nat) (r : Ring) : Bool :=
  r.enabled && r.kind == 2 &&
  ((ev.platform && isPlatformRing s rn) ||
   ((getCtx s r.ctx).bound &&
    (ev.everyone ||
     (match ev.part with
      | none => false
      | some p =>
        (ev.tenants && (getCtx s r.ctx).part == p && (match ev.only with | none => true | some l => l.contains r.ctx)) ||
        ((ev.platform || ev.tenants) && (getPart s p).valid && (getPart s p).entry.toNat.testBit 88
          && bits (getPart s p).entry.toNat 72 16 == r.ctx.toNat)))))

/-- Write the event to one EVENT ring, or lose it when the ring is full or cannot be written; SEQ counts it either way. The
second part of the answer is the cause when the ring becomes FAULTED (R328). -/
def putEvent (s : State) (ev : Event) (rn : Nat) : State × Option (BitVec 8) :=
  let r := getRing s rn
  let seq := r.eventSeq
  let r' := { r with eventSeq := seq + 1 }
  if r.state != .active || r.count ≥ r.size then (setRing s rn r', none)
  else
    match ringAccess s r .write (r.slotAddr r.tail) 64 with
    | some st => (setRing s rn { r' with state := .faulted, fault := st }, some st)
    | none =>
      let w := writeMem s (r.slotAddr r.tail) (bytesOf 64 (eventRecord s ev (r.pass r.tail) seq))
      if w.2 then (raiseMsix (setRing w.1 rn { r' with tail := r.tail + 1 }) rn, none)
      else (setRing w.1 rn { r' with state := .faulted, fault := stPoisoned }, some stPoisoned)

/-- Deliver an event (EVENT_DELIVERY): to Weala's log when the platform owner is a recipient, and to every EVENT ring it is for.
A ring that fails becomes FAULTED, which is an event of its own (RING_FAULT, R328); `fuel` bounds how many can. -/
def deliver : Nat → State → Event → State
  | 0, s, ev => if ev.platform then logEvent s ev else s
  | fuel + 1, s, ev =>
    let s := if ev.platform then logEvent s ev else s
    s.rings.foldl
      (fun s e =>
        let g := getRing s e.1
        if eventFor s ev e.1 g then
          let r := putEvent s ev e.1
          match r.2 with
          | none => r.1
          | some st => deliver fuel r.1 { code := 0x0003, part := some (getCtx s g.ctx).part, ctx := g.ctx, args := [e.1, st.toNat] }
        else s) s

/-- Raise an event; THROTTLE, DOMAIN_FAULT and SHUTDOWN_PENDING go to the registered PLDM receiver too (R480). -/
def raise (s : State) (ev : Event) : State :=
  let s := deliver (s.rings.length + 1) s ev
  if ev.code == 0x0062 || ev.code == 0x0063 || ev.code == 0x0068 then platformMessage s ev.code (ev.args.getD 0 0) else s

/-- SETUP_REFUSED (R334): the register's BAR0 offset; the spec numbers no reasons, so the reason is a free value (log 9). -/
def setupRefused (s : State) (offset : Nat) : State :=
  let (w, s) := freshWord s
  raise s { code := 0x0043, args := [offset, w.toNat] }

/-! Faulting a ring, completion records, the header signal. -/

/-- A ring becomes FAULTED (R328): the SUBMIT rings that link to a COMPLETE ring stop reading; its waiting records are discarded. -/
def faultRing (s : State) (rn : Nat) (st : BitVec 8) : State :=
  let r := getRing s rn
  let s := setRing s rn { r with state := .faulted, fault := st }
  let s := if r.kind == 1 then
      { s with rings := tmap {} (fun _ x => if x.enabled && x.kind == 0 && x.link == rn then { x with stopped := true } else x) s.rings }
    else s
  raise s { code := 0x0003, part := some (getCtx s r.ctx).part, ctx := r.ctx, args := [rn, st.toNat] }

/-- The completion record of an outcome (R325). -/
def completionRecord (o : Outcome) (pass : Bool) (seq : Word64) : Nat :=
  place o.task.index.toNat 0 32 + place o.task.ring.toNat 32 20 + place o.quality.toNat 52 4 + place o.status.toNat 56 8
    + place o.time.toNat 64 64 + place o.task.step.toNat 128 32 + place (if o.census then 1 else 0) 160 1
    + place (if pass then 1 else 0) 161 1 + place o.task.opcode 168 8 + place o.detail.toNat 176 16 + place seq.toNat 192 64

/-- The same descriptor, by the ring and the index it was read from, and by which of the ring's lives it belongs to (R325, log 61). -/
def sameTask (a b : Task) : Bool := a.ring == b.ring && a.index == b.index && a.serial == b.serial

/-- Choose the next slot of a core whose sequencer is free: in cyclic order after the one it last ran, among READY slots (R85). DESIGN CHOICE
(log 62): while no slot has run yet the order starts at slot 0. -/
def reschedule (c : Core) : Core :=
  match c.current with
  | some _ => c
  | none =>
    let start : Nat := match c.lastRan with | some k => k.val + 1 | none => 0
    let order : List SlotNo := (List.range 4).map fun i => Fin.ofNat 4 (start + i)
    match order.find? fun k => (tget {} c.slots k.val).state == .ready with
    | none => c
    | some k =>
      { c with current := some k, lastRan := some k, minRun := false, sliceDone := false
               slots := tput {} c.slots k.val { tget {} c.slots k.val with state := .running } }

/-- The slot no longer owns the sequencer (R85). -/
def leaveSequencer (c : Core) (k : SlotNo) : Core :=
  if c.current == some k then { c with current := none, minRun := false, sliceDone := false } else c

/-- Empty a slot of a core and give the sequencer to the next READY slot (R83, R85). -/
def freeSlot (c : Core) (k : SlotNo) : Core :=
  reschedule { leaveSequencer c k with slots := tput {} c.slots k.val {} }

/-- Active operations leave a Cuff; the turn stays with the same place among the others (R238). -/
def dropActive (c : Cuff) (gone : CuffOp → Bool) : Cuff :=
  { c with active := c.active.filter (fun o => !gone o), turn := ((c.active.take c.turn).filter fun o => !gone o).length }

/-- A record has been written or discarded: its executing unit gives up the slot or entry it kept, and the ring counts it done
(R313, R326). -/
def releaseHolder (s : State) (t : Task) : State :=
  let r := getRing s t.ring.toNat
  let s := setRing s t.ring.toNat { r with open_ := r.open_.filter (· != t.index) }
  let held (c : Core) : Bool := c.slots.any fun sl => sl.2.recordHeld && (match sl.2.task with | some u => sameTask u t | none => false)
  let freeHeld (c : Core) : Core :=
    (List.finRange 4).foldl
      (fun c k => let sl := tget {} c.slots k.val
        if sl.recordHeld && (match sl.task with | some u => sameTask u t | none => false) then freeSlot c k else c) c
  let s := { s with cores := tmap {} (fun _ c => if held c then freeHeld c else c) s.cores }
  let cuffFree (c : Cuff) : Cuff := dropActive c fun o => o.recordHeld && sameTask o.task t
  let s := { s with cuffs := tmap {} (fun _ c => cuffFree c) s.cuffs }
  let stFree (ti : Tile) : Tile :=
    match ti.station.running with
    | some run => if run.recordHeld && sameTask run.task t then { ti with station := { ti.station with running := none } } else ti
    | none => ti
  { s with tiles := tmap {} (fun _ x => stFree x) s.tiles }

/-- Write one outcome at the tail of its COMPLETE ring (COMPLETION_WRITE), or discard it where that ring is not in service (R305,
R328). False: the ring is full and the outcome waits. -/
def writeOutcome (s : State) (o : Outcome) : State × Bool :=
  let link := (getRing s o.task.ring.toNat).link
  let r := getRing s link
  if !r.enabled || r.state != .active then (releaseHolder s o.task, true)
  else if r.count ≥ r.size then (s, false)
  else
    match ringAccess s r .write (r.slotAddr r.tail) 32 with
    | some st => (releaseHolder (faultRing s link st) o.task, true)
    | none =>
      let cx := getCtx s r.ctx
      let w := writeMem s (r.slotAddr r.tail) (bytesOf 32 (completionRecord o (r.pass r.tail) cx.seq))
      if !w.2 then (releaseHolder (faultRing w.1 link stPoisoned) o.task, true)
      else
        let s := setRing w.1 link { r with tail := r.tail + 1 }
        let s := setCtx s r.ctx { cx with seq := cx.seq + 1 }
        let s := if o.task.irq then raiseMsix s link else s
        (releaseHolder s o.task, true)

/-- Write the outcomes that wait for room in a COMPLETE ring, oldest first, while there is room (R326). -/
def drainWaiting (s : State) (rn : Nat) : Nat → State
  | 0 => s
  | n + 1 =>
    match (getRing s rn).waiting with
    | [] => s
    | o :: rest =>
      let w := writeOutcome s o
      if w.2 then
        let r := getRing w.1 rn
        drainWaiting (setRing w.1 rn { r with waiting := rest }) rn n
      else s

/-- The tile of the unit that executes a descriptor (R316). -/
def taskTile (s : State) (t : Task) : TileNo :=
  match t.tkind with
  | 1 => coreTile (Fin.ofNat 256 t.tindex)
  | 2 => if t.tindex < 32 then stackTile (Fin.ofNat 32 t.tindex) else portTile (Fin.ofNat 8 (t.tindex - 32))
  | 3 => Fin.ofNat 64 t.tindex
  | 4 => cornerTile (getPart s t.part)
  | _ => hostTile (getRing s t.ring.toNat).home

/-- The header signal (R315, R329): added by ADD_REQ on OK under SIG_MODE 1, whatever the status under 2. True: it was made or none
was due; false: it failed. -/
def headerSignal (s : State) (t : Task) (st : BitVec 8) : State × Bool :=
  if !(t.sigMode == 2 || (t.sigMode == 1 && st == stOk)) then (s, true)
  else
    let a := t.sigAddr
    if !tallyOk a then (s, false)
    else match transferStatus s (taskTile s t) t.ctx .add a 8 with
      | some _ => (s, false)
      | none => let r := addWord s a t.sigValue; (r.1, r.2.isSome)

/-- An outcome is decided (TASK_COMPLETE): the header signal, then the record, or its place in the queue of a full COMPLETE ring
(R325, R326). True: the record still waits. -/
def outcome (s : State) (t : Task) (st : BitVec 8) (detail : BitVec 16) (census : Bool) (time : Word64) (q : BitVec 4) : State × Bool :=
  let sig := headerSignal s t st
  let o : Outcome :=
    { task := t, status := st, detail := if sig.2 then detail else 0xFFFF, time := time, quality := q, census := census }
  let link := (getRing sig.1 t.ring.toNat).link
  let r := getRing sig.1 link
  if r.enabled && r.state == .active && !r.waiting.isEmpty then (setRing sig.1 link { r with waiting := r.waiting ++ [o] }, true)
  else
    let w := writeOutcome sig.1 o
    if w.2 then (w.1, false)
    else
      let r := getRing w.1 link
      (setRing w.1 link { r with waiting := r.waiting ++ [o] }, true)

/-- Complete a descriptor that holds no slot or entry, now. -/
def complete (s : State) (t : Task) (st : BitVec 8) : State := (outcome s t st 0 t.census (now s) (quality s)).1

/-- Which partitions share a link may have changed: where QUIET is in force its slot tables are worked out anew (R155, R178). -/
def requiet (s : State) : State := if s.parts.any fun e => e.2.quietTables then { s with quietDue := true } else s

/-- Put packets into the mesh. -/
def send (s : State) (ps : List Packet) : State := { s with packets := s.packets ++ ps }

/-- An admission failure: the lowest status among the checks that failed, and the lowest byte offset among those fields (R325,
R327). -/
def admissionFailure (fails : List (BitVec 8 × Nat)) : Option (BitVec 8 × BitVec 16) :=
  match fails with
  | [] => none
  | f :: rest =>
    let st := rest.foldl (fun m e => if e.1.toNat < m.toNat then e.1 else m) f.1
    let off := (fails.filter fun e => e.1 == st).foldl (fun m e => min m e.2) 0xFFFF
    some (st, BitVec.ofNat 16 off)

/-- End a descriptor at admission, with nothing done but its header signal under SIG_MODE 2 (R327). -/
def rejectTask (s : State) (t : Task) (st : BitVec 8) (detail : BitVec 16) : State :=
  (outcome s t st detail false (now s) (quality s)).1

/-- The bytes of [a, a + n) that none of the ranges `kept` covers are left undefined (R94). -/
def spoilRange (kept : List (Nat × Nat)) (a : Nat) : Nat → State → State
  | 0, s => s
  | n + 1, s =>
    let s := spoilRange kept a n s
    if kept.any fun r => decide (r.1 ≤ a + n ∧ a + n < r.1 + r.2) then s else freeBytes s (a + n) 1

/-- What a failure under R94 leaves undefined: the destination data of the task that stands in mapped memory and has not been stored. -/
def spoilDest (s : State) (sl : Slot) : State :=
  if !sl.spoilt then s
  else sl.dest.foldl
    (fun s r => match rangeRegion r.1 r.2 with
      | some g => if regionMaps s g r.1 r.2 then spoilRange sl.stored r.1 r.2 s else s
      | none => s) s

/-- Stores of a slot that are not over: tags, requests without a tag, output that waits, an allocation asked for (R92, R94, R108). -/
def storesOut (c : Core) (k : SlotNo) : Bool :=
  let sl := tget {} c.slots k.val
  !sl.storeTags.isEmpty || !sl.outs.isEmpty || sl.adding.isSome || c.storeQueue.any fun e => e.1 == k

/-- The fetches of a slot are cancelled (R94): requests are dropped, and tags whose data have not all come keep their numbers until the
responses have. -/
def cancelFetches (c : Core) (k : SlotNo) : Core :=
  let sl := tget {} c.slots k.val
  { c with
    fetchQueue := c.fetchQueue.filter fun e => e.1 != k
    cancelled := c.cancelled ++ sl.fetchTags.filter fun f => f.left != 0
    slots := tput {} c.slots k.val { sl with fetchTags := [], toFetch := [], transfer := [], landed := [], ahead := false, swapPending := false } }

/-- The record of a slot's ended task is due (R94, R325): what R94 leaves undefined first, then the outcome; the slot is free once the record is
written, and until then it is LATE (log 60). -/
def recordSlot (s : State) (c : CoreNo) (k : SlotNo) (t : Task) (sl : Slot) : State :=
  let s := spoilDest s sl
  let co := getCore s c
  let s := setCore s c { co with slots := tput {} co.slots k.val { sl with recordHeld := true, state := .late } }
  let o := outcome s t sl.status sl.detail t.census (now s) (quality s)
  if o.2 then setCore o.1 c (reschedule (getCore o.1 c)) else setCore o.1 c (freeSlot (getCore o.1 c) k)

/-- End the task of a slot: at once when none of its stores is outstanding, else when the last one completes (R94). Its outstanding
fetches are cancelled, and the sequencer leaves it (R85). -/
def endSlot (s : State) (c : CoreNo) (k : SlotNo) (st : BitVec 8) (detail : BitVec 16) : State :=
  match (getSlot s c k).task with
  | none => s
  | some t =>
    let co := cancelFetches (leaveSequencer (getCore s c) k) k
    let sl := { tget {} co.slots k.val with ended := true, status := st, detail := detail, state := .late }
    let s' := setCore s c { co with slots := tput {} co.slots k.val sl }
    if storesOut co k then setCore s' c (reschedule (getCore s' c)) else recordSlot s' c k t sl

/-! Functions. -/

/-- A function changes state: the time is recorded (R405). -/
def setFn (s : State) (f : Nat) (st : Nat) : State :=
  if fnState s f == st then s
  else { s with fns := tput {} s.fns f { state := BitVec.ofNat 3 st, quality := quality s, time := now s } }

/-- How many functions are in a state. -/
def countFns (s : State) (st : Nat) : Nat := ((List.range 366).filter fun f => fnState s f == st).length

/-- The module becomes READY once no other function is NOT_STARTED or RUNNING (START_DONE, R404). -/
def settleModule (s : State) : State :=
  if fnReady s fnModule then s
  else if (List.range 366).any fun f => fnState s f ≤ 1 then s
  else
    let s := setFn s fnModule 3
    raise s { code := 0x0070, args := [countFns s 3, countFns s 4, countFns s 5] }

/-- A unit is inside a running reset or cluster-wide change, between steps 1 and 6 (R357). -/
def resettingCore (s : State) (c : CoreNo) : Bool :=
  s.resets.any (fun r =>
    if r.level.val = 0 then r.target.toNat == c.val
    else if r.level.val = 1 then r.target.toNat == c.val
    else if r.level.val = 2 then partHasTile s (Fin.ofNat 64 r.target.toNat) (coreTile c)
    else true)
def resettingPart (s : State) (p : PartNo) : Bool :=
  s.resets.any fun r => (r.level.val = 2 && r.target.toNat == p.val) || r.level.val = 3
/-- A segment change of the core is in progress: descriptors for it are held (R43). -/
def changingCore (s : State) (c : CoreNo) : Bool := s.changes.any fun m => m.core == c
/-- A Cuff's owner (R316). -/
def cuffOwner (s : State) (n : CuffNo) : Option PartNo :=
  if h : n.val < 32 then stackOwner s ⟨n.val, h⟩ else portOwner s (Fin.ofNat 8 (n.val - 32))

/-- One edge of CK_TB with no command waiting (log 1): the counter advances by 2^-30 s, four units of its word (R367, R368). -/
def idleTick (s : State) : State :=
  if s.tb.running then { s with tb := { s.tb with now := s.tb.now + 4 } } else s

/-- BAR0 can be reached through the port (R485), and the block takes writes while a module reset is not between steps 1 and 4 (R491);
MG, EV and PW take them throughout. -/
def bar0Open (s : State) (p : HostPort) (always : Bool) : Bool :=
  (getHp s p).linkUp && (always || !(s.resets.any fun r => r.level.val = 3 && r.step ≤ 4))

end Sys2Proof.Machine
end

