-- ==== Sys2Proof/Machine/Admission.lean ====
section
/-!
DEFINITION. The checks of a descriptor (R227, R315 to R317, R327): those of the ring unit, and those that every target makes.
A failed check is a status with the byte offset of its field.
-/
namespace Sys2Proof.Machine
open Sys2Proof

/-- A failed check: its status and the byte offset of its field (R325). -/
abbrev Fail := BitVec 8 × Nat

/-- The failure, where the check does not hold. -/
def need (ok : Bool) (st : BitVec 8) (off : Nat) : List Fail := if ok then [] else [(st, off)]

/-- Bits [lo, lo + n) must be 0 (R16, R315). -/
def mustBeZero (t : Task) (lo n : Nat) : List Fail := need (t.f lo n == 0) stReserved (lo / 8)

/-- The reserved gaps between the fields of a layout, listed in ascending order, up to bit `stop`: each gap is a field of its own. -/
def gapFails (t : Task) (stop : Nat) : Nat → List (Nat × Nat) → List Fail
  | from_, [] => if from_ < stop then mustBeZero t from_ (stop - from_) else []
  | from_, (lo, n) :: r => (if from_ < lo then mustBeZero t from_ (lo - from_) else []) ++ gapFails t stop (max from_ (lo + n)) r

/-- The body check up to bit `stop`: the gaps from bit 256 on, and each field whose third part says the form does not use it. -/
def bodyFailsTo (t : Task) (stop : Nat) (fields : List (Nat × Nat × Bool)) : List Fail :=
  gapFails t stop 256 (fields.map fun f => (f.1, f.2.1))
    ++ fields.flatMap fun f => if f.2.2 then [] else mustBeZero t f.1 f.2.1

/-- The body check of the whole descriptor. -/
def bodyFails (t : Task) (fields : List (Nat × Nat × Bool)) : List Fail := bodyFailsTo t ((1 + t.cont) * 512) fields

/-- A timeout of R315: 0 for the default, else 1 to 60,000,000. -/
def timeoutOk (t : Task) : Bool := decide (t.f 96 32 ≤ 60000000)

/-- The ring unit's checks (R327, first part). -/
def ringUnitFails (s : State) (t : Task) : List Fail :=
  match t.op with
  | none => [(stOpcode, 0)]
  | some op =>
    let sigUsed := t.sigMode == 1 || t.sigMode == 2
    let header : List Fail :=
      need (op.conts.contains t.cont) stReserved 1
        ++ need (t.sigMode ≠ 3 && (op ≠ .signal || sigUsed)) stReserved 1
        ++ need (!t.bwd || op.bwdAllowed) stReserved 1
        ++ need (!t.saturate || op.usesSaturate) stReserved 1
        ++ need (!t.dbuf || op == .gauntlet) stReserved 2
        ++ mustBeZero t 17 1
        ++ need (op.footprintOk t.footprint) stReserved 2
        ++ need (op.tkinds.contains t.tkind) stReserved 4
        ++ mustBeZero t 36 4
        ++ need (op.usesMapGen || t.mapGen == 0) stReserved 5
        ++ mustBeZero t 56 8
        ++ need (timeoutOk t) stReserved 12
        ++ need (sigUsed || t.f 128 56 == 0) stReserved 16
        ++ mustBeZero t 184 8
        ++ need (sigUsed || t.sigValue == 0) stReserved 24
    let corner := cornerTile (getPart s t.part)
    let target : List Fail :=
      match t.tkind with
      | 0 => need (t.tindex == 0) stParam 3
      | 1 =>
        let c : CoreNo := Fin.ofNat 256 t.tindex
        need (partHasTile s t.part (coreTile c)) stParam 3 ++ need (coreAvailable s c) stCore 3
      | 2 =>
        need (decide (t.tindex < 40) && cuffOwner s (Fin.ofNat 40 t.tindex) == some t.part
          && (op ≠ .promote || decide (t.tindex < 32)) && (op ≠ .drain || decide (32 ≤ t.tindex))) stParam 3
      | 3 => need (decide (t.tindex < 64) && partHasTile s t.part (Fin.ofNat 64 t.tindex)) stParam 3
      | 4 => need (t.tindex == 0) stParam 3 ++ need (!isHole s corner) stCore 3
      | _ => []
    header ++ target

/-- How a descriptor's STEP stands to CUR where it reaches its unit (R227). -/
inductive StepWhen where
  | now | previous | next | other
  deriving DecidableEq, Repr

def stepWhen (p : Partition) (st : BitVec 32) : StepWhen :=
  if st == p.cur then .now
  else if st == p.cur - 1 then .previous
  else if st == p.cur + 1 then .next
  else .other

/-- A task at its admission: late where its unit has the close mark of its step (R230). -/
def admitMark (s : State) (t : Task) : Task :=
  let p := getPart s t.part
  { t with late := t.late || (p.closing.isSome && t.step == p.cur) }

/-- Checks every target makes on the header: the step (R227) and the tally of the header signal (R329, R262). -/
def headerFails (s : State) (t : Task) : List Fail :=
  need (stepWhen (getPart s t.part) t.step ≠ .other) stStaleStep 8
    ++ (if t.sigMode == 1 || t.sigMode == 2 then need (tallyOk t.sigAddr) stParam 16 else [])

/-- The body of NOP and SIGNAL: none (R318). -/
def emptyBody (t : Task) : List Fail := bodyFails t []

/-- The checks of WAIT (R318, R329): its tally's place and alignment, and the right to read it. -/
def waitFails (s : State) (t : Task) : List Fail :=
  bodyFails t [(256, 56, true), (320, 64, true)] ++ headerFails s t
    ++ need (tallyOk (t.addr 256)) stParam 32
    ++ need (rangeOk s t.ctx .read (t.addr 256) 8) stRange 32

/-- The checks of TIMED: NOT_BEFORE no more than 60 s ahead (R318, R330). -/
def timedFails (s : State) (t : Task) : List Fail :=
  bodyFails t [(256, 64, true)] ++ headerFails s t
    ++ need (decide (t.f 256 64 ≤ (now s).toNat + 60 * 2 ^ 32)) stParam 32

/-- What R191 makes of a descriptor that carries MAP_GEN, where it reaches its unit. -/
inductive GenWhen where
  | run | hold | noMap | stale
  deriving DecidableEq, Repr

/-- The next generation (R191): that of the pending PHASE while GEN is 0. -/
def nextGen (p : Partition) : Nat :=
  if p.gen == 0 then
    match p.phases with
    | [] => 1
    | ph :: _ => ph.task.mapGen
  else (p.gen + 1).toNat % 2 ^ 16

/-- The table of R191. -/
def genWhen (p : Partition) (mapGen : Nat) (afterMark : Bool) : GenWhen :=
  if mapGen == p.gen.toNat % 2 ^ 16 then
    if p.gen == 0 then .noMap else if afterMark then .stale else .run
  else if mapGen == nextGen p then .hold
  else .stale

/-- A generation that is not current and not next is a failure among the target's others (R191, R327). -/
def genFails : GenWhen → List Fail
  | .noMap => [(stPhaseMap, 5)]
  | .stale => [(stStalePhase, 5)]
  | .run | .hold => []

end Sys2Proof.Machine
end

