-- ==== Sys2Proof/Machine/Cores.lean ====
section
/-!
DEFINITION. A core's sequencer and engines (R83 to R94): switches between slots, transfers and their tags and packets, swaps, and the
common start and end of a task's work.
-/
namespace Sys2Proof.Machine
open Sys2Proof

/-! Fields of TL_CORE_CTL (R87). -/
def ctlSlice (c : Core) : Nat := bits c.ctl.toNat 0 16
def ctlSwitch (c : Core) : Bool := c.ctl.toNat.testBit 24

def coreSlot (c : Core) (k : SlotNo) : Slot := tget {} c.slots k.val
def putSlot (c : Core) (k : SlotNo) (v : Slot) : Core := { c with slots := tput {} c.slots k.val v }

/-- A slot other than `k` is READY. -/
def otherReady (c : Core) (k : SlotNo) : Bool := c.slots.any fun e => e.1 != k.val && e.2.state == .ready

/-- The switch conditions of R85, judged for the slot that owns the sequencer. -/
def judge (c : Core) : Core :=
  match c.current with
  | none => reschedule c
  | some k =>
    let sl := coreSlot c k
    if !otherReady c k then c
    else if sl.state == .late && ctlSwitch c && c.minRun then reschedule (leaveSequencer c k)
    else if c.sliceDone && ctlSlice c ≠ 0 then
      let c' := leaveSequencer c k
      reschedule (if sl.state == .running then putSlot c' k { sl with state := .ready } else c')
    else c

/-- Judge a core of the module. -/
def judgeCore (s : State) (n : CoreNo) : State := setCore s n (judge (getCore s n))

/-- SLICE_EXPIRY (R85): the running slot has run for SLICE. -/
def execSliceExpiry (core : CoreNo) (s : State) :=
  finish s <|
    let c := getCore s core
    if c.current.isSome && ctlSlice c ≠ 0 then setCore s core (judge { c with sliceDone := true }) else s

/-- MIN_RUN_EXPIRY (R85): the running slot has run for MIN_RUN. -/
def execMinRunExpiry (core : CoreNo) (s : State) :=
  finish s <|
    let c := getCore s core
    if c.current.isSome then setCore s core (judge { c with minRun := true }) else s

/-- The slot can go on: it resumes in place while it owns the sequencer, and is READY otherwise (R85). -/
def resumeSlot (c : Core) (k : SlotNo) : Core :=
  judge (putSlot c k { coreSlot c k with state := if c.current == some k then .running else .ready })

/-- The tile's CK_CORE is stopped, or the tile is on its way to DOZE or OFF: nothing is admitted and nothing runs (R441, R445, R450). -/
def clockStopped (s : State) (n : CoreNo) : Bool :=
  match (getTile s (coreTile n)).power with
  | .nap | .entering => true
  | _ => false

/-- The slot's task when it owns the sequencer and can issue its next instruction; a unit that is resetting issues none (R357). -/
def runningTask (s : State) (n : CoreNo) (k : SlotNo) (op : Op) : Option Task :=
  let sl := getSlot s n k
  match sl.task with
  | none => none
  | some t => if t.op == some op && sl.state == .running && (getCore s n).current == some k && !sl.ended && !resettingCore s n && !clockStopped s n then some t
    else none

/-- Run a task's next instruction: `work`. -/
def runTask (s : State) (n : CoreNo) (k : SlotNo) (op : Op) (work : State → Task → State) : State :=
  match runningTask s n k op with
  | none => s
  | some t => work s t

/-! Transfers (R92). -/

def Xfer.bytes (x : Xfer) : Nat := x.rows * x.len
/-- Bytes from the first to the last. -/
def Xfer.extent (x : Xfer) : Nat := if x.bytes = 0 then 0 else (x.rows - 1) * x.stride + x.len
/-- The ranges it covers, row by row. -/
def Xfer.ranges (x : Xfer) : List (Nat × Nat) := (List.range x.rows).map fun r => (x.addr + r * x.stride, x.len)
/-- The device address of its byte number o. -/
def Xfer.place (x : Xfer) (o : Nat) : Nat := x.addr + o / x.len * x.stride + o % x.len

/-- A contiguous range in pieces of up to 4 MiB. -/
def rangePieces (a n : Nat) : List (Nat × Nat) :=
  (List.range ((n + 2 ^ 22 - 1) / 2 ^ 22)).map fun i => (a + i * 2 ^ 22, min (2 ^ 22) (n - i * 2 ^ 22))

/-- A block in transfers of up to 4 MiB: whole rows together, a longer row by itself in pieces. -/
def Xfer.pieces (x : Xfer) : List Xfer :=
  if x.bytes = 0 then []
  else if 2 ^ 22 < x.len then (x.ranges.flatMap fun r => rangePieces r.1 r.2).map fun r => { addr := r.1, len := r.2 }
  else
    let q := 2 ^ 22 / x.len
    (List.range ((x.rows + q - 1) / q)).map fun i => { x with addr := x.addr + i * q * x.stride, rows := min q (x.rows - i * q) }

/-- The bytes of some rows. -/
def partsBytes (l : List (Nat × List Byte)) : Nat := (l.map fun e => e.2.length).sum

/-- Rows to store in transfers of up to 4 MiB. -/
def storePieces (l : List (Nat × List Byte)) : List (List (Nat × List Byte)) :=
  let cut := l.flatMap fun e => (rangePieces e.1 e.2.length).map fun r => (r.1, (e.2.drop (r.1 - e.1)).take r.2)
  let r := cut.foldl
    (fun (acc : List (List (Nat × List Byte)) × List (Nat × List Byte)) e =>
      if partsBytes acc.2 + e.2.length ≤ 2 ^ 22 then (acc.1, acc.2 ++ [e]) else (acc.1 ++ [acc.2], [e])) ([], [])
  (r.1 ++ [r.2]).filter fun p => !p.isEmpty

/-- [a, a + n) cut at the multiples of 4 KiB: the payloads of its packets (R92, R142, log 63). -/
def packetCuts (a n : Nat) : List (Nat × Nat) :=
  if n = 0 then []
  else (List.range ((a + n - 1) / 4096 - a / 4096 + 1)).map fun i =>
    let lo := max a ((a / 4096 + i) * 4096)
    (lo, min (a + n) ((a / 4096 + i + 1) * 4096) - lo)

/-- The ranges of some rows cut into packets, each with its offset within the transfer. -/
def transferCuts (l : List (Nat × Nat)) : List (Nat × Nat × Nat) :=
  (l.foldl
    (fun (acc : List (Nat × Nat × Nat) × Nat) r =>
      (acc.1 ++ (packetCuts r.1 r.2).map fun e => (e.1, e.2, acc.2 + (e.1 - r.1)), acc.2 + r.2)) ([], 0)).1

/-- The unit that serves an address, on its tile (R144, R258). -/
def servingUnit (a : Nat) : TileNo × BitVec 4 :=
  match regionOf a with
  | some (.stack k) => (stackTile k, if (tileStacks (stackTile k))[0]? == some k then 8 else 9)
  | some (.cmem t c) => (t, BitVec.ofNat 4 (4 + c.val))
  | some (.port p) => (portTile p, 10)
  | some (.host p) => (hostTile p, 11)
  | none => (0, 13)

/-- A request of a unit for a context's task, stamped with the unit's own identity and the binding of the context it serves (R142, R146). -/
def unitRequest (tile : TileNo) (unit : BitVec 4) (t : Task) (typ : BitVec 5) (tag : BitVec 8) (a len off : Nat) (last : Bool)
    (data : List Byte) : Packet :=
  let u := servingUnit a
  { cls := 0, typ := typ, srcTile := tile, srcUnit := unit, dstTile := u.1, dstUnit := u.2
    partition := BitVec.ofNat 7 t.part.val, context := t.ctx, length := BitVec.ofNat 13 len, addr := BitVec.ofNat 56 a, tag := tag, tree := 0, node := 0
    role := false, nonfinite := false, poison := false, last := last, status := 0, origClass := 0, sys := false
    offset := BitVec.ofNat 32 off, payload := data, here := tile }

/-- A request of a core's engine. -/
def coreRequest (n : CoreNo) : Task → BitVec 5 → BitVec 8 → Nat → Nat → Nat → Bool → List Byte → Packet :=
  unitRequest (coreTile n) (BitVec.ofNat 4 (coreCluster n))

/-- The read requests of a fetch. -/
def fetchPackets (n : CoreNo) (t : Task) (tag : Nat) (x : Xfer) : List Packet :=
  let l := transferCuts x.ranges
  l.zipIdx.map fun e => coreRequest n t 0x00 (BitVec.ofNat 8 tag) e.1.1 e.1.2.1 e.1.2.2 (e.2 + 1 == l.length) []

/-- The write requests of a store. A store tag's TAG is 128 + its number (log 13). -/
def storePackets (n : CoreNo) (t : Task) (tag : Nat) (parts : List (Nat × List Byte)) : List Packet :=
  let data := parts.flatMap (·.2)
  let l := transferCuts (parts.map fun e => (e.1, e.2.length))
  l.zipIdx.map fun e => coreRequest n t 0x01 (BitVec.ofNat 8 (128 + tag)) e.1.1 e.1.2.1 e.1.2.2 (e.2 + 1 == l.length) ((data.drop e.1.2.2).take e.1.2.1)

/-! The fetch engine (R92). -/

/-- Tags in use by a core's fetch engine, and by its store engine. -/
def fetchInUse (c : Core) : List Nat := (c.slots.flatMap fun e => e.2.fetchTags.map (·.tag)) ++ c.cancelled.map (·.tag)
def storeInUse (c : Core) : List Nat := c.slots.flatMap fun e => e.2.storeTags.map (·.tag)
/-- The lowest tags of an engine's six that are free. -/
def freeTags (used : List Nat) : List Nat := (List.range 6).filter fun n => !used.contains n

/-- The fetch engine grants its free tags in the order of the requests, and sends the read requests of each; a core under reset sends nothing
(R92, R357). -/
def grantFetches (n : CoreNo) : Nat → State → State
  | 0, s => s
  | fuel + 1, s =>
    let c := getCore s n
    match c.fetchQueue, freeTags (fetchInUse c) with
    | (k, x) :: rest, tag :: _ =>
      let sl := coreSlot c k
      match sl.task with
      | none => grantFetches n fuel (setCore s n { c with fetchQueue := rest })
      | some t =>
        if resettingCore s n then s
        else
          let ps := fetchPackets n t tag x
          grantFetches n fuel
            (send (setCore s n (putSlot { c with fetchQueue := rest } k
              { sl with fetchTags := sl.fetchTags ++ [{ tag := tag, xfer := x, left := ps.length }] })) ps)
    | _, _ => s

/-- The sequencer requests a slot's next transfers: a slot holds at most four tags, with those it waits for. -/
def requestFetches (s : State) (n : CoreNo) (k : SlotNo) : State :=
  let c := getCore s n
  let sl := coreSlot c k
  let room := 4 - (sl.fetchTags.length + (c.fetchQueue.filter fun e => e.1 == k).length)
  grantFetches n 6 (setCore s n
    { putSlot c k { sl with toFetch := sl.toFetch.drop room } with fetchQueue := c.fetchQueue ++ (sl.toFetch.take room).map fun x => (k, x) })

/-- Every transfer into the slot's transfer region has landed. -/
def fetchesOver (c : Core) (k : SlotNo) : Bool :=
  let sl := coreSlot c k
  sl.fetchTags.isEmpty && sl.toFetch.isEmpty && !c.fetchQueue.any fun e => e.1 == k

/-- The sequencer issues fetches into the transfer region and requests the swap behind them (R85, R89, R90): the slot is LATE until both are
over. A COPY's bytes leave from the transfer region itself, with no swap. -/
def issueFetches (s : State) (n : CoreNo) (k : SlotNo) (xs : List Xfer) (swap : Bool) : State :=
  let sl := getSlot s n k
  let s := requestFetches (setSlot s n k { sl with toFetch := sl.toFetch ++ xs.flatMap Xfer.pieces, swapPending := swap, state := .late }) n k
  judgeCore s n

/-- The next K-slice of a task with DBUF 1 is fetched while the arrays compute on the one before (R89). -/
def prefetch (s : State) (n : CoreNo) (k : SlotNo) (xs : List Xfer) : State :=
  let sl := getSlot s n k
  requestFetches (setSlot s n k { sl with toFetch := sl.toFetch ++ xs.flatMap Xfer.pieces, ahead := true }) n k

/-- The bytes of one response enter the slot's transfer region (R88, R92). -/
def landBytes (t : Tbl Byte) (x : Xfer) (off : Nat) (data : List Byte) : Tbl Byte :=
  data.zipIdx.foldl (fun t e => tput 0 t (x.place (off + e.2)) e.1) t

/-- One response to a fetch tag of a slot has come. -/
def landData (s : State) (n : CoreNo) (k : SlotNo) (tag off : Nat) (data : List Byte) : State :=
  let sl := getSlot s n k
  match sl.fetchTags.find? fun f => f.tag == tag with
  | none => s
  | some f =>
    setSlot s n k { sl with
      transfer := landBytes sl.transfer f.xfer off data
      fetchTags := sl.fetchTags.map fun g => if g.tag == tag then { g with left := g.left - 1 } else g }

/-- One response to a cancelled fetch tag has come: the tag's number is free after the last (R94). -/
def dropData (s : State) (n : CoreNo) (tag : Nat) : State :=
  let c := getCore s n
  grantFetches n 6 (setCore s n { c with
    cancelled := (c.cancelled.map fun f => if f.tag == tag then { f with left := f.left - 1 } else f).filter fun f => f.left != 0 })

/-- A fetch tag's transfer has landed: the tag is free, and a slot that waits for no swap goes on after its last (R85, R92). -/
def fetchLanded (s : State) (n : CoreNo) (k : SlotNo) (tag : Nat) : State :=
  let sl := getSlot s n k
  match sl.fetchTags.find? fun f => f.tag == tag && f.left == 0 with
  | none => s
  | some f =>
    let s := requestFetches (setSlot s n k { sl with
      fetchTags := sl.fetchTags.filter fun g => g.tag != tag, landed := sl.landed ++ f.xfer.ranges }) n k
    let c := getCore s n
    let sl := coreSlot c k
    if fetchesOver c k && !sl.swapPending && !sl.ahead && sl.state == .late && !sl.ended then setCore s n (resumeSlot c k) else s

/-! The store engine (R92). -/

/-- The store engine grants its free tags in the order of the requests; it reads a transfer's bytes as it sends them (R90, R92). -/
def grantStores (n : CoreNo) : Nat → State → State
  | 0, s => s
  | fuel + 1, s =>
    let c := getCore s n
    match c.storeQueue, freeTags (storeInUse c) with
    | (k, p) :: rest, tag :: _ =>
      let sl := coreSlot c k
      match sl.task with
      | none => grantStores n fuel (setCore s n { c with storeQueue := rest })
      | some t =>
        if resettingCore s n then s
        else
          let ps := storePackets n t tag p
          let tg : StoreTag := { tag := tag, parts := p.map fun e => (e.1, e.2.length), left := ps.length }
          grantStores n fuel (send (setCore s n (putSlot { c with storeQueue := rest } k { sl with storeTags := sl.storeTags ++ [tg] })) ps)
    | _, _ => s

/-- A store of the slot's task has failed: the first status stands, and what has not been requested is not stored (R94). -/
def spoilSlot (sl : Slot) (st : BitVec 8) : Slot :=
  { sl with status := if sl.status == stOk then st else sl.status, outs := [], adding := none, spoilt := true }

/-- A slot's output goes to the store engine, in order, at most four transfers at a time. A frame asks for its place first (R108), and a
barrier waits for every earlier store (R131). Every range is checked against the context's entries (R348). -/
def requestStores (n : CoreNo) (k : SlotNo) : Nat → State → State
  | 0, s => s
  | fuel + 1, s =>
    let c := getCore s n
    let sl := coreSlot c k
    match sl.task, sl.adding, sl.outs with
    | some t, none, .store p :: rest =>
      if (p.any fun e => !rangeOk s t.ctx .write e.1 e.2.length) then setCore s n (putSlot c k (spoilSlot sl stRange))
      else if sl.storeTags.length + (c.storeQueue.filter fun e => e.1 == k).length < 4 then
        requestStores n k fuel (grantStores n 6 (setCore s n { putSlot c k { sl with outs := rest } with storeQueue := c.storeQueue ++ [(k, p)] }))
      else s
    | some t, none, .frame f :: rest =>
      if !rangeOk s t.ctx .add f.alloc 8 then setCore s n (putSlot c k (spoilSlot sl stRange))
      else
        send (setCore s n (putSlot c k { sl with outs := rest, adding := some f }))
          [coreRequest n t 0x0C (BitVec.ofNat 8 (192 + k.val)) f.alloc 16 0 true (bytesOf 8 (f.bytes.length / 2048) ++ bytesOf 8 f.limit)]
    | some t, none, .tally a v :: rest =>
      if !rangeOk s t.ctx .add a 8 then setCore s n (putSlot c k (spoilSlot sl stRange))
      else
        let r := addWord (setCore s n (putSlot c k { sl with outs := rest })) a v
        if r.2.isSome then requestStores n k fuel r.1 else setSlot s n k (spoilSlot sl stPoisoned)
    | some _, none, .barrier :: rest =>
      if sl.storeTags.isEmpty && !c.storeQueue.any fun e => e.1 == k then
        requestStores n k fuel (setCore s n (putSlot c k { sl with outs := rest }))
      else s
    | _, _, _ => s

/-- What a slot has put out, and swapped into its transfer region, goes on its way as far as it can; a core under reset sends nothing new (R357). -/
def drainSlot (s : State) (n : CoreNo) (k : SlotNo) : State :=
  let sl := getSlot s n k
  if sl.outsReady && !resettingCore s n then requestStores n k (sl.outs.length + 1) s else s

/-- A slot's last store has completed: an ended task's outcome is decided (R94). -/
def settleSlot (s : State) (n : CoreNo) (k : SlotNo) : State :=
  let sl := getSlot s n k
  if sl.ended && !sl.recordHeld && !storesOut (getCore s n) k then endSlot s n k sl.status sl.detail else s

/-- An operation on a Palm is over: NEXT_SEQ moves on; one that ended badly after its first element breaks the Palm (R225, R226). -/
def palmEnd (s : State) (c : CoreNo) (n : Nat) (broke : Bool) : State :=
  let p := getPalm s c n
  setPalm s c n { p with nextSeq := p.nextSeq + 1, broken := p.broken || broke }

/-- The Palm of a REDUCE (R323). -/
def rePalm (t : Task) : Nat := t.f 256 4

/-- A REDUCE that has begun ends with a status other than OK: NEXT_SEQ moves on, and the Palm is BROKEN once an element has been sent (R225, R226).
One whose wait timeout expires leaves the Palm usable, as R234 says of the leaves of a failed tree (log 74). -/
def cutReduce (s : State) (n : CoreNo) (k : SlotNo) (st : BitVec 8) : State :=
  let sl := getSlot s n k
  match sl.task with
  | some t => if t.op == some .reduce && sl.started then palmEnd s n (rePalm t) (decide (0 < sl.sent) && st != stTimeout) else s
  | none => s

/-- The slot's task gives up with a status (R94): its fetches are cancelled, which may free tags for other slots, and what it stored stands. -/
def failSlot (s : State) (n : CoreNo) (k : SlotNo) (st : BitVec 8) : State :=
  let sl := getSlot s n k
  if sl.task.isNone || sl.ended then s else grantFetches n 6 (endSlot (setSlot (cutReduce s n k st) n k { sl with outs := [], adding := none }) n k st 0)

/-- The task whose end signals no tally (R132). -/
def Task.unsignalled (t : Task) : Task := { t with raw := t.raw &&& ~~~(3 <<< 13 : BitVec 2048) }

/-- The check pass of a sparse operand fails (R132): nothing is written, and no tally is signalled. -/
def checkFails (s : State) (n : CoreNo) (k : SlotNo) (st : BitVec 8) : State :=
  let sl := getSlot s n k
  failSlot (setSlot s n k { sl with task := sl.task.map Task.unsignalled }) n k st

/-- A failure of R94: as `failSlot`, and the destination data that no completed store covers is undefined; one in the check pass of R132
writes nothing. -/
def transferFails (s : State) (n : CoreNo) (k : SlotNo) (st : BitVec 8) : State :=
  let sl := getSlot s n k
  if sl.checking then checkFails s n k st else failSlot (setSlot s n k { sl with spoilt := true }) n k st

/-- One acknowledgement for a store tag of a slot has come. -/
def storeAcked (s : State) (n : CoreNo) (k : SlotNo) (tag : Nat) : State :=
  let sl := getSlot s n k
  setSlot s n k { sl with storeTags := sl.storeTags.map fun x => if x.tag == tag then { x with left := x.left - 1 } else x }

/-- A store tag has completed: its bytes stand, the tag is free, and the slot's next stores go on (R92, R94). -/
def storeDone (s : State) (n : CoreNo) (k : SlotNo) (tag : Nat) : State :=
  let sl := getSlot s n k
  match sl.storeTags.find? fun x => x.tag == tag && x.left == 0 with
  | none => s
  | some x =>
    let s := setSlot s n k { sl with storeTags := sl.storeTags.filter fun y => y.tag != tag, stored := sl.stored ++ x.parts }
    settleSlot (drainSlot (grantStores n 6 s) n k) n k

/-! Swaps (R88 to R91). -/

/-- The transfer region's bytes stand in the compute region. -/
def swapRegions (sl : Slot) : Slot :=
  { sl with computeB := !sl.computeB, swapPending := false, ahead := false, compute := sl.transfer.foldl (fun t e => tput 0 t e.1 e.2) sl.compute
            transfer := [], got := sl.got ++ sl.landed, landed := [] }

/-- The swap of a slot can be made: it was asked for, every fetch into the transfer region has landed, and every store from it has been read (R90). -/
def swapDue (c : Core) (k : SlotNo) : Bool :=
  let sl := coreSlot c k
  sl.swapPending && fetchesOver c k && !(c.storeQueue.any fun e => e.1 == k) && sl.state == .late

/-- The regions change roles (R88, R90): the slot goes on; after its last instruction its output lies in the transfer region, and the sequencer leaves
it. -/
def swapDone (s : State) (n : CoreNo) (k : SlotNo) : State :=
  let c := getCore s n
  let sl := coreSlot c k
  if sl.ended then
    let s := setCore s n (reschedule (leaveSequencer (putSlot c k { swapRegions sl with outsReady := true }) k))
    settleSlot (drainSlot s n k) n k
  else setCore s n (resumeSlot (putSlot c k (swapRegions sl)) k)

/-- A task's stages are over with a status and their output in the compute region: it is swapped into the transfer region and stored from there, and
the outcome follows the last store (R89, R94). -/
def endTask (s : State) (n : CoreNo) (k : SlotNo) (st : BitVec 8) (detail : BitVec 16) (outs : List Out) (swap : Bool) : State :=
  let sl := getSlot s n k
  if outs.isEmpty then endSlot s n k st detail
  else
    let s := setSlot s n k { sl with outs := outs, ended := true, status := st, detail := detail, swapPending := swap, outsReady := !swap, state := .late }
    if swap then judgeCore s n
    else settleSlot (drainSlot (setCore s n (reschedule (leaveSequencer (getCore s n) k))) n k) n k

/-- The slot of a core that holds a fetch tag, and the one that holds a store tag. -/
def slotOfFetch (c : Core) (tag : Nat) : Option SlotNo := (List.finRange 4).find? fun k => (coreSlot c k).fetchTags.any fun x => x.tag == tag
def slotOfStore (c : Core) (tag : Nat) : Option SlotNo :=
  (List.finRange 4).find? fun k => (coreSlot c k).storeTags.any fun x => x.tag == tag

end Sys2Proof.Machine
end

