-- ==== Sys2Proof/Machine/TaskWork.lean ====
section
/-!
DEFINITION. What the work of every task on a core shares: reading and storing for its context (R92, R94), rows of elements (R54, R319), and the
census (R228, R230).
-/
namespace Sys2Proof.Machine
open Sys2Proof

/-- A task at work on what its compute region holds: the state so far, that region's bytes and the ranges it holds, the transfers it still needs, what
it puts out, the values it has counted, and why it stops. -/
structure Work where
  s : State
  tile : TileNo
  t : Task
  mem : Tbl Byte := []
  got : List (Nat × Nat) := []
  want : List Xfer := []
  outs : List Out := []
  census : Nat := 0
  stop : Option (BitVec 8 × BitVec 16) := none
  /-- The failure is one without effect, and not one of R94. -/
  clean : Bool := false

/-- A slot's task begins an instruction: a COPY works on its transfer region, every other task on its compute region (R88, R318). -/
def startWork (s : State) (c : CoreNo) (k : SlotNo) (t : Task) : Work :=
  let sl := getSlot s c k
  if t.op == some .copy then { s := s, tile := coreTile c, t := t, mem := sl.transfer, got := sl.landed }
  else { s := s, tile := coreTile c, t := t, mem := sl.compute, got := sl.got }

/-- What the work reads: the operand store's bytes, by the device address they came from. -/
def Work.view (w : Work) : State := { w.s with mem := w.mem }

/-- The work stops with a status, unless it has stopped. -/
def Work.fail (w : Work) (st : BitVec 8) (detail : BitVec 16 := 0) : Work :=
  match w.stop with
  | some _ => w
  | none => { w with stop := some (st, detail) }

/-- The work stops with a status and no effect, unless it has stopped. -/
def Work.refuse (w : Work) (st : BitVec 8) (detail : BitVec 16 := 0) : Work :=
  match w.stop with
  | some _ => w
  | none => { w with stop := some (st, detail), clean := true, outs := [] }

/-- The work cannot go on: it has failed, or some of its operands have not been fetched. -/
def Work.halted (w : Work) : Bool := w.stop.isSome || !w.want.isEmpty

/-- Unless it is halted, the work goes on. -/
def Work.andThen (w : Work) (f : Work → Work) : Work := if w.halted then w else f w

/-- The range [a, e) lies in ranges that have landed. -/
def coveredTo (got : List (Nat × Nat)) (e : Nat) : Nat → Nat → Bool
  | 0, a => decide (e ≤ a)
  | fuel + 1, a =>
    if e ≤ a then true
    else match got.find? fun r => decide (r.1 ≤ a ∧ a < r.1 + r.2) with
      | none => false
      | some r => coveredTo got e fuel (r.1 + r.2)
def covered (got : List (Nat × Nat)) (a n : Nat) : Bool := coveredTo got (a + n) (got.length + 1) a

/-- The work needs a block: what is not there yet is to be fetched; its whole range is checked before (R92, R348). -/
def Work.fetchBlock (w : Work) (x : Xfer) : Work :=
  if w.stop.isSome then w
  else if !rangeOk w.s w.t.ctx .read x.addr x.extent then w.fail stRange
  else if x.bytes = 0 || x.ranges.all fun r => covered w.got r.1 r.2 then w
  else { w with want := w.want ++ [x] }

/-- A fetch of [a, a + n). -/
def Work.fetch (w : Work) (a n : Nat) : Work := w.fetchBlock { addr := a, len := n }

/-- Several fetches, in order. -/
def Work.fetchAll (w : Work) (rs : List (Nat × Nat)) : Work := rs.foldl (fun w r => w.fetch r.1 r.2) w

/-- One transfer to the store engine. -/
def Work.storeRows (w : Work) (l : List (Nat × List Byte)) : Work :=
  w.andThen fun w => { w with outs := w.outs ++ (storePieces l).map .store }

/-- A store of bytes from an address on. -/
def Work.store (w : Work) (a : Nat) (bs : List Byte) : Work := w.storeRows [(a, bs)]

/-- A store that waits for every earlier one (R131). -/
def Work.storeLast (w : Work) (a : Nat) (bs : List Byte) : Work :=
  w.andThen fun w => { w with outs := w.outs ++ [.barrier, .store [(a, bs)]] }

/-! Rows of elements: row r of an array lies r × LD elements from its base (R54, R319). -/

/-- The bytes that n elements take up. -/
def elemBytes (f : Fmt) (n : Nat) : Nat := (n * f.width + 7) / 8
/-- First byte of row r. -/
def rowAddr (f : Fmt) (base ld r : Nat) : Nat := base + r * ld * f.width / 8
/-- The bytes from the base to the end of the last row. -/
def rowsExtent (f : Fmt) (rows cols ld : Nat) : Nat := if rows = 0 then 0 else (rows - 1) * ld * f.width / 8 + elemBytes f cols
/-- The block of columns [col, col + cols) of some rows, col a whole number of bytes from the row's first. -/
def rowBlock (f : Fmt) (base ld rows col cols : Nat) : Xfer :=
  { addr := base + col * f.width / 8, len := elemBytes f cols, rows := rows, stride := ld * f.width / 8 }
/-- The block of scales of the same columns of an MX array. -/
def scaleBlock (base ld rows col cols : Nat) : Xfer := { addr := base + col / 32, len := (cols + 31) / 32, rows := rows, stride := ld / 32 }

/-- The codes of one row. -/
def rowCodes (s : State) (f : Fmt) (base ld r cols : Nat) : List Nat :=
  (List.range cols).map (elemCode (memByte s) f (rowAddr f base ld r))

/-- The block scales of one row of an MX array (R54); one exponent of 0 for a format without scales. -/
def rowScales (s : State) (f : Fmt) (scaleBase ld r cols : Nat) : List (Option Int) :=
  if f.isMx then (List.range ((cols + 31) / 32)).map fun j => e8m0 (memByte s (scaleBase + r * ld / 32 + j)).toNat
  else List.replicate ((cols + 31) / 32) (some 0)

/-- A row read to FP32 (R97). -/
def rowF32 (f : Fmt) (codes : List Nat) (scales : List (Option Int)) : List F32 :=
  codes.zipIdx.map fun e => toF32 f ((scales[e.2 / 32]?).getD (some 0)) e.1

/-- A row cut into the chunks of a GEMM (R57, R58, R65). -/
def opRow (f : Fmt) (codes : List Nat) (scales : List (Option Int)) : OpRow :=
  if f = .split3 then .split ((groupsOf 32 codes.length codes).map fun g => g.map (BitVec.ofNat 32))
  else .nums f.frac (((groupsOf 32 codes.length codes).zip scales).map fun e => { elems := e.1.map (fmtNum f), scale := e.2 })

/-- A row of FP32 values taken as a later GEMM's A operand (R97). -/
def opRowOfF32 (f : Fmt) (saturate : Bool) (row : List F32) : OpRow :=
  if f = .split3 then .split (groupsOf 32 row.length row)
  else if f.isMx then
    .nums f.frac ((groupsOf 32 row.length row).map fun g =>
      let q := quantBlock f g
      { elems := q.2.map (fmtNum f), scale := e8m0 q.1 })
  else opRow f (row.map (convertTo f saturate)) (List.replicate ((row.length + 31) / 32) (some 0))

/-- The stores of rows of FP32 values converted to a format (R63). -/
def rowStores (f : Fmt) (saturate : Bool) (base ld : Nat) (rows : List (List F32)) : List (Nat × List Byte) :=
  rows.zipIdx.map fun e => (rowAddr f base ld e.2, packBytes f.width (e.1.map (convertTo f saturate)))

/-- FP32 words from an address. -/
def f32s (s : State) (a n : Nat) : List F32 := (List.range n).map fun i => BitVec.ofNat 32 (memNat s (a + 4 * i) 4)

/-! The census (R228, R230). -/

/-- Where a counted value came from (R231). -/
inductive CensusFrom where
  | stages | route | palms
  deriving DecidableEq, Repr

/-- The task is late (R230). -/
def isLate (p : Partition) (t : Task) : Bool := t.late || t.step != p.cur

/-- n values counted by a task of a core's slot: into the census of the running step, or, of a late task, into its own record and an event. -/
def countCensus (s : State) (c : CoreNo) (k : SlotNo) (src : CensusFrom) (n : Nat) : State :=
  let sl := getSlot s c k
  match n, sl.task with
  | 0, _ => s
  | _, none => s
  | _, some t =>
    let s' := setSlot s c k { sl with task := some { t with census := true } }
    let p := getPart s' t.part
    if isLate p t then
      let s' := if t.late && t.step == p.cur then setPart s' t.part { p with census := { p.census with late := true } } else s'
      if t.census then s'
      else raise s' { code := 0x0022, part := some t.part, tenants := true, platform := false
                      args := [t.step.toNat, t.ring.toNat, t.index.toNat] }
    else
      let z := p.census
      setPart s' t.part { p with census :=
        { z with values := min (z.values + n) (2 ^ 48 - 1), firstCore := min z.firstCore c.val
                 fromStages := z.fromStages || src == .stages, fromRoute := z.fromRoute || src == .route
                 fromPalms := z.fromPalms || src == .palms } }

/-- Values of a list that the census counts. -/
def nonFinites (l : List F32) : Nat := (l.filter f32NonFinite).length

/-- The end of a slot's instruction that began in state s: what it lacks is fetched, and the instruction begins again with it; else its counted
values, its output and its outcome follow. A failure under R94 leaves its unfinished destination data undefined. -/
def finishWork (s : State) (w : Work) (c : CoreNo) (k : SlotNo) (src : CensusFrom) : State :=
  let swap := w.t.op != some .copy
  match w.stop with
  | none => if w.want.isEmpty then endTask (countCensus w.s c k src w.census) c k stOk 0 w.outs swap else issueFetches s c k w.want swap
  | some (st, d) =>
    let s := countCensus w.s c k src w.census
    endTask (setSlot s c k { getSlot s c k with spoilt := !w.clean }) c k st d w.outs swap

end Sys2Proof.Machine
end

