-- ==== Sys2Proof/Machine/Liner.lean ====
section
/-!
DEFINITION. Liner streams (R105 to R110): frames, their encodings and places, and reading them back.
-/
namespace Sys2Proof.Machine
open Sys2Proof

/-- Rows of the core block that orders a task's elements (R105, R110, R130). DEDUCED (log 64): 512 on a degraded core too, whose own core block
has 384 (R81), for a task's bits do not depend on whether its core is whole (R82). -/
def blockRows : Nat := 512

/-- Place of element (r, c) of an M × W matrix in core-block order, row-major within a block of R × 512 (R81, R105). -/
def blockPlace (R M W r c : Nat) : Nat :=
  let rb := r / R
  let cb := c / 512
  let hb := min R (M - rb * R)
  let wb := min 512 (W - cb * 512)
  rb * R * W + hb * (cb * 512) + (r - rb * R) * wb + (c - cb * 512)

/-- The elements of a matrix in core-block order. -/
def blockOrder {α : Type} (R M W : Nat) (rows : List (List α)) : List α :=
  (List.range ((M + R - 1) / R)).flatMap fun rb =>
    (List.range ((W + 511) / 512)).flatMap fun cb =>
      ((rows.drop (rb * R)).take (min R (M - rb * R))).flatMap fun row => (row.drop (cb * 512)).take 512

/-- Elements of a full frame: 64 KiB of source data. -/
def frameElems (f : Fmt) : Nat := 65536 * 8 / f.width

/-- Byte b of a code. -/
def codeByte (v b : Nat) : Byte := BitVec.ofNat 8 (v / 2 ^ (8 * b))

/-- The mask of a plane, least significant bit first (R106). -/
def planeMask (plane : List Byte) : List Byte :=
  bytesOf ((plane.length + 7) / 8) (plane.foldr (fun b acc => 2 * acc + (if b == 0 then 0 else 1)) 0)

/-- Zeros up to whole units of 2 KiB. -/
def padUnits (bs : List Byte) : List Byte := bs ++ List.replicate ((bs.length + 2047) / 2048 * 2048 - bs.length) 0

/-- A frame's encodings (R105 to R107). -/
def encRaw (f : Fmt) (codes : List Nat) : List Byte := padUnits (packBytes f.width codes)
def encZs (f : Fmt) (codes : List Nat) : List Byte :=
  padUnits ((List.range (f.width / 8)).flatMap fun b =>
    let plane := codes.map fun v => codeByte v b
    planeMask plane ++ plane.filter (· != 0))
/-- DEDUCED (log 65): a last block of fewer than 32 elements is quantised as it is, with a scale of its own. -/
def encMx8 (f : Fmt) (codes : List Nat) : List Byte :=
  let qs := (groupsOf 32 codes.length codes).map fun g => quantBlock .mxE4m3 (g.map fun v => f32Of (fmtNum f v))
  padUnits (packBytes 8 (qs.flatMap (·.2)) ++ qs.map fun q => BitVec.ofNat 8 q.1)

/-- A frame of SAVE: its ENC and its stored bytes. LOSSLESS takes ZS when it takes fewer units than RAW (R106, log 18). -/
def encodeFrame (mx8 : Bool) (f : Fmt) (codes : List Nat) : Nat × List Byte :=
  if mx8 then (2, encMx8 f codes)
  else
    let raw := encRaw f codes
    let zs := encZs f codes
    if zs.length < raw.length then (1, zs) else (0, raw)

/-- An index entry (R105). -/
def indexEntry (offset units enc fmt count : Nat) (crc : BitVec 32) : Nat :=
  place offset 0 32 + place units 32 6 + place enc 38 2 + place fmt 40 4 + place count 44 20 + place crc.toNat 64 32

/-- A format's code in R55, of those SAVE allows. -/
def saveCode : Fmt → Nat
  | .bf16 => 1
  | .fp16 => 2
  | _ => 0

/-- What SAVE's parameter block names (R320). -/
structure SaveArea where
  data : Nat
  alloc : Nat
  index : Nat
  limit : Nat

/-- One frame of SAVE: the codes and the number (R105). -/
def saveFrame (a : SaveArea) (mx8 : Bool) (f : Fmt) (e : List Nat × Nat) : Frame :=
  let enc := encodeFrame mx8 f e.1
  { alloc := a.alloc, limit := a.limit, data := a.data, index := a.index, number := e.2, enc := enc.1, fmt := saveCode f, count := e.1.length
    bytes := enc.2 }

/-- SAVE (R105): the stage's input, cut into frames, for the store engine to place. -/
def saveStage (M W : Nat) (a : SaveArea) (mx8 : Bool) (f : Fmt) (w : Work) (rows : List (List F32)) : Work :=
  w.andThen fun w =>
    let codes := (blockOrder blockRows M W rows).map (convertTo f false)
    { w with outs := w.outs ++ (groupsOf (frameElems f) codes.length codes).zipIdx.map fun e => .frame (saveFrame a mx8 f e) }

/-- Where a frame's index entry stands, and its length in units. -/
def Frame.entryAt (f : Frame) : Nat := f.index + 16 * f.number
def Frame.units (f : Frame) : Nat := f.bytes.length / 2048

/-- The allocation word's old value has come for a slot's frame (R108): the frame is stored there and then its index entry; where the area is full the
entry is written with UNITS 0, its other fields left open, and the task fails with the Liner-space status. -/
def placeFrame (s : State) (n : CoreNo) (k : SlotNo) (old : Nat) : State :=
  let sl := getSlot s n k
  match sl.adding with
  | none => s
  | some f =>
    if f.limit < old + f.units then
      let (w1, s) := freshWord s
      let (w2, s) := freshWord s
      let entry := place w1.toNat 0 32 + place (bits w1.toNat 38 26) 38 26 + place w2.toNat 64 32
      let s := setSlot s n k { spoilSlot sl stLinerSpace with outs := [.store [(f.entryAt, bytesOf 16 entry)]] }
      settleSlot (drainSlot s n k) n k
    else
      let s := setSlot s n k { sl with
        adding := none
        outs := (storePieces [(f.data + old * 2048, f.bytes)]).map .store
          ++ .store [(f.entryAt, bytesOf 16 (indexEntry old f.units f.enc f.fmt f.count (crc32c f.bytes)))] :: sl.outs }
      settleSlot (drainSlot { s with liners := tput 0 s.liners f.entryAt (f.data + 1) } n k) n k

/-! Reading back (R110). -/

/-- Codes of a ZS frame: planes in ascending order. -/
def decZs (n planes : Nat) (bs : List Byte) : List Nat :=
  let plane (st : List Byte × List Nat) (b : Nat) : List Byte × List Nat :=
    let mask := natOfBytes (st.1.take ((n + 7) / 8))
    let rest := st.1.drop ((n + 7) / 8)
    let r := (List.range n).foldl
      (fun (x : List Byte × List Nat) i =>
        if mask.testBit i then (x.1.tail, x.2 ++ [(x.1.headD 0).toNat * 2 ^ (8 * b)]) else (x.1, x.2 ++ [0])) (rest, [])
    (r.1, (st.2.zip r.2).map fun e => e.1 + e.2)
  ((List.range planes).foldl plane (bs, List.replicate n 0)).2

/-- Codes of an MX8 frame in its source format: element × scale, converted (R107, R110). -/
def decMx8 (f : Fmt) (n : Nat) (bs : List Byte) : List Nat :=
  (List.range n).map fun i =>
    let scale := e8m0 ((bs[n + i / 32]?).getD 0).toNat
    convertTo f false (toF32 .mxE4m3 scale ((bs[i]?).getD 0).toNat)

/-- The source format of a frame. -/
def frameFmt : Nat → Option Fmt
  | 0 => some .fp32 | 1 => some .bf16 | 2 => some .fp16 | _ => none

/-- The data base of the stream whose index entry stands at an address (R109, R110): the SAVE's that wrote it; a Liner operand does not name it, so
for an entry that no SAVE of this module wrote it is open. -/
def linerBase (s : State) (index entry : Nat) : Nat :=
  match tget 0 s.liners entry with
  | 0 => Config.linerDataBase index
  | n + 1 => n

/-- The entry of a frame, where it can be read (R110): not empty, of a known encoding, of the operand's format. -/
def entryOk (f : Fmt) (e : Nat) : Bool :=
  bits e 32 6 != 0 && bits e 38 2 != 3 && (frameFmt (bits e 40 4) == some f || (f == .split3 && bits e 40 4 == 0))

/-- The place of a frame's stored bytes. -/
def frameData (s : State) (index entry e : Nat) : Nat × Nat := (linerBase s index entry + bits e 0 32 * 2048, bits e 32 6 * 2048)

/-- A frame's codes from its stored bytes. -/
def frameCodes (f : Fmt) (e : Nat) (bs : List Byte) : List Nat :=
  let count := bits e 44 20
  match bits e 38 2 with
  | 0 => (List.range count).map (elemCode (fun i => (bs[i]?).getD 0) f 0)
  | 1 => decZs count (f.width / 8) bs
  | _ => decMx8 (if f = .split3 then .fp32 else f) count bs

/-- The frames first to last as an M × W matrix of codes (R110): entries, then frames; their COUNTs must add up to the operand's shape. -/
def readLiner (w : Work) (index first last : Nat) (f : Fmt) (M W : Nat) : Work × List (List Nat) :=
  let frames := (List.range (last + 1 - first)).map fun i => index + 16 * (first + i)
  let w := w.fetch (index + 16 * first) (16 * (last + 1 - first))
  if w.halted then (w, [])
  else
    let es := frames.map fun a => (a, memNat w.view a 16)
    if !(es.all fun e => entryOk f e.2) || (es.map fun e => bits e.2 44 20).sum != M * W then (w.fail stLiner, [])
    else
      let w := w.fetchAll (es.map fun e => frameData w.s index e.1 e.2)
      if w.halted then (w, [])
      else
        let read := es.map fun e => let d := frameData w.s index e.1 e.2; (e.2, memBytes w.view d.1 d.2)
        if !(read.all fun e => (crc32c e.2).toNat == bits e.1 64 32) then (w.fail stLiner, [])
        else
          let codes := read.flatMap fun e => frameCodes f e.1 e.2
          (w, (List.range M).map fun r => (List.range W).map fun c => (codes[blockPlace blockRows M W r c]?).getD 0)

end Sys2Proof.Machine
end

