-- ==== Sys2Proof/Machine/Sparse.lean ====
section
/-!
DEFINITION. Structured sparsity (R118 to R136): the stored form, the checks before use, and the output compressor.
-/
namespace Sys2Proof.Machine
open Sys2Proof

/-- N kept values per group of M for a pattern code (R118); none where the code names no sparse pattern. -/
def pattern : Nat → Option (Nat × Nat)
  | 1 => some (1, 4) | 2 => some (2, 4) | 3 => some (2, 8) | 4 => some (4, 8) | _ => none

/-- A pattern's numbers, DENSE as 1 of 1. -/
def patN (p : Nat) : Nat := match pattern p with | some x => x.1 | none => 1
def patM (p : Nat) : Nat := match pattern p with | some x => x.2 | none => 1
/-- Codes of a block, their width, and the bytes of its record and values (R121, R122). -/
def blockCodes (p : Nat) : Nat := 32 / patM p * patN p
def codeWidth (p : Nat) : Nat := if patM p = 8 then 3 else 2
def recordBytes (p : Nat) : Nat := blockCodes p * codeWidth p / 8
def valueBytes (p : Nat) (f : Fmt) : Nat := blockCodes p * f.width / 8

/-- The sparse header (R123). -/
def sparseHeader (p vfmt : Nat) (valid : Bool) (rows kdense count : Nat) : Nat :=
  let lo := place p 0 4 + place vfmt 4 4 + place 1 8 4 + place (if valid then 1 else 0) 12 1
  lo + place (2 ^ 32 - 1 - lo) 32 32 + place rows 64 32 + place kdense 96 32 + place (rows * kdense / patM p) 128 49 + place count 177 48

/-- The codes of one group of a record. -/
def groupCodes (p record g : Nat) : List Nat := (List.range (patN p)).map fun i => bits record ((g * patN p + i) * codeWidth p) (codeWidth p)

/-- A group's codes lie below M and rise strictly (R132). -/
def codesOk (p : Nat) (cs : List Nat) : Bool :=
  cs.all (fun c => decide (c < patM p)) && (cs.zip cs.tail).all fun e => decide (e.1 < e.2)

/-- A sparse A operand as its descriptor names it (R119, R121). -/
structure SparseA where
  pat : Nat
  fmt : Fmt
  vals : Nat
  headerAt : Nat
  scales : Nat
  row0 : Nat
  k0 : Nat
  m : Nat
  k : Nat

/-- Block index of row r of the operand and its j-th block. -/
def SparseA.block (a : SparseA) (kdense r j : Nat) : Nat := (a.row0 + r) * kdense / 32 + a.k0 / 32 + j
/-- The record of a block. -/
def SparseA.record (a : SparseA) (s : State) (b : Nat) : Nat := memNat s (a.headerAt + 32 + b * recordBytes a.pat) (recordBytes a.pat)
/-- The code of VALUE_FMT for an A format (R123). -/
def valueFmtCode (f : Fmt) : Nat :=
  match f with
  | .bf16 => 1 | .fp16 => 2 | .e4m3 => 3 | .e5m2 => 4 | .mxE4m3 => 5 | .mxE5m2 => 6 | .mxE2m3 => 7 | .mxE3m2 => 8 | .mxE2m1 => 9
  | .mxInt8 => 10 | _ => 0

/-- The header checks of R132. -/
def headerOk (a : SparseA) (h : Nat) : Bool :=
  let rows := bits h 64 32
  let kd := bits h 96 32
  h.testBit 12 && bits h 8 4 == 1 && bits h 32 32 == 2 ^ 32 - 1 - bits h 0 32 && bits h 13 19 == 0 && bits h 225 31 == 0
    && bits h 0 4 == a.pat && bits h 4 4 == valueFmtCode a.fmt
    && kd % 32 == 0 && decide (0 < rows) && decide (0 < kd) && decide (rows * kd ≤ 2 ^ 50) && bits h 128 49 == rows * kd / patM a.pat
    && decide (a.row0 + a.m ≤ rows) && decide (a.k0 + a.k ≤ kd)

/-- The blocks that a task reads of an array of `n` bytes a block: its rows' blocks K0 ÷ 32 to (K0 + K) ÷ 32 − 1 (R132). -/
def SparseA.region (a : SparseA) (kd base n : Nat) : Xfer :=
  { addr := base + a.block kd 0 0 * n, len := a.k / 32 * n, rows := a.m, stride := kd / 32 * n }
def SparseA.records (a : SparseA) (kd : Nat) : Xfer := a.region kd (a.headerAt + 32) (recordBytes a.pat)
def SparseA.values (a : SparseA) (kd : Nat) : Xfer := a.region kd a.vals (valueBytes a.pat a.fmt)
def SparseA.scaleBytes (a : SparseA) (kd : Nat) : Xfer := a.region kd a.scales 1
/-- KDENSE of the operand's header. -/
def SparseA.kdense (a : SparseA) (s : State) : Nat := bits (memNat s a.headerAt 32) 96 32

/-- Every code that the task reads lies below M and rises within its group. -/
def SparseA.codesGood (a : SparseA) (s : State) : Bool :=
  let kd := a.kdense s
  (List.range a.m).all fun r => (List.range (a.k / 32)).all fun j =>
    let rec_ := a.record s (a.block kd r j)
    (List.range (32 / patM a.pat)).all fun g => codesOk a.pat (groupCodes a.pat rec_ g)

/-- The checks before use (R132): the header, the extents of every array that the task will read, then the records. -/
def sparseCheck (w : Work) (a : SparseA) : Work :=
  (w.fetch a.headerAt 32).andThen fun w =>
    if !headerOk a (memNat w.view a.headerAt 32) then w.fail stSparseMeta
    else
      let kd := a.kdense w.view
      let ok (x : Xfer) : Bool := rangeOk w.s w.t.ctx .read x.addr x.extent
      if !(ok (a.values kd) && (!a.fmt.isMx || ok (a.scaleBytes kd))) then w.fail stRange
      else (w.fetchBlock (a.records kd)).andThen fun w => if a.codesGood w.view then w else w.fail stSparseMeta

/-- The second reading of the records, as the computation uses them, with the values and scales (R133). -/
def sparseFetch (w : Work) (a : SparseA) : Work :=
  (w.fetch a.headerAt 32).andThen fun w =>
    let kd := a.kdense w.view
    let w := (w.fetchBlock (a.records kd)).fetchBlock (a.values kd)
    let w := if a.fmt.isMx then w.fetchBlock (a.scaleBytes kd) else w
    w.andThen fun w => if a.codesGood w.view then w else w.fail stSparseMeta

/-- Row r of a sparse A as its dense codes (R124), and its block scales. -/
def sparseRow (s : State) (a : SparseA) (r : Nat) : List Nat × List (Option Int) :=
  let kd := a.kdense s
  let M := patM a.pat
  let N := patN a.pat
  let codes := (List.range (a.k / 32)).flatMap fun j =>
    let b := a.block kd r j
    let rec_ := a.record s b
    (List.range 32).map fun pos =>
      match (groupCodes a.pat rec_ (pos / M)).findIdx? (· == pos % M) with
      | some i => elemCode (memByte s) a.fmt (a.vals + b * valueBytes a.pat a.fmt) (pos / M * N + i)
      | none => 0
  let scales := (List.range (a.k / 32)).map fun j =>
    if a.fmt.isMx then e8m0 (memByte s (a.scales + a.block kd r j)).toNat else some 0
  (codes, scales)

/-- A task ended by SPARSE_META or SPARSE_OVERFULL is counted (R135). -/
def countSparseFault (s : State) (c : CoreNo) : State :=
  let x := getCore s c
  setCore s c { x with sparseFaults := satInc x.sparseFaults }

/-- TL_SPARSE_CLEAR (R136). -/
def execTlSparseClear (port : HostPort) (core : CoreNo) (value : Word64) (s : State) :=
  finish s <|
    if bar0Open s port false && value.getLsbD 0 && tlAnswers s (coreTile core) then
      setCore s core { getCore s core with pruned := 0, sparseFaults := 0 }
    else s

/-! The output compressor (R125 to R131). -/

/-- Rank of a value in an over-full group (R128): NaN, infinities, then magnitude. -/
def pruneRank (v : F32) : Nat :=
  if f32IsNan v then 2 ^ 33 else if f32NonFinite v then 2 ^ 32 else (v.extractLsb' 0 31).toNat

/-- The positions kept of a group, ascending, and whether it was over-full (R127, R128). -/
def keepGroup (N : Nat) (vs : List F32) : List Nat × Bool :=
  let idx := vs.zipIdx
  let nz := (idx.filter fun e => !f32IsZero e.1).map (·.2)
  let zs := (idx.filter fun e => f32IsZero e.1).map (·.2)
  if nz.length ≤ N then
    let chosen := nz ++ zs.take (N - nz.length)
    ((List.range vs.length).filter fun i => chosen.contains i, false)
  else
    let better (a b : F32 × Nat) : Bool := decide (pruneRank b.1 < pruneRank a.1) || (pruneRank a.1 == pruneRank b.1 && decide (a.2 < b.2))
    let chosen := (idx.filter fun e => decide ((idx.filter fun o => better o e).length < N)).map (·.2)
    ((List.range vs.length).filter fun i => chosen.contains i, true)

/-- A compressed block: scale, values, record, over-full groups by index. -/
structure CompBlock where
  scale : Byte
  values : List Byte
  record : List Byte
  overfull : List Nat

/-- Compress 32 positions (R122, R127 to R129). -/
def compressBlock (p : Nat) (f : Fmt) (saturate : Bool) (vs : List F32) : CompBlock :=
  let M := patM p
  let keeps := (groupsOf M vs.length vs).map (keepGroup (patN p))
  let kept (i : Nat) : Bool := match keeps[i / M]? with | some k => k.1.contains (i % M) | none => false
  let places := (List.range vs.length).filter kept
  let q := quantBlock f (vs.zipIdx.map fun e => if kept e.2 then e.1 else f32Zero)
  let codes := if f.isMx then places.map fun i => (q.2[i]?).getD 0 else places.map fun i => convertTo f saturate ((vs[i]?).getD 0)
  { scale := BitVec.ofNat 8 q.1
    values := packBytes f.width codes
    record := bytesOf (recordBytes p) (packCodes (codeWidth p) (keeps.flatMap (·.1)))
    overfull := (keeps.zipIdx.filter fun k => k.1.2).map (·.2) }

/-- The blocks of 32 positions that one core block of `cols` output columns holds, in the order of R81: row, then place in the row. -/
def coreBlocks (cols : Nat) (blocks : List (List CompBlock)) : List (List (Nat × Nat × List CompBlock)) :=
  let w := cols / 32
  let width := (blocks.headD []).length
  (List.range ((blocks.length + blockRows - 1) / blockRows)).flatMap fun rb =>
    (List.range ((width + w - 1) / w)).map fun cb =>
      ((blocks.zipIdx.drop (rb * blockRows)).take blockRows).map fun row => (row.2, cb * w, (row.1.drop (cb * w)).take w)

/-- The lowest over-full group of a core block, by its number (R130). -/
def firstOverfull (kd p : Nat) (b : List (Nat × Nat × List CompBlock)) : Option Nat :=
  let M := patM p
  let l := b.flatMap fun e => e.2.2.zipIdx.flatMap fun x => x.1.overfull.map fun g => e.1 * kd / M + (e.2.1 + x.2) * (32 / M) + g
  match l with
  | [] => none
  | x :: r => some (r.foldl min x)

/-- The stores of one core block: values, records and scales, row by row (R121). -/
def compressStores (kd p : Nat) (f : Fmt) (vals meta_ scales : Nat) (b : List (Nat × Nat × List CompBlock)) (w : Work) : Work :=
  let part (base n : Nat) (g : CompBlock → List Byte) : List (Nat × List Byte) :=
    b.map fun e => (base + (e.1 * kd / 32 + e.2.1) * n, e.2.2.flatMap g)
  let w := (w.storeRows (part vals (valueBytes p f) (·.values))).storeRows (part (meta_ + 32) (recordBytes p) (·.record))
  if f.isMx then w.storeRows (part scales 1 fun x => [x.scale]) else w

/-- A COMPRESS header (R123, R131). -/
def compressHeader (p : Nat) (f : Fmt) (rows kd : Nat) (valid : Bool) (count : Nat) : List Byte :=
  bytesOf 32 (sparseHeader p (valueFmtCode f) valid rows kd count)

/-- COMPRESS as the last stage (R125 to R131), its first header being out: core block by core block of `cols` columns. Under FAULT the blocks before
the one with the first over-full group are stored, and the header gives that group's number. Under PRUNE every pruned group is counted as it is
compressed (log 66), and the header with VALID 1 follows every other store. -/
def compressStage (c : CoreNo) (cols kd p : Nat) (fault : Bool) (f : Fmt) (vals meta_ scales : Nat) (w : Work) (rows : List (List F32)) : Work :=
  w.andThen fun w =>
    let all := coreBlocks cols (rows.map fun row => (groupsOf 32 row.length row).map (compressBlock p f w.t.saturate))
    let good := if fault then all.takeWhile fun b => (firstOverfull kd p b).isNone else all
    let w := good.foldl (fun w b => compressStores kd p f vals meta_ scales b w) w
    match (all.drop good.length).head?.bind (firstOverfull kd p) with
    | some n =>
      let w := w.store meta_ (compressHeader p f rows.length kd false n)
      ({ w with s := countSparseFault w.s c }).fail stSparseOverfull
    | none =>
      let n := (all.flatMap fun b => b.flatMap fun e => e.2.2.map fun x => x.overfull.length).sum
      let x := getCore w.s c
      ({ w with s := setCore w.s c { x with pruned := satAdd x.pruned n } }).storeLast meta_ (compressHeader p f rows.length kd true n)

end Sys2Proof.Machine
end

