-- ==== Sys2Proof/Machine/Gauntlet.lean ====
section
/-!
DEFINITION. GAUNTLET: its layout (R95, R319, R320) and its checks (R96 to R101, R104, R110, R119, R210, R223).
-/
namespace Sys2Proof.Machine
open Sys2Proof

/-! Stage words (R95). -/

/-- A stage: its place from 0, and its word. -/
structure Stage where
  idx : Nat
  word : Nat
  deriving DecidableEq, Repr

def Stage.kind (g : Stage) : Nat := bits g.word 0 4
def Stage.func (g : Stage) : Nat := bits g.word 4 4
def Stage.fmt (g : Stage) : Nat := bits g.word 8 4
def Stage.ls (g : Stage) : Nat := bits g.word 12 2
def Stage.census (g : Stage) : Bool := g.word.testBit 14
def Stage.param (g : Stage) : Nat := bits g.word 16 16
/-- Byte offset of the stage word. -/
def Stage.off (g : Stage) : Nat := 32 + 4 * g.idx

def allStages (t : Task) : List Stage := (List.range 4).map fun i => { idx := i, word := t.f (256 + 32 * i) 32 }
/-- The stages up to the first NONE. -/
def gStages (t : Task) : List Stage := (allStages t).takeWhile fun g => g.kind ≠ 0
def stageOf (t : Task) (kind : Nat) : Option Stage := (gStages t).find? fun g => g.kind == kind
def hasStage (t : Task) (kind : Nat) : Bool := (stageOf t kind).isSome
def lastStage (t : Task) : Option Stage := (gStages t).getLast?
def stFunc (t : Task) (kind : Nat) : Nat := match stageOf t kind with | some g => g.func | none => 0

/-! Operand fields (R319). -/
def gM (t : Task) : Nat := t.f 384 24
def gN (t : Task) : Nat := t.f 408 24
def gK (t : Task) : Nat := t.f 432 24
def gKslice (t : Task) : Nat := t.f 456 9
def gAfmt (t : Task) : Nat := t.f 465 4
def gBfmt (t : Task) : Nat := t.f 469 4
def gCfmt (t : Task) : Nat := t.f 473 4
def gDfmt (t : Task) : Nat := t.f 477 4
def gAsrc (t : Task) : Nat := t.f 481 2
def gBsrc (t : Task) : Bool := t.b 483
def gPattern (t : Task) : Nat := t.f 484 4
def gA (t : Task) : Nat := t.addr 512
def gB (t : Task) : Nat := t.addr 576
def gC (t : Task) : Nat := t.addr 640
def gD (t : Task) : Nat := t.addr 704
def gPalmSlot (t : Task) : Nat := t.f 704 4
def gPalmFirst (t : Task) : Nat := t.f 708 24
def gPalmSeq (t : Task) : BitVec 32 := t.raw.extractLsb' 732 32
def gAscale (t : Task) : Nat := t.addr 768
def gBscale (t : Task) : Nat := t.addr 832
def gLda (t : Task) : Nat := t.f 896 32
def gLdb (t : Task) : Nat := t.f 928 32
def gLdd (t : Task) : Nat := t.f 960 32
def gRow0 (t : Task) : Nat := t.f 992 32
def gHasC (t : Task) : Bool := hasStage t 1 && (stFunc t 1) % 2 == 1
def gPalm (t : Task) : Bool := gDfmt t == 12
/-- The GEMM is the first stage and reads the descriptor's A operand (R96). -/
def gemmFirst (t : Task) : Bool := match (gStages t).head? with | some g => g.kind == 1 | none => false

/-! Parameter blocks (R320). -/

/-- Bytes of a stage's block. -/
def stageBlock (t : Task) (g : Stage) : Nat :=
  match g.kind with
  | 1 => if gPattern t = 0 then 0 else 8
  | 2 => if 8 ≤ g.func then 16 else 0
  | 3 => 48
  | 4 => 48
  | 5 => 16
  | 6 => 8
  | 7 => 24
  | _ => 0

/-- First bit of the block of a stage kind. -/
def blockBit (t : Task) (kind : Nat) : Nat :=
  1024 + 8 * (((gStages t).takeWhile fun g => g.kind ≠ kind).map (stageBlock t)).foldl (· + ·) 0
/-- All blocks together, in bytes. -/
def blockTotal (t : Task) : Nat := ((gStages t).map (stageBlock t)).foldl (· + ·) 0

def gMeta (t : Task) : Nat := t.addr (blockBit t 1)
def eX (t : Task) : Nat := t.addr (blockBit t 2)
def eXfmt (t : Task) : Nat := t.f (blockBit t 2 + 56) 4
def eXliner (t : Task) : Bool := t.b (blockBit t 2 + 60)
def eXfirst (t : Task) : Nat := t.f (blockBit t 2 + 64) 32
def eXlast (t : Task) : Nat := t.f (blockBit t 2 + 96) 32
def nEps (t : Task) : F32 := t.fp (blockBit t 3)
def nGamma (t : Task) : Nat := t.addr (blockBit t 3 + 32)
def nBeta (t : Task) : Nat := t.addr (blockBit t 3 + 88)
def nDgamma (t : Task) : Nat := t.addr (blockBit t 3 + 144)
def nDbeta (t : Task) : Nat := t.addr (blockBit t 3 + 200)
def nX (t : Task) : Nat := t.addr (blockBit t 3 + 256)
def nXfmt (t : Task) : Nat := t.f (blockBit t 3 + 312) 4
def nXliner (t : Task) : Bool := t.b (blockBit t 3 + 316)
def nXfirst (t : Task) : Nat := t.f (blockBit t 3 + 320) 32
def nXlast (t : Task) : Nat := t.f (blockBit t 3 + 352) 32
def nL (t : Task) : Nat := 128 * (match stageOf t 3 with | some g => g.param | none => 0)
def dP (t : Task) : Nat := t.f (blockBit t 4) 32
def dSeed (t : Task) : Nat := t.f (blockBit t 4 + 32) 64
def dSeedC (t : Task) : Nat := t.f (blockBit t 4 + 96) 64
def dLayer (t : Task) : Nat := t.f (blockBit t 4 + 160) 16
def dMicro (t : Task) : Nat := t.f (blockBit t 4 + 176) 32
def dReplica (t : Task) : Nat := t.f (blockBit t 4 + 208) 32
def dRowLen (t : Task) : Nat := t.f (blockBit t 4 + 240) 16 + 1
def dColBase (t : Task) : Nat := t.f (blockBit t 4 + 256) 32
def dRowBase (t : Task) : Nat := t.f (blockBit t 4 + 288) 32
def dRowId (t : Task) : Nat := t.addr (blockBit t 4 + 320)
def cMeta (t : Task) : Nat := t.addr (blockBit t 5)
def cScale (t : Task) : Nat := t.addr (blockBit t 5 + 64)
def qScale (t : Task) : Nat := t.addr (blockBit t 6)
def sArea (t : Task) : SaveArea :=
  { data := t.addr (blockBit t 7), alloc := t.addr (blockBit t 7 + 56), index := t.addr (blockBit t 7 + 112), limit := t.f (blockBit t 7 + 168) 24 }

/-! The well-formedness of R96, R320. -/

/-- FUNC and FMT values a kind allows. -/
def stageFuncOk (g : Stage) : Bool :=
  match g.kind with
  | 1 => decide (g.func ≤ 1)
  | 2 => decide (g.func ≤ 4) || decide (9 ≤ g.func ∧ g.func ≤ 12)
  | 3 => [0, 1, 8, 9].contains g.func
  | 7 => decide (g.func ≤ 1)
  | _ => g.func == 0
def stageFmtOk (g : Stage) : Bool :=
  match g.kind with
  | 5 => true
  | 6 => decide (5 ≤ g.fmt ∧ g.fmt ≤ 10)
  | 7 => decide (g.fmt ≤ 2)
  | _ => g.fmt == 0
def stageParamOk (g : Stage) : Bool :=
  match g.kind with
  | 3 => true
  | 5 => decide (1 ≤ bits g.param 0 4 ∧ bits g.param 0 4 ≤ 4) && g.param < 32
  | _ => g.param == 0

/-- One stage word against R96, with its predecessors. -/
def stageWordOk (t : Task) (g : Stage) : Bool :=
  if g.kind = 0 then g.word == 0 && g.idx != 0
  else
    decide (g.kind ≤ 7) && !g.word.testBit 15 && g.ls != 3 && stageFuncOk g && stageFmtOk g && stageParamOk g
      && ((allStages t).take g.idx).all (fun h => h.kind != 0 && h.kind != g.kind)
      && ((g.kind != 5 && g.kind != 6) || ((allStages t).drop (g.idx + 1)).all fun h => h.kind == 0)
      && (g.kind != 7 || g.idx == 0 || (((allStages t).drop (g.idx + 1)).any fun h => h.kind != 0))

def stageFails (t : Task) : List Fail :=
  ((allStages t).flatMap fun g => need (stageWordOk t g) stStage g.off)
    ++ need ((blockTotal t + 63) / 64 + 1 == t.cont) stStage 1

/-! Widths (R97, R99). -/

/-- The input width of each stage, worked back from the output's N; none where a SWIGLU_BWD width cannot be (R99). -/
def inWidth (t : Task) (g : Stage) (out : Nat) : Option Nat :=
  if g.kind = 1 then some (gK t)
  else if g.kind = 2 && g.func = 3 then some (2 * out)
  else if g.kind = 2 && g.func = 11 then (if out % 2 = 0 then some (out / 2) else none)
  else some out

/-- Widths into the stages, first stage first, and out of the last. -/
def widths (t : Task) : List Stage → Option (List Nat)
  | [] => some [gN t]
  | g :: r =>
    match widths t r with
    | none => none
    | some l => match inWidth t g (l.headD 0) with
      | none => none
      | some w => some (w :: l)

/-- Width into the stage of a kind, and out of it. -/
def widthInto (t : Task) (kind : Nat) : Nat :=
  match widths t (gStages t) with
  | none => 0
  | some l => match (gStages t).findIdx? fun g => g.kind == kind with
    | some i => (l[i]?).getD 0
    | none => 0
def widthOutOf (t : Task) (kind : Nat) : Nat :=
  match widths t (gStages t) with
  | none => 0
  | some l => match (gStages t).findIdx? fun g => g.kind == kind with
    | some i => (l[i + 1]?).getD 0
    | none => 0
/-- Width of the Gauntlet's input. -/
def inputWidth (t : Task) : Nat := match widths t (gStages t) with | some l => l.headD 0 | none => 0

/-- Columns of the saved input of the ELEMENTWISE stage (R98). -/
def savedWidth (t : Task) : Nat := if stFunc t 2 = 11 then 2 * widthInto t 2 else widthInto t 2

/-! The body (R319, R320). -/

/-- LDD steps the destination and a C input; the packed arrays of COMPRESS are not stepped (R121, R319). -/
def lddUsed (t : Task) : Bool := !hasStage t 5 || gHasC t

/-- The operand fields of entries 0 and 1, with whether the form uses them (R319). -/
def operandFields (t : Task) : List (Nat × Nat × Bool) :=
  let gemm := hasStage t 1
  let amx := match fmtOf (gAfmt t) with | some f => f.isMx | none => true
  let bmx := match fmtOf (gBfmt t) with | some f => f.isMx | none => true
  [(256, 128, true), (384, 24, true), (408, 24, true), (432, 24, gemm), (456, 9, gemm), (465, 4, true), (469, 4, gemm), (473, 4, gHasC t),
    (477, 4, true), (481, 2, true), (483, 1, gemm), (484, 4, gemm), (512, 56, true), (576, 56, gemm), (640, 56, gHasC t)]
    ++ (if gPalm t then [(704, 4, true), (708, 24, true), (732, 32, true)] else [(704, 56, true)])
    ++ (if gAsrc t = 1 then [(768, 32, true), (800, 32, true)]
        else if gAsrc t = 2 then [(768, 13, true), (781, 3, true), (784, 28, true)]
        else [(768, 56, amx)])
    ++ (if gBsrc t && gemm then [(832, 32, true), (864, 32, true)] else [(832, 56, gemm && bmx)])
    ++ [(896, 32, true), (928, 32, gemm), (960, 32, lddUsed t), (992, 32, gPattern t != 0)]

/-- The fields of the stage blocks, in stage order (R320). -/
def blockFields (t : Task) : List (Nat × Nat × Bool) :=
  let blk (kind : Nat) (l : List (Nat × Nat × Bool)) : List (Nat × Nat × Bool) :=
    if hasStage t kind then l.map fun e => (blockBit t kind + e.1, e.2.1, e.2.2) else []
  let ew := stFunc t 2
  let nf := stFunc t 3
  let parts : List (Nat × List (Nat × Nat × Bool)) :=
    [(1, if gPattern t = 0 then [] else blk 1 [(0, 56, true)]),
     (2, if 8 ≤ ew then blk 2 [(0, 56, true), (56, 4, true), (60, 1, true), (64, 32, eXliner t), (96, 32, eXliner t)] else []),
     (3, blk 3 [(0, 32, true), (32, 56, true), (88, 56, nf == 1), (144, 56, decide (8 ≤ nf)), (200, 56, nf == 9),
                (256, 56, decide (8 ≤ nf)), (312, 4, decide (8 ≤ nf)), (316, 1, decide (8 ≤ nf)),
                (320, 32, decide (8 ≤ nf) && nXliner t), (352, 32, decide (8 ≤ nf) && nXliner t)]),
     (4, blk 4 [(0, 32, true), (32, 64, true), (96, 64, true), (160, 16, true), (176, 32, true), (208, 32, true), (240, 16, true),
                (256, 32, true), (288, 32, dRowId t == 0), (320, 56, true)]),
     (5, blk 5 [(0, 56, true), (64, 56, match stageOf t 5 with | some g => decide (5 ≤ g.fmt) | none => false)]),
     (6, blk 6 [(0, 56, true)]),
     (7, blk 7 [(0, 56, true), (56, 56, true), (112, 56, true), (168, 24, true)])]
  (gStages t).flatMap fun g => (parts.filter fun e => e.1 == g.kind).flatMap (·.2)

/-- The body of a Gauntlet whose stage words are well formed. -/
def gauntletBody (t : Task) : List Fail := bodyFails t (operandFields t ++ blockFields t)

/-! Formats, shapes, parameters (R55 to R57, R98 to R101, R104, R119, R210, R319). -/

def isPlain (n : Nat) : Bool := decide (n ≤ 4)
def fmtMx (n : Nat) : Bool := match fmtOf n with | some f => f.isMx | none => false

/-- A format that the vector unit takes as an input (R55, R97). DEDUCED (log 59): PAIR, which R55 lists as vector-unit input, is converted
under R70; SPLIT3, whose meaning is an FP32 operand to be split, is read as the FP32 value where no GEMM splits it. -/
def vectorInput (n : Nat) : Bool := decide (n ≤ 12)

/-- The formats of a _BWD stage's saved input: it has no scale array (R98; log 59). -/
def savedInput (n : Nat) : Bool := isPlain n || n == 12

/-- The format checks that need no stage block (R55, R56, R97, R125, R210). -/
def formatFails (t : Task) : List Fail :=
  let gemm := hasStage t 1
  let pairOk : Bool := match fmtOf (gAfmt t), fmtOf (gBfmt t) with
    | some a, some b => gemmPair a b
    | _, _ => false
  let last : Nat := match lastStage t with | some g => g.kind | none => 0
  let lastFmt : Nat := match lastStage t with | some g => g.fmt | none => 0
  (if gemm then need pairOk stFormat 58 else need (vectorInput (gAfmt t)) stFormat 58)
    ++ need (!gHasC t || decide (gCfmt t ≤ 2)) stFormat 59
    ++ (if last = 5 ∨ last = 6 then need (gDfmt t == lastFmt) stFormat 59 else need (isPlain (gDfmt t) || gPalm t) stFormat 59)
    ++ (match stageOf t 5 with | some g => need (decide (g.fmt ≤ 10)) stFormat g.off | none => [])
    ++ (match stageOf t 6 with | some g => need (decide (5 ≤ g.fmt ∧ g.fmt ≤ 10)) stFormat g.off | none => [])
    ++ need (!(gAsrc t == 2 && fmtMx (gAfmt t))) stFormat 58

/-- The formats of the saved inputs. -/
def savedFormatFails (t : Task) : List Fail :=
  need (!(hasStage t 2 && decide (8 ≤ stFunc t 2)) || savedInput (eXfmt t)) stFormat ((blockBit t 2 + 56) / 8)
    ++ need (!(hasStage t 3 && decide (8 ≤ stFunc t 3)) || savedInput (nXfmt t)) stFormat ((blockBit t 3 + 312) / 8)

/-- Reserved encodings of the operand fields (R118, R319). -/
def encodingFails (t : Task) : List Fail := need (gAsrc t != 3) stReserved 60 ++ need (decide (gPattern t ≤ 4)) stReserved 60

def shapeFails (t : Task) : List Fail :=
  let gemm := hasStage t 1
  let inw := inputWidth t
  let amx := fmtMx (gAfmt t)
  let bmx := fmtMx (gBfmt t)
  let compress := hasStage t 5
  let sparse := gPattern t != 0
  let swiglu := stFunc t 2 == 3
  need ((widths t (gStages t)).isSome) stShape 51
    ++ (if gemm then need (decide (1 ≤ gK t)) stShape 54 ++ need (!(amx || bmx) || gK t % 32 == 0) stShape 54 else [])
    ++ need (!(amx && !gemm) || inw % 32 == 0) stShape 54
    ++ (if sparse then need (gK t % 32 == 0) stShape 54 ++ need (gLda t % 32 == 0) stShape 112
        else need (decide (inw ≤ gLda t) && (!amx || gLda t % 32 == 0) && (gAsrc t != 2 || gLda t == gK t)) stShape 112)
    ++ (if gemm then need (decide (gK t ≤ gLdb t) && (!bmx || gLdb t % 32 == 0)) stShape 116 else [])
    ++ need ((compress || decide (gN t ≤ gLdd t)) && (!gHasC t || decide (widthOutOf t 1 ≤ gLdd t))) stShape 120
    ++ need (!(compress || hasStage t 6) || gN t % 32 == 0) stShape 51
    ++ need (!hasStage t 6 || gLdd t % 32 == 0) stShape 120
    ++ need (!hasStage t 3 || widthInto t 3 == nL t) stShape 51
    ++ need (!(hasStage t 2 && swiglu) || (widthInto t 2) % 2 == 0) stShape 51

/-- The largest e of R103 stays below 2^48 for the m rows of the Gauntlet, by their identifiers. -/
def dropoutFits (t : Task) (m : Nat) (rowId : Nat → Nat) : Bool :=
  (List.range m).all fun i => decide (rowId i * dRowLen t + dColBase t + (widthInto t 4 - 1) < 2 ^ 48)

/-- The parameter checks (R98, R104, R110, R119). PATTERN beside a Liner range or a directory entry, or with the GEMM not in stage 1, has no
status of its own in R119; DEDUCED (log 59): it is a parameter out of its range. -/
def paramFails (t : Task) : List Fail :=
  let gemm := hasStage t 1
  need (decide (1 ≤ gM t) || gAsrc t == 2) stParam 48
    ++ need (decide (1 ≤ gN t)) stParam 51
    ++ need (!gemm || decide (8 ≤ gKslice t ∧ gKslice t ≤ 256)) stParam 57
    ++ need (gAsrc t == 0 || gemmFirst t) stParam 60
    ++ need (gPattern t == 0 || (gemmFirst t && gAsrc t == 0)) stParam 60
    ++ (match stageOf t 3 with | some g => need (decide (1 ≤ g.param ∧ g.param ≤ 512)) stParam (g.off + 2) | none => [])
    ++ (if hasStage t 4 then
          need (decide (dP t ≤ 0xF0000000)) stParam (blockBit t 4 / 8)
            ++ need (dSeed t + dSeedC t == 2 ^ 64 - 1) stSeed ((blockBit t 4 + 32) / 8)
        else [])
    ++ need (!hasStage t 7 || tallyOk (sArea t).alloc) stParam ((blockBit t 7 + 56) / 8)
    ++ need (gAsrc t != 1 || decide (t.f 768 32 ≤ t.f 800 32)) stParam 100
    ++ need (!(gBsrc t) || decide (t.f 832 32 ≤ t.f 864 32)) stParam 108
    ++ need (!(hasStage t 2 && eXliner t) || decide (eXfirst t ≤ eXlast t)) stParam ((blockBit t 2 + 96) / 8)
    ++ need (!(hasStage t 3 && nXliner t) || decide (nXfirst t ≤ nXlast t)) stParam ((blockBit t 3 + 352) / 8)

/-- A format code, FP32 where it names none. -/
def fmtD (n : Nat) : Fmt := (fmtOf n).getD .fp32

/-! The rows of the operand (R202, R210). -/

/-- What a Gauntlet reads its rows from: how many, which number the first has in the output area, and where the rows of A start. -/
structure RowSource where
  m : Nat
  first : Nat := 0
  a : Nat

/-- The directory entry that the descriptor names (R202, R210): none where there is no such entry. -/
def findEntry (s : State) (t : Task) : Option (Nat × Nat) :=
  let n := bits (memNat s (gA t) 8) 32 16
  ((List.range n).map fun i => memNat s (gA t + 64 + 16 * i) 8).findSome? fun e =>
    if bits e 0 13 == t.f 768 13 && bits e 13 3 == t.f 781 3 then some (bits e 16 24, bits e 40 24) else none

/-- The Gauntlet's rows, as its directory stands: M rows from A_ADDR, or those of the entry, none where there is no such entry (R210). -/
def rowSource (s : State) (c : CoreNo) (t : Task) : RowSource :=
  if gAsrc t != 2 then { m := gM t, a := gA t }
  else
    let e := (findEntry s t).getD (0, 0)
    { m := e.2, first := e.1, a := cmemBase c + t.f 784 28 + e.1 * elemBytes (fmtD (gAfmt t)) (gK t) }

/-- The directory of a directory operand (R210): its header lies in the core's own cluster memory and is complete. -/
def directoryFails (s : State) (c : CoreNo) (t : Task) : List Fail :=
  if gAsrc t != 2 then []
  else
    need (rangeRegion (gA t) 64 == some (.cmem (coreTile c) (Fin.ofNat 4 (coreCluster c)))) stParam 64
      ++ (if rangeOk s t.ctx .read (gA t) 64 then need (bitOf (memNat s (gA t) 64) 48) stDispatchIncomplete 64 else [])

/-- The rows as admission finds them; none while the directory cannot be read. -/
def admitRows (s : State) (c : CoreNo) (t : Task) : RowSource :=
  if gAsrc t == 2 && (!(directoryFails s c t).isEmpty || !rangeOk s t.ctx .read (gA t) (64 + 16 * bits (memNat s (gA t) 8) 32 16)) then { m := 0, a := 0 }
  else rowSource s c t

/-! Ranges (R348) and Palms (R223). -/

/-- A range that a descriptor names: the right it needs, its first byte, its bytes, and the byte offset of its field. -/
abbrev Named := Right × Nat × Nat × Nat

/-- Bytes of the block scales of some rows. -/
def scaleExtent (rows ld cols : Nat) : Nat := if rows = 0 then 0 else (rows - 1) * ld / 32 + cols / 32

/-- The ranges of A, B and the C input. -/
def operandRanges (t : Task) (src : RowSource) : List Named :=
  let m := src.m
  let af := fmtD (gAfmt t)
  let bf := fmtD (gBfmt t)
  let inw := inputWidth t
  let n := widthOutOf t 1
  let aScale : List Named := if af.isMx then [(.read, gAscale t, scaleExtent m (gLda t) inw, 96)] else []
  let bScale : List Named := if bf.isMx then [(.read, gBscale t, scaleExtent n (gLdb t) (gK t), 104)] else []
  let a : List Named := match gAsrc t with
    | 0 => if gPattern t = 0 then (.read, gA t, rowsExtent af m inw (gLda t), 64) :: aScale else [(.read, gMeta t, 32, blockBit t 1 / 8)]
    | 1 => [(.read, gA t + 16 * t.f 768 32, 16 * (t.f 800 32 + 1 - t.f 768 32), 64)]
    | _ => [(.read, gA t, 64, 64), (.read, src.a, rowsExtent af m inw (gLda t), 98)]
  let b : List Named := if !hasStage t 1 then []
    else if gBsrc t then [(.read, gB t + 16 * t.f 832 32, 16 * (t.f 864 32 + 1 - t.f 832 32), 72)]
    else (.read, gB t, rowsExtent bf n (gK t) (gLdb t), 72) :: bScale
  let cf := fmtD (gCfmt t)
  let c : List Named := if gHasC t then [(.read, rowAddr cf (gC t) (gLdd t) src.first, rowsExtent cf m n (gLdd t), 80)] else []
  a ++ b ++ c

/-- The ranges of the destination: dense, or those of COMPRESS or QUANT. -/
def resultRanges (t : Task) (src : RowSource) : List Named :=
  let m := src.m
  let f := fmtD (gDfmt t)
  let blocks := m * gN t / 32
  let d : List Named :=
    if gPalm t then []
    else match stageOf t 5 with
      | some g =>
        let p := bits g.param 0 4
        let scales : List Named := if fmtMx g.fmt then [(.write, cScale t, blocks, (blockBit t 5 + 64) / 8)] else []
        (.write, gD t, blocks * valueBytes p (fmtD g.fmt), 88) :: (.write, cMeta t, 32 + blocks * recordBytes p, blockBit t 5 / 8) :: scales
      | none => [(.write, rowAddr f (gD t) (gLdd t) src.first, rowsExtent f m (gN t) (gLdd t), 88)]
  let q : List Named :=
    if hasStage t 6 then [(.write, qScale t + src.first * gLdd t / 32, scaleExtent m (gLdd t) (gN t), blockBit t 6 / 8)] else []
  d ++ q

/-- The ranges of a saved input: a Liner range's index entries, or the array. -/
def savedRange (liner : Bool) (addr first last fmt elems field : Nat) : Named :=
  if liner then (.read, addr + 16 * first, 16 * (last + 1 - first), field) else (.read, addr, elemBytes (fmtD fmt) elems, field)

/-- The ranges of the stage blocks. -/
def stageRanges (t : Task) (m : Nat) : List Named :=
  let b2 := blockBit t 2 / 8
  let b3 := blockBit t 3
  let l := nL t
  let nf := stFunc t 3
  let ew : List Named := if hasStage t 2 && decide (8 ≤ stFunc t 2) then
      [savedRange (eXliner t) (eX t) (eXfirst t) (eXlast t) (eXfmt t) (m * savedWidth t) b2] else []
  let beta : List Named := if nf = 1 then [(.read, nBeta t, 4 * l, (b3 + 88) / 8)] else []
  let dbeta : List Named := if nf = 9 then [(.write, nDbeta t, 8 * l, (b3 + 200) / 8)] else []
  let back : List Named := if 8 ≤ nf then
      (.write, nDgamma t, 8 * l, (b3 + 144) / 8) :: savedRange (nXliner t) (nX t) (nXfirst t) (nXlast t) (nXfmt t) (m * l) ((b3 + 256) / 8) :: dbeta
    else []
  let norm : List Named := if hasStage t 3 then (.read, nGamma t, 4 * l, (b3 + 32) / 8) :: (beta ++ back) else []
  let drop : List Named := if hasStage t 4 && dRowId t != 0 then [(.read, dRowId t, 4 * m, (blockBit t 4 + 320) / 8)] else []
  let save : List Named := if hasStage t 7 then [(.add, (sArea t).alloc, 8, (blockBit t 7 + 56) / 8)] else []
  ew ++ norm ++ drop ++ save

/-- Every range that the descriptor names, with its directory's rows. -/
def gauntletRanges (t : Task) (src : RowSource) : List Named := operandRanges t src ++ resultRanges t src ++ stageRanges t src.m

/-- The destination ranges that a failure leaves undefined (R94): a COMPRESS header is none of them (R131). -/
def gauntletDest (t : Task) (src : RowSource) : List (Nat × Nat) :=
  (gauntletRanges t src).filterMap fun r =>
    if r.1 != .write then none
    else if hasStage t 5 && r.2.1 == cMeta t && r.2.2.2 == blockBit t 5 / 8 then some (r.2.1 + 32, r.2.2.1 - 32)
    else some (r.2.1, r.2.2.1)

def rangeFails (s : State) (t : Task) (rs : List Named) : List Fail :=
  rs.flatMap fun r => need (rangeOk s t.ctx r.1 r.2.1 r.2.2.1) stRange r.2.2.2

/-- A contribution's Palm (R223, R225). Row r of the output, numbered as in the output area of a directory operand, enters the elements from
FIRST + r × LDD on. -/
def palmFails (s : State) (c : CoreNo) (t : Task) (src : RowSource) : List Fail :=
  if !gPalm t then []
  else
    let p := getPalm s c (gPalmSlot t)
    let last := gPalmFirst t + (src.first + src.m - 1) * gLdd t + (gN t - 1)
    need (p.isOpen && p.owner == t.ctx && !p.broken) stPalm 88
      ++ need (src.m == 0 || !(p.isOpen && p.owner == t.ctx) || decide (last < p.elements)) stRange 88
      ++ need (!seqBefore (gPalmSeq t) p.nextSeq) stPalmSeq 91

/-- A stage that applies or removes the loss scale, while its pair is invalid (R79). -/
def lossFails (s : State) (t : Task) : List Fail :=
  (gStages t).flatMap fun g => need (g.ls == 0 || !(getPart s t.part).ls.invalid) stLossScale g.off

/-- DROPOUT's element numbers where ROW_BASE gives them (R104); those of a row identifier array are checked once it has been read. -/
def dropoutFails (t : Task) (m : Nat) : List Fail :=
  need (!hasStage t 4 || dRowId t != 0 || dropoutFits t m fun i => dRowBase t + i) stParam ((blockBit t 4 + 288) / 8)

/-- FOOTPRINT fits the core (R46, R84). -/
def footprintFails (s : State) (c : CoreNo) (t : Task) : List Fail := need (decide (t.footprint ≤ coreUnits s c)) stOperandStore 2

/-- Every admission check of a GAUNTLET. Stage words that are not well formed leave the places and the use of their blocks open, so only what does
not depend on them can be judged beside them. -/
def gauntletFails (s : State) (c : CoreNo) (t : Task) : List Fail :=
  headerFails s t ++ footprintFails s c t ++
    (match stageFails t with
     | [] =>
       let src := admitRows s c t
       gauntletBody t ++ formatFails t ++ savedFormatFails t ++ encodingFails t ++ shapeFails t ++ paramFails t ++ dropoutFails t src.m
         ++ rangeFails s t (gauntletRanges t src) ++ palmFails s c t src ++ lossFails s t ++ directoryFails s c t
     | l => l ++ bodyFailsTo t 1024 (operandFields t) ++ formatFails t ++ encodingFails t)

/-! K-slices (R81, R89). -/

/-- Rows of a core block on this core: 512, or 384 on a degraded one (R81). -/
def coreRowsOf (s : State) (c : CoreNo) : Nat := if coreDegraded s c then 384 else 512

/-- The transfers of the GEMM's operands for one K-slice of one core block, first row r0, first column c0, first K index k0. -/
def sliceXfers (s : State) (c : CoreNo) (t : Task) (src : RowSource) (r0 c0 k0 : Nat) : List Xfer :=
  let af := fmtD (gAfmt t)
  let bf := fmtD (gBfmt t)
  let kn := min (32 * gKslice t) (gK t - k0)
  let rn := min (coreRowsOf s c) (src.m - r0)
  let cn := min 512 (widthOutOf t 1 - c0)
  (if gemmFirst t && gAsrc t != 1 && gPattern t == 0 then
      rowBlock af (rowAddr af src.a (gLda t) r0) (gLda t) rn k0 kn
        :: (if af.isMx then [scaleBlock (gAscale t + r0 * gLda t / 32) (gLda t) rn k0 kn] else [])
    else [])
    ++ (if gBsrc t then []
      else rowBlock bf (rowAddr bf (gB t) (gLdb t) c0) (gLdb t) cn k0 kn
        :: (if bf.isMx then [scaleBlock (gBscale t + c0 * gLdb t / 32) (gLdb t) cn k0 kn] else []))

/-- The K-slices of a Gauntlet's GEMM in order: core blocks in ascending row-block order, then column-block order, each slice by slice (R81, R89). -/
def gauntletSlices (s : State) (c : CoreNo) (t : Task) (src : RowSource) : List (List Xfer) :=
  if !hasStage t 1 then []
  else
    let R := coreRowsOf s c
    let ks := 32 * gKslice t
    ((List.range ((src.m + R - 1) / R)).flatMap fun rb =>
      (List.range ((widthOutOf t 1 + 511) / 512)).flatMap fun cb =>
        (List.range ((gK t + ks - 1) / ks)).map fun j => sliceXfers s c t src (rb * R) (cb * 512) (j * ks)).filter fun l => !l.isEmpty

end Sys2Proof.Machine
end

