-- ==== Sys2Proof/Machine/PhaseMap.lean ====
section
/-!
DEFINITION. The phase map as bytes (R184 to R189) and the checks by which it is installed (R190).
-/
namespace Sys2Proof.Machine
open Sys2Proof

/-- n bytes at an offset of a map, as one number. -/
def mNat (m : List Byte) (off n : Nat) : Nat := natOfBytes ((m.drop off).take n)

/-- The next 64-byte boundary. -/
def align64 (n : Nat) : Nat := (n + 63) / 64 * 64

/-! The header (R184). -/
def mapVersion (m : List Byte) : Nat := bits (mNat m 0 32) 0 8
def mapPartition (m : List Byte) : Nat := bits (mNat m 0 32) 8 7
def mapKind (m : List Byte) : Nat := bits (mNat m 0 32) 15 2
def mapNPart (m : List Byte) : Nat := bits (mNat m 0 32) 17 9
def mapNSets (m : List Byte) : Nat := bits (mNat m 0 32) 26 3
def mapNGroups (m : List Byte) : Nat := bits (mNat m 0 32) 32 13
def mapNRings (m : List Byte) : Nat := bits (mNat m 0 32) 48 5
def mapNTrees (m : List Byte) : Nat := bits (mNat m 0 32) 64 13
def mapNNodes (m : List Byte) : Nat := bits (mNat m 0 32) 80 11
def mapLength (m : List Byte) : Nat := bits (mNat m 0 32) 96 32
def mapCrc (m : List Byte) : Nat := bits (mNat m 0 32) 128 32

/-! Sections (R185 to R189). -/

/-- The participants in order; the order is the participant position. -/
def participants (m : List Byte) : List CoreNo :=
  (List.range (mapNPart m)).map fun i => Fin.ofNat 256 (mNat m (64 + i) 1)

/-- Offset of set k's header: each set starts on a boundary. -/
def setOffset (m : List Byte) : Nat → Nat
  | 0 => 320
  | k + 1 => let o := setOffset m k; align64 (o + 16 + 16 * bits (mNat m o 16) 0 14)
def setExperts (m : List Byte) (k : Nat) : Nat := bits (mNat m (setOffset m k) 16) 0 14
def groupsOffset (m : List Byte) : Nat := setOffset m (mapNSets m)
def ringsOffset (m : List Byte) : Nat := align64 (groupsOffset m + 128 * mapNGroups m)
def treesOffset (m : List Byte) : Nat := align64 (ringsOffset m + 272 * mapNRings m)
def nodesOffset (m : List Byte) : Nat := align64 (treesOffset m + 16 * mapNTrees m)
def mapEnd (m : List Byte) : Nat := nodesOffset m + 8 * mapNNodes m

/-- Entry of expert e of set k (R186). -/
def expertEntry (m : List Byte) (k e : Nat) : Nat := mNat m (setOffset m k + 16 + 16 * e) 16
def exNRepl (v : Nat) : Nat := bits v 64 4
def exGroupBase (v : Nat) : Nat := bits v 68 12
def exSrcTile (v : Nat) : TileNo := Fin.ofNat 64 (bits v 80 6)
def exReplicas (v : Nat) : List CoreNo := (List.range (exNRepl v)).map fun q => Fin.ofNat 256 (bits v (8 * q) 8)

/-- Multicast group g (R187): its slots' cores and offsets. -/
def groupEntry (m : List Byte) (g : Nat) : Nat := mNat m (groupsOffset m + 128 * g) 128
def groupSlots (m : List Byte) (g : Nat) : List (CoreNo × Nat) :=
  let v := groupEntry m g
  (List.range (bits v 0 4)).map fun q => (Fin.ofNat 256 (bits v (64 + 64 * q) 8), bits v (64 + 64 * q + 8) 28)

/-- The cores of ring r in ring order (R188). -/
def ringCores (m : List Byte) (r : Nat) : List CoreNo :=
  let o := ringsOffset m + 272 * r
  (List.range (bits (mNat m o 16) 0 9)).map fun i => Fin.ofNat 256 (mNat m (o + 16 + i) 1)

/-- Tree t and node n (R189). -/
def treeEntry (m : List Byte) (t : Nat) : Nat := mNat m (treesOffset m + 16 * t) 16
def trRootTile (v : Nat) : TileNo := Fin.ofNat 64 (bits v 0 6)
def trRootUnit (v : Nat) : Nat := bits v 6 4
def trDirect (v : Nat) : Bool := v.testBit 10
def trTop (v : Nat) : Nat := bits v 11 10
def trDirectLeaf (v : Nat) : CoreNo := Fin.ofNat 256 (bits v 21 8)
def nodeEntry (m : List Byte) (n : Nat) : Nat := mNat m (nodesOffset m + 8 * n) 8
def ndPass (v : Nat) : Bool := v.testBit 0
def ndTile (v : Nat) : TileNo := Fin.ofNat 64 (bits v 1 6)
def ndSlot (v : Nat) : Nat := bits v 7 4
def ndALeaf (v : Nat) : Bool := v.testBit 11
def ndA (v : Nat) : Nat := bits v 12 10
def ndBLeaf (v : Nat) : Bool := v.testBit 22
def ndB (v : Nat) : Nat := bits v 23 10
def ndUpRoot (v : Nat) : Bool := v.testBit 33
def ndUp (v : Nat) : Nat := bits v 34 10
def ndUpRole (v : Nat) : Bool := v.testBit 44

/-- The Cuff of a tree's root unit, where it exists (R144, R189). -/
def rootCuff (tile : TileNo) (unit : Nat) : Option CuffNo :=
  match unit with
  | 8 => (tileStacks tile)[0]?.map fun k => Fin.ofNat 40 k.val
  | 9 => (tileStacks tile)[1]?.map fun k => Fin.ofNat 40 k.val
  | 10 => (tilePort tile).map fun p => Fin.ofNat 40 (32 + p.val)
  | _ => none

/-- What a tree's walk from a node finds: the nodes with the parent and role through which each was reached, and the leaves. -/
structure Walk where
  nodes : List (Nat × Option Nat × Bool) := []
  leaves : List Nat := []

/-- Walk the children of a node, at most `fuel` deep. -/
def walkNode (m : List Byte) : Nat → Nat → Option Nat → Bool → Walk → Walk
  | 0, n, up, role, w => { w with nodes := w.nodes ++ [(n, up, role)] }
  | fuel + 1, n, up, role, w =>
    let v := nodeEntry m n
    let w := { w with nodes := w.nodes ++ [(n, up, role)] }
    let w := if ndALeaf v then { w with leaves := w.leaves ++ [ndA v] } else walkNode m fuel (ndA v) (some n) false w
    if ndPass v then w
    else if ndBLeaf v then { w with leaves := w.leaves ++ [ndB v] } else walkNode m fuel (ndB v) (some n) true w

/-- Where a leaf core or a node of a tree sends (R159, R189): a node with a role, or the root. -/
inductive UpTarget where
  | node (n : Nat) (role : Bool)
  | root
  deriving DecidableEq, Repr

/-- The nodes of a tree. -/
def treeWalk (m : List Byte) (t : Nat) : Walk :=
  let v := treeEntry m t
  if trDirect v then { leaves := [(trDirectLeaf v).val] } else walkNode m (mapNNodes m) (trTop v) none false {}

/-- The parent of a leaf core in a tree, if the tree names the core (R233). -/
def leafParent (m : List Byte) (t : Nat) (c : CoreNo) : Option UpTarget :=
  let v := treeEntry m t
  if trDirect v then (if trDirectLeaf v == c then some .root else none)
  else
    (treeWalk m t).nodes.findSome? fun e =>
      let nv := nodeEntry m e.1
      if ndALeaf nv && ndA nv == c.val then some (.node e.1 false)
      else if !ndPass nv && ndBLeaf nv && ndB nv == c.val then some (.node e.1 true)
      else none

/-- A tree's root Cuff. -/
def treeRoot (m : List Byte) (t : Nat) : Option CuffNo := rootCuff (trRootTile (treeEntry m t)) (trRootUnit (treeEntry m t))

/-! The checks of R190. -/

/-- Form: the header, the sections' reserved bits and gaps. -/
def checkForm (m : List Byte) : Bool :=
  let h := mNat m 0 32
  let zero (off n : Nat) : Bool := ((m.drop off).take n).all (· == 0)
  let setOk (k : Nat) : Bool :=
    let o := setOffset m k
    let n := setExperts m k
    decide (1 ≤ n ∧ n ≤ 8192) && bits (mNat m o 16) 14 114 == 0
      && (List.range n).all (fun e =>
            let v := expertEntry m k e
            bits v 86 42 == 0 && (List.range 8).all fun q => decide (q < exNRepl v) || bits v (8 * q) 8 == 0)
      && zero (o + 16 + 16 * n) (setOffset m (k + 1) - (o + 16 + 16 * n))
  let groupOk (g : Nat) : Bool :=
    let v := groupEntry m g
    let n := bits v 0 4
    decide (1 ≤ n ∧ n ≤ 8) && bits v 4 60 == 0 && bits v 576 448 == 0
      && (List.range 8).all fun q => bits v (64 + 64 * q + 36) 28 == 0 && (decide (q < n) || bits v (64 + 64 * q) 64 == 0)
  let ringOk (r : Nat) : Bool :=
    let o := ringsOffset m + 272 * r
    let n := bits (mNat m o 16) 0 9
    decide (1 ≤ n ∧ n ≤ 256) && bits (mNat m o 16) 9 119 == 0 && zero (o + 16 + n) (256 - n)
  mapVersion m == 1 && mNat m 32 32 == 2 ^ 256 - 1 - h
    && decide (mapLength m ≤ 2 ^ 21) && mapLength m % 64 == 0 && mapLength m == align64 (mapEnd m) && m.length == mapLength m
    && decide (1 ≤ mapNPart m ∧ mapNPart m ≤ 256) && decide (mapNSets m ≤ 4) && decide (mapNGroups m ≤ 4096)
    && decide (mapNRings m ≤ 16) && decide (mapNTrees m ≤ 4096) && decide (mapNNodes m ≤ 1024)
    && bits h 29 3 == 0 && bits h 45 3 == 0 && bits h 53 11 == 0 && bits h 77 3 == 0 && bits h 91 5 == 0 && bits h 160 96 == 0
    && (crc32c (m.drop 64)).toNat == mapCrc m
    && zero (64 + mapNPart m) (256 - mapNPart m)
    && (List.range (mapNSets m)).all setOk
    && (List.range (mapNGroups m)).all groupOk
    && zero (groupsOffset m + 128 * mapNGroups m) (ringsOffset m - (groupsOffset m + 128 * mapNGroups m))
    && (List.range (mapNRings m)).all ringOk
    && zero (ringsOffset m + 272 * mapNRings m) (treesOffset m - (ringsOffset m + 272 * mapNRings m))
    && (List.range (mapNTrees m)).all (fun t => bits (treeEntry m t) 29 99 == 0)
    && zero (treesOffset m + 16 * mapNTrees m) (nodesOffset m - (treesOffset m + 16 * mapNTrees m))
    && (List.range (mapNNodes m)).all (fun n => bits (nodeEntry m n) 45 19 == 0)
    && zero (mapEnd m) (mapLength m - mapEnd m)

/-- All leaves of all trees. -/
def allLeaves (m : List Byte) : List Nat := (List.range (mapNTrees m)).flatMap fun t => (treeWalk m t).leaves

/-- A core lies in the partition and is present; a tile in cluster mode does not fail it. -/
def coreInPart (s : State) (p : PartNo) (c : CoreNo) : Bool := partHasTile s p (coreTile c) && corePresent s c

/-- Cores: every core named anywhere. -/
def checkCores (s : State) (p : PartNo) (m : List Byte) : Bool :=
  let ps := participants m
  let inPart := coreInPart s p
  ps.all inPart && decide ps.Nodup
    && (List.range (mapNSets m)).all (fun k => (List.range (setExperts m k)).all fun e =>
          (exReplicas (expertEntry m k e)).all fun c => inPart c && ps.contains c)
    && (List.range (mapNGroups m)).all (fun g => (groupSlots m g).all fun sl => inPart sl.1)
    && (List.range (mapNRings m)).all (fun r => (ringCores m r).all inPart)
    && (allLeaves m).all fun l => decide (l < 256) && inPart (Fin.ofNat 256 l) && ps.contains (Fin.ofNat 256 l)

/-- Experts. -/
def checkExperts (s : State) (p : PartNo) (m : List Byte) : Bool :=
  (List.range (mapNSets m)).all fun k => (List.range (setExperts m k)).all fun e =>
    let v := expertEntry m k e
    let n := exNRepl v
    let rs := exReplicas v
    decide (1 ≤ n ∧ n ≤ 8) && decide rs.Nodup && decide (exGroupBase v + n - 1 < mapNGroups m)
      && (List.range n).all (fun q => ((groupSlots m (exGroupBase v + q)).map (·.1)) == rs.take (q + 1))
      && partHasTile s p (exSrcTile v) && !isHole s (exSrcTile v)

/-- Groups and Rings. -/
def checkGroups (m : List Byte) : Bool :=
  (List.range (mapNGroups m)).all (fun g =>
      let sl := groupSlots m g
      decide (sl.map (·.1)).Nodup && sl.all fun x => x.2 % 2048 == 0)
    && (List.range (mapNRings m)).all fun r => decide (ringCores m r).Nodup

/-- The stack or port of a root Cuff is present: not withdrawn and not reported FAILED or ABSENT. -/
def cuffPresent (s : State) (n : CuffNo) : Bool :=
  if h : n.val < 32 then !(getStack s ⟨n.val, h⟩).withdrawn && !isFailedOrAbsent s (fnStack ⟨n.val, h⟩)
  else
    let p : PortNo := Fin.ofNat 8 (n.val - 32)
    !(getXp s p).withdrawn && !isFailedOrAbsent s (fnPort p)

/-- Trees. -/
def checkTrees (s : State) (p : PartNo) (m : List Byte) : Bool :=
  (List.range (mapNTrees m)).all fun t =>
    let v := treeEntry m t
    (match treeRoot m t with
     | none => false
     | some n => cuffPresent s n && cuffOwner s n == some p && !isHole s (trRootTile v))
      && (trDirect v || decide (trTop v < mapNNodes m))

/-- Nodes: places, links that agree in both directions, each node in exactly one tree, once. -/
def checkNodes (s : State) (p : PartNo) (m : List Byte) : Bool :=
  let vs := (List.range (mapNNodes m)).map (nodeEntry m)
  let childOk (leaf : Bool) (x : Nat) : Bool := if leaf then decide (x < 256) else decide (x < mapNNodes m)
  let walks := (List.range (mapNTrees m)).map (treeWalk m)
  let reached : List (Nat × Option Nat × Bool) := walks.flatMap (·.nodes)
  let names : List Nat := reached.map (·.1)
  vs.all (fun v => partHasTile s p (ndTile v) && !isHole s (ndTile v) && childOk (ndALeaf v) (ndA v)
      && (if ndPass v then !ndBLeaf v && ndB v == 0 else childOk (ndBLeaf v) (ndB v)))
    && decide ((vs.map fun v => (ndTile v, ndSlot v)).Nodup)
    && decide names.Nodup && reached.length == mapNNodes m
    && reached.all (fun e =>
        let v := nodeEntry m e.1
        match e.2.1 with
        | none => ndUpRoot v
        | some n => !ndUpRoot v && ndUp v == n && ndUpRole v == e.2.2)
    && walks.all fun w => decide w.leaves.Nodup

/-- All of R190 (PHASE_MAP_CHECK). The node checks come after the form, which bounds every count. -/
def mapChecks (s : State) (p : PartNo) (m : List Byte) : Bool :=
  checkForm m && mapPartition m == p.val && checkCores s p m && checkExperts s p m && checkGroups m && checkTrees s p m
    && checkNodes s p m

end Sys2Proof.Machine
end

