-- ==== Sys2Proof/Machine/Collective.lean ====
section
/-!
DEFINITION. Collectives (R198, R215, R217, R321): their keys, joining, agreement and the common end.
-/
namespace Sys2Proof.Machine
open Sys2Proof

/-- The key within an opcode: DISPATCH's set, LAYER, MICRO_BATCH and BWD; RING and KEY of ATTN and ROTATE. -/
def collKey (t : Task) : Nat :=
  match t.op with
  | some .dispatch => t.f 256 50 * 2 + (if t.bwd then 1 else 0)
  | some .attn => t.f 256 4 * 2 ^ 32 + t.f 352 32
  | _ => t.f 256 4 * 2 ^ 32 + t.f 352 32

/-- The bits in which the descriptors of one collective must agree (R198, R215, R321). -/
def agreeFields (t : Task) : List (Nat × Nat) :=
  match t.op with
  | some .dispatch => [(306, 24), (330, 2), (332, 4), (336, 4), (340, 4), (344, 17), (361, 4), (476, 28), (448, 28), (512, 28)]
  | some .attn => [(11, 1), (15, 1), (64, 32), (256, 38), (320, 32)]
  | _ => [(260, 1), (261, 1), (286, 24), (310, 24), (338, 4), (384, 28), (416, 28)]

def agrees (a b : Task) : Bool := (agreeFields a).all fun f => a.f f.1 f.2 == b.f f.1 f.2

/-- The cores that take part. -/
def collCores (s : State) (t : Task) : List CoreNo :=
  let m := (getPart s t.part).map
  match t.op with
  | some .dispatch => participants m
  | _ => ringCores m (t.f 256 4)

/-- The open collective of a task. -/
def findColl (s : State) (t : Task) : Option Coll :=
  (getPart s t.part).colls.find? fun x => x.opcode.toNat == t.opcode && x.key == collKey t

/-- Replace or drop the task's collective. -/
def setColl (s : State) (t : Task) (x : Coll) : State :=
  let p := getPart s t.part
  setPart s t.part { p with colls := p.colls.map fun y => if y.opcode == x.opcode && y.key == x.key then x else y }
def dropColl (s : State) (t : Task) : State :=
  let p := getPart s t.part
  setPart s t.part { p with colls := p.colls.filter fun y => !(y.opcode.toNat == t.opcode && y.key == collKey t) }

/-- A slot waits for other cores: LATE (R83); and goes on. -/
def slotWait (s : State) (c : CoreNo) (k : SlotNo) : State :=
  setCore s c (judge (putSlot (getCore s c) k { getSlot s c k with state := .late, joined := true }))
def slotWake (s : State) (c : CoreNo) (k : SlotNo) : State :=
  let co := getCore s c
  let sl := coreSlot co k
  if sl.state == .late && !sl.ended then
    setCore s c (judge (putSlot co k { sl with state := if co.current == some k then .running else .ready }))
  else s

/-- A member's slot still holds its task, and it goes on. -/
def memberRuns (s : State) (m : CoreNo × SlotNo × Task) : Bool :=
  let sl := getSlot s m.1 m.2.1
  !sl.ended && (match sl.task with | some u => sameTask u m.2.2 | none => false)

/-- Every member's task ends with a status, and the collective closes. -/
def endColl (s : State) (t : Task) (x : Coll) (st : BitVec 8) : State :=
  x.members.foldl (fun s m => if memberRuns s m then failSlot s m.1 m.2.1 st else s) (dropColl s t)

/-- Every member has come: the collective goes on at stage 1. Those of a DISPATCH wait for the coordinator's count phase (R206). -/
def settleColl (s : State) (t : Task) (x : Coll) : State :=
  if x.members.length = (collCores s t).length then
    let s := setColl s t { x with stage := 1 }
    if t.op == some .dispatch then s else x.members.foldl (fun s m => slotWake s m.1 m.2.1) s
  else s

/-- The collective of a key that has ended before every participant had come. -/
def findEnded (s : State) (t : Task) : Option EndedColl :=
  (getPart s t.part).endedColls.find? fun x => x.opcode.toNat == t.opcode && x.key == collKey t
def dropEnded (s : State) (t : Task) : State :=
  let p := getPart s t.part
  setPart s t.part { p with endedColls := p.endedColls.filter fun x => !(x.opcode.toNat == t.opcode && x.key == collKey t) }

/-- A collective ends for every participant (R198, R205): for those present now, and, where some have not come, for each of them as it comes. -/
def endForAll (s : State) (t : Task) (came : List CoreNo) (st : BitVec 8) : State :=
  let s := dropEnded s t
  if (collCores s t).all came.contains then s
  else
    let p := getPart s t.part
    setPart s t.part { p with endedColls := p.endedColls ++ [{ opcode := BitVec.ofNat 8 t.opcode, key := collKey t, status := st, came := came }] }

/-- A participant ends the collective of its key with a status, for itself and every other one. -/
def breakColl (s : State) (c : CoreNo) (k : SlotNo) (t : Task) (st : BitVec 8) : State :=
  let s := match findColl s t with
    | some x => endForAll (endColl s t x st) t (c :: x.members.map (·.1)) st
    | none => endForAll s t [c] st
  failSlot s c k st

/-- A core's task opens a collective (R198, R217): at most 256 of a partition are open. -/
def openColl (s : State) (c : CoreNo) (k : SlotNo) (t : Task) : State :=
  let p := getPart s t.part
  if 256 ≤ p.colls.length then s
  else
    let x : Coll := { opcode := BitVec.ofNat 8 t.opcode, key := collKey t, first := t, members := [(c, k, t)] }
    settleColl (slotWait (setPart s t.part { p with colls := p.colls ++ [x] }) c k) t x

/-- A core's task joins its collective, or opens it (R198, R217, R341). A descriptor that disagrees, or a second one from one core, ends it for all, and
those that come to one that has so ended end with its status. When the last one has come they all go on. -/
def joinColl (s : State) (c : CoreNo) (k : SlotNo) (t : Task) : State :=
  if isHole s (cornerTile (getPart s t.part)) then failSlot s c k stCore
  else match findColl s t, findEnded s t with
    | some x, _ =>
      if !agrees x.first t || x.members.any (fun m => m.1 == c) || x.stage ≠ 0 then breakColl s c k t stDispatchMismatch
      else
        let x := { x with members := x.members ++ [(c, k, t)] }
        settleColl (slotWait (setColl s t x) c k) t x
    | none, some e =>
      if e.came.contains c then openColl (dropEnded s t) c k t
      else failSlot (endForAll s t (e.came ++ [c]) e.status) c k e.status
    | none, none => openColl s c k t

/-- Position of a core in its ring. -/
def ringPos (cores : List CoreNo) (c : CoreNo) : Nat := (cores.findIdx? (· == c)).getD 0
/-- A core's membership. -/
def memberOf (x : Coll) (c : CoreNo) : Option (CoreNo × SlotNo × Task) := x.members.find? fun m => m.1 == c
/-- A member's progress as one number: head, then round; a member that has ended has done all. -/
def memberAt (s : State) (x : Coll) (c : CoreNo) : Nat :=
  match memberOf x c with
  | none => 0
  | some m => if memberRuns s m then (let sl := getSlot s c m.2.1; sl.head * 1024 + sl.round) else 2 ^ 40

/-- The ring predecessor of a core. -/
def predecessor (cores : List CoreNo) (c : CoreNo) : CoreNo :=
  (cores[(ringPos cores c + cores.length - 1) % cores.length]?).getD c

/-- The ring predecessor has passed its block on: it has finished the round before this one (R112). -/
def predecessorDone (s : State) (x : Coll) (cores : List CoreNo) (c : CoreNo) (head round : Nat) : Bool :=
  round == 0 || decide (head * 1024 + round ≤ memberAt s x (predecessor cores c))

/-- A task ends while its collective goes on without it; the last one closes it. -/
def leaveColl (s : State) (t : Task) : State :=
  match findColl s t with
  | none => s
  | some x => if x.members.any (memberRuns s) then s else dropColl s t

/-- A member's failure ends every member's task (log 20). -/
def collFail (s : State) (t : Task) (st : BitVec 8) : State :=
  match findColl s t with
  | none => s
  | some x => endColl s t x st

/-- The task of a slot is one that needs every participant. -/
def isCollective (t : Task) : Bool := t.op == some .attn || t.op == some .rotate || (t.op == some .dispatch && !t.bwd)

/-- A transfer of a slot's task has failed (R94): a participant's failure ends its collective (R205, log 20). -/
def taskFails (s : State) (c : CoreNo) (k : SlotNo) (st : BitVec 8) : State :=
  match (getSlot s c k).task with
  | none => s
  | some t =>
    let s := transferFails s c k st
    if !isCollective t then s
    else match findColl s t with
      | some x => if x.members.any fun m => m.1 == c && m.2.1 == k then endColl s t x st else if t.op == some .dispatch then breakColl s c k t st else s
      | none => if t.op == some .dispatch then breakColl s c k t st else s

/-- FETCH_FAILURE (R94): a fetch of a slot fails. -/
def execFetchFailure (core : CoreNo) (slot : SlotNo) (status : BitVec 8) (s : State) :=
  finish s (if fetchesOver (getCore s core) slot then s else taskFails s core slot status)

/-- A store of a slot has failed: an ended task waits for its other stores, a running one ends (R94). -/
def storeFails (s : State) (c : CoreNo) (k : SlotNo) (st : BitVec 8) : State :=
  let s := setSlot s c k (spoilSlot (getSlot s c k) st)
  settleSlot (taskFails s c k st) c k

/-- The partition's corner tile, which hosts its coordinator, is a hole (R341). -/
def cornerFails (s : State) (t : Task) : List Fail := need (!isHole s (cornerTile (getPart s t.part))) stCore 3

/-- What a MAP_GEN descriptor meets at a core that runs it (R191). -/
def ringFails (s : State) (c : CoreNo) (t : Task) : List Fail :=
  let m := (getPart s t.part).map
  let cores := ringCores m (t.f 256 4)
  need (decide (t.f 256 4 < mapNRings m) && cores.contains c) stPhaseMap 32
    ++ need (cores.all (coreAvailable s)) stCore 32 ++ cornerFails s t

end Sys2Proof.Machine
end

