-- ==== Sys2Proof/Machine/Attn.lean ====
section
/-!
DEFINITION. ATTN: attention over a ring of cores (R111 to R115, R321).
-/
namespace Sys2Proof.Machine
open Sys2Proof

/-! Fields (R321). -/
def atLen (t : Task) : Nat := 128 * t.f 260 10
def atH (t : Task) : Nat := t.f 270 9
def atD (t : Task) : Nat := 64 * 2 ^ t.f 279 2
def atQk (t : Task) : Nat := t.f 281 4
def atV (t : Task) : Nat := t.f 285 4
def atO (t : Task) : Nat := t.f 289 4
def atCausal (t : Task) : Bool := t.b 293
def atScale (t : Task) : F32 := t.fp 320
def atQaddr (t : Task) : Nat := t.addr 384
def atKaddr (t : Task) : Nat := t.addr 448
def atVaddr (t : Task) : Nat := t.addr 512
def atOaddr (t : Task) : Nat := t.addr 576
def atLse (t : Task) : Nat := t.addr 640
def atPos (t : Task) : Nat := t.addr 704
def atDo (t : Task) : Nat := t.addr 768
def atDq (t : Task) : Nat := t.addr 832
def atDk (t : Task) : Nat := t.addr 896
def atDv (t : Task) : Nat := t.addr 960

/-- The body. -/
def attnBody (t : Task) : List Fail :=
  bodyFails t
    [(256, 4, true), (260, 10, true), (270, 9, true), (279, 2, true), (281, 4, true), (285, 4, true), (289, 4, true), (293, 1, true),
     (320, 32, true), (352, 32, true), (384, 56, true), (448, 56, true), (512, 56, true), (576, 56, true), (640, 56, true), (704, 56, true),
     (768, 56, t.bwd), (832, 56, t.bwd), (896, 56, t.bwd), (960, 56, t.bwd)]

/-- Bytes of a shard's tensor in a format. -/
def atBytes (t : Task) (f : Nat) : Nat := elemBytes (fmtD f) (atLen t * atH t * atD t)

/-- The ranges named (R321). -/
def attnRanges (t : Task) : List (Right × Nat × Nat × Nat) :=
  let qk := atBytes t (atQk t)
  let o := atBytes t (atO t)
  let lse := 4 * atLen t * atH t
  [(.read, atQaddr t, qk, 48), (.read, atKaddr t, qk, 56), (.read, atVaddr t, atBytes t (atV t), 64),
   (if t.bwd then .read else .write, atOaddr t, o, 72), (if t.bwd then .read else .write, atLse t, lse, 80)]
    ++ (if atPos t = 0 then [] else [(.read, atPos t, 4 * atLen t, 88)])
    ++ (if t.bwd then [(.read, atDo t, o, 96), (.write, atDq t, o, 104), (.write, atDk t, o, 112), (.write, atDv t, o, 120)] else [])

/-- The checks (R111). -/
def attnFails (s : State) (c : CoreNo) (t : Task) : List Fail :=
  let r := (ringCores (getPart s t.part).map (t.f 256 4)).length
  let arr (n : Nat) : Bool := decide (1 ≤ n ∧ n ≤ 4)
  attnBody t ++ headerFails s t ++ footprintFails s c t ++ ringFails s c t
    ++ need (t.f 279 2 != 3) stReserved 34
    ++ need (arr (atQk t)) stFormat 35 ++ need (arr (atV t)) stFormat 35 ++ need (decide (atO t ≤ 4)) stFormat 36
    ++ need (decide (1 ≤ t.f 260 10 ∧ t.f 260 10 ≤ 512)) stParam 32
    ++ need (decide (1 ≤ atH t ∧ atH t ≤ 256)) stParam 33
    ++ need (decide (atLen t * r ≤ 4194304)) stParam 32
    ++ rangeFails s t (attnRanges t)

/-! Reading a shard. Element (token, head, d) of a tensor is (token × H + head) × D + d. -/

/-- Codes of one head's rows. -/
def headRows (s : State) (t : Task) (f : Fmt) (base h : Nat) : List (List Nat) :=
  (List.range (atLen t)).map fun tok => (List.range (atD t)).map fun d => elemCode (memByte s) f base ((tok * atH t + h) * atD t + d)
def toOp (f : Fmt) (codes : List Nat) : OpRow := opRow f codes (List.replicate ((codes.length + 31) / 32) (some 0))
def toVals (f : Fmt) (codes : List Nat) : List F32 := codes.map (toF32 f (some 0))
/-- Position of each token of shard i (R111). A position array holds 32-bit words whose low 22 bits count (log 20). -/
def positions (s : State) (t : Task) (i : Nat) : List Nat :=
  (List.range (atLen t)).map fun k => if atPos t = 0 then i * atLen t + k else memNat s (atPos t + 4 * k) 4 % 2 ^ 22

/-- Columns of some rows. -/
def columns (rows : List (List F32)) (n : Nat) : List (List F32) := (List.range n).map fun d => rows.map fun r => (r[d]?).getD f32Zero

/-! Forward (R113). -/

/-- One query row's running softmax. -/
structure SoftRow where
  m : F32
  l : F32
  o : List F32
  deriving DecidableEq, Repr

/-- Scaled and masked scores of a row against 128 keys. -/
def scores (causal : Bool) (scale : F32) (q : OpRow) (qpos : Nat) (ks : List (OpRow × Nat)) : List F32 :=
  ks.map fun k => if causal && decide (qpos < k.2) then f32NegInf else f32Mul (dotRows f32Zero q k.1) scale

/-- One sub-block for one row. -/
def softStep (gen : Nat) (vf : Fmt) (s : List F32) (vcols : List OpRow) (r : SoftRow) : SoftRow :=
  let m' := f32Max r.m (s.foldl f32Max f32NegInf)
  if m' == f32NegInf then r
  else
    let a := vecFn gen .exp (f32Sub r.m m')
    let p := s.map fun x => vecFn gen .exp (f32Sub x m')
    let l := f32Add (f32Mul r.l a) (lanesum p)
    let po := opRowOfF32 vf false p
    { m := m', l := l, o := ((r.o.map fun x => f32Mul x a).zip vcols).map fun e => dotRows e.1 po e.2 }

/-- A 128 × 128 sub-block in which every pair is masked (R113). -/
def whollyMasked (causal : Bool) (qs ks : List Nat) : Bool := causal && qs.all fun q => ks.all fun k => decide (q < k)

/-- A core's round of the forward pass against one shard. -/
def forwardRound (gen : Nat) (t : Task) (qs : List (List Nat × Nat)) (ks : List (List Nat × Nat)) (vs : List (List Nat)) (rows : List SoftRow) :
    List SoftRow :=
  let qf := fmtD (atQk t)
  let vf := fmtD (atV t)
  let blocks := ((groupsOf 128 ks.length ks).zip (groupsOf 128 vs.length vs)).map fun b =>
    (b.1.map fun k => (toOp qf k.1, k.2), (List.range (atD t)).map fun d => toOp vf (b.2.map fun v => (v[d]?).getD 0))
  ((groupsOf 128 qs.length qs).zip (groupsOf 128 rows.length rows)).flatMap fun g =>
    (g.1.zip g.2).map fun e =>
      blocks.foldl
        (fun r b =>
          if whollyMasked (atCausal t) (g.1.map (·.2)) (b.1.map (·.2)) then r
          else softStep gen vf (scores (atCausal t) (atScale t) (toOp qf e.1.1) e.1.2 b.1) b.2 r) e.2

/-- What a row leaves: its output and lse. -/
def softEnd (gen : Nat) (r : SoftRow) : List F32 × F32 :=
  if r.l == f32Zero then (r.o.map fun _ => f32Zero, f32NegInf)
  else (r.o.map fun x => f32Div x r.l, f32Add r.m (vecFn gen .log r.l))

/-- The softmax rows a slot keeps between rounds. -/
def slotRows (sl : Slot) (D : Nat) : List SoftRow :=
  ((sl.rowMax.zip sl.rowSum).zip (groupsOf D sl.acc.length sl.acc)).map fun e => { m := e.1.1, l := e.1.2, o := e.2 }
def keepRows (sl : Slot) (rows : List SoftRow) : Slot :=
  { sl with rowMax := rows.map (·.m), rowSum := rows.map (·.l), acc := rows.flatMap (·.o) }
def freshRows (t : Task) : List SoftRow :=
  List.replicate (atLen t) { m := f32NegInf, l := f32Zero, o := List.replicate (atD t) f32Zero }

/-! Backward (R114). dO enters the arrays in V's format, p and dS in the format of their partner (log 20). -/

/-- What a backward round carries: dQ of this core's rows, dK and dV of the shard's. -/
structure BackAcc where
  dq : List (List F32)
  dk : List (List F32)
  dv : List (List F32)
  deriving DecidableEq, Repr

def addRows (a b : List (List F32)) : List (List F32) := (a.zip b).map fun e => zip3' f32Add e.1 e.2
where zip3' (f : F32 → F32 → F32) (a b : List F32) : List F32 := (a.zip b).map fun e => f e.1 e.2

/-- One 128 × 128 sub-block of the backward pass: rows (q, pos, dO, lse, δ) against keys (k, pos, v). DEDUCED (log 68): dQ and dK, which R114
multiplies by SCALE, take the product from zero, scale it and add it to the running value by an FP32 addition; dV goes through the C input. -/
def backBlock (gen : Nat) (t : Task) (qs : List (List Nat × Nat × List F32 × F32 × F32)) (ks : List (List Nat × Nat × List Nat))
    (dq dk dv : List (List F32)) : BackAcc :=
  let qf := fmtD (atQk t)
  let vf := fmtD (atV t)
  let D := atD t
  let sc := atScale t
  let keys := ks.map fun k => (toOp qf k.1, k.2.1)
  let vrows := ks.map fun k => toOp vf k.2.2
  let ps := qs.map fun q => (scores (atCausal t) sc (toOp qf q.1) q.2.1 keys).map fun x => vecFn gen .exp (f32Sub x q.2.2.2.1)
  let dos := qs.map fun q => opRowOfF32 vf false q.2.2.1
  let ds := ((qs.zip ps).zip dos).map fun e =>
    (e.1.2.zip vrows).map fun x => f32Mul x.1 (f32Sub (dotRows f32Zero e.2 x.2) e.1.1.2.2.2.2)
  let docols := (columns (qs.map fun q => q.2.2.1) D).map (opRowOfF32 vf false)
  let pcols := (columns ps ks.length).map (opRowOfF32 vf false)
  let dscols := (columns ds ks.length).map (opRowOfF32 qf false)
  let dsrows := ds.map (opRowOfF32 qf false)
  let kcols := (List.range D).map fun d => toOp qf (ks.map fun k => (k.1[d]?).getD 0)
  let qcols := (List.range D).map fun d => toOp qf (qs.map fun q => (q.1[d]?).getD 0)
  { dv := (dv.zip pcols).map fun e => (e.1.zip docols).map fun x => dotRows x.1 e.2 x.2
    dq := (dq.zip dsrows).map fun e => (e.1.zip kcols).map fun x => f32Add x.1 (f32Mul (dotRows f32Zero e.2 x.2) sc)
    dk := (dk.zip dscols).map fun e => (e.1.zip qcols).map fun x => f32Add x.1 (f32Mul (dotRows f32Zero e.2 x.2) sc) }

/-- A core's backward round against one shard, block by block. -/
def backwardRound (gen : Nat) (t : Task) (qs : List (List Nat × Nat × List F32 × F32 × F32)) (ks : List (List Nat × Nat × List Nat))
    (a : BackAcc) : BackAcc :=
  let qg := groupsOf 128 qs.length qs
  let kg := groupsOf 128 ks.length ks
  (List.range qg.length).foldl
    (fun a i => (List.range kg.length).foldl
      (fun a j =>
        let q := (qg[i]?).getD []
        let k := (kg[j]?).getD []
        if whollyMasked (atCausal t) (q.map fun x => x.2.1) (k.map fun x => x.2.1) then a
        else
          let b := backBlock gen t q k ((a.dq.drop (128 * i)).take q.length) ((a.dk.drop (128 * j)).take k.length) ((a.dv.drop (128 * j)).take k.length)
          { dq := a.dq.take (128 * i) ++ b.dq ++ a.dq.drop (128 * i + q.length)
            dk := a.dk.take (128 * j) ++ b.dk ++ a.dk.drop (128 * j + k.length)
            dv := a.dv.take (128 * j) ++ b.dv ++ a.dv.drop (128 * j + k.length) }) a) a

/-! Rounds. -/

/-- The reads of a core's own tensors: those of both passes, and of the backward pass. -/
def attnReads (t : Task) : List (Nat × Nat) :=
  let qk := atBytes t (atQk t)
  let o := atBytes t (atO t)
  [(atQaddr t, qk), (atKaddr t, qk), (atVaddr t, atBytes t (atV t))] ++ (if atPos t = 0 then [] else [(atPos t, 4 * atLen t)])
    ++ (if t.bwd then [(atOaddr t, o), (atDo t, o), (atLse t, 4 * atLen t * atH t)] else [])

/-- The stores of one head's rows in the output format. -/
def headStores (t : Task) (base h : Nat) (rows : List (List F32)) : List (Nat × List Byte) :=
  let f := fmtD (atO t)
  rows.zipIdx.map fun e => (base + (e.2 * atH t + h) * atD t * f.width / 8, packBytes f.width (e.1.map (convertTo f t.saturate)))

/-- The K/V block of a head of shard j as its own core reads it: a row of positions, then the rows of K, then those of V. -/
def ownBlock (s : State) (t : Task) (h j : Nat) : List (List Nat) :=
  positions s t j :: (headRows s t (fmtD (atQk t)) (atKaddr t) h ++ headRows s t (fmtD (atV t)) (atVaddr t) h)

/-- The block that a core computes with in a round (R112): its own, passed on from then on, or the one that has come from its ring predecessor; none
where no path brings it. -/
def roundBlock (s : State) (v : State) (c : CoreNo) (t : Task) (x : Coll) (cores : List CoreNo) (h round j : Nat) :
    Except (BitVec 8) (State × List (List Nat)) :=
  if round = 0 then
    let b := ownBlock v t h j
    .ok (setColl s t { x with blocks := tput [] x.blocks (h * 256 + j) b }, b)
  else if reachable s (coreTile (predecessor cores c)) (coreTile c) then .ok (s, tget [] x.blocks (h * 256 + j))
  else .error stUnreachable

/-- A round is over: after round 0 the regions have changed roles with each block that came in (R112). -/
def roundOver (sl : Slot) : Slot := { sl with round := sl.round + 1, computeB := if sl.round = 0 then sl.computeB else !sl.computeB }

/-- What a task puts out before its last instruction waits in its compute region. -/
def keepOuts (s : State) (c : CoreNo) (k : SlotNo) (l : List (Nat × List Byte)) : State :=
  let sl := getSlot s c k
  setSlot s c k { sl with outs := sl.outs ++ (storePieces l).map .store }

/-- A task's last instruction is over: its output is swapped and stored, and it leaves its collective. -/
def endMember (s : State) (c : CoreNo) (k : SlotNo) (t : Task) : State :=
  leaveColl (endTask s c k stOk 0 (getSlot s c k).outs true) t

/-- Its keys with their positions, and its values. -/
def blockKeys (t : Task) (b : List (List Nat)) : List (List Nat × Nat) := (b.tail.take (atLen t)).zip (b.headD [])
def blockValues (t : Task) (b : List (List Nat)) : List (List Nat) := b.tail.drop (atLen t)

/-- The head of a slot is finished: the next head, or the end of the task. -/
def nextHead (s : State) (c : CoreNo) (k : SlotNo) (t : Task) : State :=
  let sl := getSlot s c k
  if sl.head + 1 < atH t then setSlot s c k { sl with head := sl.head + 1, round := 0, acc := [], rowMax := [], rowSum := [] }
  else endMember (setSlot s c k { sl with head := sl.head + 1, round := 0 }) c k t

/-- A forward round (R112, R113): core i against shard (i − k) mod R; after the last round the head's O and lse are put out. -/
def attnForward (s : State) (c : CoreNo) (k : SlotNo) (t : Task) (x : Coll) : State :=
  let sl := getSlot s c k
  let v := (startWork s c k t).view
  let cores := collCores s t
  let R := cores.length
  let i := ringPos cores c
  let h := sl.head
  match roundBlock s v c t x cores h sl.round ((i + R - sl.round % R) % R) with
  | .error st => taskFails s c k st
  | .ok (s, b) =>
    let gen := s.weala.generation
    let qs := (headRows v t (fmtD (atQk t)) (atQaddr t) h).zip (positions v t i)
    let rows := forwardRound gen t qs (blockKeys t b) (blockValues t b) (if sl.round = 0 then freshRows t else slotRows sl (atD t))
    let s := setSlot s c k (roundOver (keepRows sl rows))
    if sl.round + 1 < R then s
    else
      let ends := rows.map (softEnd gen)
      let s := keepOuts s c k (headStores t (atOaddr t) h (ends.map (·.1)))
      nextHead (keepOuts s c k [(atLse t + 4 * h * atLen t, ends.flatMap fun e => bytesOf 4 e.2.toNat)]) c k t

/-- Gradients travelling with a shard of a head: dK then dV, flat. -/
def travelGet (x : Coll) (t : Task) (h j : Nat) : List (List F32) × List (List F32) :=
  let n := atLen t * atD t
  match tget [] x.travel (h * 256 + j) with
  | [] => (List.replicate (atLen t) (List.replicate (atD t) f32Zero), List.replicate (atLen t) (List.replicate (atD t) f32Zero))
  | l => (groupsOf (atD t) n (l.take n), groupsOf (atD t) n (l.drop n))

/-- A backward round (R114): as forward, with dK and dV of the shard; the hop after the last brings them home, where they are put out. -/
def attnBackward (s : State) (c : CoreNo) (k : SlotNo) (t : Task) (x : Coll) : State :=
  let sl := getSlot s c k
  let v := (startWork s c k t).view
  let cores := collCores s t
  let R := cores.length
  let i := ringPos cores c
  let gen := s.weala.generation
  let h := sl.head
  let D := atD t
  if sl.round = R then
    let g := travelGet x t h i
    let s := setColl s t { x with travel := tput [] x.travel (h * 256 + i) [] }
    let s := keepOuts s c k (headStores t (atDq t) h (groupsOf D sl.acc.length sl.acc))
    nextHead (keepOuts (keepOuts s c k (headStores t (atDk t) h g.1)) c k (headStores t (atDv t) h g.2)) c k t
  else
    let j := (i + R - sl.round) % R
    match roundBlock s v c t x cores h sl.round j with
    | .error st => taskFails s c k st
    | .ok (s, b) =>
      let of_ := fmtD (atO t)
      let q := headRows v t (fmtD (atQk t)) (atQaddr t) h
      let d := (headRows v t of_ (atDo t) h).map (toVals of_)
      let o := (headRows v t of_ (atOaddr t) h).map (toVals of_)
      let delta := (d.zip o).map fun e => lanesum ((e.1.zip e.2).map fun y => f32Mul y.1 y.2)
      let l := f32s v (atLse t + 4 * h * atLen t) (atLen t)
      let qs := (q.zip (positions v t i)).zip ((d.zip (l.zip delta))) |>.map fun e => (e.1.1, e.1.2, e.2.1, e.2.2.1, e.2.2.2)
      let ks := (blockKeys t b).zip (blockValues t b) |>.map fun e => (e.1.1, e.1.2, e.2)
      let g := travelGet x t h j
      let dq := if sl.round = 0 then List.replicate (atLen t) (List.replicate D f32Zero) else groupsOf D sl.acc.length sl.acc
      let r := backwardRound gen t qs ks { dq := dq, dk := g.1, dv := g.2 }
      let y := (findColl s t).getD x
      let s := setColl s t { y with travel := tput [] y.travel (h * 256 + j) (r.dk.flatten ++ r.dv.flatten) }
      setSlot s c k { roundOver sl with acc := r.dq.flatten }

/-- ATTN on its slot: its fetches, then the join of its collective, then round 0 of each head. -/
def attnStart (bwd : Bool) (c : CoreNo) (k : SlotNo) (s : State) (t : Task) : State :=
  let sl := getSlot s c k
  if t.bwd != bwd then s
  else if !sl.joined then
    let w := (startWork s c k t).fetchAll (attnReads t)
    if w.halted then finishWork s w c k .stages else joinColl s c k t
  else match findColl s t with
    | none => s
    | some x =>
      if x.stage = 1 && sl.round = 0 then (if bwd then attnBackward s c k t x else attnForward s c k t x) else s

/-- ATTN (R111, R113). -/
def execAttn (core : CoreNo) (slot : SlotNo) (s : State) := finish s (runTask s core slot .attn (attnStart false core slot))

/-- ATTN_BWD (R114). -/
def execAttnBwd (core : CoreNo) (slot : SlotNo) (s : State) := finish s (runTask s core slot .attn (attnStart true core slot))

/-- ATTN_ROUND (R112): the next K/V block has come from the ring predecessor. -/
def execAttnRound (core : CoreNo) (slot : SlotNo) (s : State) :=
  finish s <|
    match runningTask s core slot .attn with
    | none => s
    | some t =>
      let sl := getSlot s core slot
      match findColl s t with
      | none => s
      | some x =>
        if x.stage = 1 && sl.round ≠ 0 && predecessorDone s x (collCores s t) core sl.head sl.round then
          (if t.bwd then attnBackward s core slot t x else attnForward s core slot t x)
        else s

end Sys2Proof.Machine
end

