-- ==== Sys2Proof/Machine/Rings.lean ====
section
/-!
DEFINITION. Rings (R300 to R314), doorbells (R306 to R309), gates (R329 to R332), interrupts (R335) and their registers.
-/
namespace Sys2Proof.Machine
open Sys2Proof

/-! Commits to rings (R303 to R305, R489). -/

/-- BAR0 offset of RG_RING_COMMIT (R497). -/
def offRingCommit : Nat := 0x400040

/-- The reserved bits of a ring entry are 0 (R303). -/
def ringReservedOk (e : BitVec 256) : Bool :=
  let n := e.toNat
  bits n 56 8 == 0 && bits n 120 8 == 0 && bits n 184 8 == 0 && bits n 206 2 == 0 && bits n 224 32 == 0

/-- A region that a ring may lie in counts as present unless its function has been reported FAILED or ABSENT (R304, R400). -/
def ringRegionOk (s : State) (a n : Nat) : Bool :=
  match rangeRegion a n with
  | some (.stack k) => !isFailedOrAbsent s (fnStack k) && !(getStack s k).withdrawn && decide (a - stackBase k + n ≤ stackMapped)
  | some (.cmem t c) => !isFailedOrAbsent s (fnSram t) && !isHole s t
      && !(clusterState (mittenEntry s (coreAt t c)) == 2 && bankFail (mittenEntry s (coreAt t c)))
  | some (.host _) => true
  | _ => false

/-- Some other enabled ring satisfies `p`. -/
def otherRing (s : State) (rn : Nat) (p : Ring → Bool) : Bool := s.rings.any fun e => e.1 != rn && e.2.enabled && p e.2

/-- The conditions of R304 for a commit that creates ring `rn` with entry `e`. -/
def ringCreateOk (s : State) (rn : Nat) (e : BitVec 256) : Bool :=
  let r : Ring := { entry := e }
  let bytes := r.size * ringEntryBytes r.kind
  let align := min bytes 4096
  let isSubmit := r.kind == 0
  decide (4 ≤ r.log2 ∧ r.log2 ≤ 20) && ringReservedOk e
    && r.base % align == 0
    && ringRegionOk s r.base bytes
    && entryCovers s r.ctx (if isSubmit then .read else .write) r.base bytes && pagesOk s r.ctx r.base bytes
    && (r.headWb == 0 || (ringRegionOk s r.headWb 8 && entryCovers s r.ctx .read r.headWb 8 && entryCovers s r.ctx .write r.headWb 8
          && pagesOk s r.ctx r.headWb 8))
    && !otherRing s rn (fun o => o.ctx == r.ctx && o.dbSlot == r.dbSlot)
    && (!isSubmit ||
          (let l := getRing s r.link
           l.enabled && l.kind == 1 && l.ctx == r.ctx && l.home == r.home))
    && !(r.kind == 2 && otherRing s rn (fun o => o.ctx == r.ctx && o.kind == 2))
    && !(r.msixEn && otherRing s rn (fun o => o.msixEn && o.ctx != r.ctx && o.msixPort == r.msixPort && o.msixVec == r.msixVec))
    && (isSubmit || (r.headWb == 0 && r.link == 0 && !r.gateStop)) && (!isSubmit || !r.msixEn)

/-- The bits that a commit to an enabled ring may change: ENABLE, MSIX_EN, MSIX_PORT, MSIX_VECTOR, HOLDOFF_US (R304). -/
def ringChangeMask : BitVec 256 := BitVec.ofNat 256 (2 ^ 135 + (2 ^ 14 - 1) * 2 ^ 192 + (2 ^ 16 - 1) * 2 ^ 208)

/-- Disabling a ring (R305): it reads no more and rejects its doorbells; a COMPLETE ring's waiting records are discarded. -/
def disableRing (s : State) (rn : Nat) (e : BitVec 256) : State :=
  let r := getRing s rn
  let s := setRing s rn { r with entry := e, state := .disabled, holdoff := false, holdoffDue := false, waiting := [] }
  r.waiting.foldl (fun s o => releaseHolder s o.task) s

/-- A write of RG_RING_COMMIT (R303, R304, R305, R489). -/
def ringCommit (s : State) (port : HostPort) (value : Word64) : State :=
  if !bar0Open s port false then s
  else
    let rn := s.setup.ringSel.toNat
    let r := getRing s rn
    let e := s.setup.ringShadow
    let turnsOn := e.toNat.testBit 135
    if !pairOk value || pairVal value != rn then setupRefused s offRingCommit
    else if !r.enabled then
      if turnsOn then
        if ringCreateOk s rn e then
          setRing s rn { entry := e, state := .active, sendQueue := r.sendQueue, open_ := r.open_, gateStarted := r.gateStarted, gateOut := r.gateOut }
        else setupRefused s offRingCommit
      else if ringReservedOk e then setRing s rn { r with entry := e }
      else setupRefused s offRingCommit
    else if (e ^^^ r.entry) &&& ~~~ringChangeMask != 0 then setupRefused s offRingCommit
    else if turnsOn then
      if r.kind == 0 && e.toNat.testBit 192 then setupRefused s offRingCommit
      else setRing s rn { r with entry := e }
    else if r.kind == 1 && otherRing s rn (fun o => o.kind == 0 && o.link == rn) then setupRefused s offRingCommit
    else disableRing s rn e

/-- RING_CREATE (R304). -/
def execRingCreate (port : HostPort) (value : Word64) (s : State) := finish s (ringCommit s port value)

/-- RING_CHANGE (R304): the same register write. -/
def execRingChange (port : HostPort) (value : Word64) (s : State) := finish s (ringCommit s port value)

/-- RING_DISABLE (R305): the same register write. -/
def execRingDisable (port : HostPort) (value : Word64) (s : State) := finish s (ringCommit s port value)

/-! Doorbells (R307, R308). -/

/-- The enabled ring of a context's doorbell slot. -/
def ringOfSlot (s : State) (ctx : CtxNo) (slot : Nat) : Option Nat :=
  (s.rings.find? fun e => e.2.enabled && e.2.ctx == ctx && e.2.dbSlot == slot).map (·.1)

/-- A rejected doorbell (DOORBELL_REJECT, R308): counted and reported. -/
def rejectDoorbell (s : State) (ctx : CtxNo) (slot : BitVec 9) (value : Word64) (reason : Nat) : State :=
  let cx := getCtx s ctx
  let s := setCtx s ctx { cx with rejects := satInc cx.rejects }
  raise s { code := 0x0001, part := if cx.bound then some cx.part else none, ctx := ctx, tenants := true
            args := [slot.toNat, value.toNat, reason] }

/-- The window of R308. -/
def doorbellInWindow (r : Ring) (i : BitVec 32) : Bool :=
  if r.kind == 0 then decide ((i - r.tail).toNat ≤ r.size - (r.tail - r.head).toNat)
  else decide ((i - r.head).toNat ≤ (r.tail - r.head).toNat)

/-- An accepted doorbell (R308): a SUBMIT ring's new tail, or a producer ring's new head, which may make room for records that wait. -/
def acceptDoorbell (s : State) (rn : Nat) (i : BitVec 32) : State :=
  let r := getRing s rn
  if r.kind == 0 then setRing s rn { r with tail := i }
  else
    let s := setRing s rn { r with head := i }
    if r.kind == 1 then drainWaiting s rn r.waiting.length else s

/-- DOORBELL (R308). -/
def execDoorbell (port : HostPort) (ctx : CtxNo) (slot : BitVec 9) (size : Nat) (value : Word64) (s : State) :=
  finish s <|
    if !(getHp s port).linkUp then s
    else match ringOfSlot s ctx slot.toNat with
      | none => rejectDoorbell s ctx slot value (if size == 8 then 2 else 3)
      | some rn =>
        let r := getRing s rn
        if size != 8 || r.home != port then rejectDoorbell s ctx slot value 3
        else if !pairOk value then rejectDoorbell s ctx slot value 0
        else if !doorbellInWindow r (value.extractLsb' 0 32) then rejectDoorbell s ctx slot value 1
        else acceptDoorbell s rn (value.extractLsb' 0 32)

/-! Reading and sending (R310 to R313). -/

/-- The ring's home port works: its tile is no hole and the port has not failed (R302). -/
def homeStands (s : State) (r : Ring) : Bool := !isHole s (hostTile r.home) && !isFailedOrAbsent s (fnHost r.home)

/-- The ring unit reads the ring: its home port works (R302), the ring is in service and its COMPLETE ring has not faulted (R328). -/
def ringReads (s : State) (r : Ring) : Bool := r.enabled && r.kind == 0 && r.state == .active && !r.stopped && homeStands s r

/-- The entry with a running index, as one number; or why it cannot be read (R328). -/
def readEntry (s : State) (r : Ring) (i : BitVec 32) : Except (BitVec 8) Nat :=
  match ringAccess s r .read (r.slotAddr i) 64 with
  | some st => .error st
  | none => .ok (memNat s (r.slotAddr i) 64)

/-- The continuation entries i, i + 1, ... of a descriptor. -/
def readConts (s : State) (r : Ring) (i : BitVec 32) : Nat → Except (BitVec 8) Nat
  | 0 => .ok 0
  | n + 1 =>
    match readEntry s r i with
    | .error e => .error e
    | .ok v =>
      match readConts s r (i + 1) n with
      | .error e => .error e
      | .ok w => .ok (v + w * 2 ^ 512)

/-- What reading the next descriptor of a ring finds. -/
inductive ReadResult where
  | wait
  | failed (st : BitVec 8)
  | got (t : Task) (entries : Nat)

/-- The descriptor at the head, when the tail covers all of its entries (R310). -/
def readDescriptor (s : State) (rn : Nat) (r : Ring) : ReadResult :=
  if r.count = 0 then .wait
  else match readEntry s r r.head with
    | .error st => .failed st
    | .ok v =>
      let cont := bits v 8 2
      if r.count < 1 + cont then .wait
      else match readConts s r (r.head + 1) cont with
        | .error st => .failed st
        | .ok w =>
          .got { ring := BitVec.ofNat 20 rn, index := r.head, ctx := r.ctx, part := (getCtx s r.ctx).part
                 raw := BitVec.ofNat 2048 (v + w * 2 ^ 512), serial := s.taskCtr } (1 + cont)

/-- The head moves past a descriptor's entries, and is due at HEAD_WB (R311). -/
def advanceHead (r : Ring) (entries : Nat) : Ring :=
  { r with head := r.head + BitVec.ofNat 32 entries, headDue := r.headDue || r.headWb != 0 }

/-- Read a run of at most `left` entries (R310): each descriptor that fits it whole joins the send queue. -/
def readRun (s : State) (rn : Nat) : Nat → Nat → State
  | 0, _ => s
  | fuel + 1, left =>
    let r := getRing s rn
    if left = 0 then s
    else match readDescriptor s rn r with
      | .wait => s
      | .failed st => faultRing s rn st
      | .got t k =>
        if left < k then s
        else
          let r' := { advanceHead r k with sendQueue := r.sendQueue ++ [t], open_ := r.open_ ++ [t.index] }
          readRun (setRing { s with taskCtr := s.taskCtr + 1 } rn r') rn fuel (left - k)

/-- Deliver a descriptor to the unit its TARGET names (R312). A MAP_GEN descriptor notes whether the drain mark was already out. -/
def deliverTask (s : State) (t : Task) : State :=
  let p := getPart s t.part
  let t := { t with afterMark := p.drainMark }
  match t.tkind with
  | 1 =>
    let c : CoreNo := Fin.ofNat 256 t.tindex
    let co := getCore s c
    if t.op == some .palmInit then setCore s c { co with palmQueue := co.palmQueue ++ [t] }
    else setCore s c { co with queue := co.queue ++ [t] }
  | 2 =>
    let n : CuffNo := Fin.ofNat 40 t.tindex
    let cu := getCuff s n
    setCuff s n { cu with inbox := cu.inbox ++ [t] }
  | 3 =>
    let ti : TileNo := Fin.ofNat 64 t.tindex
    let x := getTile s ti
    setTile s ti { x with station := { x.station with inbox := x.station.inbox ++ [t] } }
  | _ => setPart s t.part { p with coord := p.coord ++ [t] }

/-- The tile of a descriptor's target (R316). -/
def targetTile (s : State) (t : Task) : TileNo :=
  match t.tkind with
  | 1 => coreTile (Fin.ofNat 256 t.tindex)
  | 2 => if h : t.tindex < 32 then stackTile ⟨t.tindex, h⟩ else portTile (Fin.ofNat 8 (t.tindex - 32))
  | 3 => Fin.ofNat 64 t.tindex
  | 4 => cornerTile (getPart s t.part)
  | _ => hostTile (getRing s t.ring.toNat).home

/-- The target is resetting, or its core is being replaced: the ring holds the descriptor (R359, R43). A core whose tile runs an image takes none, whatever
fails there (R32). -/
def targetHeld (s : State) (t : Task) : Bool :=
  match t.tkind with
  | 1 =>
    let c : CoreNo := Fin.ofNat 256 t.tindex
    resettingCore s c || (changingCore s c && (getTile s (coreTile c)).mode == .core)
  | 2 | 3 | 4 => resettingPart s t.part
  | _ => false

/-- Remove the front of a ring's send queue. -/
def popSend (s : State) (rn : Nat) : State :=
  let r := getRing s rn
  setRing s rn { r with sendQueue := r.sendQueue.tail, gateStarted := false }

/-- An earlier descriptor of the ring has not completed (R313); `open_` is in ring order. -/
def fenceWaits (r : Ring) (t : Task) : Bool := t.fence && r.open_.head? != some t.index

/-- A gate sent to a core holds the ring until it has completed (R330). -/
def gateHolds (r : Ring) : Bool := match r.gateOut with | some i => r.open_.contains i | none => false

/-- Complete descriptors as SKIPPED, with their header signals under SIG_MODE 2 only (R332). -/
def skipTasks (s : State) (ts : List Task) : State := ts.foldl (fun s t => complete s t stSkipped) s

/-- Read and skip every unread descriptor up to the tail (R332). -/
def skipUnread (s : State) (rn : Nat) : Nat → State
  | 0 => s
  | n + 1 =>
    let r := getRing s rn
    if !ringReads s r then s
    else match readDescriptor s rn r with
      | .wait => s
      | .failed st => faultRing s rn st
      | .got t k =>
        skipUnread (complete (setRing { s with taskCtr := s.taskCtr + 1 } rn { advanceHead r k with open_ := r.open_ ++ [t.index] }) t stSkipped) rn n

/-- A failed gate on a GATE_STOP ring (RING_SKIP, R332): everything after it up to the tail completes with SKIPPED. -/
def ringSkip (s : State) (rn : Nat) (gate : Task) (st : BitVec 8) : State :=
  let r := getRing s rn
  if !r.gateStop || gate.index + 1 == r.tail then s
  else
    let queued := r.sendQueue
    let s := setRing s rn { r with sendQueue := [] }
    let s := skipUnread (skipTasks s queued) rn r.count
    raise s { code := 0x0002, part := some gate.part, ctx := gate.ctx, tenants := true, platform := false
              args := [rn, (gate.index + 1).toNat, (r.tail - 1).toNat, st.toNat] }

/-- A gate (R330). -/
def Task.isGate (t : Task) : Bool := t.op == some .wait || t.op == some .timed

/-- A descriptor has ended at the ring unit with a status other than OK: a gate's end skips what follows it on a GATE_STOP ring (R332). -/
def gateFailed (s : State) (rn : Nat) (t : Task) (st : BitVec 8) : State := if t.isGate then ringSkip s rn t st else s

/-- Send the descriptor at the front of a ring's queue (R312), where no fence, gate, held target or descriptor of the ring unit's own stands there. -/
def sendOne (s : State) (rn : Nat) : Option State :=
  let r := getRing s rn
  match r.sendQueue with
  | [] => none
  | t :: _ =>
    if !homeStands s r || fenceWaits r t || gateHolds r || targetHeld s t then none
    else match admissionFailure (ringUnitFails s t) with
      | some (st, d) => some (gateFailed (rejectTask (popSend s rn) t st d) rn t st)
      | none =>
        if t.tkind = 0 then none
        else if !reachable s (hostTile r.home) (targetTile s t) then some (gateFailed (complete (popSend s rn) t stUnreachable) rn t stUnreachable)
        else
          let s := deliverTask (popSend s rn) t
          let r := getRing s rn
          some (if t.isGate then setRing s rn { r with gateOut := some t.index } else s)

/-- Send descriptors of a ring, in ring order, as far as they can be sent. -/
def pump (s : State) (rn : Nat) : Nat → State
  | 0 => s
  | n + 1 => match sendOne s rn with | none => s | some s' => pump s' rn n

/-- A ring has had its turn: the ring unit's next one starts after it (R312). -/
def takeTurn (s : State) (p : HostPort) (rn : Nat) : State := { s with ringTurn := tput 0 s.ringTurn p.val (rn + 1) }

/-- Send all that a ring can send now; the ring unit's next turn starts after it. -/
def pumpRing (s : State) (rn : Nat) : State :=
  let r := getRing s rn
  pump (if r.sendQueue.isEmpty then s else takeTurn s r.home rn) rn r.sendQueue.length

/-- The rings of a ring unit in ascending number, cyclically from its next turn on. -/
def turnOrder (s : State) (p : HostPort) : List Nat :=
  let l := (s.rings.filter fun e => e.2.home == p && !e.2.sendQueue.isEmpty).map (·.1)
  let first := tget 0 s.ringTurn p.val
  (l.filter fun rn => decide (first ≤ rn)) ++ l.filter fun rn => decide (rn < first)

/-- A ring unit's rings take turns, one descriptor each (R312). -/
def ringTurns (p : HostPort) : Nat → State → State
  | 0, s => s
  | n + 1, s =>
    match (turnOrder s p).find? fun rn => (sendOne s rn).isSome with
    | none => s
    | some rn => ringTurns p n (takeTurn ((sendOne s rn).getD s) p rn)

/-- Every ring sends what it can: after a reset, a core's return or a held target's end (R359, R43). -/
def pumpAll (s : State) : State :=
  (List.finRange 4).foldl (fun s p => ringTurns p ((s.rings.map fun e => e.2.sendQueue.length).sum) s) s

/-- RING_READ (R310): one run of up to 32 entries, and what can be sent is sent. -/
def execRingRead (r : RingNo) (s : State) :=
  finish s <|
    if ringReads s (getRing s r.toNat) then pumpRing (readRun s r.toNat 32 32) r.toNat else s

/-- HEAD_WRITEBACK (R311): the running head and its complement, with the rights the access needs (R348). -/
def execHeadWriteback (r : RingNo) (s : State) :=
  finish s <|
    let rn := r.toNat
    let rg := getRing s rn
    if !(rg.headDue && rg.headWb != 0 && rg.state == .active) then s
    else match ringAccess s rg .write rg.headWb 8, ringAccess s rg .read rg.headWb 8 with
      | none, none =>
        let w := writeMem s rg.headWb (bytesOf 8 (mkPair rg.head).toNat)
        if w.2 then setRing w.1 rn { rg with headDue := false } else faultRing w.1 rn stPoisoned
      | some st, _ => faultRing s rn st
      | none, some st => faultRing s rn st

/-- FENCE_RELEASE (R313): the descriptor at the front has no earlier one left to wait for. -/
def execFenceRelease (r : RingNo) (s : State) := finish s (pumpRing s r.toNat)

/-! The ring unit's own descriptors (R318) and gates (R329 to R332). -/

/-- The descriptor at the front of a ring that its ring unit runs, when nothing holds it back. -/
def ringFront (s : State) (rn : Nat) (op : Op) : Option Task :=
  let r := getRing s rn
  match r.sendQueue with
  | [] => none
  | t :: _ =>
    if !homeStands s r || fenceWaits r t || gateHolds r || targetHeld s t then none
    else if t.op == some op && t.tkind = 0 && (ringUnitFails s t).isEmpty then some t
    else none

/-- A gate of the ring unit has ended: its record, the rest of the ring on a failure, and the descriptors behind it. -/
def endRingGate (s : State) (rn : Nat) (t : Task) (st : BitVec 8) (detail : BitVec 16) : State :=
  let s := (outcome (popSend s rn) t st detail false (now s) (quality s)).1
  pumpRing (if st == stOk then s else ringSkip s rn t st) rn

/-- A gate in a core's slot has ended (R330): its slot, and the rest of its ring. -/
def endCoreGate (s : State) (c : CoreNo) (k : SlotNo) (t : Task) (st : BitVec 8) : State :=
  let rn := t.ring.toNat
  let s := endSlot s c k st 0
  pumpRing (if st == stOk then s else ringSkip s rn t st) rn

/-- Run a NOP or SIGNAL of the ring unit (R318, R227): both do no more than their header signal. -/
def runPlain (s : State) (rn : Nat) (op : Op) : State :=
  match ringFront s rn op with
  | none => s
  | some t =>
    match admissionFailure (emptyBody t ++ headerFails s t) with
    | some (st, d) => pumpRing (rejectTask (popSend s rn) t st d) rn
    | none =>
      if stepWhen (getPart s t.part) t.step = .next then s
      else pumpRing (complete (popSend s rn) t stOk) rn

/-- NOP (R318). -/
def execNop (r : RingNo) (s : State) := finish s (runPlain s r.toNat .nop)

/-- SIGNAL (R318, R329). -/
def execSignal (r : RingNo) (s : State) := finish s (runPlain s r.toNat .signal)

/-- The tally of a WAIT as its serving unit answers it, or the status with which the read fails (R329). -/
def readTally (s : State) (src : TileNo) (t : Task) : Except (BitVec 8) Nat :=
  match transferStatus s src t.ctx .read (t.addr 256) 8 with
  | some st => .error st
  | none => .ok (memNat s (t.addr 256) 8)

/-- A WAIT reads its tally: the status with which it ends now, if it does (R329). -/
def waitResult (s : State) (src : TileNo) (t : Task) : Option (BitVec 8) :=
  match readTally s src t with
  | .error st => some st
  | .ok v => if t.f 320 64 ≤ v then some stOk else none

/-- A TIMED whose time has come (R330, R381). -/
def timedResult (s : State) (t : Task) : Option (BitVec 8) := if t.f 256 64 ≤ (now s).toNat then some stOk else none

/-- The result of a gate where it stands now. -/
def gateResult (s : State) (src : TileNo) (t : Task) : Option (BitVec 8) :=
  if t.op == some .wait then waitResult s src t else timedResult s t

/-- The task of a core's slot whose gate is of one kind and has the given start state. -/
def coreGate (s : State) (c : CoreNo) (k : SlotNo) (op : Op) (started : Bool) : Option Task :=
  let sl := getSlot s c k
  match sl.task with
  | none => none
  | some t =>
    if t.op == some op && sl.state == .blocked && !sl.stepHeld && !sl.ended && sl.gateStarted == started then some t else none

/-- A gate starts where it stands (R330): in its ring after the target's checks, in a slot after the slot's admission. It ends at once when
its condition already holds. -/
def startGate (s : State) (op : Op) (g : GatePlace) (fails : State → Task → List Fail) : State :=
  match g with
  | .ring r =>
    let rn := r.toNat
    match ringFront s rn op with
    | none => s
    | some t =>
      if (getRing s rn).gateStarted then s
      else match admissionFailure (fails s t) with
        | some (st, d) => endRingGate s rn t st d
        | none =>
          if stepWhen (getPart s t.part) t.step = .next then s
          else match gateResult s (hostTile (getRing s rn).home) t with
            | some st => endRingGate s rn t st 0
            | none => setRing s rn { getRing s rn with gateStarted := true }
  | .core c k =>
    match coreGate s c k op false with
    | none => s
    | some t =>
      match gateResult s (coreTile c) t with
      | some st => endCoreGate s c k t st
      | none => setSlot s c k { getSlot s c k with gateStarted := true }

/-- WAIT (R329, R330). -/
def execWait (g : GatePlace) (s : State) := finish s (startGate s .wait g waitFails)

/-- TIMED (R330). -/
def execTimed (g : GatePlace) (s : State) := finish s (startGate s .timed g timedFails)

/-- A started gate looks at its condition again. -/
def pollGate (s : State) (op : Op) (g : GatePlace) : State :=
  match g with
  | .ring r =>
    let rn := r.toNat
    match ringFront s rn op with
    | none => s
    | some t =>
      if !(getRing s rn).gateStarted then s
      else match gateResult s (hostTile (getRing s rn).home) t with
        | some st => endRingGate s rn t st 0
        | none => s
  | .core c k =>
    match coreGate s c k op true with
    | none => s
    | some t =>
      match gateResult s (coreTile c) t with
      | some st => endCoreGate s c k t st
      | none => s

/-- WAIT_POLL (R329): the 50 µs read, and the read after an ADD. -/
def execWaitPoll (g : GatePlace) (s : State) := finish s (pollGate s .wait g)

/-- HOLDOFF_EXPIRY (R335): one message for the records written during the holdoff, which begins a new one. -/
def execHoldoffExpiry (r : RingNo) (s : State) :=
  finish s <|
    let rn := r.toNat
    let rg := getRing s rn
    if !rg.holdoff then s
    else
      let s := setRing s rn { rg with holdoff := false, holdoffDue := false }
      if rg.holdoffDue then raiseMsix s rn else s

/-- BAR0 offset of RG_PLATFORM_EVENT (R497). -/
def offPlatformEvent : Nat := 0x400060

/-- PLATFORM_EVENT_SET (R339, R418): a valid pair that names an enabled EVENT ring, or clears the platform ring; any other is ignored. -/
def execPlatformEventSet (port : HostPort) (value : Word64) (s : State) :=
  finish s <|
    if !bar0Open s port false then s
    else if !pairOk value then setupRefused s offPlatformEvent
    else
      let v := pairVal value
      let r := getRing s (bits v 0 20)
      if v.testBit 20 && !(r.enabled && r.kind == 2) then s
      else { s with setup := { s.setup with platformEvent := BitVec.ofNat 21 v } }

end Sys2Proof.Machine
end

