-- ==== Sys2Proof/Machine/Brim.lean ====
section
/-!
DEFINITION. The Brim (R163 to R171): bursts, their paths and their delivery, and STREAM (R211 to R214).
-/
namespace Sys2Proof.Machine
open Sys2Proof

/-! STREAM's fields (R323). -/

def stGroupMode (t : Task) : Bool := t.b 256
def stSet (t : Task) : Nat := t.f 257 2
def stExpert (t : Task) : Nat := t.f 259 13
def stR (t : Task) : Nat := t.f 272 4
def stGroup (t : Task) : Nat := t.f 276 12
def stBytes (t : Task) : Nat := t.f 288 20 * 2048
def stDoff (t : Task) : Nat := t.f 320 28
def stSrc (t : Task) : Nat := t.addr 384
def stSummary (t : Task) : Nat := t.addr 448

/-! Paths (R165, R166, R171). -/

/-- The neighbour along a spine within the partition; the segment to it is closed while neither station is a hole's (R166, R171). -/
def spineNext (s : State) (p : PartNo) (t : TileNo) (d : Fin 4) : Option TileNo :=
  match neighbour t d with
  | none => none
  | some u => if partHasTile s p t && partHasTile s p u then some u else none
def segment (s : State) (p : PartNo) (t : TileNo) (d : Fin 4) : Option TileNo :=
  match spineNext s p t d with
  | none => none
  | some u => if !tileOut s t && !tileOut s u then some u else none

/-- Tiles of a group's destination cores, and the rows they span. -/
def groupTiles (m : List Byte) (g : Nat) : List TileNo := ((groupSlots m g).map fun sl => coreTile sl.1).eraseDups

/-- A column burst at row y goes on in direction d (1 north, 3 south) towards some destination row beyond y. -/
def columnGoes (dests : List TileNo) (t : TileNo) (d : Fin 4) : Bool :=
  dests.any fun u => if d.val = 1 then decide (t.val / 8 < u.val / 8) else decide (u.val / 8 < t.val / 8)

/-- Where a burst that stands at a station goes next: along the row, and off it onto the column (R165). -/
def burstWays (s : State) (p : PartNo) (dests : List TileNo) (t : TileNo) (heading : Option (Fin 4)) : List (Fin 4) :=
  let row : List (Fin 4) := match heading with
    | none => [0, 2]
    | some d => if d.val = 0 ∨ d.val = 2 then [d] else []
  let col : List (Fin 4) := match heading with
    | some d => if d.val = 1 ∨ d.val = 3 then [d] else [1, 3]
    | none => [1, 3]
  (row ++ col.filter (columnGoes dests t)).filter fun d => (spineNext s p t d).isSome

/-- The Brim reaches a destination tile from a source: no hole on the row, then on the column (R165, R171). -/
def brimReaches (s : State) (src dst : TileNo) : Bool :=
  allTiles.all fun u =>
    let y := src.val / 8
    let x := dst.val % 8
    let between (a b c : Nat) : Bool := decide (min a b ≤ c ∧ c ≤ max a b)
    !tileOut s u || !((u.val / 8 == y && between (src.val % 8) x (u.val % 8)) || (u.val % 8 == x && between y (dst.val / 8) (u.val / 8)))

/-- A destination tile to which the way from a station in one direction leads. -/
def beyond (t : TileNo) (d : Fin 4) (u : TileNo) : Bool :=
  match d.val with
  | 0 => decide (t.val % 8 < u.val % 8)
  | 2 => decide (u.val % 8 < t.val % 8)
  | 1 => decide (u.val % 8 = t.val % 8 ∧ t.val / 8 < u.val / 8)
  | _ => decide (u.val % 8 = t.val % 8 ∧ u.val / 8 < t.val / 8)

/-! Bursts (R164, R165, R171). -/

/-- The burst header (R164): its 512 bits. -/
def Burst.header (b : Burst) : BitVec 512 :=
  BitVec.ofNat 512 (place b.srcTile.val 0 6 + place b.partition.val 6 7 + place b.group.toNat 13 12 + place b.seq.toNat 25 32
    + place b.data.length 57 15 + place (if b.last then 1 else 0) 72 1 + place (if b.poison then 1 else 0) 73 1)

/-- The BCAST_DATA packets that carry one burst to a tile the Brim cannot reach (R171). The group stands in TREE (log 14). -/
def bcastPackets (b : Burst) (dst : TileNo) : List Packet :=
  (List.range ((b.data.length + 4095) / 4096)).map fun i =>
    let part := (b.data.drop (i * 4096)).take 4096
    { cls := 3, typ := 8, srcTile := b.srcTile, srcUnit := 0xE, dstTile := dst, dstUnit := 0xE, partition := BitVec.ofNat 7 b.partition.val
      context := 0, length := BitVec.ofNat 13 part.length, addr := 0, tag := 0, tree := b.group.setWidth 16, node := 0, role := false
      nonfinite := false, poison := b.poison, last := b.last && decide ((i + 1) * 4096 ≥ b.data.length), status := 0, origClass := 3
      sys := true, offset := BitVec.ofNat 32 (b.offset + i * 4096), payload := part, here := b.srcTile }

/-- Mesh copies of a burst to some tiles. -/
def meshCopies (s : State) (b : Burst) (dests : List TileNo) : State := send s (dests.flatMap (bcastPackets b))

/-- A burst takes the ways on from the station where it stands. Where a segment is open the destinations beyond it get mesh copies, those that have
one already left out (R171). -/
def launch (s : State) (b : Burst) (ways : List (Fin 4)) (dests : List TileNo) : State :=
  ways.foldl
    (fun s d =>
      if (segment s b.partition b.here d).isSome then { s with bursts := s.bursts ++ [{ b with heading := d }] }
      else meshCopies s b (dests.filter fun u => beyond b.here d u && !b.copied.contains u)) s

/-! The end of a STREAM (R213, R214). -/

/-- The STREAM that a station runs, put back. -/
def setRun (s : State) (t : TileNo) (r : StreamRun) : State :=
  let x := getTile s t
  setTile s t { x with station := { x.station with running := some r } }

/-- Reads of a station that have not been answered (R213). -/
def StreamRun.pending (r : StreamRun) : List StationRead := r.reads.filter fun x => x.data.isNone

/-- A station's STREAM is over: its outcome, and its place when the record is written. -/
def endStream (s : State) (t : TileNo) : State :=
  match (getTile s t).station.running with
  | none => s
  | some r =>
    if r.recordHeld || r.remaining ≠ 0 || !r.pending.isEmpty || !(r.stopped || r.asked == stBytes r.task) then s
    else
      let s := setRun s t { r with recordHeld := true }
      let o := outcome s r.task r.status 0 false (now s) (quality s)
      if o.2 then o.1
      else
        let x := getTile o.1 t
        setTile o.1 t { x with station := { x.station with running := none } }

/-- `n` bytes of a station's STREAM have been written or dropped, with the first status that is not OK. -/
def streamDone (s : State) (src : TileNo) (n : Nat) (st : BitVec 8) : State :=
  match (getTile s src).station.running with
  | none => s
  | some r => endStream (setRun s src { r with remaining := r.remaining - n, status := if r.status == stOk then st else r.status }) src

/-- A copy for one unit is dropped and counted (R154, R182). -/
def dropCopy (s : State) (t : TileNo) : State :=
  let x := getTile s t
  setTile s t { x with absorbed := satInc x.absorbed }

/-- A station delivers its copy of a burst to the cores of its tile that the group names (BRIM_DELIVERY, R165): at the slot's OFFSET plus
the offset within the broadcast. A core or cluster under reset, or one that is gone, drops its copy (R154, R214). -/
def deliverCopy (s : State) (src : TileNo) (p : PartNo) (g : Nat) (tile : TileNo) (offset : Nat) (data : List Byte) : State :=
  ((groupSlots (getPart s p).map g).filter fun sl => coreTile sl.1 == tile).foldl
    (fun s sl =>
      if resettingCore s sl.1 then streamDone (dropCopy s tile) src data.length stAbsorbed
      else if !cmemMapped s tile (Fin.ofNat 4 (coreCluster sl.1)) then streamDone s src data.length stWithdrawn
      else streamDone (storeMem s (cmemBase sl.1 + sl.2 + offset) data) src data.length stOk) s

/-- Send one burst from its source station: delivered at the station's own tile, on its way over the Brim, and as mesh copies (R165, R171). -/
def sendBurst (s : State) (b : Burst) (dests : List TileNo) : State :=
  let b := { b with copied := dests.filter fun u => !brimReaches s b.srcTile u }
  let s := launch (meshCopies s b b.copied) b (burstWays s b.partition dests b.srcTile none) dests
  if dests.contains b.srcTile then deliverCopy s b.srcTile b.partition b.group.toNat b.srcTile b.offset b.data else s

/-! Segments (R167). -/

/-- The station a burst can start towards: the segment is closed, earlier bursts of its broadcast have gone, and the far station's buffer for the
direction is free. -/
def burstStarts (s : State) (index : Nat) (b : Burst) : Option TileNo :=
  match segment s b.partition b.here b.heading with
  | none => none
  | some u =>
    let sameWay (x : Burst) : Bool := x.here == b.here && x.heading == b.heading && x.srcTile == b.srcTile && x.group == b.group
    let first := (s.bursts.take index).all fun x => !sameWay x
    let busy := s.bursts.any fun x => x.here == u && x.via == some b.heading
    if first && !busy then some u else none

/-- Bursts of other broadcasts that could start across the same segment towards it. -/
def facing (s : State) (u : TileNo) (b : Burst) : List Burst :=
  (s.bursts.zipIdx.filter fun x =>
    x.1.here == u && x.1.heading == opposite b.heading && x.1.srcTile != b.srcTile && (burstStarts s x.2 x.1).isSome).map (·.1)

/-- A burst stands at the far station: it is delivered there, and goes on along its row and onto the column. -/
def burstArrives (s : State) (b : Burst) (u : TileNo) : State :=
  let dests := groupTiles (getPart s b.partition).map b.group.toNat
  let b' := { b with here := u, via := some b.heading, lost := false }
  deliverCopy (launch s b' (burstWays s b.partition dests u (some b.heading)) dests) b.srcTile b.partition b.group.toNat u b.offset b.data

/-- BRIM_BURST_HOP (R165 to R169, R171): a burst crosses the next segment once the far station has a buffer free. Of two that start towards each other
the lower SRC_TILE goes, and the other starts next. Where the segment has come open, the destinations beyond it get mesh copies. -/
def execBrimBurstHop (index : Nat) (s : State) :=
  finish s <|
    match s.bursts[index]? with
    | none => s
    | some b =>
      let gone := { s with bursts := s.bursts.eraseIdx index }
      if (segment s b.partition b.here b.heading).isNone then
        launch gone b [b.heading] (groupTiles (getPart s b.partition).map b.group.toNat)
      else match burstStarts s index b with
        | none => s
        | some u =>
          let f := facing s u b
          if !b.lost && f.any (·.lost) then s
          else if !b.lost && f.any fun x => decide (x.srcTile.val < b.srcTile.val) then
            { s with bursts := s.bursts.set index { b with lost := true } }
          else
            let mark (x : Burst) : Burst := if f.contains x && decide (b.srcTile.val < x.srcTile.val) then { x with lost := true } else x
            burstArrives { gone with bursts := gone.bursts.map mark } b u

/-! Admission and start (R191, R211 to R213). -/

/-- The body of STREAM (R323). -/
def streamBody (t : Task) : List Fail :=
  let e := !stGroupMode t
  bodyFails t
    [(256, 1, true), (257, 2, e), (259, 13, e), (272, 4, e), (276, 12, !e), (288, 20, true), (320, 28, true), (384, 56, true),
     (448, 56, e && stR t == 0)]

/-- The expert's entry in the map, where the descriptor's set and expert exist. -/
def streamExpert (m : List Byte) (t : Task) : Option Nat :=
  if stSet t < mapNSets m && stExpert t < setExperts m (stSet t) then some (expertEntry m (stSet t) (stExpert t)) else none

/-- The checks made as a STREAM reaches its station (R211, R323). -/
def streamFails (s : State) (tile : TileNo) (t : Task) : List Fail :=
  let m := (getPart s t.part).map
  streamBody t ++ headerFails s t
    ++ need (decide (1 ≤ t.f 288 20 ∧ t.f 288 20 ≤ 2 ^ 19)) stParam 36
    ++ need (stDoff t % 2048 == 0) stParam 40
    ++ (if stGroupMode t then need (decide (stGroup t < mapNGroups m)) stParam 34
        else match streamExpert m t with
          | none => [(stParam, 32)]
          | some v => need (decide (stR t ≤ exNRepl v)) stParam 34 ++ need (exSrcTile v == tile) stParam 3)

/-- STREAM (R191, R211, R213): the first STREAM that has reached the station joins its queue of 64, or its held list, or fails. -/
def execStream (tile : TileNo) (s : State) :=
  finish s <|
    let x := getTile s tile
    match x.station.inbox with
    | [] => s
    | t :: rest =>
      let pop := setTile s tile { x with station := { x.station with inbox := rest } }
      let gen := genWhen (getPart s t.part) t.mapGen t.afterMark
      if gen = .hold then
        if x.station.held.length < 16 then
          setTile s tile { x with station := { x.station with inbox := rest, held := x.station.held ++ [t] } }
        else rejectTask pop t stStalePhase 5
      else
        match admissionFailure (genFails gen ++ streamFails s tile t) with
        | some (st, d) => rejectTask pop t st d
        | none =>
          if stepWhen (getPart s t.part) t.step = .next || decide (64 ≤ x.station.queue.length) then s
          else setTile s tile { x with station := { x.station with inbox := rest, queue := x.station.queue ++ [admitMark s t] } }

/-- The group a STREAM goes to (R211): named, or by the expert and the replica count, which a summary entry may give. -/
def streamGroup (s : State) (tile : TileNo) (t : Task) : Except (BitVec 8) Nat :=
  let m := (getPart s t.part).map
  if stGroupMode t then .ok (stGroup t)
  else match streamExpert m t with
    | none => .error stParam
    | some v =>
      if stR t ≠ 0 then .ok (exGroupBase v + stR t - 1)
      else
        let a := stSummary t + 64 + 4 * stExpert t
        match transferStatus s tile t.ctx .read a 4 with
        | some st => .error st
        | none =>
          let r := memNat s a 4 % 16
          if 1 ≤ r ∧ r ≤ exNRepl v then .ok (exGroupBase v + r - 1) else .error stParam

/-! Reading the source (R213, R214). -/

/-- The station reads on, in ascending addresses, in reads of up to 4 KiB (log 63), while fewer than 16 are outstanding. -/
def askReads (t : TileNo) : Nat → State → State
  | 0, s => s
  | fuel + 1, s =>
    match (getTile s t).station.running with
    | none => s
    | some r =>
      let a := stSrc r.task + r.asked
      let n := min (4096 - a % 4096) (stBytes r.task - r.asked)
      match (List.range 16).find? fun k => !r.pending.any fun x => x.tag == k with
      | none => s
      | some tag =>
        if r.stopped || n == 0 || resettingPart s r.task.part then s
        else
          askReads t fuel
            (send (setRun s t { r with asked := r.asked + n, reads := r.reads ++ [{ tag := tag, offset := r.asked, len := n }] })
              [unitRequest t 0xE r.task 0x00 (BitVec.ofNat 8 tag) a n r.asked (r.asked + n == stBytes r.task) []])

/-- Bursts leave while their bytes have come: 64 beats each, the last one shorter. -/
def cutBursts (t : TileNo) : Nat → State → State
  | 0, s => s
  | fuel + 1, s =>
    match (getTile s t).station.running with
    | none => s
    | some r =>
      let n := min 16384 (stBytes r.task - r.sent)
      if r.stopped || n == 0 || decide (r.buffer.length < n) || resettingPart s r.task.part then s
      else
        let b : Burst :=
          { srcTile := t, partition := r.task.part, group := BitVec.ofNat 12 r.group, seq := BitVec.ofNat 32 (r.sent / 16384)
            last := r.sent + n == stBytes r.task, poison := r.poison, offset := stDoff r.task + r.sent, data := r.buffer.take n, here := t, heading := 0 }
        let rest := r.buffer.drop n
        cutBursts t fuel
          (sendBurst (setRun s t { r with buffer := rest, sent := r.sent + n, poison := r.poison && !rest.isEmpty }) b
            (groupTiles (getPart s r.task.part).map r.group))

/-- What the station has read in order goes into bursts, and it reads on. -/
def stationGo (s : State) (t : TileNo) : State :=
  match (getTile s t).station.running with
  | none => s
  | some r =>
    let come := r.reads.takeWhile fun x => x.data.isSome
    let buffer := r.buffer ++ come.flatMap fun x => x.data.getD []
    let s := setRun s t { r with reads := r.reads.drop come.length, buffer := if r.stopped then [] else buffer }
    endStream (askReads t 16 (cutBursts t (buffer.length / 16384 + 1) s)) t

/-- Data for one of a station's reads have come. -/
def stationLanded (s : State) (t : TileNo) (tag : Nat) (data : List Byte) (poison : Bool) : State :=
  match (getTile s t).station.running with
  | none => s
  | some r =>
    if r.pending.any fun x => x.tag == tag then
      stationGo (setRun s t { r with
        reads := r.reads.map fun x => if x.tag == tag && x.data.isNone then { x with data := some data } else x
        poison := r.poison || poison }) t
    else s

/-- A STREAM stops where its reading failed (R214): what has not been sent in bursts is undefined at every destination. -/
def stopStream (s : State) (t : TileNo) (st : BitVec 8) : State :=
  match (getTile s t).station.running with
  | none => s
  | some r =>
    if r.stopped || r.recordHeld || r.sent == stBytes r.task then s
    else
      let slots := groupSlots (getPart s r.task.part).map r.group
      let n := stBytes r.task - r.sent
      let s := slots.foldl
        (fun s sl => if cmemMapped s (coreTile sl.1) (Fin.ofNat 4 (coreCluster sl.1)) then
            freeBytes s (cmemBase sl.1 + sl.2 + stDoff r.task + r.sent) n else s)
        (setRun s t { r with stopped := true, buffer := [] })
      streamDone s t (n * slots.length) st

/-- One of a station's reads has failed (R214). -/
def stationFailed (s : State) (t : TileNo) (tag : Nat) (st : BitVec 8) : State :=
  match (getTile s t).station.running with
  | none => s
  | some r =>
    if r.pending.any fun x => x.tag == tag then
      stationGo (stopStream (setRun s t { r with
        reads := r.reads.map fun x => if x.tag == tag && x.data.isNone then { x with data := some [] } else x }) t st) t
    else s

/-- The ranges of a STREAM, source and destinations, in the entries now in force (R212). -/
def streamRanges (s : State) (t : Task) (g : Nat) : List Fail :=
  let destOk := (groupSlots (getPart s t.part).map g).all fun sl =>
    decide (sl.2 + stDoff t + stBytes t ≤ 2 ^ 28) && rangeOk s t.ctx .write (cmemBase sl.1 + sl.2 + stDoff t) (stBytes t)
  need (rangeOk s t.ctx .read (stSrc t) (stBytes t)) stRange 48 ++ need destOk stRange 40

/-- STREAM_START (R212 to R214): the station takes its next STREAM, checks its ranges, and starts to read its source. -/
def execStreamStart (tile : TileNo) (s : State) :=
  finish s <|
    let x := getTile s tile
    match x.station.running, x.station.queue with
    | none, t :: rest =>
      if resettingPart s t.part then s else
      let s := setTile s tile { x with station := { x.station with queue := rest } }
      match streamGroup s tile t with
      | .error st => rejectTask s t st (if st == stParam then 56 else 0)
      | .ok g =>
        let slots := groupSlots (getPart s t.part).map g
        match admissionFailure (streamRanges s t g) with
        | some (st, d) => rejectTask s t st d
        | none =>
          let x := getTile s tile
          let run : StreamRun := { task := t, group := g, remaining := stBytes t * slots.length, status := stOk }
          endStream (askReads tile 16 (setTile s tile { x with station := { x.station with running := some run } })) tile
    | _, _ => s

/-- Stop the STREAMs whose source satisfies `p` (R214, R279). -/
def cutStreams (s : State) (p : Task → Bool) (st : BitVec 8) : State :=
  allTiles.foldl
    (fun s t =>
      match (getTile s t).station.running with
      | none => s
      | some r => if p r.task then stopStream s t st else s) s

end Sys2Proof.Machine
end

