-- ==== Sys2Proof/Machine/GauntletRun.lean ====
section
/-!
DEFINITION. What a GAUNTLET computes and writes (R97 to R104, R110, R210, R223 to R225).
-/
namespace Sys2Proof.Machine
open Sys2Proof

/-! ELEMENTWISE (R99). -/

/-- 1/√2 and 1/√(2π), rounded to FP32. -/
def f32InvSqrt2 : F32 := 0x3F3504F3
def f32InvSqrt2Pi : F32 := 0x3ECC422A

def silu (g : Nat) (x : F32) : F32 := f32Mul x (vecFn g .sigmoid x)
def gelu (g : Nat) (x : F32) : F32 :=
  f32Mul (f32Mul f32Half x) (f32Add f32One (vecFn g .erf (f32Mul x f32InvSqrt2)))
def sqrelu (x : F32) : F32 := let r := f32Max x f32Zero; f32Mul r r
def geluBwd (gen : Nat) (g x : F32) : F32 :=
  let e := vecFn gen .exp (f32Mul (f32Neg f32Half) (f32Mul x x))
  let d := f32Add (f32Mul f32Half (f32Add f32One (vecFn gen .erf (f32Mul x f32InvSqrt2)))) (f32Mul x (f32Mul f32InvSqrt2Pi e))
  f32Mul g d
/-- s × (1 + x × (1 − s)). -/
def siluSlope (gen : Nat) (x : F32) : F32 :=
  let s := vecFn gen .sigmoid x
  f32Mul s (f32Add f32One (f32Mul x (f32Sub f32One s)))
def siluBwd (gen : Nat) (g x : F32) : F32 := f32Mul g (siluSlope gen x)
def sqreluBwd (g x : F32) : F32 := f32Mul g (f32Mul f32Two (f32Max x f32Zero))

/-- SWIGLU over a row's 512-column blocks: column j with column j + half of its block. -/
def swigluRow (gen : Nat) (row : List F32) : List F32 :=
  (groupsOf 512 row.length row).flatMap fun b =>
    let h := b.length / 2
    ((b.take h).zip (b.drop h)).map fun e => f32Mul (silu gen e.1) e.2

/-- SWIGLU_BWD over g's blocks of 256 columns and the saved input's blocks of twice as many. -/
def swigluBwdRow (gen : Nat) (g x : List F32) : List F32 :=
  ((groupsOf 256 g.length g).zip (groupsOf 512 x.length x)).flatMap fun e =>
    let h := e.1.length
    let three := e.1.zip ((e.2.take h).zip (e.2.drop h))
    (three.map fun v => f32Mul (f32Mul v.1 v.2.2) (siluSlope gen v.2.1))
      ++ three.map fun v => f32Mul v.1 (f32Mul v.2.1 (vecFn gen .sigmoid v.2.1))

/-- One row through ELEMENTWISE, with the saved row of a _BWD function. -/
def elementwiseRow (gen func : Nat) (row x : List F32) : List F32 :=
  let both (f : F32 → F32 → F32) : List F32 := (row.zip x).map fun e => f e.1 e.2
  match func with
  | 0 => row
  | 1 => row.map (gelu gen)
  | 2 => row.map (silu gen)
  | 3 => swigluRow gen row
  | 4 => row.map sqrelu
  | 9 => both (geluBwd gen)
  | 10 => both (siluBwd gen)
  | 11 => swigluBwdRow gen row x
  | _ => both sqreluBwd

/-! NORM (R100). -/

/-- A row's output, with its terms of dgamma and dbeta. -/
structure NormRow where
  out : List F32
  dgamma : List F32 := []
  dbeta : List F32 := []

def zip3 (f : F32 → F32 → F32) (a b : List F32) : List F32 := (a.zip b).map fun e => f e.1 e.2

def normRow (gen func : Nat) (eps : F32) (L : F32) (gamma beta row x : List F32) : NormRow :=
  let rsqrt (v : F32) : F32 := vecFn gen .rsqrt v
  let rms (x : List F32) : F32 := rsqrt (f32Add (f32Div (pairsum (zip3 f32Mul x x)).toF32 L) eps)
  let mean (x : List F32) : F32 := f32Div (pairsum x).hi L
  let centred (x : List F32) : List F32 := let mu := mean x; x.map fun v => f32Sub v mu
  let layer (x : List F32) : F32 :=
    let d := centred x
    rsqrt (f32Add (f32Div (pairsum (zip3 f32Mul d d)).hi L) eps)
  match func with
  | 0 => { out := let r := rms row; zip3 f32Mul (row.map fun v => f32Mul v r) gamma }
  | 1 =>
    let r := layer row
    { out := zip3 f32Add (zip3 f32Mul ((centred row).map fun v => f32Mul v r) gamma) beta }
  | 8 =>
    let r := rms x
    let h := zip3 f32Mul row gamma
    let c := f32Div (pairsum (zip3 f32Mul h x)).hi L
    let k := f32Mul (f32Mul c r) r
    { out := (zip3 f32Sub h (x.map fun v => f32Mul v k)).map (f32Mul r), dgamma := zip3 f32Mul row (x.map fun v => f32Mul v r) }
  | _ =>
    let r := layer x
    let n := (centred x).map fun v => f32Mul v r
    let h := zip3 f32Mul row gamma
    let a := f32Div (pairsum h).hi L
    let c := f32Div (pairsum (zip3 f32Mul h n)).hi L
    { out := (zip3 f32Sub (h.map fun v => f32Sub v a) (n.map fun v => f32Mul v c)).map (f32Mul r)
      dgamma := zip3 f32Mul row n, dbeta := row }

/-- Running pairs with one row's terms added, the running value as operand a. -/
def addTerms (acc : List Pair) (v : List F32) : List Pair := (acc.zip v).map fun e => pairAdd e.1 (Pair.ofF32 e.2)

def pairsToBytes (l : List Pair) : List Byte := l.flatMap fun p => bytesOf 8 (p.hi.toNat + p.lo.toNat * 2 ^ 32)

/-! DROPOUT (R102, R103). -/

/-- One round of Philox-4x32 (R103, log 19). -/
def philoxRound (k : BitVec 32 × BitVec 32) (c : BitVec 32 × BitVec 32 × BitVec 32 × BitVec 32) :
    BitVec 32 × BitVec 32 × BitVec 32 × BitVec 32 :=
  let p0 := 0xD2511F53 * c.1.toNat
  let p1 := 0xCD9E8D57 * c.2.2.1.toNat
  let hi (p : Nat) : BitVec 32 := BitVec.ofNat 32 (p / 2 ^ 32)
  let lo (p : Nat) : BitVec 32 := BitVec.ofNat 32 p
  (hi p1 ^^^ c.2.1 ^^^ k.1, lo p1, hi p0 ^^^ c.2.2.2 ^^^ k.2, lo p0)

/-- Rounds with the key advanced between them. -/
def philoxRounds : Nat → BitVec 32 × BitVec 32 → BitVec 32 × BitVec 32 × BitVec 32 × BitVec 32 → BitVec 32 × BitVec 32 × BitVec 32 × BitVec 32
  | 0, _, c => c
  | n + 1, k, c => philoxRounds n (k.1 + 0x9E3779B9, k.2 + 0xBB67AE85) (philoxRound k c)

/-- The word of the generator for element number e. -/
def dropWord (t : Task) (e : Nat) : Nat :=
  let q := e / 4
  let seed := dSeed t
  let c := philoxRounds 10 (BitVec.ofNat 32 seed, BitVec.ofNat 32 (seed / 2 ^ 32))
    (BitVec.ofNat 32 q, BitVec.ofNat 32 (bits q 32 14 + dLayer t * 2 ^ 16), BitVec.ofNat 32 (dMicro t), BitVec.ofNat 32 (dReplica t))
  match e % 4 with
  | 0 => c.1.toNat | 1 => c.2.1.toNat | 2 => c.2.2.1.toNat | _ => c.2.2.2.toNat

/-- KS: 2^32 ÷ (2^32 − P), rounded once. -/
def dropScale (P : Nat) : F32 := f32Of (FNum.div (.fin false (2 ^ 32) 0) (.fin false (2 ^ 32 - P) 0))

/-- An element after DROPOUT. -/
def dropElem (ks : F32) (keep : Bool) (x : F32) : F32 :=
  if f32IsNan x then f32Nan else if keep then f32Mul x ks else x &&& 0x80000000

def dropRow (t : Task) (rowId : Nat) (row : List F32) : List F32 :=
  let ks := dropScale (dP t)
  row.zipIdx.map fun e => dropElem ks (decide (dP t ≤ dropWord t (rowId * dRowLen t + dColBase t + e.2))) e.1

/-! Operands. -/

/-- A loss-scale option (R74, R95). -/
def lsRows (ls : Nat) (exp : Int) (rows : List (List F32)) : List (List F32) :=
  match ls with
  | 1 => rows.map fun r => r.map fun v => f32Scale v exp
  | 2 => rows.map fun r => r.map fun v => f32Scale v (-exp)
  | _ => rows

/-- The sparse A operand that a descriptor names (R119, R319). -/
def sparseA (t : Task) : SparseA :=
  { pat := gPattern t, fmt := fmtD (gAfmt t), vals := gA t, headerAt := gMeta t, scales := gAscale t, row0 := gRow0 t, k0 := gLda t
    m := gM t, k := gK t }

/-- A dense block read to codes and scales, row by row. -/
def readRows (w : Work) (f : Fmt) (base ld scaleBase rows cols : Nat) : Work × List (List Nat × List (Option Int)) :=
  let w := w.fetchBlock (rowBlock f base ld rows 0 cols)
  let w := if f.isMx then w.fetchBlock (scaleBlock scaleBase ld rows 0 cols) else w
  (w, if w.halted then [] else (List.range rows).map fun r => (rowCodes w.view f base ld r cols, rowScales w.view f scaleBase ld r cols))

/-- Rows of a Liner range, whose formats have no scales. -/
def linerRows (w : Work) (index first last : Nat) (f : Fmt) (rows cols : Nat) : Work × List (List Nat × List (Option Int)) :=
  let r := readLiner w index first last f rows cols
  (r.1, r.2.map fun l => (l, List.replicate ((cols + 31) / 32) (some 0)))

/-- Rows of A, as codes with their scales. -/
def readA (w : Work) (src : RowSource) : Work × List (List Nat × List (Option Int)) :=
  let t := w.t
  let f := fmtD (gAfmt t)
  let k := inputWidth t
  if gAsrc t = 1 then linerRows w (gA t) (t.f 768 32) (t.f 800 32) f src.m k
  else if gPattern t != 0 then
    let w := sparseFetch w (sparseA t)
    (w, if w.halted then [] else (List.range src.m).map (sparseRow w.view (sparseA t)))
  else readRows w f src.a (gLda t) (gAscale t) src.m k

/-- Rows of B. -/
def readB (w : Work) : Work × List OpRow :=
  let t := w.t
  let f := fmtD (gBfmt t)
  let r := if gBsrc t then linerRows w (gB t) (t.f 832 32) (t.f 864 32) f (widthOutOf t 1) (gK t)
    else readRows w f (gB t) (gLdb t) (gBscale t) (widthOutOf t 1) (gK t)
  (r.1, r.2.map fun e => opRow f e.1 e.2)

/-- Rows of the C input: the destination's shape and rows. -/
def readC (w : Work) (src : RowSource) : Work × List (List F32) :=
  let t := w.t
  let n := widthOutOf t 1
  if !gHasC t then (w, List.replicate src.m (List.replicate n f32Zero))
  else
    let f := fmtD (gCfmt t)
    let r := readRows w f (rowAddr f (gC t) (gLdd t) src.first) (gLdd t) 0 src.m n
    (r.1, r.2.map fun e => rowF32 f e.1 e.2)

/-- The saved rows of a _BWD stage (R98, R110). -/
def readX (w : Work) (m width addr fmt : Nat) (liner : Bool) (first last : Nat) : Work × List (List F32) :=
  let f := fmtD fmt
  let r := if liner then linerRows w addr first last f m width else readRows w f addr width 0 m width
  (r.1, r.2.map fun e => rowF32 f e.1 e.2)

/-! Stages. -/

/-- A Gauntlet between stages: its work, the rows handed on, and the A operand a first GEMM reads. -/
structure GRun where
  w : Work
  rows : List (List F32)
  a : List OpRow := []

/-- LS and CENSUS on the rows a stage puts out, or takes in (R95, R126). -/
def lsCensusRows (t : Task) (g : Stage) (r : GRun) : GRun :=
  let rows := lsRows g.ls (t.exp.getD 0) r.rows
  { r with rows := rows
           w := if g.census then { r.w with census := r.w.census + nonFinites rows.flatten } else r.w }

/-- QUANT's stores (R101): elements, then scales, by rows. -/
def quantStores (t : Task) (g : Stage) (first : Nat) (rows : List (List F32)) : List (Nat × List Byte) × List (Nat × List Byte) :=
  let f := fmtD g.fmt
  let qs := rows.zipIdx.map fun e => ((groupsOf 32 e.1.length e.1).map (quantBlock f), first + e.2)
  (qs.map fun e => (rowAddr f (gD t) (gLdd t) e.2, packBytes f.width (e.1.flatMap (·.2))),
   qs.map fun e => (qScale t + e.2 * gLdd t / 32, e.1.map fun q => BitVec.ofNat 8 q.1))

/-- The row identifiers of DROPOUT (R103). -/
def dropIds (w : Work) (src : RowSource) : Work × (Nat → Nat) :=
  let t := w.t
  if dRowId t = 0 then (w, fun i => dRowBase t + i)
  else (w.fetch (dRowId t) (4 * src.m), fun i => memNat w.view (dRowId t + 4 * i) 4)

/-- Output columns of a core block as COMPRESS sees them (R81, R99, R130): SWIGLU halves the block's 512 columns, SWIGLU_BWD doubles them (log 67). -/
def compressCols (t : Task) : Nat :=
  if !hasStage t 2 then 512 else if stFunc t 2 = 3 then 256 else if stFunc t 2 = 11 then 1024 else 512

/-- One stage (R95 to R101). -/
def runStage (c : CoreNo) (src : RowSource) (t : Task) (r : GRun) (g : Stage) : GRun :=
  if r.w.halted then r
  else
    let gen := r.w.s.weala.generation
    match g.kind with
    | 1 =>
      let b := readB r.w
      let cin := readC b.1 src
      if cin.1.halted then { r with w := cin.1 }
      else
        let a := if g.idx = 0 then r.a else r.rows.map (opRowOfF32 (fmtD (gAfmt t)) t.saturate)
        let rows := (a.zip cin.2).map fun e => (e.2.zip b.2).map fun x => dotRows x.1 e.1 x.2
        lsCensusRows t g { r with w := cin.1, rows := rows }
    | 2 =>
      let bwd := decide (8 ≤ g.func)
      let x := if bwd then readX r.w src.m (savedWidth t) (eX t) (eXfmt t) (eXliner t) (eXfirst t) (eXlast t) else (r.w, r.rows)
      if x.1.halted then { r with w := x.1 }
      else lsCensusRows t g { r with w := x.1, rows := (r.rows.zip x.2).map fun e => elementwiseRow gen g.func e.1 e.2 }
    | 3 =>
      let bwd := decide (8 ≤ g.func)
      let l := nL t
      let x := if bwd then readX r.w src.m l (nX t) (nXfmt t) (nXliner t) (nXfirst t) (nXlast t) else (r.w, r.rows)
      let w := x.1.fetch (nGamma t) (4 * l)
      let w := if g.func = 1 then w.fetch (nBeta t) (4 * l) else w
      if w.halted then { r with w := w }
      else
        let outs := (r.rows.zip x.2).map fun e =>
          normRow gen g.func (nEps t) (f32OfNat l) (f32s w.view (nGamma t) l) (if g.func = 1 then f32s w.view (nBeta t) l else []) e.1 e.2
        let zero := List.replicate l Pair.zero
        let w := if bwd then w.store (nDgamma t) (pairsToBytes (outs.foldl (fun acc o => addTerms acc o.dgamma) zero)) else w
        let w := if g.func = 9 then w.store (nDbeta t) (pairsToBytes (outs.foldl (fun acc o => addTerms acc o.dbeta) zero)) else w
        lsCensusRows t g { r with w := w, rows := outs.map (·.out) }
    | 4 => lsCensusRows t g { r with rows := r.rows.zipIdx.map fun e => dropRow t ((dropIds r.w src).2 e.2) e.1 }
    | 5 =>
      let r := lsCensusRows t g r
      { r with w := compressStage c (compressCols t) (gN t) (bits g.param 0 4) (g.param.testBit 4) (fmtD g.fmt) (gD t) (cMeta t) (cScale t)
                 { r.w with outs := r.w.outs ++ [.barrier] } r.rows }
    | 6 =>
      let r := lsCensusRows t g r
      let q := quantStores t g src.first r.rows
      { r with w := (r.w.storeRows q.1).storeRows q.2 }
    | _ => lsCensusRows t g { r with w := saveStage src.m (widthInto t 7) (sArea t) (g.func == 1) (fmtD g.fmt) r.w r.rows }

/-- All stages: the row identifiers of a DROPOUT are checked before any stage (R104), then the input is read. -/
def runStages (w : Work) (c : CoreNo) (src : RowSource) : GRun :=
  let t := w.t
  let d := if hasStage t 4 then dropIds w src else (w, fun _ => 0)
  let w := d.1.andThen fun w =>
    if hasStage t 4 && !dropoutFits t src.m d.2 then w.refuse stParam (BitVec.ofNat 16 ((blockBit t 4 + 320) / 8)) else w
  let a := if w.halted then (w, []) else readA w src
  let f := fmtD (gAfmt t)
  let start : GRun := { w := a.1, rows := a.2.map fun e => rowF32 f e.1 e.2, a := a.2.map fun e => opRow f e.1 e.2 }
  (gStages t).foldl (runStage c src t) start

/-- The directory of a directory operand is read (R210): complete, with its entries. -/
def readDirectory (w : Work) : Work :=
  let t := w.t
  if gAsrc t != 2 then w
  else (w.fetch (gA t) 64).andThen fun w =>
    if !bitOf (memNat w.view (gA t) 8) 48 then w.refuse stDispatchIncomplete 64
    else w.fetch (gA t + 64) (16 * bits (memNat w.view (gA t) 8) 32 16)

/-- The stores of a Gauntlet's last output (R97). -/
def gauntletStores (src : RowSource) (r : GRun) : Work :=
  let t := r.w.t
  let f := fmtD (gDfmt t)
  r.w.storeRows (rowStores f t.saturate (rowAddr f (gD t) (gLdd t) src.first) (gLdd t) r.rows)

/-- The output of a Palm contribution is kept for its sequence, and what the stages have put out is stored meanwhile (R223, R225). -/
def palmKeep (s : State) (c : CoreNo) (k : SlotNo) (src : RowSource) (r : GRun) : State :=
  let s := countCensus s c k .stages r.w.census
  let sl := getSlot s c k
  judgeCore (drainSlot (setSlot s c k
    { sl with outRows := r.rows, outRow0 := src.first, outs := r.w.outs, outsReady := true, started := true, state := .late }) c k) c

/-- The Gauntlet's end: its last output to the destination, or kept for its Palm contribution (R97, R223). -/
def gauntletEnd (s : State) (c : CoreNo) (k : SlotNo) (src : RowSource) (r : GRun) : State :=
  let t := r.w.t
  let last : Nat := match lastStage t with | some g => g.kind | none => 0
  if r.w.halted || last = 5 || last = 6 then finishWork s r.w c k .stages
  else if gPalm t then palmKeep r.w.s c k src r
  else finishWork s (gauntletStores src r) c k .stages

/-- A sparse operand's check pass has not been made yet (R132). -/
def metaWaits (s : State) (c : CoreNo) (k : SlotNo) (t : Task) : Bool :=
  gPattern t != 0 && hasStage t 1 && !(getSlot s c k).metaChecked

/-- The next K-slice is on its way (R89): with DBUF 0 fetched and swapped in before the arrays go on; with DBUF 1, after the first, fetched while they
compute, and swapped in at the slice's end. -/
def nextSlice (s : State) (c : CoreNo) (k : SlotNo) (t : Task) (xs : List Xfer) : State :=
  let sl := getSlot s c k
  if xs.any fun x => !rangeOk s t.ctx .read x.addr x.extent then transferFails s c k stRange
  else
    let s := setSlot s c k { sl with slice := sl.slice + 1 }
    if t.dbuf && sl.slice != 0 then prefetch s c k xs else issueFetches s c k xs true

/-- A COMPRESS task's first store is its header with VALID 0 and COUNT 0 (R131). -/
def firstHeader (s : State) (c : CoreNo) (k : SlotNo) (t : Task) (src : RowSource) : State :=
  match stageOf t 5 with
  | none => s
  | some g =>
    let sl := getSlot s c k
    if sl.headerOut then s
    else drainSlot (setSlot s c k { sl with
      headerOut := true, outsReady := true
      outs := [.store [(cMeta t, compressHeader (bits g.param 0 4) (fmtD g.fmt) src.m (gN t) false 0)]] }) c k

/-- A Gauntlet's stages with its operands in its compute region. -/
def gauntletStages (c : CoreNo) (k : SlotNo) (s : State) (t : Task) (src : RowSource) : State :=
  gauntletEnd s c k src (runStages (startWork s c k t) c src)

/-- One instruction of a GAUNTLET: its directory, its header, its K-slices one after another, then its stages. One whose directory entry has no rows ends
OK with nothing written (R210), a Palm contribution in its turn (R225). -/
def gauntletWork (c : CoreNo) (k : SlotNo) (s : State) (t : Task) : State :=
  if metaWaits s c k t then s
  else
    let w := readDirectory (startWork s c k t)
    if w.halted then finishWork s w c k .stages
    else
      let src := rowSource w.view c t
      if src.m = 0 then (if gPalm t then palmKeep s c k src { w := w, rows := [] } else finishWork s w c k .stages)
      else
        let s := firstHeader s c k t src
        let sl := getSlot s c k
        let slices := gauntletSlices s c t src
        if sl.status != stOk then failSlot s c k sl.status
        else if sl.ahead then judgeCore (setSlot s c k { sl with swapPending := true, state := .late }) c
        else match slices[sl.slice]? with
          | some xs => nextSlice s c k t xs
          | none => gauntletStages c k s t src

/-- GAUNTLET (R95 to R104). -/
def execGauntlet (core : CoreNo) (slot : SlotNo) (s : State) := finish s (runTask s core slot .gauntlet (gauntletWork core slot))

/-- The check pass has succeeded: the records are read a second time as the computation uses them (R133), and only the header is kept. -/
def metaGood (s : State) (c : CoreNo) (k : SlotNo) (t : Task) : State :=
  let sl := getSlot s c k
  let a := gMeta t
  setSlot s c k { sl with
    metaChecked := true, checking := false, got := [(a, 32)], compute := sl.compute.filter fun e => decide (a ≤ e.1 ∧ e.1 < a + 32) }

/-- SPARSE_META_CHECK (R132): a sparse A is checked before any stage issues. -/
def execSparseMetaCheck (core : CoreNo) (slot : SlotNo) (s : State) :=
  finish s <|
    runTask s core slot .gauntlet fun s t =>
      if !metaWaits s core slot t then s
      else
        let w := sparseCheck (startWork s core slot t) (sparseA t)
        match w.stop with
        | some (st, _) => checkFails (if st == stSparseMeta then countSparseFault s core else s) core slot st
        | none =>
          if w.want.isEmpty then metaGood s core slot t
          else issueFetches (setSlot s core slot { getSlot s core slot with checking := true }) core slot w.want true

/-! Palm contributions (R223 to R226). -/

/-- Add one output value to a Palm element: the state, and how many hi became infinite or NaN by it (R228); a poisoned element stops the operation. -/
def palmAdd (c : CoreNo) (p : Palm) (acc : State × Nat × Bool) (e : Nat × F32) : State × Nat × Bool :=
  if acc.2.2 then acc
  else
    let a := cmemBase c + p.base + 8 * e.1
    if rangePoisoned acc.1 a 8 then (acc.1, acc.2.1, true)
    else
      let old : Pair := ⟨BitVec.ofNat 32 (memNat acc.1 a 4), BitVec.ofNat 32 (memNat acc.1 (a + 4) 4)⟩
      let v := pairAdd old (Pair.ofF32 e.2)
      (storeMem acc.1 a (bytesOf 8 (v.hi.toNat + v.lo.toNat * 2 ^ 32)),
       acc.2.1 + (if f32NonFinite v.hi && !f32NonFinite old.hi then 1 else 0), false)

/-- The elements of a kept output, by their numbers in the Palm (R223). -/
def palmElems (t : Task) (sl : Slot) : List (Nat × F32) :=
  sl.outRows.zipIdx.flatMap fun e => e.1.zipIdx.map fun x => (gPalmFirst t + (sl.outRow0 + e.2) * gLdd t + x.2, x.1)

/-- A Palm contribution in its turn: its values enter the Palm in order (R223, R224, R228). -/
def contribute (s : State) (core : CoreNo) (slot : SlotNo) (t : Task) : State :=
  let n := gPalmSlot t
  let p := getPalm s core n
  let elems := palmElems t (getSlot s core slot)
  if elems.any fun e => decide (p.elements ≤ e.1) then endSlot s core slot stRange 88
  else
    let r := elems.foldl (palmAdd core p) (s, 0, false)
    let q := getPalm r.1 core n
    let s := setPalm r.1 core n { q with nonfinite := q.nonfinite || decide (0 < r.2.1) }
    let added := match elems with
      | [] => false
      | e :: _ => !rangePoisoned s (cmemBase core + p.base + 8 * e.1) 8
    let s := palmEnd (countCensus s core slot .palms r.2.1) core n (r.2.2 && added)
    endSlot s core slot (if r.2.2 then stPoisoned else stOk) 0

/-- PALM_CONTRIBUTION (R223 to R226): a Gauntlet's kept output enters its Palm when its sequence comes due. -/
def execPalmContribution (core : CoreNo) (slot : SlotNo) (s : State) :=
  finish s <|
    let sl := getSlot s core slot
    match sl.task with
    | none => s
    | some t =>
      if !(t.op == some .gauntlet && gPalm t && sl.started && !sl.ended) || resettingCore s core then s
      else
        let p := getPalm s core (gPalmSlot t)
        if !p.isOpen || p.owner != t.ctx || p.broken then endSlot s core slot stPalm 0
        else if seqBefore (gPalmSeq t) p.nextSeq then endSlot s core slot stPalmSeq 0
        else if gPalmSeq t != p.nextSeq then s
        else contribute s core slot t

end Sys2Proof.Machine
end

