-- ==== Sys2Proof/Machine/Copy.lean ====
section
/-!
DEFINITION. COPY (R318).
-/
namespace Sys2Proof.Machine
open Sys2Proof

def cpSrc (t : Task) : Nat := t.addr 256
def cpDst (t : Task) : Nat := t.addr 320
def cpBytes (t : Task) : Nat := t.f 384 32

/-- The two ranges of a COPY do not meet. -/
def cpApart (t : Task) : Bool := decide (cpSrc t + cpBytes t ≤ cpDst t) || decide (cpDst t + cpBytes t ≤ cpSrc t)

/-- The checks of COPY (R318). -/
def copyTaskFails (s : State) (c : CoreNo) (t : Task) : List Fail :=
  bodyFails t [(256, 56, true), (320, 56, true), (384, 32, true)] ++ headerFails s t ++ footprintFails s c t
    ++ need (decide (1 ≤ cpBytes t)) stParam 48 ++ need (cpApart t) stParam 32
    ++ rangeFails s t [(.read, cpSrc t, cpBytes t, 32), (.write, cpDst t, cpBytes t, 40)]

/-- A COPY, its source fetched: the same bytes go out from the transfer region. -/
def copyRun (c : CoreNo) (k : SlotNo) (s : State) (t : Task) : Work :=
  ((startWork s c k t).fetch (cpSrc t) (cpBytes t)).andThen fun w => w.store (cpDst t) (memBytes w.view (cpSrc t) (cpBytes t))

/-- The work of a COPY. -/
def copyWork (c : CoreNo) (k : SlotNo) (s : State) (t : Task) : State := finishWork s (copyRun c k s t) c k .stages

/-- COPY (R318): its source is fetched in transfers of up to 4 MiB, then stored. -/
def execCopy (core : CoreNo) (slot : SlotNo) (s : State) := finish s (runTask s core slot .copy (copyWork core slot))

end Sys2Proof.Machine
end

