-- ==== Sys2Proof/Machine/Ecc.lean ====
section
/-!
DEFINITION. The codes over the fast tier and the cluster memories (R268 to R271, R273, R276): a line as a read finds it.
-/
namespace Sys2Proof.Machine
open Sys2Proof

/-- The partition that owns a region, where one does. -/
def regionOwner (s : State) : Region → Option PartNo
  | .stack k => stackOwner s k
  | .cmem t _ => tileOwner s t
  | .port p => portOwner s p
  | .host _ => none

/-- The POISON event for [a, a + n) (R276): to the platform owner and the contexts of the owning partition whose entries cover some of it;
`cause` 0 scrub, 1 foreground. The first argument of a cluster memory's is left open (log 11). -/
def poisonEvent (s : State) (r : Region) (a n cause : Nat) : State :=
  let who := regionOwner s r
  let covers (c : Context) : Bool :=
    c.ranges.any fun e => entryValid e.2 && decide (entryBase e.2 < a + n ∧ a ≤ entryLast e.2)
  let only : List CtxNo := (s.ctxs.filter fun e => e.2.bound && some e.2.part == who && covers e.2).map fun e => BitVec.ofNat 16 e.1
  let arg : Nat × State :=
    match r with
    | .stack k => (k.val, s)
    | .port p => (p.val, s)
    | _ => let (w, s) := freshWord s; (w.toNat, s)
  raise arg.2 { code := 0x0010, part := who, tenants := true, only := some only, args := [arg.1, a, n, cause] }

/-- A line corrected by the controller's code (R270, R273). -/
def countCorrected (s : State) : Region → State
  | .stack k => let x := getStack s k; setStack s k { x with ceCtrl := satInc x.ceCtrl }
  | .cmem t c => let x := getTile s t; setTile s t { x with cmemCe := tput 0 x.cmemCe c.val (satInc (tget 0 x.cmemCe c.val)) }
  | _ => s

/-- `n` lines poisoned (R270, R273, R293). -/
def countPoisoned (s : State) (r : Region) (n : Nat) (foreground : Bool) : State :=
  match r with
  | .stack k =>
    let x := getStack s k
    setStack s k { x with ueLines := satAdd x.ueLines n, ueForeground := if foreground then satAdd x.ueForeground n else x.ueForeground }
  | .cmem t c => let x := getTile s t; setTile s t { x with cmemUe := tput 0 x.cmemUe c.val (satAdd (tget 0 x.cmemUe c.val) n) }
  | _ => s

/-- Poison n lines from a line on. -/
def poisonLines (s : State) (l : Nat) : Nat → State
  | 0 => s
  | n + 1 => poisonLines { setPoison s l true with writeback := tput false s.writeback l false } (l + 1) n

/-- Where the write-back of the code-block section of a stack's data block stands among the lines (R265). -/
def sectionLine (k : StackNo) (block : Nat) : Nat := 2 ^ 50 + k.val * 2 ^ 26 + block

/-- A correction that a die reports (R268, R292). -/
def countDie (s : State) (k : StackNo) : State :=
  let x := getStack s k
  setStack s k { x with ceDie := satInc x.ceDie }

/-- The section 0 to 30 of a data block is read and corrected: counted, and written back (R269, R270). -/
def sectionCorrected (s : State) (k : StackNo) (block : Nat) : State :=
  countCorrected { s with writeback := tput false s.writeback (sectionLine k block) true } (.stack k)

/-- Its error cannot be corrected: the 32 lines of its data block are poisoned (R270, R276). -/
def sectionLost (s : State) (k : StackNo) (block : Nat) (foreground : Bool) : State :=
  let a := stackBase k + block * 2048
  poisonEvent (countPoisoned (poisonLines s (a / 64) 32) (.stack k) 32 foreground) (.stack k) a 2048 (if foreground then 1 else 0)

/-- A line of the fast tier or of a cluster memory is read and checked, and the check finds `ecc` (R268 to R270, R273, R276). A line already poisoned
shows its marker whatever the finding; dies and code blocks are a stack's. -/
def checkLine (s : State) (r : Region) (l : Nat) (ecc : Ecc) (foreground : Bool) : State :=
  if linePoison s l then s
  else match ecc, r with
    | .corrected, _ => countCorrected { s with writeback := tput false s.writeback l true } r
    | .uncorrectable, _ => poisonEvent (countPoisoned (poisonLines s l 1) r 1 foreground) r (l * 64) 64 (if foreground then 1 else 0)
    | .dieCorrected, .stack k => countDie s k
    | .sectionCorrected, .stack k => sectionCorrected s k ((l * 64 - stackBase k) / 2048)
    | .sectionUncorrectable, .stack k => sectionLost s k ((l * 64 - stackBase k) / 2048) foreground
    | _, _ => s

/-- The first line of a read as it is found (R270, R273); on a slow-tier line `uncorrectable` is the device's poison (R283). -/
def findLine (s : State) (a : Nat) (ecc : Ecc) : State :=
  match regionOf a with
  | some (.stack k) => checkLine s (.stack k) (a / 64) ecc true
  | some (.cmem t c) => checkLine s (.cmem t c) (a / 64) ecc true
  | some (.port _) => if ecc == .uncorrectable then setPoison s (a / 64) true else s
  | _ => s

/-- A read that meets poison, counted at a port (R283, R299). -/
def countPoisonRead (s : State) (a : Nat) : State :=
  match regionOf a with
  | some (.port p) => let x := getXp s p; setXp s p { x with poisonReads := satInc x.poisonReads }
  | _ => s

end Sys2Proof.Machine
end

