-- ==== Sys2Proof/Machine/Partitions.lean ====
section
/-!
DEFINITION. Partitions, contexts and pages (R340 to R350, R361 to R363, R489).
-/
namespace Sys2Proof.Machine
open Sys2Proof

/-! BAR0 offsets (R496). -/
def offPartCommit : Nat := 0x300020
def offCtxCommit : Nat := 0x300050
def offPageCommit : Nat := 0x300090

/-! Partition entries (R361). -/

def peX0 (e : BitVec 128) : Nat := bits e.toNat 0 3
def peY0 (e : BitVec 128) : Nat := bits e.toNat 3 3
def peX1 (e : BitVec 128) : Nat := bits e.toNat 6 3
def peY1 (e : BitVec 128) : Nat := bits e.toNat 9 3
def peValid (e : BitVec 128) : Bool := e.toNat.testBit 12
def peCorner (e : BitVec 128) : TileNo := Fin.ofNat 64 (peY0 e * 8 + peX0 e)
def peDelegate (e : BitVec 128) : CtxNo := e.extractLsb' 72 16
def peDelegateValid (e : BitVec 128) : Bool := e.toNat.testBit 88
def peStartStep (e : BitVec 128) : BitVec 32 := e.extractLsb' 89 32
def peReservedOk (e : BitVec 128) : Bool := bits e.toNat 13 19 == 0 && bits e.toNat 121 7 == 0
def sameRect (a b : BitVec 128) : Bool := bits a.toNat 0 12 == bits b.toNat 0 12

/-- A partition's entry with the commits that are accepted and not yet in force (R343). -/
def effEntry (s : State) (p : PartNo) : BitVec 128 :=
  match (s.owning.filter fun o => o.part == p).getLast? with
  | some o => o.entry
  | none => (getPart s p).entry

/-- The entry with VALID 1, whatever its VALID is: the tiles, stacks and ports that it names (R342 checks them at every commit). -/
def namedBy (e : BitVec 128) : BitVec 128 := e ||| BitVec.ofNat 128 (2 ^ 12)

/-- A tile, stack or port of the entry belongs to another partition (R342). -/
def entryConflicts (s : State) (p : PartNo) (e : BitVec 128) : Bool :=
  allParts.any fun q =>
    q != p &&
      ([effEntry s q, (getPart s q).entry].any fun o =>
        (allTiles.any fun t => entryHasTile (namedBy e) t && entryHasTile o t)
          || (allStacks.any fun k => entryHasStack (namedBy e) k && entryHasStack o k)
          || (allPorts.any fun x => entryHasPort (namedBy e) x && entryHasPort o x))

/-- Some context is bound to the partition. -/
def partBound (s : State) (p : PartNo) : Bool := s.ctxs.any fun c => c.2.bound && c.2.part == p

/-- Two ranges of bytes meet. -/
def rangesMeet (a n b m : Nat) : Bool := decide (a < b + m ∧ b < a + n ∧ 0 < n ∧ 0 < m)

/-- A context of the partition has a valid entry over some address of [a, a + n). -/
def partCovers (s : State) (p : PartNo) (a n : Nat) : Bool :=
  s.ctxs.any fun c => c.2.bound && c.2.part == p &&
    c.2.ranges.any fun e => entryValid e.2 && rangesMeet (entryBase e.2) (entryLast e.2 + 1 - entryBase e.2) a n

/-- A stack or port is taken out of the entry while a context's entry covers it (R342). -/
def removesCovered (s : State) (p : PartNo) (old new : BitVec 128) : Bool :=
  (allStacks.any fun k => entryHasStack old k && !entryHasStack new k && partCovers s p (stackBase k) (2 ^ 36))
    || (allPorts.any fun x => entryHasPort old x && !entryHasPort new x && partCovers s p (portBase x) (2 ^ 46))

/-- The conditions of R342, all of which must hold. -/
def partCommitOk (s : State) (p : PartNo) (old e : BitVec 128) : Bool :=
  peReservedOk e && decide (peX0 e ≤ peX1 e ∧ peY0 e ≤ peY1 e)
    && !entryConflicts s p e
    && !(peValid e && (!peValid old || !sameRect old e) && isHole s (peCorner e))
    && !(partBound s p && peValid old && (!peValid e || !sameRect old e))
    && !removesCovered s p old e
    && (!peDelegateValid e ||
          (let c := getCtx s (peDelegate e); c.bound && c.part == p && peValid old))

/-- A write of PT_PART_COMMIT (R342, R489): an accepted commit waits for its units to drain (R343). -/
def partCommit (s : State) (port : HostPort) (value : Word64) : State :=
  if !bar0Open s port false then s
  else
    let p : PartNo := Fin.ofNat 64 s.setup.partSel.toNat
    let e := s.setup.partShadow
    if !pairOk value || pairVal value != p.val || !partCommitOk s p (effEntry s p) e then setupRefused s offPartCommit
    else { s with owning := s.owning ++ [{ part := p, entry := e, switched := false }] }

/-- PARTITION_CREATE (R342). -/
def execPartitionCreate (port : HostPort) (value : Word64) (s : State) := finish s (partCommit s port value)

/-- PARTITION_CHANGE (R342): the same register write. -/
def execPartitionChange (port : HostPort) (value : Word64) (s : State) := finish s (partCommit s port value)

/-- PARTITION_REMOVE (R342): the same register write. -/
def execPartitionRemove (port : HostPort) (value : Word64) (s : State) := finish s (partCommit s port value)

/-- A commit comes into force (R342, R343). One that creates the partition sets its loss scale, CUR, GEN, FB_QUIET, CU_EXPORT and the
export sequence as R342, R386 and R396 say. -/
def ownershipInForce (s : State) (o : Ownership) : State :=
  let x := getPart s o.part
  if peValid o.entry && !peValid x.entry then
    setPart s o.part
      { x with
        entry := o.entry, ls := {}, cur := peStartStep o.entry, gen := 0, secondHalf := false, map := [], phases := [], drainMark := false
        quiet := false, quietShadow := mkPair 0, quietTables := false, census := {}, closing := none, lastNonfinite := false
        colls := [], endedColls := [], lsHeld := [], coord := [], exportRing := 0, exportSeq := 0 }
  else setPart s o.part { x with entry := o.entry }

/-- No stack of the entry is still being zeroed (R343). -/
def stacksZeroed (s : State) (e : BitVec 128) : Bool := allStacks.all fun k => !(entryHasStack e k && (getStack s k).zeroing)

/-- Bring into force every commit whose units have switched and whose stacks are zeroed; the links that partitions share may change with it
(R155). A partition's next commit switches only once the one before it is in force (OWNERSHIP_SWITCH), so that they take effect in the order of their
writes (R419). -/
def settleOwnership (s : State) : State :=
  let ready := s.owning.filter fun o => o.switched && stacksZeroed s o.entry
  let s := { s with owning := s.owning.filter fun o => !(o.switched && stacksZeroed s o.entry) }
  if ready.isEmpty then s else requiet (ready.foldl ownershipInForce s)

/-- A reset touches a unit of the entry or of the partition's present one: the commit waits for step 6 (R360). -/
def ownershipHeld (s : State) (o : Ownership) : Bool :=
  s.resets.any fun r =>
    match r.level.val with
    | 0 | 1 => entryHasTile o.entry (coreTile (Fin.ofNat 256 r.target.toNat)) || partHasTile s o.part (coreTile (Fin.ofNat 256 r.target.toNat))
    | 2 => r.target.toNat == o.part.val
    | _ => true

/-- Stacks of an entry that pass to the partition and are in service: they are written with zeros first, not ready meanwhile (R343). -/
def passingStacks (s : State) (o : Ownership) : List StackNo :=
  allStacks.filter fun k => entryHasStack o.entry k && !partHasStack s o.part k && fnReady s (fnStack k) && !(getStack s k).withdrawn

/-- A core holds no work. -/
def coreIdle (s : State) (c : CoreNo) : Bool :=
  let co := getCore s c
  co.slots.all (fun e => e.2.state == .empty) && co.queue.isEmpty && co.held.isEmpty && co.palmQueue.isEmpty

/-- A tile holds nothing of its old owner (R343): no packet at its router or bound for it, no work on its cores and station, no chunk at its
reduction nodes. -/
def tileDrained (s : State) (owner : PartNo) (t : TileNo) : Bool :=
  let x := getTile s t
  (tileCores t).all (coreIdle s) && x.nodes.isEmpty
    && x.station.inbox.isEmpty && x.station.queue.isEmpty && x.station.held.isEmpty && x.station.running.isNone
    && !(s.packets.any fun q => q.partition.toNat == owner.val && q.dstTile == t)
    && !(s.bursts.any fun b => b.partition == owner && (b.here == t || b.srcTile == t))

/-- A stack's or port's Cuff holds nothing, and no packet of the old owner is bound for the units of the tile that it hangs on (R343). -/
def memoryDrained (s : State) (owner : PartNo) (n : CuffNo) (t : TileNo) : Bool :=
  let c := getCuff s n
  c.inbox.isEmpty && c.held.isEmpty && c.queue.isEmpty && c.active.isEmpty && c.roots.isEmpty
    && !(s.packets.any fun q => q.partition.toNat == owner.val && q.dstTile == t)

/-- The units that change owner with a commit hold nothing of their old owner (R343). -/
def unitsDrained (s : State) (o : Ownership) : Bool :=
  let old := (getPart s o.part).entry
  allTiles.all (fun t => entryHasTile old t == entryHasTile o.entry t || (match tileOwner s t with | some q => tileDrained s q t | none => true))
    && allStacks.all (fun k => entryHasStack old k == entryHasStack o.entry k ||
        (match stackOwner s k with | some q => memoryDrained s q ⟨k.val, by omega⟩ (stackTile k) | none => true))
    && allPorts.all (fun x => entryHasPort old x == entryHasPort o.entry x ||
        (match portOwner s x with | some q => memoryDrained s q ⟨32 + x.val, by omega⟩ (portTile x) | none => true))

/-- OWNERSHIP_SWITCH (R343): the partition's first commit that is not in force finds its units drained and switches them. -/
def execOwnershipSwitch (p : PartNo) (s : State) :=
  finish s <|
    match s.owning.find? fun o => o.part == p with
    | none => s
    | some o =>
      if o.switched || ownershipHeld s o || !unitsDrained s o then s
      else
        let ks := passingStacks s o
        let s := { s with owning := s.owning.map fun x => if x == o then { x with switched := true } else x }
        let s := ks.foldl (fun s k => setFn (setStack s k { getStack s k with zeroing := true }) (fnStack k) 1) s
        settleOwnership s

/-- STACK_HANDOVER_ZERO_DONE (R343): the stack's data lines are zero, its ready bit is set. -/
def execStackHandoverZeroDone (stack : StackNo) (s : State) :=
  finish s <|
    let k := getStack s stack
    if !k.zeroing || k.withdrawn then s
    else
      let s := zeroRange (setStack s stack { k with zeroing := false }) (stackBase stack) stackMapped
      settleOwnership (setFn s (fnStack stack) 3)

/-! Contexts (R345 to R347). -/

/-- The region of an entry belongs to the partition, and holds the whole range; a port's region is its whole window (R347). -/
def entryRegionOk (s : State) (p : PartNo) (a n : Nat) : Bool :=
  match rangeRegion a n with
  | some (.stack k) => partHasStack s p k && decide (a - stackBase k + n ≤ stackMapped)
  | some (.cmem t _) => partHasTile s p t
  | some (.port x) => partHasPort s p x
  | some (.host _) => true
  | none => false

/-- An address-range entry may be accepted for a context of the partition (R345, R347). -/
def rangeEntryOk (s : State) (p : PartNo) (e : BitVec 128) : Bool :=
  let a := entryBase e
  let l := entryLast e
  bits e.toNat 56 8 == 0 && bits e.toNat 124 4 == 0 &&
    (!entryValid e || (a % 4096 == 0 && (l + 1) % 4096 == 0 && decide (a ≤ l) && entryRegionOk s p a (l + 1 - a)))

/-- The context has an enabled ring. -/
def ctxHasRing (s : State) (c : CtxNo) : Bool := s.rings.any fun r => r.2.enabled && r.2.ctx == c
/-- The context has an allocated page, or one being zeroed for it. -/
def ctxHasPage (s : State) (c : CtxNo) : Bool :=
  (s.pages.any fun e => e.2 == c.toNat + 1) || (s.pageRuns.any fun r => r.2.2 == c)

/-- A write of PT_CTX_COMMIT (R345, R489). -/
def ctxCommit (s : State) (port : HostPort) (value : Word64) : State :=
  if !bar0Open s port false then s
  else
    let c := s.setup.ctxSel
    let old := getCtx s c
    let new : Context := { binding := s.setup.ctxShadow.extractLsb' 0 8, ranges := s.setup.rangeShadow }
    let moved := old.bound && new.bound && old.part != new.part
    let ok :=
      pairOk value && pairVal value == c.toNat && bits s.setup.ctxShadow.toNat 8 56 == 0
        && !(moved && ctxHasRing s c)
        && !(old.bound && !new.bound && (ctxHasRing s c || ctxHasPage s c))
        && (getPart s new.part).valid && s.setup.rangeShadow.all fun e => rangeEntryOk s new.part e.2
    if !ok then setupRefused s offCtxCommit
    else
      let fresh := new.bound && (!old.bound || moved)
      setCtx s c { new with rejects := if fresh then 0 else old.rejects, seq := if fresh then 0 else old.seq }

/-- CONTEXT_BIND (R345). -/
def execContextBind (port : HostPort) (value : Word64) (s : State) := finish s (ctxCommit s port value)

/-- CONTEXT_UNBIND (R345): the same register write. -/
def execContextUnbind (port : HostPort) (value : Word64) (s : State) := finish s (ctxCommit s port value)

/-- CONTEXT_MOVE (R345): the same register write. -/
def execContextMove (port : HostPort) (value : Word64) (s : State) := finish s (ctxCommit s port value)

/-- CONTEXT_ENTRIES_CHANGE (R345): the same register write. -/
def execContextEntriesChange (port : HostPort) (value : Word64) (s : State) := finish s (ctxCommit s port value)

/-! Pages (R349, R350, R363). -/

/-- First byte of the 4 MiB that an FB_MAP_AREA value names (R183, R218). -/
def mapAreaBase (v : BitVec 15) : Nat :=
  let n := v.toNat
  2 ^ 50 + bits n 0 6 * 2 ^ 30 + bits n 6 2 * 2 ^ 28 + bits n 8 4 * 2 ^ 24 + bits n 12 2 * 2 ^ 22
/-- The value is valid (R218). -/
def mapAreaValid (v : BitVec 15) : Bool := v.toNat.testBit 14

/-- First byte of a page. -/
def pageBase (q : Nat) : Nat := 2 ^ 50 + q * 2 ^ 20
/-- The page lies in a map area in force (R183). -/
def pageInMapArea (s : State) (q : Nat) : Bool :=
  s.parts.any fun p => mapAreaValid p.2.mapArea && rangesMeet (pageBase q) (2 ^ 20) (mapAreaBase p.2.mapArea) (2 ^ 22)
/-- The page holds part of an open Palm (R222: 8 bytes an element). -/
def pageInPalm (s : State) (q : Nat) : Bool :=
  s.palms.any fun e => e.2.isOpen
    && rangesMeet (pageBase q) (2 ^ 20) (cmemBase (Fin.ofNat 256 (e.1 / 16)) + e.2.base) (e.2.elements * 8)
/-- Tile and cluster of a page. -/
def pageTile (q : Nat) : TileNo := Fin.ofNat 64 (q / 1024)
def pageCore (q : Nat) : CoreNo := Fin.ofNat 256 (q / 256)

/-- The page may be allocated to the context (R350). -/
def pageAllocOk (s : State) (c : CtxNo) (q : Nat) : Bool :=
  let cx := getCtx s c
  let e := mittenEntry s (pageCore q)
  tget 0 s.pages q == 0 && !(s.pageRuns.any fun r => decide (r.1 ≤ q ∧ q < r.1 + r.2.1)) && !pageInMapArea s q
    && cx.bound && partHasTile s cx.part (pageTile q) && !isHole s (pageTile q) && !isFailedOrAbsent s (fnSram (pageTile q))
    && !(clusterState e == 2 && bankFail e)

/-- A write of PT_PAGE_COMMIT (R350, R363, R489): an allocation is zeroed first, a freed run takes effect at once. -/
def pageCommit (s : State) (port : HostPort) (value : Word64) : State :=
  if !bar0Open s port false then s
  else
    let q := s.setup.pageSel.toNat
    let w := s.setup.pageShadow
    let c : CtxNo := w.extractLsb' 0 16
    let n := bits w.toNat 17 10 + 1
    let run := (List.range n).map (q + ·)
    let within := decide (q % 1024 + n ≤ 1024)
    let alloc := w.toNat.testBit 16
    let ok := pairOk value && pairVal value == q && within &&
      (if alloc then run.all (pageAllocOk s c) else run.all fun i => !pageInPalm s i && !pageInMapArea s i)
    if !ok then setupRefused s offPageCommit
    else if alloc then { s with pageRuns := s.pageRuns ++ [(q, n, c)] }
    else { s with pages := s.pages.filter fun e => !(decide (q ≤ e.1 ∧ e.1 < q + n)) }

/-- PAGE_ALLOCATE (R350). -/
def execPageAllocate (port : HostPort) (value : Word64) (s : State) := finish s (pageCommit s port value)

/-- PAGE_FREE (R350): the same register write. -/
def execPageFree (port : HostPort) (value : Word64) (s : State) := finish s (pageCommit s port value)

/-- Give a run of pages to a context. -/
def givePages (s : State) (q n : Nat) (c : CtxNo) : State :=
  { s with pages := (List.range n).foldl (fun t i => tput 0 t (q + i) (c.toNat + 1)) s.pages }

/-- PAGE_ZERO_DONE (R350): every page of the run is zero, and the allocation takes effect. -/
def execPageZeroDone (first : BitVec 16) (s : State) :=
  finish s <|
    match s.pageRuns.find? fun r => r.1 == first.toNat with
    | none => s
    | some (q, n, c) =>
      let s := { s with pageRuns := s.pageRuns.filter fun r => r != (q, n, c) }
      givePages (zeroRange s (pageBase q) (n * 2 ^ 20)) q n c

end Sys2Proof.Machine
end

