-- ==== Sys2Proof/Machine/Cuffs.lean ====
section
/-!
DEFINITION. The Cuffs (R232 to R257): admission of UPDATE, PROMOTE and DRAIN (R237, R238, R286 to R289), the update rules (R242 to
R245), PARK (R248, R249), export records (R246, R384 to R387), faults and the update report (R251, R252).
-/
namespace Sys2Proof.Machine
open Sys2Proof

/-! Descriptor fields (R324). -/

def uPark (t : Task) : Bool := t.op == some .update && t.b 256
def uRule (t : Task) : Nat := t.f 257 4
def uTree (t : Task) : Nat := t.f 261 12
def uRecords (t : Task) : Nat := t.f 273 25
def uWcopy (t : Task) : Bool := t.b 298
def uWfmt (t : Task) : Nat := t.f 299 4
def uExport (t : Task) : Bool := t.b 303
def uParamBase (t : Task) : Nat := t.f 320 45
def uBase (t : Task) : Nat := t.addr 384
def uReport (t : Task) : Nat := t.addr 448
def uLr (t : Task) : F32 := t.fp 512
def uBeta1 (t : Task) : F32 := t.fp 544
def uBeta2 (t : Task) : F32 := t.fp 576
def uEps (t : Task) : F32 := t.fp 608
def uWd (t : Task) : F32 := t.fp 640
def uC1 (t : Task) : F32 := t.fp 672
def uC2 (t : Task) : F32 := t.fp 704
def uGscale (t : Task) : F32 := t.fp 736
def uWaddr (t : Task) : Nat := t.addr 768
def uWsaddr (t : Task) : Nat := t.addr 832
def uParkBase (t : Task) : Nat := t.addr 896
def uSrc (t : Task) : Nat := t.addr 960
/-- A PROMOTE with a park area, or any DRAIN (R286, R287). -/
def uHasPark (t : Task) : Bool := t.op == some .drain || (t.op == some .promote && uParkBase t != 0)

/-- The working copy's format where it is one of R237. -/
def uCopyFmt (t : Task) : Option Fmt :=
  if [1, 2, 3, 4, 5, 6, 7, 8, 9, 10].contains (uWfmt t) then fmtOf (uWfmt t) else none
def uCopyMx (t : Task) : Bool := match uCopyFmt t with | some f => f.isMx | none => false
/-- Bytes of the working copy's elements, and of its scales. -/
def uCopyBytes (t : Task) : Nat := match uCopyFmt t with | some f => uRecords t * f.width / 8 | none => 0
def uScaleBytes (t : Task) : Nat := uRecords t / 32

/-! A record's arithmetic (R235, R242 to R244). -/

/-- A state record. -/
structure Record where
  hi : F32
  lo : F32
  m : F32
  v : F32
  deriving DecidableEq, Repr

def recordOf (n : Nat) : Record :=
  { hi := BitVec.ofNat 32 n, lo := BitVec.ofNat 32 (n / 2 ^ 32), m := BitVec.ofNat 32 (n / 2 ^ 64), v := BitVec.ofNat 32 (n / 2 ^ 96) }
def recordNat (r : Record) : Nat := r.hi.toNat + r.lo.toNat * 2 ^ 32 + r.m.toNat * 2 ^ 64 + r.v.toNat * 2 ^ 96

/-- The sign of LION (R243): +1.0, -1.0, +0 for either zero, the canonical NaN for NaN. -/
def f32Sign (c : F32) : F32 :=
  if f32IsNan c then f32Nan
  else if f32IsZero c then f32Zero
  else if c.getLsbD 31 then f32Neg f32One else f32One

/-- The increment and the new moments of a rule (R243), every operation rounded on its own. -/
def ruleStep (t : Task) (g w m v : F32) : F32 × F32 × F32 :=
  let lr := uLr t
  let b1 := uBeta1 t
  let b2 := uBeta2 t
  let wd := uWd t
  let minus (x : F32) : F32 := f32Neg (f32Mul lr x)
  match uRule t with
  | 0 =>
    let d := f32Add g (f32Mul wd w)
    (minus d, m, v)
  | 1 =>
    let d := f32Add g (f32Mul wd w)
    let m' := f32Add (f32Mul b1 m) d
    (minus m', m', v)
  | 2 =>
    let d := f32Add g (f32Mul wd w)
    let m' := f32Add (f32Mul b1 m) d
    (minus (f32Add d (f32Mul b1 m')), m', v)
  | 3 =>
    let m' := f32Add (f32Mul b1 m) (f32Mul (f32Sub f32One b1) g)
    let v' := f32Add (f32Mul b2 v) (f32Mul (f32Sub f32One b2) (f32Mul g g))
    let q := f32Div (f32Mul m' (uC1 t)) (f32Add (f32Sqrt (f32Mul v' (uC2 t))) (uEps t))
    (minus (f32Add q (f32Mul wd w)), m', v')
  | _ =>
    let c := f32Add (f32Mul b1 m) (f32Mul (f32Sub f32One b1) g)
    let m' := f32Add (f32Mul b2 m) (f32Mul (f32Sub f32One b2) g)
    (minus (f32Add (f32Sign c) (f32Mul wd w)), m', v)

/-- A record after its rule, from the gradient's hi and the exponent to remove (R242, R244). -/
def applyRecord (t : Task) (exp : Int) (gHi : F32) (r : Record) : Record :=
  let g := f32Mul (f32Scale gHi (-exp)) (uGscale t)
  let d := ruleStep t g r.hi r.m r.v
  let w := pairAdd ⟨r.hi, r.lo⟩ ⟨d.1, f32Zero⟩
  { hi := w.hi, lo := w.lo, m := d.2.1, v := d.2.2 }

def recordNonFinite (r : Record) : Bool := f32NonFinite r.hi || f32NonFinite r.m || f32NonFinite r.v

/-! Ends of operations (R251, R252). -/

/-- The update report (R251). -/
def updateReport (o : CuffOp) : Nat :=
  place o.done 0 32 + place (min o.nonfinite 0xFFFFFFFF) 32 32 + place o.firstNonfinite 64 32
    + place (min o.poisoned 0xFFFFFFFF) 96 32 + place o.firstPoisoned 128 32
    + place (if o.gradNonfinite then 1 else 0) 160 1 + place (if o.gradPoison then 1 else 0) 161 1 + place o.lastWrite.toNat 192 64

/-- The Cuff's tile, and the region it reaches (R236). -/
def cuffTile (n : CuffNo) : TileNo := if h : n.val < 32 then stackTile ⟨n.val, h⟩ else portTile (Fin.ofNat 8 (n.val - 32))
def cuffRegion (n : CuffNo) : Region := if h : n.val < 32 then .stack ⟨n.val, h⟩ else .port (Fin.ofNat 8 (n.val - 32))

/-- Forget an operation and its guests at other Cuffs. What its tree's root buffer holds waits for the tree's next UPDATE (R238). -/
def forgetOp (s : State) (n : CuffNo) (t : Task) : State :=
  let drop (keepHeld : Bool) (c : Cuff) : Cuff :=
    dropActive { c with queue := c.queue.filter fun o => !sameTask o.task t } fun o => sameTask o.task t && !(keepHeld && o.recordHeld)
  { s with cuffs := tmap {} (fun i c => drop (i == n.val) c) s.cuffs }

/-- The operation's records and its early end are counted (R254, R255): an UPDATE's, a DRAIN's and those of a PROMOTE that applies a park area. -/
def opCounts (t : Task) : Bool := t.op != some .promote || uHasPark t

/-- End an operation at its Cuff (UPDATE_REPORT, R251): the report, the record, the counters. A report that cannot be written is lost and
the operation keeps its own status (log 21). `stopped` is an end before the last record. -/
def endCuffOp (s : State) (n : CuffNo) (o : CuffOp) (st : BitVec 8) (stopped : Bool) : State :=
  let c := getCuff s n
  let s := if stopped && opCounts o.task then setCuff s n { c with aborts := satInc c.aborts } else s
  let s :=
    if uReport o.task != 0 && (serveStatus s (cuffTile n) false (uReport o.task) 32).isNone then
      storeMem s (uReport o.task) (bytesOf 32 (updateReport o))
    else s
  let c := getCuff s n
  let s := setCuff s n { c with active := c.active.map fun x => if sameTask x.task o.task then { x with recordHeld := true } else x }
  let r := outcome s o.task st 0 (decide (0 < o.nonfinite) || o.gradNonfinite) (now s) (quality s)
  forgetOp r.1 n o.task

/-- Stop every operation at any Cuff that satisfies `p` (R252). Guests end with the operation they belong to. -/
def stopCuffOps (s : State) (p : CuffNo → CuffOp → Bool) (st : BitVec 8) : State :=
  (List.finRange 40).foldl
    (fun s n =>
      let c := getCuff s n
      ((c.active ++ c.queue).filter fun o => !o.guest && !o.recordHeld && p n o).foldl (fun s o => endCuffOp s n o st true) s) s

/-! Admission (R237, R238, R286 to R289). -/

/-- The exponent a descriptor takes (R78, R227): EXP_NOW for the step CUR, EXP_PREV for the step before. -/
def stepExp (p : Partition) (step : BitVec 32) : Int := if step == p.cur then p.ls.expNow else p.ls.expPrev

/-- The body of UPDATE, PROMOTE and DRAIN (R324, R315). -/
def updateBody (t : Task) : List Fail :=
  let upd := t.op == some .update
  let park := uPark t
  let rule := if upd then !park else uHasPark t
  let copy := !park && uWcopy t
  bodyFails t
    [(256, 1, upd), (257, 4, rule), (261, 12, upd), (273, 25, true), (298, 1, !park), (299, 4, copy), (303, 1, true), (320, 45, true),
     (384, 56, true), (448, 56, true), (512, 256, true), (768, 56, copy), (832, 56, copy && uCopyMx t),
     (896, 56, !upd), (960, 56, t.op == some .promote)]

/-- The EXPORT ring in force for a partition (R383, R396). -/
def exportRingOf (s : State) (p : PartNo) : Option Nat :=
  let e := (getPart s p).exportRing
  let rn := e.toNat % 2 ^ 20
  let r := getRing s rn
  if e.toNat.testBit 20 && r.enabled && r.kind == 3 && (getCtx s r.ctx).bound && (getCtx s r.ctx).part == p then some rn
  else none

/-- Both rights over a range. -/
def bothOk (s : State) (t : Task) (a n : Nat) : Bool := rangeOk s t.ctx .read a n && rangeOk s t.ctx .write a n

/-- The range lies in a Cuff's own window (R236), or in a stack that the partition owns and that is mapped (R289). -/
def inRegion (r : Region) (a n : Nat) : Bool :=
  rangeRegion a n == some r && (match r with | .stack k => decide (a - stackBase k + n ≤ stackMapped) | _ => true)
def inOwnedStack (s : State) (p : PartNo) (a n : Nat) : Bool :=
  match rangeRegion a n with
  | some (.stack k) => partHasStack s p k && regionMaps s (.stack k) a n
  | _ => false

/-- Checks that the three operations share: the working copy, the report, the export ring (R237, R289, R383). -/
def copyFails (s : State) (t : Task) : List Fail :=
  (if !uPark t && uWcopy t then
      need (uCopyFmt t).isSome stFormat 37
        ++ need (!uCopyMx t || uRecords t % 32 == 0) stShape 34
        ++ need (!uCopyMx t || uParamBase t % 32 == 0) stShape 40
        ++ need (rangeOk s t.ctx .write (uWaddr t) (uCopyBytes t)) stRange 96
        ++ need (!uCopyMx t || rangeOk s t.ctx .write (uWsaddr t) (uScaleBytes t)) stRange 104
    else [])
    ++ need (uReport t == 0 || rangeOk s t.ctx .write (uReport t) 32) stRange 56
    ++ need (!uExport t || (exportRingOf s t.part).isSome) stParam 37

/-- The checks of UPDATE (R237). -/
def updateFails (s : State) (n : CuffNo) (t : Task) : List Fail :=
  let p := getPart s t.part
  let far := decide (32 ≤ n.val)
  let width := if uPark t then 8 else 16
  updateBody t ++ headerFails s t
    ++ need (!p.ls.invalid) stLossScale 8
    ++ need (uPark t || decide (uRule t ≤ 4)) stParam 32
    ++ need (!(uPark t && far)) stParam 32
    ++ need (decide (1 ≤ uRecords t ∧ uRecords t ≤ 2 ^ 24)) stParam 34
    ++ need (uBase t % width == 0) stShape 48
    ++ need (inRegion (cuffRegion n) (uBase t) (width * uRecords t) && bothOk s t (uBase t) (width * uRecords t)) stRange 48
    ++ need (decide (uTree t < mapNTrees p.map) && treeRoot p.map (uTree t) == some n) stPhaseMap 32
    ++ copyFails s t

/-- The Cuff of a stack, and of a port. -/
def nearCuff (k : StackNo) : CuffNo := ⟨k.val, by omega⟩
def farCuff (p : PortNo) : CuffNo := ⟨32 + p.val, by omega⟩

/-- The Cuff whose memory holds an address, where a Cuff's does. -/
def cuffOfAddr (a : Nat) : Option CuffNo :=
  match regionOf a with
  | some (.stack k) => some (nearCuff k)
  | some (.port p) => some (farCuff p)
  | _ => none

/-- The checks of PROMOTE (R286, R289) and of DRAIN (R287, R289). -/
def moveFails (s : State) (n : CuffNo) (t : Task) : List Fail :=
  let r := uRecords t
  let bytes := 16 * r
  let promote := t.op == some .promote
  let srcOk : Bool :=
    match rangeRegion (uSrc t) bytes with
    | some (.port p) => partHasPort s t.part p && regionMaps s (.port p) (uSrc t) bytes && rangeOk s t.ctx .read (uSrc t) bytes
    | _ => false
  updateBody t ++ headerFails s t
    ++ need (!uHasPark t || decide (uRule t ≤ 4)) stParam 32
    ++ need (decide (4 ≤ r ∧ r ≤ 2 ^ 24) && r % 4 == 0) stShape 34
    ++ need (uBase t % 64 == 0) stShape 48
    ++ (if promote then need (uSrc t % 64 == 0) stShape 120 else [])
    ++ (if uHasPark t then need (uParkBase t % 8 == 0) stShape 112 else [])
    ++ need (inRegion (cuffRegion n) (uBase t) bytes && regionMaps s (cuffRegion n) (uBase t) bytes
          && (if promote then rangeOk s t.ctx .write (uBase t) bytes else bothOk s t (uBase t) bytes)) stRange 48
    ++ (if promote then need srcOk stRange 120 else [])
    ++ (if uHasPark t then need (inOwnedStack s t.part (uParkBase t) (8 * r) && bothOk s t (uParkBase t) (8 * r)) stRange 112 else [])
    ++ copyFails s t

/-- A range widened to whole units: 16-byte records at a near Cuff, 64-byte lines at a far one (R238). -/
def unitRange (n : CuffNo) (a len : Nat) : Nat × Nat :=
  let u := if n.val < 32 then 16 else 64
  let lo := a / u * u
  (lo, (a + len + u - 1) / u * u - lo)

/-- A range at the Cuff whose memory holds it. -/
def rangeAt (a len : Nat) : List (CuffNo × (Nat × Nat)) :=
  match cuffOfAddr a with
  | some m => [(m, unitRange m a len)]
  | none => []

/-- Where a PROMOTE or a DRAIN takes an entry (R288): its state ranges and its park area. -/
def moveRanges (t : Task) : List (CuffNo × (Nat × Nat)) :=
  let r := uRecords t
  rangeAt (uBase t) (16 * r) ++ (if t.op == some .promote then rangeAt (uSrc t) (16 * r) else [])
    ++ (if uHasPark t then rangeAt (uParkBase t) (8 * r) else [])

/-- What it writes besides: its working copy and its report. -/
def sideRanges (t : Task) : List (CuffNo × (Nat × Nat)) :=
  (if uWcopy t then rangeAt (uWaddr t) (uCopyBytes t) ++ (if uCopyMx t then rangeAt (uWsaddr t) (uScaleBytes t) else []) else [])
    ++ (if uReport t != 0 then rangeAt (uReport t) 32 else [])

/-- The byte ranges that the overlap rule judges at each Cuff where an operation has an entry: an UPDATE's own range (R238), and every range that a
PROMOTE or a DRAIN reads or writes there (R288). -/
def opRanges (n : CuffNo) (t : Task) : List (CuffNo × (Nat × Nat)) :=
  if t.op == some .update then [(n, unitRange n (uBase t) ((if uPark t then 8 else 16) * uRecords t))]
  else moveRanges t ++ (sideRanges t).filter fun e => e.1 == n || (moveRanges t).any fun m => m.1 == e.1

/-- Some operation queued or active at the Cuff has a range that meets one of these. -/
def overlapsAt (s : State) (m : CuffNo) (rs : List (Nat × Nat)) : Bool :=
  let c := getCuff s m
  (c.queue ++ c.active).any fun o => o.ranges.any fun a => rs.any fun b => rangesMeet a.1 a.2 b.1 b.2

/-- Ranges of one Cuff. -/
def rangesAt (l : List (CuffNo × (Nat × Nat))) (m : CuffNo) : List (Nat × Nat) := (l.filter fun e => e.1 == m).map (·.2)

/-- The Cuffs an operation takes an entry at (R288). -/
def opCuffs (n : CuffNo) (t : Task) : List CuffNo := (n :: (opRanges n t).map (·.1)).eraseDups

/-- Room for one more entry in a Cuff's queue of 16 (R238). -/
def cuffRoom (s : State) (m : CuffNo) : Bool := decide ((getCuff s m).queue.length < 16)

/-- Put an accepted operation into the queue of each Cuff it touches. -/
def enqueueOp (s : State) (n : CuffNo) (t : Task) : State :=
  let rs := opRanges n t
  (opCuffs n t).foldl
    (fun s m => let c := getCuff s m
      setCuff s m { c with queue := c.queue ++ [{ task := t, guest := m != n, ranges := rangesAt rs m }] }) s

/-- Remove the front of a Cuff's arrivals. -/
def popInbox (s : State) (n : CuffNo) : State := let c := getCuff s n; setCuff s n { c with inbox := c.inbox.tail }

/-- A Cuff takes the first of its arrivals when it is of the given kind: held, refused or queued (R191, R227, R238). It waits at the front
while its step's predecessor is not final (R78) or a queue it needs is full. -/
def cuffAdmit (s : State) (n : CuffNo) (kind : Task → Bool) (fails : List Fail) : State :=
  let c := getCuff s n
  match c.inbox with
  | [] => s
  | t :: _ =>
    if !kind t then s
    else
      let p := getPart s t.part
      let gen := if t.op == some .update then genWhen p t.mapGen t.afterMark else .run
      if gen = .hold then
        if c.held.length < 16 then setCuff s n { c with inbox := c.inbox.tail, held := c.held ++ [t] }
        else rejectTask (popInbox s n) t stStalePhase 5
      else
        let overlaps := (opCuffs n t).any fun m => overlapsAt s m (rangesAt (opRanges n t) m)
        match admissionFailure (genFails gen ++ fails ++ need (!overlaps) stOverlap 48) with
        | some (st, d) => rejectTask (popInbox s n) t st d
        | none =>
          if stepWhen p t.step = .next then s
          else if !((opCuffs n t).all (cuffRoom s)) then s
          else
            let t := { admitMark s t with exp := some (if t.op == some .update then stepExp p t.step else 0) }
            enqueueOp (popInbox s n) n t

/-- The front of a Cuff's arrivals. -/
def inboxFront (s : State) (n : CuffNo) : Option Task := (getCuff s n).inbox.head?

/-- UPDATE_APPLY (R237). -/
def execUpdateApply (cuff : CuffNo) (s : State) :=
  finish s <|
    match inboxFront s cuff with
    | none => s
    | some t => cuffAdmit s cuff (fun t => t.op == some .update && !uPark t) (updateFails s cuff t)

/-- UPDATE_PARK (R237, R248). -/
def execUpdatePark (cuff : CuffNo) (s : State) :=
  finish s <|
    match inboxFront s cuff with
    | none => s
    | some t => cuffAdmit s cuff uPark (updateFails s cuff t)

/-- PROMOTE (R286). -/
def execPromote (cuff : CuffNo) (s : State) :=
  finish s <|
    match inboxFront s cuff with
    | none => s
    | some t => cuffAdmit s cuff (fun t => t.op == some .promote) (moveFails s cuff t)

/-- DRAIN (R287). -/
def execDrain (cuff : CuffNo) (s : State) :=
  finish s <|
    match inboxFront s cuff with
    | none => s
    | some t => cuffAdmit s cuff (fun t => t.op == some .drain) (moveFails s cuff t)

/-- CUFF_UPDATE_START (R238): the first queued operation becomes one of at most four active. One whose tree's chunks were discarded before it
came ends with the reduction-timeout status, and one whose range is no longer mapped with the withdrawn status (R259). -/
def execCuffUpdateStart (cuff : CuffNo) (s : State) :=
  finish s <|
    let c := getCuff s cuff
    match c.queue with
    | [] => s
    | o :: rest =>
      if decide (4 ≤ c.active.length) || resettingPart s o.task.part then s
      else
        let s := setCuff s cuff { c with queue := rest, active := c.active ++ [o] }
        let tree := BitVec.ofNat 16 (uTree o.task)
        if !o.guest && o.task.op == some .update && c.discarded.contains tree then
          let c := getCuff s cuff
          endCuffOp (setCuff s cuff { c with discarded := c.discarded.filter (· != tree) }) cuff o stRedTimeout true
        else if !o.guest && !regionMaps s (cuffRegion cuff) (uBase o.task) ((if uPark o.task then 8 else 16) * uRecords o.task) then
          endCuffOp s cuff o stWithdrawn true
        else s

/-! Running (R239, R242 to R249, R252). -/

/-- What a run of records carries along. -/
structure Run where
  s : State
  op : CuffOp
  /-- Records as exported: the new record, or none where it was left unchanged (R384). -/
  recs : List (Option Record) := []
  /-- The status that stops the operation. -/
  stop : Option (BitVec 8) := none

/-- Record i is left unchanged (R252). -/
def skipRecord (n : CuffNo) (r : Run) (i : Nat) : Run :=
  let c := getCuff r.s n
  let s := setCuff r.s n { c with poisonSkips := satInc c.poisonSkips }
  let o := r.op
  { r with
    s := s, recs := r.recs ++ [none]
    op := { o with done := i + 1, poisoned := o.poisoned + 1, firstPoisoned := min o.firstPoisoned i } }

/-- Write a state record, count it, and note a non-finite one (R251, R254). -/
def putRecord (n : CuffNo) (r : Run) (i a : Nat) (v : Record) : Run :=
  let c := getCuff r.s n
  let o := r.op
  let s := storeMem (if opCounts o.task then setCuff r.s n { c with records := c.records + 1 } else r.s) a (bytesOf 16 (recordNat v))
  let bad := recordNonFinite v
  { r with
    s := s, recs := r.recs ++ [some v]
    op := { o with
      done := i + 1, lastWrite := now s
      nonfinite := if bad then o.nonfinite + 1 else o.nonfinite
      firstNonfinite := if bad then min o.firstNonfinite i else o.firstNonfinite } }

/-- Write to a working copy, by the Cuff's own stack or by WR_REQ (R245); a write that fails stops the operation with its status. -/
def copyWrite (n : CuffNo) (r : Run) (a : Nat) (bs : List Byte) : Run :=
  match serveStatus r.s (cuffTile n) false a bs.length with
  | some st => { r with stop := some st }
  | none => let w := writeMem r.s a bs; { r with s := w.1, stop := if w.2 then r.stop else some stPoisoned }

/-- The masters of the MX block that ends with record i, as they now stand in memory; none where one of them is poisoned. -/
def blockMasters (s : State) (base i : Nat) : Option (List F32) :=
  let a := base + 16 * (i - 31)
  if rangePoisoned s a 512 then none
  else some ((List.range 32).map fun j => BitVec.ofNat 32 (memNat s (a + 16 * j) 4))

/-- The working copy of record i, once it is written (R245): an element at once, an MX block when its last record is done. -/
def copyRecord (n : CuffNo) (r : Run) (i base : Nat) : Run :=
  let t := r.op.task
  if !(uWcopy t) || r.stop.isSome then r
  else match uCopyFmt t with
    | none => r
    | some f =>
      if f.isMx then
        if i % 32 != 31 then r
        else match blockMasters r.s base i with
          | none => r
          | some ws =>
            let q := quantBlock f ws
            let per := 32 * f.width / 8
            let r := copyWrite n r (uWaddr t + i / 32 * per) (packBytes f.width q.2)
            if r.stop.isSome then r else copyWrite n r (uWsaddr t + i / 32) [BitVec.ofNat 8 q.1]
      else
        let a := base + 16 * i
        if linePoison r.s (a / 64) then r
        else
          let w : F32 := BitVec.ofNat 32 (memNat r.s a 4)
          copyWrite n r (uWaddr t + i * (f.width / 8)) (bytesOf (f.width / 8) (convertTo f t.saturate w))

/-- A line read at the start of a run, or as its first record comes, that is found poisoned is counted at a port (R283). -/
def countRead (r : Run) (a : Nat) : Run :=
  if linePoison r.s (a / 64) && (a % 64 == 0 || r.recs.isEmpty) then { r with s := countPoisonRead r.s a } else r

/-- A record left unchanged has no working copy of its own; an MX block is written with its last record all the same (R245, R249). -/
def copySkipped (n : CuffNo) (r : Run) (i : Nat) : Run := if uCopyMx r.op.task then copyRecord n r i (uBase r.op.task) else r

/-- Record i of an UPDATE under APPLY, from its pair's hi; `bad` is the chunk's POISON (R239, R252). -/
def applyOne (n : CuffNo) (bad : Bool) (r : Run) (i : Nat) (gHi : F32) : Run :=
  let t := r.op.task
  let a := uBase t + 16 * i
  let r := countRead r a
  if bad || linePoison r.s (a / 64) then copySkipped n (skipRecord n r i) i
  else copyRecord n (putRecord n r i a (applyRecord t (t.exp.getD 0) gHi (recordOf (memNat r.s a 16)))) i (uBase t)

/-- Entry i of an UPDATE under PARK (R248). -/
def parkOne (n : CuffNo) (bad : Bool) (r : Run) (i : Nat) (g : Pair) : Run :=
  let t := r.op.task
  let a := uBase t + 8 * i
  if bad || linePoison r.s (a / 64) then skipRecord n r i
  else
    let e := -(t.exp.getD 0)
    let old : Pair := ⟨BitVec.ofNat 32 (memNat r.s a 4), BitVec.ofNat 32 (memNat r.s (a + 4) 4)⟩
    let v := pairAdd old ⟨f32Scale g.hi e, f32Scale g.lo e⟩
    let s := storeMem r.s a (bytesOf 8 (v.hi.toNat + v.lo.toNat * 2 ^ 32))
    let o := r.op
    let nf := f32NonFinite v.hi
    { r with
      s := s, recs := r.recs ++ [none]
      op := { o with
        done := i + 1, lastWrite := now s
        nonfinite := if nf then o.nonfinite + 1 else o.nonfinite
        firstNonfinite := if nf then min o.firstNonfinite i else o.firstNonfinite } }

/-- Read and zero park entry i: its hi, or none where it is poisoned (R249). -/
def takePark (s : State) (t : Task) (i : Nat) : State × Option F32 :=
  let a := uParkBase t + 8 * i
  if linePoison s (a / 64) then (s, none)
  else (storeMem s a (bytesOf 8 0), some (BitVec.ofNat 32 (memNat s a 4)))

/-- Record i of a DRAIN (R287, R249). -/
def drainOne (n : CuffNo) (r : Run) (i : Nat) : Run :=
  let t := r.op.task
  let a := uBase t + 16 * i
  let r := countRead r a
  if linePoison r.s (a / 64) || linePoison r.s ((uParkBase t + 8 * i) / 64) then copySkipped n (skipRecord n r i) i
  else
    let k := takePark r.s t i
    copyRecord n (putRecord n { r with s := k.1 } i a (applyRecord t 0 (k.2.getD f32Zero) (recordOf (memNat r.s a 16)))) i (uBase t)

/-- Record i of a PROMOTE (R286, R289). A poisoned source line poisons the destination line and leaves the park entries of its four records; a
poisoned park entry leaves its record unchanged, copied as it is. -/
def promoteOne (n : CuffNo) (r : Run) (i : Nat) : Run :=
  let t := r.op.task
  let src := uSrc t + 16 * i
  let dst := uBase t + 16 * i
  let s := if i % 4 == 0 then setPoison r.s (dst / 64) false else r.s
  if linePoison s (src / 64) then
    let p : PortNo := Fin.ofNat 8 ((src - 2 ^ 53) / 2 ^ 46)
    let x := getXp s p
    let s := if i % 4 == 0 then setXp s p { x with poisonReads := satInc x.poisonReads } else s
    copySkipped n (skipRecord n { r with s := if i % 4 == 3 then setPoison s (dst / 64) true else s } i) i
  else
    let old := recordOf (memNat s src 16)
    if !uHasPark t then copyRecord n (putRecord n { r with s := s } i dst old) i (uBase t)
    else
      let k := takePark s t i
      match k.2 with
      | some g => copyRecord n (putRecord n { r with s := k.1 } i dst (applyRecord t 0 g old)) i (uBase t)
      | none => copyRecord n (skipRecord n { r with s := storeMem s dst (bytesOf 16 (recordNat old)) } i) i (uBase t)

/-- The export record of a run of records (R384): header, skip mask, records, zeros. -/
def exportBytes (s : State) (n : CuffNo) (t : Task) (seq : Word64) (pass : Bool) (first : Nat) (recs : List (Option Record)) : List Byte :=
  let mask := recs.foldr (fun r acc => acc * 2 + (if r.isNone then 1 else 0)) 0
  let body := bytesOf 64 mask
    ++ (recs.flatMap fun r => bytesOf 16 (match r with | some v => recordNat v | none => 0))
    ++ List.replicate (8192 - 16 * recs.length) 0
  let nf := recs.any fun r => match r with | some v => recordNonFinite v | none => false
  let kind := match t.op with | some .promote => 1 | some .drain => 2 | _ => 0
  let header := place seq.toNat 0 64 + place (now s).toNat 64 64 + place (quality s).toNat 128 4 + place (if pass then 1 else 0) 132 1
    + place (if nf then 1 else 0) 133 1 + place kind 134 2 + place s.tb.epoch.toNat 136 16 + place recs.length 152 10 + place n.val 162 6
    + place t.part.val 168 7 + place (uParamBase t + first) 176 45 + place t.step.toNat 224 32 + place (crc32c body).toNat 256 32
  bytesOf 64 header ++ body

/-- An entry is lost: its SEQ is consumed all the same (R387). -/
def exportGap (s : State) (p : PartNo) (seq : Word64) : State :=
  raise s { code := 0x0057, part := some p, tenants := true, args := [p.val, seq.toNat, seq.toNat] }

/-- Emit one export record (EXPORT_RECORD, R246) to the ring in force; one that no ring takes is discarded (R387). -/
def emitExport (s : State) (n : CuffNo) (t : Task) (first : Nat) (recs : List (Option Record)) : State :=
  let p := getPart s t.part
  let seq := p.exportSeq
  let s := setPart s t.part { p with exportSeq := seq + 1 }
  match exportRingOf s t.part with
  | none => exportGap s t.part seq
  | some rn =>
    let r := getRing s rn
    if r.state != .active then exportGap s t.part seq
    else match ringAccess s r .write (r.slotAddr r.tail) 8320 with
      | some st => exportGap (faultRing s rn st) t.part seq
      | none =>
        let w := writeMem s (r.slotAddr r.tail) (exportBytes s n t seq (r.pass r.tail) first recs)
        if w.2 then raiseMsix (setRing w.1 rn { r with tail := r.tail + 1, eventSeq := r.eventSeq + 1 }) rn
        else exportGap (faultRing w.1 rn stPoisoned) t.part seq

/-- The operation writes export records now (R246). -/
def opExports (t : Task) : Bool := uExport t && !uPark t

/-- A chunk may be taken: the operation does not export, or the ring in force has room (R246). A ring that has faulted and whose port is
down is waited for (R518); with no ring in force the entries are discarded and the operation goes on (R387). -/
def exportReady (s : State) (t : Task) : Bool :=
  !opExports t || (match exportRingOf s t.part with
    | none => true
    | some rn =>
      let r := getRing s rn
      if r.state == .active then decide (r.count < r.size) else (getHp s r.home).linkUp)

/-- Put the operation back among the active ones of its Cuff. -/
def storeOp (s : State) (n : CuffNo) (o : CuffOp) : State :=
  let c := getCuff s n
  setCuff s n { c with active := c.active.map fun x => if sameTask x.task o.task then o else x }

/-- Close a run: the export record, then the end of the operation when it is over. -/
def closeRun (n : CuffNo) (first : Nat) (r : Run) : State :=
  let s := storeOp r.s n r.op
  let t := r.op.task
  let s := if opExports t then emitExport s n t first r.recs else s
  match r.stop with
  | some st => endCuffOp s n r.op st true
  | none =>
    if r.op.done == uRecords t then
      endCuffOp s n r.op (if 0 < r.op.poisoned || r.op.gradPoison then stPoisoned else stOk) false
    else s

/-- The pairs of a chunk. -/
def chunkPairs : List Byte → Nat → List Pair
  | _, 0 => []
  | bs, k + 1 => ⟨BitVec.ofNat 32 (natOfBytes (bs.take 4)), BitVec.ofNat 32 (natOfBytes ((bs.drop 4).take 4))⟩ :: chunkPairs (bs.drop 8) k

/-- The credit for a chunk, to the child that sent it (R161, R239). -/
def rootCredit (n : CuffNo) (c : Packet) : Packet :=
  let unit : BitVec 4 := if n.val ≥ 32 then 10 else if (tileStacks (cuffTile n)).head?.map (·.val) == some n.val then 8 else 9
  { cls := 1, typ := 7, srcTile := cuffTile n, srcUnit := unit, dstTile := c.srcTile, dstUnit := c.srcUnit, partition := c.partition, context := 0
    length := 0, addr := 0, tag := c.tag, tree := c.tree
    node := 0, role := false, nonfinite := false, poison := false, last := false, status := 0, origClass := 1, sys := true, offset := c.offset
    payload := [], here := cuffTile n }

/-- One chunk of an UPDATE (R239, R252); a chunk in breach is not consumed, and returns no credit. -/
def updateChunk (s : State) (n : CuffNo) (o : CuffOp) (c : Packet) : State :=
  let t := o.task
  if c.typ == 0x0B then endCuffOp s n o (ofFabric c.status.toNat) true
  else
    let k := c.payload.length / 8
    let breach := c.offset.toNat != 8 * o.done || c.payload.length % 8 != 0 || k == 0 || decide (uRecords t < o.done + k)
      || c.last != (o.done + k == uRecords t)
    if breach then endCuffOp s n o stRedMismatch true
    else
      let s := { s with packets := s.packets ++ [rootCredit n c] }
      let o := { o with gradNonfinite := o.gradNonfinite || c.nonfinite, gradPoison := o.gradPoison || c.poison }
      let one (r : Run) (e : Pair × Nat) : Run :=
        if r.stop.isSome then r
        else if uPark t then parkOne n c.poison r (o.done + e.2) e.1
        else applyOne n c.poison r (o.done + e.2) e.1.hi
      closeRun n o.done ((chunkPairs c.payload k).zipIdx.foldl one { s := s, op := o })

/-- The first chunk in the root buffer of a tree, taken out. -/
def takeRoot (s : State) (n : CuffNo) (tree : BitVec 16) : Option (Packet × State) :=
  let c := getCuff s n
  match c.roots.find? fun b => b.tree == tree with
  | none => none
  | some b =>
    match b.chunks with
    | [] => none
    | k :: rest =>
      some (k, setCuff s n { c with
        roots := if rest.isEmpty then c.roots.filter (fun x => x.tree != tree)
          else c.roots.map fun x => if x.tree == tree then { x with chunks := rest } else x })

/-- The first chunk waiting for an UPDATE. -/
def chunkWaits (c : Cuff) (t : Task) : Bool := c.roots.any fun b => b.tree == BitVec.ofNat 16 (uTree t) && !b.chunks.isEmpty

/-- The operation has its turn at every Cuff where it has an entry (R288). -/
def guestsActive (s : State) (n : CuffNo) (t : Task) : Bool :=
  (opCuffs n t).all fun m => (getCuff s m).active.any fun o => sameTask o.task t

/-- The active operation at a place can take its next chunk, or run of records. Of several UPDATEs of one tree the first to arrive takes its chunks, which
carry no STEP (R237, log 73). -/
def opReady (s : State) (n : CuffNo) (index : Nat) (o : CuffOp) : Bool :=
  let c := getCuff s n
  let first := (c.active.take index).all fun x => x.guest || x.recordHeld || x.task.op != some .update || uTree x.task != uTree o.task
  !o.guest && !o.recordHeld && exportReady s o.task && !resettingPart s o.task.part && guestsActive s n o.task
    && (o.task.op != some .update || (first && chunkWaits c o.task))

/-- The active operation whose turn it is: in cyclic order, the next that can go on (R238). -/
def nextOp (s : State) (n : CuffNo) : Option (Nat × CuffOp) :=
  let c := getCuff s n
  let l := c.active.zipIdx.map fun e => (e.2, e.1)
  (l.drop c.turn ++ l.take c.turn).find? fun e => opReady s n e.1 e.2

/-- The line that an operation's next chunk or run reads first at its Cuff (R270). -/
def firstRead (o : CuffOp) : Nat :=
  match o.task.op with
  | some .promote => uSrc o.task + 16 * o.done
  | _ => uBase o.task + (if uPark o.task then 8 else 16) * o.done

/-- CUFF_CHUNK (R238, R239, R270): the active operation whose turn it is takes its next chunk, or run of up to 512 records; `read` has what the check
of the first line it reads finds, and the mean read latency of a far Cuff's device over the last 1 ms (R256). -/
def execCuffChunk (cuff : CuffNo) (read : CuffRead) (s : State) :=
  finish s <|
    match nextOp s cuff with
    | none => s
    | some (i, o) =>
      let t := o.task
      let c := getCuff s cuff
      let s := setCuff s cuff { c with turn := i + 1, latNs := if 32 ≤ cuff.val then read.latNs else c.latNs }
      let s := findLine s (firstRead o) read.ecc
      if t.op == some .update then
        match takeRoot s cuff (BitVec.ofNat 16 (uTree t)) with
        | none => s
        | some (c, s) => updateChunk s cuff o c
      else
        let k := min 512 (uRecords t - o.done)
        let one (r : Run) (j : Nat) : Run :=
          if r.stop.isSome then r
          else if t.op == some .promote then promoteOne cuff r (o.done + j) else drainOne cuff r (o.done + j)
        closeRun cuff o.done ((List.range k).foldl one { s := s, op := o })

/-- An operation at the Cuff matches the tree (R237). -/
def treeMatched (c : Cuff) (tree : BitVec 16) : Bool :=
  (c.queue ++ c.active).any fun o => !o.guest && !o.recordHeld && o.task.op == some .update && BitVec.ofNat 16 (uTree o.task) == tree

/-- The event that chunks of a tree were discarded at a root (R238). -/
def discardEvent (s : State) (n : CuffNo) (tree : BitVec 16) : State :=
  raise s { code := 0x0042, part := cuffOwner s n, tenants := true, args := [n.val, tree.toNat] }

/-- Chunks of a tree are discarded at a root: the UPDATE that comes for them never gets its data (R238). -/
def discardTree (s : State) (n : CuffNo) (tree : BitVec 16) : State :=
  let c := getCuff s n
  let s := setCuff s n { c with
    roots := c.roots.filter (fun b => b.tree != tree)
    discarded := if c.discarded.contains tree then c.discarded else c.discarded ++ [tree] }
  discardEvent s n tree

/-- A chunk, or an ERR_RSP in place of one, arrives at a root (R238): buffered, or discarded when no buffer is free. -/
def rootArrival (s : State) (n : CuffNo) (pkt : Packet) : State :=
  let c := getCuff s n
  if c.discarded.contains pkt.tree then s
  else match c.roots.find? fun b => b.tree == pkt.tree with
    | some b =>
      setCuff s n { c with roots := c.roots.map fun x => if x.tree == pkt.tree then { x with chunks := b.chunks ++ [pkt] } else x }
    | none =>
      if c.roots.length < 32 then setCuff s n { c with roots := c.roots ++ [{ tree := pkt.tree, chunks := [pkt] }] }
      else match c.active.find? fun o => !o.guest && !o.recordHeld && o.task.op == some .update && BitVec.ofNat 16 (uTree o.task) == pkt.tree with
        | some o => endCuffOp (discardEvent s n pkt.tree) n o stRedTimeout true
        | none => discardTree s n pkt.tree

/-- ROOT_BUFFER_TIMEOUT (R238): chunks that no UPDATE has come for are discarded; an active UPDATE that has waited as long for its next chunk
ends with the reduction-timeout status (log 22). -/
def execRootBufferTimeout (cuff : CuffNo) (tree : BitVec 16) (s : State) :=
  finish s <|
    let c := getCuff s cuff
    let waiting := c.roots.any fun b => b.tree == tree
    if waiting then (if treeMatched c tree then s else discardTree s cuff tree)
    else match c.active.find? fun o => !o.guest && !o.recordHeld && o.task.op == some .update && BitVec.ofNat 16 (uTree o.task) == tree with
      | some o => endCuffOp s cuff o stRedTimeout true
      | none => s

end Sys2Proof.Machine
end

