-- ==== Sys2Proof/Machine/Fabric.lean ====
section
/-!
DEFINITION. The mesh (R137 to R151, R155, R178): packet headers, links, escape tables, QUIET frames and shares, and hops.
-/
namespace Sys2Proof.Machine
open Sys2Proof

/-- A packet's 64-byte header (R142): its 512 bits. -/
def packetHeader (p : Packet) : BitVec 512 :=
  let low := place p.cls.toNat 0 3 + place p.typ.toNat 3 5 + place p.srcTile.val 8 6 + place p.srcUnit.toNat 14 4 + place p.dstTile.val 18 6
    + place p.dstUnit.toNat 24 4 + place p.partition.toNat 28 7 + place p.context.toNat 35 16 + place p.length.toNat 51 13
  let mid := place p.addr.toNat 64 56 + place p.tag.toNat 120 8 + place p.tree.toNat 128 16 + place p.node.toNat 144 16
  let high := place (if p.role then 1 else 0) 160 1 + place (if p.nonfinite then 1 else 0) 161 1 + place (if p.poison then 1 else 0) 162 1
    + place (if p.last then 1 else 0) 163 1 + place p.status.toNat 164 4 + place p.origClass.toNat 168 3 + place (if p.sys then 1 else 0) 171 1
    + place p.offset.toNat 176 32
  BitVec.ofNat 512 (low + mid + high)

/-! Links (R138, R140, R150, R180, R181). -/

/-- The next hop in a direction is not missing: there is a neighbour that is no hole, and the link to it is not down (R150). -/
def hopUsable (s : State) (t : TileNo) (d : Fin 4) : Bool :=
  match neighbour t d with
  | none => false
  | some u => !tileOut s u && !(getLink s t d).down && !(getLink s u (opposite d)).down

/-- A time lies within the last second (R140). -/
def withinSecond (s : State) (t : Word64) : Bool := decide ((now s - t).toNat < 2 ^ 32)

/-- LINK_REPLAY (R140): the receiver requests a replay. 16 that fail in succession, or more than 1,024 in one second, bring the link down. -/
def execLinkReplay (tile : TileNo) (dir : Fin 4) (good : Bool) (s : State) :=
  finish s <|
    if !linkUsable s tile dir then s
    else
      let l := getLink s tile dir
      setLink s tile dir { l with
        replays := satInc l.replays
        failedReplays := if good then 0 else l.failedReplays + 1
        replayTimes := l.replayTimes.filter (withinSecond s) ++ [now s] }

/-- A cycle's 16 replays have failed, or more than 1,024 replays lie within a second (R140). -/
def linkFails (l : Link) : Bool := decide (16 ≤ l.failedReplays) || decide (1024 < l.replayTimes.length)

/-- The dimension-order direction from a tile towards another. -/
def dimOrder (a b : TileNo) : Option (Fin 4) :=
  if a.val % 8 < b.val % 8 then some 0
  else if b.val % 8 < a.val % 8 then some 2
  else if a.val / 8 < b.val / 8 then some 1
  else if b.val / 8 < a.val / 8 then some 3
  else none

/-- What a router would send over a link that goes down, the packet in its replay buffer included, is sent by escape routing (R140, R150). -/
def escapeFrom (tile : TileNo) (dir : Fin 4) (p : Packet) : Packet :=
  if p.here == tile && p.cls != 5 && dimOrder p.here p.dstTile == some dir then { p with cls := 5, origClass := p.cls } else p

/-- LINK_DOWN (R140, R151): the link stays down until module reset, and the escape tables are computed anew. -/
def execLinkDown (tile : TileNo) (dir : Fin 4) (s : State) :=
  finish s <|
    let l := getLink s tile dir
    if l.down || !linkFails l then s
    else
      let s := setLink s tile dir { l with down := true }
      let other : Packet → Packet := match neighbour tile dir with | some u => escapeFrom u (opposite dir) | none => id
      raise { s with packets := s.packets.map fun p => other (escapeFrom tile dir p), escapeLoading := true }
        { code := 0x0040, args := [tile.val, dir.val] }

/-! The escape table (R151). -/

/-- Levels of the tiles in the breadth-first tree from the lowest tile that is not a hole. -/
def treeLevels (s : State) : Nat → List TileNo → Nat → Tbl Nat → Tbl Nat
  | 0, _, _, acc => acc
  | fuel + 1, front, d, acc =>
    let acc := front.foldl (fun a t => if a.any (fun e => e.1 == t.val) then a else a ++ [(t.val, d)]) acc
    let next := (front.flatMap (usableNeighbours s)).eraseDups.filter fun t => !acc.any fun e => e.1 == t.val
    if next.isEmpty then acc else treeLevels s fuel next (d + 1) acc

def levels (s : State) : Tbl Nat :=
  match allTiles.find? fun t => !tileOut s t with
  | none => []
  | some r => treeLevels s 64 [r] 0 []

/-- The hop from a to b goes up: towards the lower level, or the lower number between equals. A tile that is being taken out has no level; what it
still holds leaves it upwards (R445, log 69). -/
def hopUp (lv : Tbl Nat) (a b : TileNo) : Bool :=
  let la := tget 64 lv a.val
  let lb := tget 64 lv b.val
  decide (lb < la) || (la == lb && decide (b.val < a.val))

/-- A place on a legal path: a tile, and whether a down hop has been taken. -/
abbrev EscPlace := TileNo × Bool

/-- Neighbours to which a hop is not missing. -/
def openNeighbours (s : State) (t : TileNo) : List TileNo :=
  (List.finRange 4).filterMap fun d => if hopUsable s t d then neighbour t d else none

/-- The legal hops from a place. -/
def escHops (s : State) (lv : Tbl Nat) (e : EscPlace) : List EscPlace :=
  (openNeighbours s e.1).filterMap fun u =>
    if hopUp lv e.1 u then (if e.2 then none else some (u, false)) else some (u, true)

/-- Distances to a destination along legal paths, by place. -/
def escDistances (s : State) (lv : Tbl Nat) : Nat → Nat → List (EscPlace × Nat) → List (EscPlace × Nat)
  | 0, _, acc => acc
  | fuel + 1, d, acc =>
    let all : List EscPlace := allTiles.flatMap fun t => [(t, false), (t, true)]
    let new := all.filter fun e =>
      !(acc.any fun x => x.1 == e) && (escHops s lv e).any fun h => acc.any fun x => x.1 == h && x.2 == d
    if new.isEmpty then acc else escDistances s lv fuel (d + 1) (acc ++ new.map fun e => (e, d + 1))

/-- The next hop of a place towards a destination: among the shortest legal paths, the lowest tile number. -/
def escNext (s : State) (lv : Tbl Nat) (dist : List (EscPlace × Nat)) (e : EscPlace) : Option TileNo :=
  match dist.find? fun x => x.1 == e with
  | none => none
  | some (_, d) =>
    let good := (escHops s lv e).filter fun h => dist.any fun x => x.1 == h && x.2 + 1 == d
    (good.map (·.1)).foldl (fun m u => match m with | none => some u | some v => if u.val < v.val then some u else m) none

/-- Every router's table (R151). -/
def escapeTable (s : State) : Tbl Nat :=
  let lv := levels s
  (allTiles.flatMap fun dst =>
    if tileOut s dst then []
    else
      let dist := escDistances s lv 128 0 [((dst, false), 0), ((dst, true), 0)]
      allTiles.flatMap fun r => [false, true].filterMap fun ph =>
        if r == dst then none
        else (escNext s lv dist (r, ph)).map fun u => ((r.val * 64 + dst.val) * 2 + (if ph then 1 else 0), u.val + 1)).foldl
    (fun t e => tput 0 t e.1 e.2) []

/-- The escape table's next hop from a place. -/
def escapeNext (s : State) (here dst : TileNo) (descended : Bool) : Option TileNo :=
  match tget 0 s.escape ((here.val * 64 + dst.val) * 2 + (if descended then 1 else 0)) with
  | 0 => none
  | n + 1 => some (Fin.ofNat 64 n)

/-- ESCAPE_TABLE_LOAD (R151): the routes change, and with them the links that partitions share (R155). -/
def execEscapeTableLoad (s : State) :=
  finish s (if s.escapeLoading then requiet { s with escape := escapeTable s, escapeLoading := false } else s)

/-- The direction of a neighbour. -/
def directionTo (a b : TileNo) : Option (Fin 4) := (List.finRange 4).find? fun d => neighbour a d == some b

/-! QUIET (R155, R178). -/

/-- The links of a route, as tile × 4 + direction: dimension order while no hop is missing, then the escape table. -/
def routeLinks (s : State) (lv : Tbl Nat) (dst : TileNo) : Nat → TileNo → Bool → Bool → List Nat
  | 0, _, _, _ => []
  | fuel + 1, t, esc, down =>
    if t == dst then []
    else
      let plain : Option (Fin 4) := if esc then none else (dimOrder t dst).filter (hopUsable s t)
      match plain with
      | some d => match neighbour t d with
        | some u => (t.val * 4 + d.val) :: routeLinks s lv dst fuel u false false
        | none => []
      | none => match escapeNext s t dst down with
        | none => []
        | some u => match directionTo t u with
          | some d => (t.val * 4 + d.val) :: routeLinks s lv dst fuel u true (!hopUp lv t u)
          | none => []

/-- Where a partition's traffic starts and ends: its tiles, the tiles of its stacks and ports, and the host ports, which are any partition's (R153). -/
def partEnds (s : State) (p : PartNo) : List TileNo :=
  (partTiles s p ++ (allStacks.filter (partHasStack s p)).map stackTile ++ (allPorts.filter (partHasPort s p)).map portTile
    ++ (List.finRange 4).map hostTile).eraseDups

/-- The links that a partition may use. -/
def partLinks (s : State) (lv : Tbl Nat) (p : PartNo) : List Nat :=
  let ends := partEnds s p
  (ends.flatMap fun a => ends.flatMap fun b => routeLinks s lv b 128 a false false).eraseDups

/-- A frame of 32 slots for the partitions that may use a link: ⌊32 ÷ n⌋ slots each, spread evenly, in ascending order (R155, log 70). -/
def frameOf (users : List PartNo) : List Nat :=
  let n := users.length
  let m := 32 / n
  (List.range 32).map fun i =>
    match (List.range (m * n)).find? fun j => j * 32 / (m * n) == i with
    | none => 0
    | some j => match users[j % n]? with | some p => p.val + 1 | none => 0

/-- Set the frames of every link from the ownership tables, the routes and the QUIET bits in force. -/
def setFrames (s : State) : State :=
  let lv := levels s
  let use : List (PartNo × List Nat) := (allParts.filter fun p => (getPart s p).valid).map fun p => (p, partLinks s lv p)
  let one (s : State) (l : Nat) : State :=
    let users := (use.filter fun e => e.2.contains l).map (·.1)
    let shared := decide (2 ≤ users.length) && users.any fun p => (getPart s p).quietTables
    let t : TileNo := Fin.ofNat 64 (l / 4)
    let d : Fin 4 := Fin.ofNat 4 l
    setLink s t d { getLink s t d with frame := if shared then frameOf users else [] }
  (List.range 256).foldl one s

/-- The packet's partition, where it is one that has QUIET in force. -/
def quietOf (s : State) (p : Packet) : Option PartNo :=
  if 64 ≤ p.partition.toNat then none
  else
    let q : PartNo := Fin.ofNat 64 p.partition.toNat
    if (getPart s q).quietTables then some q else none

/-- A slot of a frame belongs to a partition that has QUIET in force. -/
def quietSlot (s : State) (v : Nat) : Bool := v != 0 && (getPart s (Fin.ofNat 64 (v - 1))).quietTables

/-- The packet may start in this slot of the link's frame (R155): a QUIET partition's only in its own slots, any other's in no QUIET slot. Platform
traffic belongs to no partition and starts in any slot (log 70). -/
def slotAllows (s : State) (l : Link) (p : Packet) (slot : Fin 32) : Bool :=
  match l.frame[slot.val]? with
  | none => true
  | some v => match quietOf s p with
    | some q => v == q.val + 1
    | none => p.partition == 0x7F || !quietSlot s v

/-! Buffers (R147, R155). -/

/-- The buffer a packet takes at an input: its class, and in ESC its lane (R147). -/
def lane (p : Packet) : Nat :=
  if p.cls == 5 then (if p.origClass == 1 || (p.origClass == 4 && p.typ == 0x0A) then 6 else 5) else p.cls.toNat

/-- Bytes of a packet in a buffer: its header and its payload. -/
def packetBytes (p : Packet) : Nat := 64 + p.payload.length

/-- The bytes of a link's input buffer that a packet's partition may fill: with a QUIET partition on the link, its share, or what the QUIET partitions
leave. A share holds at least one largest packet (log 70). -/
def bufferShare (s : State) (l : Link) (p : Packet) : Nat :=
  let room := 4160 + Config.classBuffer (lane p)
  if l.frame.isEmpty then room
  else match quietOf s p with
    | some q => max 4160 (room * l.frame.count (q.val + 1) / 32)
    | none => max 4160 (room * (l.frame.filter fun v => !quietSlot s v).length / 32)

/-- The input port at the far end of a hop. -/
def inputPort (d : Fin 4) : Fin 5 := (opposite d).castSucc

/-- The downstream buffer of the packet's class has room for the whole of it (R147). -/
def bufferRoom (s : State) (p : Packet) (d : Fin 4) (u : TileNo) : Bool :=
  let l := getLink s p.here d
  let same (x : Packet) : Bool :=
    x.here == u && x.input == inputPort d && lane x == lane p && (l.frame.isEmpty || quietOf s x == quietOf s p)
  decide (((s.packets.filter same).map packetBytes).sum + packetBytes p ≤ bufferShare s l p)

/-! Hops (R149 to R151). -/

/-- Packets of one class that one unit sends to one other keep their order (R149). -/
def sameFlow (p q : Packet) : Bool :=
  p.origClass == q.origClass && p.srcTile == q.srcTile && p.srcUnit == q.srcUnit && p.dstTile == q.dstTile && p.dstUnit == q.dstUnit

/-- No earlier packet of its flow stands at the same router. -/
def firstOfFlow (s : State) (index : Nat) (p : Packet) : Bool := (s.packets.take index).all fun q => !(q.here == p.here && sameFlow p q)

/-- Requests of R143, which are answered. -/
def isRequest (p : Packet) : Bool := [0x00, 0x01, 0x04, 0x09, 0x0C].contains p.typ.toNat

/-- An ERR_RSP in place of what a packet asked for, sent from a tile to its source (R145). -/
def errTo (p : Packet) (at_ : TileNo) (unit : BitVec 4) (status : BitVec 4) : Packet :=
  { p with cls := 1, typ := 0x0B, srcTile := at_, srcUnit := unit, dstTile := p.srcTile, dstUnit := p.srcUnit, length := 0, addr := 0
           nonfinite := false, poison := false, last := true, status := status, origClass := 1, payload := [], here := at_, input := 4
           descended := false }

/-- Cycles that a packet takes on a link (R138): one without payload. -/
def linkCycles (p : Packet) : Nat := if p.payload.isEmpty then 1 else max 1 ((p.length.toNat + 2047) / 2048)

/-- A packet crosses a link: the sender counts its cycles, and the receiver the sub-words it corrected, of the eight of each cycle (R138, R140,
R180, R181). -/
def crossLink (s : State) (t : TileNo) (d : Fin 4) (u : TileNo) (p : Packet) (corrected : Nat) : State :=
  let l := getLink s t d
  let s := setLink s t d { l with cyclesOut := l.cyclesOut + BitVec.ofNat 64 (linkCycles p) }
  let r := getLink s u (opposite d)
  setLink s u (opposite d) { r with corrected := satAdd r.corrected (min corrected (8 * linkCycles p)) }

/-- The packet at a place of the list starts towards a neighbour, where the slot of the frame and the downstream buffer let it; else it waits. -/
def movePacket (s : State) (index : Nat) (p : Packet) (d : Fin 4) (u : TileNo) (down : Bool) (slot : Fin 32) (corrected : Nat) : State :=
  if slotAllows s (getLink s p.here d) p slot && bufferRoom s p d u then
    crossLink { s with packets := s.packets.set index { p with here := u, input := inputPort d, descended := down } } p.here d u p corrected
  else { s with packets := s.packets.set index p }

/-- A packet in ESC follows the escape table, waits while it loads, and is discarded where no legal path is left (R150, R151). -/
def escapeHop (s : State) (index : Nat) (p : Packet) (slot : Fin 32) (corrected : Nat) : State :=
  if s.escapeLoading then { s with packets := s.packets.set index p }
  else
    match escapeNext s p.here p.dstTile p.descended with
    | none =>
      let s := { s with packets := s.packets.eraseIdx index }
      if isRequest p || p.typ == 6 then send s [errTo p p.here 0xD 3] else s
    | some u =>
      match directionTo p.here u with
      | none => s
      | some d => movePacket s index p d u (!hopUp (levels s) p.here u) slot corrected

/-- Count a protocol discard at a router (R143, R182). -/
def countProtocol (s : State) (t : TileNo) : State :=
  let x := getTile s t
  setTile s t { x with protocol := satInc x.protocol }

/-- A reserved TYPE, CLASS or unit (R142 to R144, R147). -/
def badPacket (p : Packet) : Bool := decide (12 < p.typ.toNat) || decide (5 < p.cls.toNat) || p.dstUnit == 0xF || p.srcUnit == 0xF

/-- PACKET_HOP (R143, R147, R149, R150, R155): in a slot of the outgoing link's frame, the packet at a place of the list goes on; packets of its flow
that came before it go first. -/
def execPacketHop (hop : Hop) (s : State) :=
  finish s <|
    match s.packets[hop.index]? with
    | none => s
    | some p =>
      if badPacket p then countProtocol { s with packets := s.packets.eraseIdx hop.index } p.here
      else if p.here == p.dstTile || !firstOfFlow s hop.index p then s
      else if p.cls == 5 then escapeHop s hop.index p hop.slot hop.corrected
      else match dimOrder p.here p.dstTile with
        | none => s
        | some d =>
          match neighbour p.here d, hopUsable s p.here d with
          | some u, true => movePacket s hop.index p d u false hop.slot hop.corrected
          | _, _ => escapeHop s hop.index { p with cls := 5, origClass := p.cls } hop.slot hop.corrected

/-! QUIET's registers (R178). -/

/-- FB_COMMIT (R178): the QUIET shadows of every partition take effect together, and the slot tables follow at a frame boundary. -/
def execFbCommit (port : HostPort) (value : Word64) (s : State) :=
  finish s <|
    if bar0Open s port false && pairOk value && pairVal value == 1 && s.parts.all fun e => pairOk e.2.quietShadow then
      { s with parts := tmap {} (fun _ x => { x with quiet := x.quietShadow.toNat.testBit 0 }) s.parts, quietDue := true }
    else s

/-- QUIET_TABLES_APPLIED (R155, R178). -/
def execQuietTablesApplied (s : State) :=
  finish s <|
    if !s.quietDue then s
    else
      let changed := s.parts.filter fun e => e.2.quiet != e.2.quietTables
      let t := setFrames { s with parts := tmap {} (fun _ x => { x with quietTables := x.quiet }) s.parts, quietDue := false }
      changed.foldl (fun t e => raise t { code := 0x0041, part := some (Fin.ofNat 64 e.1), args := [e.1] }) t

end Sys2Proof.Machine
end

