-- ==== Sys2Proof/Machine/HostPorts.lean ====
section
/-!
DEFINITION. Host ports in service (R302, R473, R474, R483, R511, R512).
-/
namespace Sys2Proof.Machine
open Sys2Proof

/-- PERST_RELEASE (R474): training starts at once, or when the controller reaches WAITING. -/
def execPerstRelease (p : HostPort) (s : State) :=
  finish s <|
    let s := setHp s p { getHp s p with perstReleased := true }
    if fnState s (fnHost p) == 2 then setFn s (fnHost p) 1 else s

/-- A port's MSI-X pending bits are clear. -/
def dropPending (s : State) (p : HostPort) : State := { s with msixPending := s.msixPending.filter fun e => e.1 != p }

/-- PERST_ASSERT (R474): it resets that port alone. The port counts as down for rings, records and interrupts from now on; the error counters
of HP_ERR are cleared by module reset only (R512). -/
def execPerstAssert (p : HostPort) (s : State) :=
  finish s <|
    let h := getHp s p
    let s := setHp s p { h with perstReleased := false, linkUp := false, recovering := false, width := 0, speed := 0, flit := false
                                atsEnabled := false, ats := [], latch := none, msixOn := false, msixMasked := [] }
    let s := dropPending s p
    if fnReady s (fnHost p) then setFn s (fnHost p) 2 else s

/-- The errors that AER has found on a link since it was last in L0 (R512). -/
def linkErrors (h : HPort) (l : LinkLoss) : HPort :=
  { h with correctable := satAdd h.correctable l.correctable, uncorrectable := satAdd h.uncorrectable l.uncorrectable }

/-- HOST_LINK_RECOVERY (R512): with the errors found, the link leaves L0 into recovery, which RECOVERIES counts, or fails. HOST_LINK_UP brings it back. -/
def execHostLinkRecovery (p : HostPort) (loss : LinkLoss) (s : State) :=
  finish s <|
    let h := linkErrors (getHp s p) loss
    if loss.lost then
      (if h.linkUp || h.recovering then
        setHp s p { h with linkUp := false, recovering := false, width := 0, speed := 0, flit := false, ats := [], latch := none }
       else s)
    else if h.linkUp then setHp s p { h with linkUp := false, recovering := true, recoveries := satInc h.recoveries }
    else s

/-- The host writes a port's configuration (R335, R473, R511): with ATS off no translation is held, and pending vectors that are no longer masked are
sent. -/
def hostConfigured (s : State) (p : HostPort) (cfg : HostConfig) : State :=
  let h := getHp s p
  let due := if cfg.msix then s.msixPending.filter fun e => e.1 == p && !cfg.masked.contains e.2 else []
  let s := setHp s p { h with
    atsEnabled := cfg.ats, ats := if cfg.ats then h.ats else [], msixOn := cfg.msix, msixMasked := cfg.masked }
  { s with msix := due.reverse ++ s.msix, msixPending := s.msixPending.filter fun e => !due.contains e }

/-- ATS_INVALIDATE_REQUEST (R473): the port's translations of the page go, and the request is completed. -/
def execAtsInvalidateRequest (p : HostPort) (ctx : CtxNo) (page : Nat) (s : State) :=
  finish s <|
    let h := getHp s p
    if h.linkUp then setHp s p { h with ats := h.ats.filter (· != (ctx, page)), atsCompleted := h.atsCompleted + 1 } else s

end Sys2Proof.Machine
end

