-- ==== Sys2Proof/Machine/MemTier.lean ====
section
/-!
DEFINITION. The memory tiers' own work: scrub, write-back, refresh and recalibration (R270, R273 to R276), the withdrawal of stacks and ports
(R278, R279, R284), load (R296), and the mailbox (R285, R509).
-/
namespace Sys2Proof.Machine
open Sys2Proof

/-! BAR0 offsets (R499, R500). -/
def offHcCtl (k : StackNo) : Nat := 0x600038 + 0x100 * k.val
def offMboxCmd (p : PortNo) : Nat := 0x700040 + 0x2000 * p.val

/-! Withdrawal. -/

/-- The units that the module has lost, as UNITS_LOST reports them (R193, R334, log 15). -/
def lostArgs (s : State) : List Nat :=
  let removed := ((List.finRange 256).filter fun c => clusterState (mittenEntry s c) == 2).length
  let stks := (allStacks.map fun k => if (getStack s k).withdrawn then 2 ^ k.val else 0).foldl (· + ·) 0
  let ports := (allPorts.map fun p => if (getXp s p).withdrawn then 2 ^ (32 + p.val) else 0).foldl (· + ·) 0
  [s.holes.toNat, removed, stks + ports]

/-- A unit of the partition is lost while a map is current (R193). -/
def unitsLost (s : State) (who : Option PartNo) : State :=
  match who with
  | none => s
  | some p =>
    let x := getPart s p
    let s := setPart s p { x with phases := x.phases.map fun h => if h.step = 1 then h else { h with lost := true } }
    if x.map.isEmpty then s else raise s { code := 0x0032, part := some p, tenants := true, args := lostArgs s }

/-- A function becomes FAILED, which is reported (FN_FAILED, R426), or ABSENT (R404, R405). -/
def failFn (s : State) (f st cause : Nat) : State :=
  if fnState s f == st then s
  else
    let s := setFn s f st
    settleModule (if st = 4 then raise s { code := 0x0071, args := [f, st, cause] } else s)

/-- The operation touches the memory of a Cuff (R279). -/
def opTouches (m : CuffNo) (n : CuffNo) (o : CuffOp) : Bool := (opCuffs n o.task).contains m

/-- Withdraw a stack (R278, R279). A training failure leaves its function FAILED, any other cause ABSENT (log 16). -/
def withdrawStack (s : State) (k : StackNo) (cause : Nat) : State :=
  let x := getStack s k
  if x.withdrawn then s
  else
    let s := setStack s k { x with withdrawn := true, cause := BitVec.ofNat 4 cause, zeroing := false }
    let s := { s with writeback := s.writeback.filter fun e => !(decide (sectionLine k 0 ≤ e.1 ∧ e.1 < sectionLine k (2 ^ 26))) }
    let s := zeroRange s (stackBase k) (2 ^ 36)
    let s := stopCuffOps s (opTouches (nearCuff k)) stWithdrawn
    let s := cutStreams s (fun t => regionOf (stSrc t) == some (.stack k)) stWithdrawn
    let s := raise s { code := 0x0011, part := stackOwner s k, tenants := true, args := [0, k.val, cause] }
    let s := unitsLost (failFn s (fnStack k) (if cause = 1 then 4 else 5) cause) (stackOwner s k)
    settleOwnership s

/-- Withdraw an expansion port (R281, R284, R298). Its device keeps its bytes (R282). -/
def withdrawPort (s : State) (p : PortNo) (cause : Nat) : State :=
  let x := getXp s p
  if x.withdrawn then s
  else
    let s := setXp s p { x with withdrawn := true, cause := BitVec.ofNat 4 cause, linkUp := false, recovering := false, capacity := 0, perstReleased := false }
    let s := stopCuffOps s (opTouches (farCuff p)) stWithdrawn
    let s := cutStreams s (fun t => regionOf (stSrc t) == some (.port p)) stWithdrawn
    let s := raise s { code := 0x0011, part := portOwner s p, tenants := true, args := [1, p.val, cause] }
    unitsLost (failFn s (fnPort p) 5 cause) (portOwner s p)

/-- A stack's controller is at work: trained, mapped, not withdrawn. -/
def stackWorks (s : State) (k : StackNo) : Bool := fnReady s (fnStack k) && !(getStack s k).withdrawn

/-- HC_WITHDRAW (R297): a valid pair of value 1; anything else is reported. -/
def execHcWithdraw (port : HostPort) (stack : StackNo) (value : Word64) (s : State) :=
  finish s <|
    if !bar0Open s port false then s
    else if pairOk value && pairVal value == 1 then withdrawStack s stack 6
    else setupRefused s (offHcCtl stack)

/-- CTRL_FAULT (R278, R298). -/
def execCtrlFault (unit : CtrlUnit) (s : State) :=
  finish s <|
    match unit with
    | .stack k => withdrawStack s k 3
    | .port p => withdrawPort s p 3

/-! Background work. -/

/-- CORRECTED_WRITEBACK (R270, R277): a corrected line is written back; its data is what the reads have returned. -/
def execCorrectedWriteback (line : Nat) (s : State) := finish s { s with writeback := tput false s.writeback line false }

/-- What a stack-byte line holds (R265): a data line by its device address, or a section of a group's code block. -/
inductive ScrubTarget where
  | data (addr : Nat)
  | code (group section_ : Nat)

/-- The line at a scrub position (R265, R275). -/
def scrubTarget (k : StackNo) (pos : Nat) : ScrubTarget :=
  let g := pos / 1024
  let block := pos / 32 % 32
  let line := pos % 32
  let j := (block + 32 - g % 32) % 32
  if j = 31 then .code g line else .data (stackBase k + (g * 31 + j) * 2048 + line * 64)

/-- The end of a scrub pass (R275): counted and timed; the next one starts at once, with the settings written by now (R294). -/
def nextScrub (s : State) (x : Stack) : Stack :=
  if x.position.toNat + 1 < 603979776 then { x with position := x.position + 1 }
  else { x with position := 0, passes := satInc x.passes, scrubTime := now s, passPeriodH := x.periodH, passEnable := x.scrubEnable, passBegun := true }

/-- SCRUB_LINE (R275, R276): the next line is read and checked. A section 31 that fails is regenerated and counted as a correction; an
uncorrectable section below it poisons the 32 lines of its data block (R269, R270). -/
def execScrubLine (stack : StackNo) (ecc : Ecc) (s : State) :=
  finish s <|
    let x := getStack s stack
    let x := if x.position == 0 && !(x.passBegun && x.passEnable) then
      { x with passEnable := x.scrubEnable, passPeriodH := x.periodH, passBegun := true } else x
    if !stackWorks s stack || !x.passEnable then s
    else
      let s := setStack s stack (nextScrub s x)
      match scrubTarget stack x.position.toNat with
      | .data a => checkLine s (.stack stack) (a / 64) ecc false
      | .code g j =>
        match ecc with
        | .clean => s
        | .dieCorrected => countDie s stack
        | .corrected | .sectionCorrected =>
          if j = 31 then countCorrected s (.stack stack) else sectionCorrected s stack (g * 31 + j)
        | .uncorrectable | .sectionUncorrectable =>
          if j = 31 then countCorrected s (.stack stack) else sectionLost s stack (g * 31 + j) false

/-- CMEM_SCRUB_LINE (R273, R513): the next line of a bank; a pass is over when all 16 banks have been covered. A bank holds 262,144 lines. -/
def execCmemScrubLine (core : CoreNo) (bank : Fin 16) (ecc : Ecc) (s : State) :=
  finish s <|
    let tile := coreTile core
    let c := coreCluster core
    if !cmemMapped s tile (Fin.ofNat 4 c) then s
    else
      let x := getTile s tile
      let i := c * 16 + bank.val
      let pos := tget 0 x.cmemPos i
      let bankOver := decide (262144 ≤ pos + 1)
      let done := if bankOver then tget 0 x.banksDone i + 1 else tget 0 x.banksDone i
      let banks := tput 0 x.banksDone i done
      let all := bankOver && (List.range 16).all fun b => decide (1 ≤ tget 0 banks (c * 16 + b))
      let banks := if all then (List.range 16).foldl (fun t b => tput 0 t (c * 16 + b) (tget 0 t (c * 16 + b) - 1)) banks else banks
      let x := { x with
        cmemPos := tput 0 x.cmemPos i (if bankOver then 0 else pos + 1)
        banksDone := banks
        cmemPasses := if all then tput 0 x.cmemPasses c (satInc (tget 0 x.cmemPasses c)) else x.cmemPasses }
      checkLine (setTile s tile x) (.cmem tile (Fin.ofNat 4 c)) ((cmemBase core + bank.val * 2 ^ 24) / 64 + pos) ecc false

/-- REFRESH (R274): a refresh deadline forces a slot. -/
def execRefresh (stack : StackNo) (s : State) :=
  finish s <|
    let x := getStack s stack
    if stackWorks s stack then setStack s stack { x with forcedSlots := x.forcedSlots + 1 } else s

/-- PHY_RECALIBRATION (R274, R278): three failures in succession of one pseudo-channel lose the stack. -/
def execPhyRecalibration (stack : StackNo) (pc : Fin 32) (ok : Bool) (s : State) :=
  finish s <|
    let x := getStack s stack
    if !stackWorks s stack then s
    else
      let n := if ok then 0 else tget 0 x.recalFails pc.val + 1
      let s := setStack s stack { x with recalFails := tput 0 x.recalFails pc.val n }
      if 3 ≤ n then withdrawStack s stack 2 else s

/-! Load (R296). -/

/-- A stack's load or its threshold becomes that of x: BUSY follows, and its rise is an event at most once per second (R296). -/
def loadChange (s : State) (stack : StackNo) (x : Stack) : State :=
  let busy := decide (x.busyThresh.toNat ≤ x.util.toNat)
  let due := busy && !x.busy && (match x.busyEventTime with | none => true | some t => decide ((now s - t).toNat ≥ 2 ^ 32))
  let s := setStack s stack { x with busy := busy, busyEventTime := if due then some (now s) else x.busyEventTime }
  if due then raise s { code := 0x0012, part := stackOwner s stack, tenants := true, args := [stack.val, x.util.toNat] } else s

/-- HC_LOAD_WINDOW (R296): a rising BUSY raises a stack-busy event, at most once a second. -/
def execHcLoadWindow (stack : StackNo) (util : Byte) (s : State) :=
  finish s <|
    let x := getStack s stack
    loadChange s stack { x with util := util, peak := if x.peak.toNat < util.toNat then util else x.peak }

/-- HC_LOAD_READ (R296): a read of the register clears PEAK. -/
def execHcLoadRead (port : HostPort) (stack : StackNo) (s : State) :=
  finish s (if (getHp s port).linkUp then setStack s stack { getStack s stack with peak := 0 } else s)

/-! Expansion-port links (R284). -/

/-- XP_LINK_RECOVERY (R284). -/
def execXpLinkRecovery (p : PortNo) (s : State) :=
  finish s <|
    let x := getXp s p
    if x.linkUp && !x.withdrawn then setXp s p { x with linkUp := false, recovering := true } else s

/-- XP_LINK_RETURN_L0 (R284, R299). -/
def execXpLinkReturnL0 (p : PortNo) (s : State) :=
  finish s <|
    let x := getXp s p
    if x.recovering && !x.withdrawn then setXp s p { x with linkUp := true, recovering := false, recoveries := satInc x.recoveries } else s

/-- XP_LINK_LOST (R284): the window is withdrawn with the cause LINK_LOST. -/
def execXpLinkLost (p : PortNo) (s : State) :=
  finish s <|
    let x := getXp s p
    if (x.linkUp || x.recovering) && !x.withdrawn then withdrawPort s p 7 else s

/-! The mailbox (R285, R509). -/

/-- Opcodes of the Sanitize, Set Partition Info and Set Shutdown State families (R285, log 17). -/
def mboxForbidden (op : Nat) : Bool := op / 256 == 0x44 || op == 0x4101 || op == 0x4204

/-- The port's window is mapped. -/
def portMapped (s : State) (p : PortNo) : Bool := fnReady s (fnPort p) && !(getXp s p).withdrawn && decide (0 < (getXp s p).capacity)

/-- A write of XP_MBOX_CMD (R285, R509). With GO set a new command clears the last one's status. -/
def mboxWrite (s : State) (p : PortNo) (value : Word64) : State :=
  let x := getXp s p
  if !value.getLsbD 63 then setXp s p { x with mboxCmd := (value.extractLsb' 0 29).setWidth 64 }
  else if x.mboxBusy then setupRefused s (offMboxCmd p)
  else
    let x := { x with mboxCmd := (value.extractLsb' 0 29).setWidth 64, mboxRefused := false, mboxNoLink := false, mboxTimeout := false
                      mboxTruncated := false, mboxReturn := 0, mboxOutLength := 0 }
    if portMapped s p && mboxForbidden (bits value.toNat 0 16) then setXp s p { x with mboxRefused := true }
    else if !x.linkUp then setXp s p { x with mboxNoLink := true }
    else setXp s p { x with mboxBusy := true }

/-- MBOX_GO (R285, R509): a write of XP_MBOX_CMD with GO set. -/
def execMboxGo (port : HostPort) (p : PortNo) (value : Word64) (s : State) :=
  finish s (if bar0Open s port false then mboxWrite s p value else s)

/-- MBOX_COMPLETE (R509): the first 4,096 bytes of the output are held. -/
def execMboxComplete (p : PortNo) (returnCode : BitVec 16) (output : List Byte) (s : State) :=
  finish s <|
    let x := getXp s p
    if !x.mboxBusy then s
    else setXp s p { x with
      mboxBusy := false, mboxReturn := returnCode, mboxTruncated := decide (4096 < output.length), mboxOutLength := min 4096 output.length
      mboxPayload := ((output.take 4096).zipIdx).foldl (fun t e => tput 0 t e.2 e.1) x.mboxPayload }

/-- MBOX_TIMEOUT (R509). -/
def execMboxTimeout (p : PortNo) (s : State) :=
  finish s <|
    let x := getXp s p
    if x.mboxBusy then setXp s p { x with mboxBusy := false, mboxTimeout := true } else s

end Sys2Proof.Machine
end

