-- ==== Sys2Proof/Machine/Reduce.lean ====
section
/-!
DEFINITION. REDUCE: a Palm range as a leaf of a reduction tree (R161, R233, R234, R323).
-/
namespace Sys2Proof.Machine
open Sys2Proof

/-! Fields (R323). -/
def reFirst (t : Task) : Nat := t.f 260 24
def reCount (t : Task) : Nat := t.f 284 25
def reSeq (t : Task) : BitVec 32 := t.fp 320
def reTree (t : Task) : Nat := t.f 352 12
/-- Chunks of up to 512 pairs. -/
def reChunks (t : Task) : Nat := (reCount t + 511) / 512

/-- The chunk with a number, from the leaf core, on its own account (R142, R348): its pairs, and the parent that its tree names. -/
def leafChunk (s : State) (c : CoreNo) (k : SlotNo) (t : Task) (i : Nat) : Packet :=
  let m := (getPart s t.part).map
  let p := getPalm s c (rePalm t)
  let n := min 512 (reCount t - 512 * i)
  let a := cmemBase c + p.base + 8 * (reFirst t + 512 * i)
  let r := treeEntry m (reTree t)
  let up : TileNo × BitVec 4 × Nat × Bool := match leafParent m (reTree t) c with
    | some (.node v role) => (ndTile (nodeEntry m v), 0xC, v, role)
    | _ => (trRootTile r, BitVec.ofNat 4 (trRootUnit r), 0, false)
  { cls := 2, typ := 6, srcTile := coreTile c, srcUnit := BitVec.ofNat 4 (coreCluster c), dstTile := up.1, dstUnit := up.2.1
    partition := BitVec.ofNat 7 t.part.val, context := 0, length := 8 * n, addr := 0, tag := BitVec.ofNat 8 (64 + k.val)
    tree := BitVec.ofNat 16 (reTree t), node := BitVec.ofNat 16 up.2.2.1, role := up.2.2.2
    nonfinite := (List.range n).any fun j => f32NonFinite (BitVec.ofNat 32 (memNat s (a + 8 * j) 4))
    poison := rangePoisoned s a (8 * n), last := decide (i + 1 = reChunks t), status := 0, origClass := 2, sys := true
    offset := BitVec.ofNat 32 (8 * 512 * i), payload := memBytes s a (8 * n), here := coreTile c }

/-- Send what the window of 8 allows; every chunk credited, the REDUCE ends and NEXT_SEQ moves on (R161, R225, R234). -/
def reduceGo (s : State) (c : CoreNo) (k : SlotNo) (t : Task) : State :=
  let sl := getSlot s c k
  if !sl.started || sl.ended || resettingCore s c then s
  else
    let n := min (8 - sl.outstanding) (reChunks t - sl.sent)
    let s' := send (setSlot s c k { sl with sent := sl.sent + n, outstanding := sl.outstanding + n })
      ((List.range n).map fun i => leafChunk s c k t (sl.sent + i))
    if sl.sent + n = reChunks t ∧ sl.outstanding + n = 0 then endSlot (palmEnd s' c (rePalm t) false) c k stOk 0 else s'

/-- A REDUCE that waits, for its sequence or for credits, leaves its slot LATE (R83, R225). -/
def reduceStall (s : State) (c : CoreNo) (k : SlotNo) : State :=
  let sl := getSlot s c k
  if sl.state == .running && !sl.ended then setCore s c (judge (putSlot (getCore s c) k { sl with state := .late })) else s

/-- The work of a REDUCE: its sequence comes due, or it waits, or has passed (R225). -/
def reduceWork (c : CoreNo) (k : SlotNo) (s : State) (t : Task) : State :=
  let sl := getSlot s c k
  let p := getPalm s c (rePalm t)
  if sl.started then reduceGo s c k t
  else if !p.isOpen || p.owner != t.ctx || p.broken then failSlot s c k stPalm
  else if reSeq t == p.nextSeq then reduceGo (setSlot s c k { sl with started := true }) c k t
  else if seqBefore (reSeq t) p.nextSeq then failSlot s c k stPalmSeq
  else s

/-- The slot's REDUCE when it may go on: it owns the sequencer, or waits with its sending begun or due (R86). -/
def reduceTask (s : State) (c : CoreNo) (k : SlotNo) : Option Task :=
  match runningTask s c k .reduce with
  | some t => some t
  | none =>
    let sl := getSlot s c k
    if sl.state == .late && !sl.ended && !resettingCore s c && !clockStopped s c then sl.task.filter fun t => t.op == some .reduce else none

/-- REDUCE (R233, R234): it uses no array and no fetch. -/
def execReduce (core : CoreNo) (slot : SlotNo) (s : State) :=
  finish s <|
    match reduceTask s core slot with
    | none => s
    | some t => reduceStall (reduceWork core slot s t) core slot

end Sys2Proof.Machine
end

