-- ==== Sys2Proof/Machine/Palm.lean ====
section
/-!
DEFINITION. Opening Palms (R221, R222) and the checks of REDUCE (R233).
-/
namespace Sys2Proof.Machine
open Sys2Proof

/-- The checks of REDUCE (R225, R233). -/
def reduceFails (s : State) (c : CoreNo) (t : Task) : List Fail :=
  let m := (getPart s t.part).map
  let p := getPalm s c (rePalm t)
  bodyFails t [(256, 4, true), (260, 24, true), (284, 25, true), (320, 32, true), (352, 12, true)] ++ headerFails s t ++ footprintFails s c t
    ++ need (decide (1 ≤ reCount t ∧ reCount t ≤ 16777216)) stParam 35
    ++ need (decide (reTree t < mapNTrees m) && (leafParent m (reTree t) c).isSome) stPhaseMap 44
    ++ need (p.isOpen && p.owner == t.ctx && !p.broken) stPalm 32
    ++ need (!(p.isOpen && p.owner == t.ctx) || decide (reFirst t + reCount t ≤ p.elements)) stRange 32
    ++ need (!seqBefore (reSeq t) p.nextSeq) stPalmSeq 40

/-! PALM_INIT (R221, R323). -/
def piSlot (t : Task) : Nat := t.f 256 4
def piBase (t : Task) : Nat := t.f 260 28
def piElements (t : Task) : Nat := t.f 288 25

/-- Bytes of a cluster's other open Palms. -/
def otherPalms (s : State) (c : CoreNo) (k : Nat) : Nat :=
  ((List.range 16).map fun i => let p := getPalm s c i; if i ≠ k && p.isOpen then 8 * p.elements else 0).sum

/-- The checks of PALM_INIT. -/
def palmInitFails (s : State) (c : CoreNo) (t : Task) : List Fail :=
  let p := getPalm s c (piSlot t)
  let n := 8 * piElements t
  bodyFails t [(256, 4, true), (260, 28, true), (288, 25, true)] ++ headerFails s t
    ++ need (coreAvailable s c) stCore 3
    ++ need (decide (1 ≤ piElements t ∧ piElements t ≤ 16777216)) stParam 36
    ++ need (piBase t % 2048 == 0) stShape 32
    ++ need (decide (piBase t + n ≤ 2 ^ 28) && pagesOk s t.ctx (cmemBase c + piBase t) (max n 1)) stRange 32
    ++ need (decide (otherPalms s c (piSlot t) + n ≤ 2 ^ 27)) stPalmSpace 36
    ++ need (!p.isOpen || p.owner == t.ctx) stPalm 32

/-- The first of a core's PALM_INITs leaves its queue. -/
def popPalm (s : State) (c : CoreNo) : State :=
  let co := getCore s c
  setCore s c { co with palmQueue := co.palmQueue.tail, palmBusy := false }

/-- PALM_INIT (R84, R221): the first in the core's order of arrival begins. Until its zeros are written the Palm refuses every operation. -/
def execPalmInit (core : CoreNo) (s : State) :=
  finish s <|
    let co := getCore s core
    match co.palmBusy || resettingCore s core, co.palmQueue with
    | false, t :: _ =>
      match admissionFailure (palmInitFails s core t) with
      | some (st, d) => rejectTask (popPalm s core) t st d
      | none =>
        if stepWhen (getPart s t.part) t.step = .next then s
        else
          let t' := admitMark s t
          setPalm (setCore s core { co with palmBusy := true, palmQueue := t' :: co.palmQueue.tail }) core (piSlot t)
            { isOpen := true, owner := t.ctx, base := piBase t, elements := piElements t, broken := true }
    | _, _ => s

/-- PALM_INIT_DONE (R221): every pair is (+0, +0). A poisoned line that the Palm covers in part fails it (R270). -/
def execPalmInitDone (core : CoreNo) (s : State) :=
  finish s <|
    let co := getCore s core
    match co.palmBusy, co.palmQueue with
    | true, t :: _ =>
      let a := cmemBase core + piBase t
      let n := 8 * piElements t
      let s := zeroRange (popPalm s core) a n
      if n % 64 ≠ 0 && linePoison s ((a + n) / 64) then complete s t stPoisoned
      else complete (setPalm s core (piSlot t) { getPalm s core (piSlot t) with broken := false }) t stOk
    | _, _ => s

end Sys2Proof.Machine
end

