-- ==== Sys2Proof/Machine/LossScale.lean ====
section
/-!
DEFINITION. The loss scale of a partition (R74 to R79): its commit, the census rule, and an invalid pair.
-/
namespace Sys2Proof.Machine
open Sys2Proof

/-- The fields of the shadows (R75). -/
def lsShadowExp (l : LossScale) : Int := ofSigned (bits l.shadowExp.toNat 0 8) 8
def lsShadowMax (l : LossScale) : Int := ofSigned (bits l.shadowMax.toNat 0 8) 8
def lsShadowGrowth (l : LossScale) : Nat := bits l.shadowGrowth.toNat 0 16
def lsShadowDynamic (l : LossScale) : Bool := l.shadowMode.toNat.testBit 0

/-- An exponent of the loss scale lies in its range (R74). -/
def lsInRange (e : Int) : Bool := decide (-32 ≤ e ∧ e ≤ 64)

/-- The shadows may be committed (R76). -/
def lsShadowsOk (l : LossScale) : Bool :=
  pairOk l.shadowExp && pairOk l.shadowMax && pairOk l.shadowGrowth && pairOk l.shadowMode
    && lsInRange (lsShadowExp l) && lsInRange (lsShadowMax l) && decide (1 ≤ lsShadowGrowth l)
    && decide (lsShadowExp l ≤ lsShadowMax l)

/-- The shadows taken into force (R76, R78). -/
def lsCommitted (l : LossScale) : LossScale :=
  { l with maxExp := lsShadowMax l, growth := lsShadowGrowth l, dynamic := lsShadowDynamic l, expNow := lsShadowExp l
           clean := 0, invalid := false }

/-- The event of a change of the exponent (R78). -/
def lsChanged (s : State) (p : PartNo) (old new : Int) (step : BitVec 32) : State :=
  if old == new then s
  else raise s { code := 0x0020, part := some p, tenants := true, args := [signedBits old 64, signedBits new 64, step.toNat] }

/-- A commit of the loss scale (R75, R76, R78, R79). -/
def lsCommit (s : State) (p : PartNo) (value : Word64) : State :=
  let x := getPart s p
  if pairOk value && pairVal value == 1 && lsShadowsOk x.ls then
    let t := lsChanged (setPart s p { x with ls := lsCommitted x.ls }) p x.ls.expNow (lsShadowExp x.ls) x.cur
    if x.ls.invalid then raise t { code := 0x0023, part := some p, args := [p.val, x.cur.toNat, 1] } else t
  else raise s { code := 0x0021, part := some p, args := [p.val] }

/-- LS_COMMIT (R76): a partition that is resetting takes it at step 6 (R420). -/
def execLsCommit (port : HostPort) (p : PartNo) (value : Word64) (s : State) :=
  finish s <|
    if !bar0Open s port false then s
    else if resettingPart s p then setPart s p { getPart s p with lsHeld := (getPart s p).lsHeld ++ [value] }
    else lsCommit s p value

/-- The commits that a reset has held are taken, in the order of their writes (R419, R420). -/
def releaseCommits (s : State) (p : PartNo) : State :=
  (getPart s p).lsHeld.foldl (fun s v => lsCommit s p v) (setPart s p { getPart s p with lsHeld := [] })

/-- LS_PAIR_INVALID (R79): the pair in force is found invalid. -/
def execLsPairInvalid (p : PartNo) (s : State) :=
  finish s <|
    let x := getPart s p
    if x.ls.invalid then s
    else raise (setPart s p { x with ls := { x.ls with invalid := true } })
      { code := 0x0023, part := some p, args := [p.val, x.cur.toNat, 0] }

/-- The rule of R77 at a final census: the loss scale after it, with the exponent of the next step in EXP_NOW (R78). -/
def lsCensus (l : LossScale) (nonfinite : Bool) : LossScale :=
  let moved := { l with expPrev := l.expNow }
  if l.invalid then moved
  else if l.dynamic then
    if nonfinite then
      if -32 < l.expNow then { moved with expNow := l.expNow - 1, clean := 0, halvings := min (l.halvings + 1) 65535 }
      else { moved with clean := 0, floorHits := min (l.floorHits + 1) 65535 }
    else if l.clean + 1 = l.growth then
      { moved with clean := 0, expNow := if l.expNow < l.maxExp then l.expNow + 1 else l.expNow }
    else { moved with clean := l.clean + 1 }
  else if nonfinite then { moved with clean := 0 }
  else { moved with clean := min (l.clean + 1) 65535 }

end Sys2Proof.Machine
end

