-- ==== Sys2Proof/Machine/Phase.lean ====
section
/-!
DEFINITION. Switching phases (R183, R191 to R193) and the registers of phase maps (R218 to R220).
-/
namespace Sys2Proof.Machine
open Sys2Proof

/-! The tasks of a partition, wherever they stand. -/

/-- Apply a function to every task of a partition that a core, Cuff or station has. -/
def mapTasks (s : State) (p : PartNo) (f : Task → Task) : State :=
  let g (t : Task) : Task := if t.part == p then f t else t
  let co (_ : Nat) (c : Core) : Core :=
    { c with queue := c.queue.map g, held := c.held.map g, palmQueue := c.palmQueue.map g
             slots := tmap {} (fun _ sl => { sl with task := sl.task.map g }) c.slots }
  let op (o : CuffOp) : CuffOp := { o with task := g o.task }
  let cu (_ : Nat) (c : Cuff) : Cuff :=
    { c with inbox := c.inbox.map g, held := c.held.map g, queue := c.queue.map op, active := c.active.map op }
  let st (x : Station) : Station :=
    { x with inbox := x.inbox.map g, queue := x.queue.map g, held := x.held.map g, running := x.running.map fun r => { r with task := g r.task } }
  { s with cores := tmap {} co s.cores, cuffs := tmap {} cu s.cuffs, tiles := tmap {} (fun _ t => { t with station := st t.station }) s.tiles }

/-- Tasks that an executing unit has admitted and not completed; of a core's PALM_INITs the one that runs. -/
def admittedTasks (s : State) : List Task :=
  s.cores.flatMap (fun c => c.2.slots.filterMap (fun sl => sl.2.task) ++ (if c.2.palmBusy then c.2.palmQueue.take 1 else []))
    ++ s.cuffs.flatMap (fun c => c.2.queue.map (·.task) ++ c.2.active.map (·.task))
    ++ s.tiles.flatMap (fun t => t.2.station.queue ++ (t.2.station.running.map (·.task)).toList)

/-- Tasks that have arrived at an executing unit and wait for admission. -/
def arrivedTasks (s : State) : List Task :=
  s.cores.flatMap (fun c => c.2.queue) ++ s.cuffs.flatMap (fun c => c.2.inbox) ++ s.tiles.flatMap (fun t => t.2.station.inbox)

/-- A map-bound descriptor of the current generation that arrived before the drain mark: it still runs under the current map (R191). -/
def runsUnderCurrent (p : Partition) (t : Task) : Bool :=
  !t.afterMark && (match t.op with | some op => op.usesMapGen && op != .phase | none => false) && t.mapGen == p.gen.toNat % 2 ^ 16

/-- Step 4 of R192 is over: no task of the old generation runs or is still to run, and no collective is open. -/
def oldGenerationDone (s : State) (p : PartNo) : Bool :=
  let x := getPart s p
  !((admittedTasks s).any fun t => t.part == p && !t.afterMark)
    && !((arrivedTasks s).any fun t => t.part == p && runsUnderCurrent x t)
    && x.colls.isEmpty

/-! The coordinator. -/

/-- Fields (R323). -/
def phSrc (t : Task) : Nat := t.addr 256
def phNotBefore (t : Task) : Nat := t.f 320 64

/-- The checks of PHASE that its target makes on arrival (R192). -/
def phaseFails (s : State) (t : Task) : List Fail :=
  bodyFails t [(256, 56, true), (320, 64, true)] ++ headerFails s t ++ need (getCtx s t.ctx).phaseRight stParam 0

/-- The area can take a map (R183): valid, in the partition, no page of it allocated. -/
def mapAreaUsable (s : State) (p : PartNo) (v : BitVec 15) : Bool :=
  mapAreaValid v && (match regionOf (mapAreaBase v) with | some (.cmem t _) => partHasTile s p t && !isHole s t | _ => false)
    && (List.range 4).all fun i => tget 0 s.pages (pageOf (mapAreaBase v) + i) == 0

/-- Where the next map is copied: the half that does not hold the current one. -/
def pendingHalf (x : Partition) : Nat := mapAreaBase x.mapArea + (if x.secondHalf then 0 else 2 ^ 21)

/-- MAP_GEN is one that a PHASE may name (R192). -/
def phaseGenOk (x : Partition) (g : Nat) : Bool := g == (x.gen + 1).toNat % 2 ^ 16 || (x.gen == 0 && g != 0)

/-- The bytes of the map at the source address, where they can be read: its header gives the length. -/
def readMap (s : State) (p : PartNo) (t : Task) : Option (List Byte) :=
  let tile := cornerTile (getPart s p)
  match transferStatus s tile t.ctx .read (phSrc t) 64 with
  | some _ => none
  | none =>
    let n := mapLength (memBytes s (phSrc t) 64)
    if 64 ≤ n ∧ n ≤ 2 ^ 21 then
      match transferStatus s tile t.ctx .read (phSrc t) n with
      | some _ => none
      | none => some (memBytes s (phSrc t) n)
    else none

/-- Every drain mark of the partition is forgotten: at a switch, and where it is withdrawn. -/
def clearMarks (s : State) (p : PartNo) : State :=
  let s := mapTasks s p fun t => { t with afterMark := false }
  setPart s p { getPart s p with drainMark := false }

/-- DETAIL of a failed PHASE (R325): for an admission status, the field at fault: MAP_GEN, or the map's address. -/
def phaseDetail (st : BitVec 8) : BitVec 16 := if st == stStalePhase then 5 else if st.toNat < 0x20 then 32 else 0

/-- The PHASE at an index of the partition's list ends with a status (R192): its map is discarded, its mark withdrawn. -/
def endPhase (s : State) (p : PartNo) (i : Nat) (st : BitVec 8) : State :=
  let x := getPart s p
  match x.phases[i]? with
  | none => s
  | some h =>
    let s := setPart s p { x with phases := x.phases.eraseIdx i }
    rejectTask (if h.step = 1 then s else clearMarks s p) h.task st (phaseDetail st)

/-- Steps 2 and 3 of a PHASE that is the partition's pending one. Whatever fails at step 2, the reading and the writing of the map included, ends it
with the phase-map status (R192). -/
def phaseCopy (s : State) (p : PartNo) (t : Task) : Except (BitVec 8) State :=
  let x := getPart s p
  if !phaseGenOk x t.mapGen then .error stStalePhase
  else if !mapAreaUsable s p x.mapArea then .error stPhaseMap
  else match readMap s p t with
    | none => .error stPhaseMap
    | some m =>
      if !mapChecks s p m then .error stPhaseMap
      else match serveStatus s (cornerTile x) false (pendingHalf x) m.length with
        | some _ => .error stPhaseMap
        | none =>
          let w := writeMem s (pendingHalf x) m
          if !w.2 then .error stPhaseMap
          else
            let y := getPart w.1 p
            .ok (setPart w.1 p { y with phases := { task := t, step := 4, map := m } :: y.phases, drainMark := true })

/-- A PHASE whose turn has come: steps 2 and 3, or its end. -/
def phaseBegin (s : State) (p : PartNo) (t : Task) : State :=
  match phaseCopy s p t with
  | .error st => rejectTask s t st (phaseDetail st)
  | .ok s' => s'

/-- PHASE (R192, steps 1 to 3): the one that waits for its turn, else the next to have reached the coordinator. -/
def execPhase (p : PartNo) (s : State) :=
  finish s <|
    let x := getPart s p
    if resettingPart s p then s else
    match x.phases with
    | h :: r => if h.step = 1 then phaseBegin (setPart s p { x with phases := r }) p h.task
      else match x.coord.find? fun t => t.op == some .phase with
        | none => s
        | some t =>
          let s' := setPart s p { x with coord := x.coord.filter fun u => !sameTask u t }
          match admissionFailure (phaseFails s t) with
          | some (st, d) => rejectTask s' t st d
          | none => if stepWhen x t.step = .next then s
            else let y := getPart s' p; setPart s' p { y with phases := y.phases ++ [{ task := t, step := 1, map := [] }] }
    | [] => match x.coord.find? fun t => t.op == some .phase with
      | none => s
      | some t =>
        let s' := setPart s p { x with coord := x.coord.filter fun u => !sameTask u t }
        match admissionFailure (phaseFails s t) with
        | some (st, d) => rejectTask s' t st d
        | none => if stepWhen x t.step = .next then s else phaseBegin s' p t

/-- Held descriptors enter admission ahead of later ones (R192, step 8). -/
def releaseHeld (s : State) (p : PartNo) : State :=
  let mine (t : Task) : Bool := t.part == p
  let split (l q : List Task) : List Task × List Task := (l.filter fun t => !mine t, l.filter mine ++ q)
  let co (_ : Nat) (c : Core) : Core := let r := split c.held c.queue; { c with held := r.1, queue := r.2 }
  let cu (_ : Nat) (c : Cuff) : Cuff := let r := split c.held c.inbox; { c with held := r.1, inbox := r.2 }
  let st (x : Station) : Station := let r := split x.held x.inbox; { x with held := r.1, inbox := r.2 }
  { s with cores := tmap {} co s.cores, cuffs := tmap {} cu s.cuffs, tiles := tmap {} (fun _ t => { t with station := st t.station }) s.tiles }

/-- Steps 6 to 8: the Cores and Trees checks again, the switch, the release and the record. The routers' node slots start empty. -/
def phaseSwitch (s : State) (p : PartNo) : State :=
  let x := getPart s p
  match x.phases with
  | [] => s
  | h :: r =>
    if h.lost || !(checkCores s p h.map && checkTrees s p h.map) then endPhase s p 0 stPhaseMap
    else
      let s := setPart s p { x with
        phases := r, map := h.map, gen := if x.gen == 0 then BitVec.ofNat 32 h.task.mapGen else x.gen + 1
        secondHalf := !x.secondHalf, phaseTime := now s, phaseQuality := quality s }
      let s := (partTiles s p).foldl (fun s t => setTile s t { getTile s t with nodes := [] }) s
      complete (releaseHeld (clearMarks s p) p) h.task stOk

/-- PHASE_DRAINED (R192, step 4): the PHASE moves on to its not-before time, which may have passed already (R381). -/
def execPhaseDrained (p : PartNo) (s : State) :=
  finish s <|
    let x := getPart s p
    match x.phases with
    | [] => s
    | h :: r =>
      if h.step ≠ 4 || !oldGenerationDone s p || resettingPart s p then s
      else
        let s := setPart s p { x with phases := { h with step := 5 } :: r }
        if phNotBefore h.task ≤ (now s).toNat then phaseSwitch s p else s

/-- A PHASE in step 5 whose time has come (R381). -/
def phaseReached (s : State) (p : PartNo) : State :=
  match (getPart s p).phases with
  | [] => s
  | h :: _ => if h.step = 5 && !resettingPart s p && decide (phNotBefore h.task ≤ (now s).toNat) then phaseSwitch s p else s

/-! Registers. -/

/-- BAR0 offset of FB_MAP_AREA of a partition (R498). -/
def offMapArea (p : PartNo) : Nat := 0x501010 + 0x40 * p.val

/-- FB_MAP_AREA_WRITE (R218): the area is set; with a map in force Weala copies it into the first half of the new area. -/
def execFbMapAreaWrite (port : HostPort) (p : PartNo) (value : Word64) (s : State) :=
  finish s <|
    if !bar0Open s port false then s
    else
      let x := getPart s p
      let v : BitVec 15 := value.extractLsb' 0 15
      if !pairOk value || (x.phases.any fun h => h.step ≠ 1) || (mapAreaValid v && !mapAreaUsable s p v) then setupRefused s (offMapArea p)
      else
        let s := setPart s p { x with mapArea := v, secondHalf := false }
        if x.gen == 0 || !mapAreaValid v then s else storeMem s (mapAreaBase v) x.map

/-- FB_MOE_CLEAR (R220). -/
def execFbMoeClear (port : HostPort) (p : PartNo) (value : Word64) (s : State) :=
  finish s <|
    if !bar0Open s port false || !value.toNat.testBit 0 then s
    else setPart s p { getPart s p with dropped := 0, spilled := 0 }

end Sys2Proof.Machine
end

