-- ==== Sys2Proof/Machine/Steps.lean ====
section
/-!
DEFINITION. The end of a step (R77, R78, R227 to R232).
-/
namespace Sys2Proof.Machine
open Sys2Proof

/-- CENSUS_ADDR (R323). -/
def scAddr (t : Task) : Nat := t.addr 256

/-- The checks of STEP_CLOSE (R229): for the current step only, one at a time. -/
def stepCloseFails (s : State) (t : Task) : List Fail :=
  let x := getPart s t.part
  bodyFails t [(256, 56, true)] ++ headerFails s t ++ need (getCtx s t.ctx).phaseRight stParam 0
    ++ need (t.step == x.cur && x.closing.isNone) stStaleStep 8

/-- STEP_CLOSE (R229): the close mark goes out, and the tasks of the step are waited for. -/
def execStepClose (p : PartNo) (s : State) :=
  finish s <|
    let x := getPart s p
    if resettingPart s p then s else
    match x.coord.find? fun t => t.op == some .stepClose with
    | none => s
    | some t =>
      let x' := { x with coord := x.coord.filter fun u => !sameTask u t }
      match admissionFailure (stepCloseFails s t) with
      | some (st, d) => rejectTask (setPart s p x') t st d
      | none => setPart s p { x' with closing := some t }

/-- Every task of the running step that its unit admitted before the close mark has completed (R229, step 2). -/
def stepDone (s : State) (p : PartNo) : Bool :=
  let x := getPart s p
  !((admittedTasks s).any fun t => t.part == p && t.step == x.cur && !t.late)

/-- The close mark is withdrawn (R229): a later close starts afresh. -/
def withdrawClose (s : State) (p : PartNo) : State :=
  let x := getPart s p
  let s := mapTasks s p fun t => if t.step == x.cur then { t with late := false } else t
  setPart s p { getPart s p with closing := none }

/-- The census record (R231). -/
def censusRecord (s : State) (x : Partition) (next : Int) : Nat :=
  let z := x.census
  let bit (b : Bool) (i : Nat) : Nat := place (if b then 1 else 0) i 1
  place x.cur.toNat 0 32 + place (signedBits x.ls.expNow 8) 32 8 + place (signedBits next 8) 40 8
    + bit (decide (0 < z.values)) 48 + bit z.fromStages 49 + bit z.fromRoute 50 + bit z.fromPalms 51 + bit z.late 52
    + place z.values 64 48 + place (if z.values = 0 then 255 else z.firstCore) 112 8 + place (now s).toNat 128 64
    + place (quality s).toNat 192 4

/-- Descriptors held in slots for the step that is now current, which apply or remove the loss scale, fail without effect where its pair has been found
invalid meanwhile (R79). -/
def failHeld (s : State) (p : PartNo) : State :=
  s.cores.foldl
    (fun s e => e.2.slots.foldl
      (fun s f =>
        match f.2.task with
        | none => s
        | some t =>
          if f.2.stepHeld && t.part == p && t.step == (getPart s p).cur && t.op == some .gauntlet then
            match admissionFailure (lossFails s t) with
            | some (st, d) => endSlot s (Fin.ofNat 256 e.1) (Fin.ofNat 4 f.1) st d
            | none => s
          else s) s) s

/-- Descriptors held in slots for the step that is now current go on with its exponent (R78): a gate stays blocked as a gate. -/
def releaseStep (s : State) (p : PartNo) : State :=
  let s := failHeld s p
  let x := getPart s p
  let go (sl : Slot) : Slot :=
    match sl.task with
    | none => sl
    | some t =>
      if sl.stepHeld && t.part == p && t.step == x.cur then
        { sl with stepHeld := false, state := if t.isGate then .blocked else .ready, task := some { t with exp := some x.ls.expNow } }
      else sl
  { s with cores := tmap {} (fun _ c => judge { c with slots := tmap {} (fun _ sl => go sl) c.slots }) s.cores }

/-- CENSUS_FINAL (R229, steps 3 to 5): the census is final, R77 is applied, CUR moves on, the record is written, the held go on. -/
def execCensusFinal (p : PartNo) (s : State) :=
  finish s <|
    let x := getPart s p
    match x.closing with
    | none => s
    | some t =>
      if !stepDone s p || resettingPart s p then s
      else
        let bad := decide (0 < x.census.values)
        let ls := lsCensus x.ls bad
        let rec_ := bytesOf 32 (censusRecord s x ls.expNow)
        let s := setPart s p { x with ls := ls, cur := x.cur + 1, census := {}, closing := none, lastNonfinite := bad }
        let s := lsChanged s p x.ls.expNow ls.expNow (x.cur + 1)
        let w := if scAddr t = 0 then (s, none) else writeFor s (cornerTile x) t.ctx (scAddr t) rec_
        let s := releaseStep w.1 p
        pumpAll (outcome s t (w.2.getD stOk) 0 bad (now s) (quality s)).1

end Sys2Proof.Machine
end

