-- ==== Sys2Proof/Machine/UnitEnd.lean ====
section
/-!
DEFINITION. Ending what a unit has in hand: for resets (R193, R356 to R358), segment faults (R42) and holes (R48).
-/
namespace Sys2Proof.Machine
open Sys2Proof

/-- A slot's outstanding stores are abandoned: what they cover is free (R94, R358), and a task that had them outstanding ends with a status of the reset
even though its stages were over. -/
def abandonStores (s : State) (c : CoreNo) (k : SlotNo) (st : BitVec 8) : State :=
  let co := getCore s c
  let sl := coreSlot co k
  let out := storesOut co k
  let sl' := { sl with storeTags := [], outs := [], adding := none, status := if out && sl.status == stOk then st else sl.status, spoilt := sl.spoilt || out }
  let s := setCore s c (putSlot { co with storeQueue := co.storeQueue.filter fun e => e.1 != k } k sl')
  (sl.storeTags.flatMap (·.parts)).foldl (fun s r => freeBytes s r.1 r.2) s

/-- A core leaves a collective: one that still gathers goes on without it; one that has begun ends for every other member with the absorbed
status (R154, R193; log 26). -/
def leaveByReset (c : CoreNo) (s : State) (x : Coll) : State :=
  let t := x.first
  match memberOf x c with
  | none => s
  | some m =>
    if !memberRuns s m then s
    else
      let y := { x with members := x.members.filter fun v => v.1 != c }
      if x.stage ≠ 0 then endColl s t y stAbsorbed
      else if y.members.isEmpty then dropColl s t
      else setColl s t y

/-- A gate that has ended without OK skips the rest of its ring (R332). -/
def gateSkips (s : State) (t : Task) (st : BitVec 8) : State :=
  if t.op == some .wait || t.op == some .timed then ringSkip s t.ring.toNat t st else s

/-- A slot ends with a status, a gate with the rest of its ring. -/
def stopSlot (s : State) (c : CoreNo) (k : SlotNo) (st : BitVec 8) : State :=
  let sl := getSlot s c k
  match sl.task with
  | none => s
  | some t => if sl.ended then settleSlot s c k else gateSkips (failSlot s c k st) t st

/-- A core ends all it has: its slots with one status, the descriptors that wait at it and its PALM_INITs with the reset status (R356). Its
operand store is zeroed (R351); its registers stand. -/
def endCore (s : State) (c : CoreNo) (st : BitVec 8) : State :=
  let s := (s.parts.flatMap fun p => p.2.colls).foldl (leaveByReset c) s
  let s := (List.finRange 4).foldl (fun s k => stopSlot (abandonStores s c k st) c k st) s
  let co := getCore s c
  let s := setCore s c { ctl := co.ctl, pruned := co.pruned, sparseFaults := co.sparseFaults }
  (co.queue ++ co.held ++ co.palmQueue).foldl (fun s t => gateSkips (complete s t stReset) t stReset) s

/-- A station ends all it has with a status; bursts of its STREAM that are still on the Brim are dropped. -/
def endStation (s : State) (t : TileNo) (st : BitVec 8) : State :=
  let x := (getTile s t).station
  let s := setTile { s with bursts := s.bursts.filter fun b => b.srcTile != t } t { getTile s t with station := {} }
  let run := match x.running with
    | some r => if r.recordHeld then [] else [r.task]
    | none => []
  (run ++ x.queue ++ x.inbox ++ x.held).foldl (fun s u => complete s u st) s

/-- The Cuffs end a partition's operations, and the descriptors that wait there, with a status (R252). -/
def endPartCuffs (s : State) (p : PartNo) (st : BitVec 8) : State :=
  let s := stopCuffOps s (fun _ o => o.task.part == p) st
  let mine (t : Task) : Bool := t.part == p
  let waiting := s.cuffs.flatMap fun c => (c.2.inbox ++ c.2.held).filter mine
  let cut (c : Cuff) : Cuff := { c with inbox := c.inbox.filter fun t => !mine t, held := c.held.filter fun t => !mine t }
  waiting.foldl (fun s t => complete s t st) { s with cuffs := tmap {} (fun _ c => cut c) s.cuffs }

/-- The coordinator ends its PHASEs, its STEP_CLOSE and what waits at it; open collectives close (R193, R229). -/
def endCoordinator (s : State) (p : PartNo) (st : BitVec 8) : State :=
  let s := (getPart s p).colls.foldl (fun s x => endColl s x.first x st) s
  let x := getPart s p
  let s := x.phases.foldl (fun s _ => endPhase s p 0 st) s
  let s := match (getPart s p).closing with
    | none => s
    | some t => complete (withdrawClose s p) t st
  let y := getPart s p
  y.coord.foldl (fun s t => complete s t st) (setPart s p { y with coord := [] })

end Sys2Proof.Machine
end

