-- ==== Sys2Proof/Machine/MapEntries.lean ====
section
/-!
DEFINITION. Settings in force, the stored map, and the entries of the Mitten map (R34 to R40, R410, R412).
-/
namespace Sys2Proof.Machine
open Sys2Proof

/-! The setting that bears on the map, and the stored map. -/

/-- The value of a setting in force (R412); unlisted ones have their manufacture default. -/
def settingDefault : Nat → Nat
  | 1 => 2 | 3 => 270 | 0x11 => 2 | _ => 0
def settingValue (s : State) (id : Nat) : Nat := (tget (BitVec.ofNat 256 (settingDefault id)) s.weala.settings id).toNat
/-- Clusters with two defective segments are used as degraded cores (R36). -/
def useDegraded (s : State) : Bool := settingValue s 0x10 == 0
/-- Changes of a limited setting that the fuses count (R414). -/
def changesMade (w : Weala) (id : Nat) : Nat := (w.fuses.filter fun e => e.id.toNat == id).length

/-- The stored map (R410): the copy whose generation is the number of changes made, else the valid copy of the highest generation below. -/
def storedMap (w : Weala) : Option MapCopy :=
  let n := changesMade w 2
  let ok := [w.mapA, w.mapB].filter (·.ok)
  match ok.find? fun m => m.generation == n with
  | some m => some m
  | none => (ok.filter fun m => decide (m.generation < n)).foldl
      (fun acc m => match acc with
        | none => some m
        | some b => some (if b.generation < m.generation then m else b)) none

/-- The stored entry of a cluster; with no stored map, a word that is not consistent. -/
def storedEntry (w : Weala) (c : CoreNo) : Word64 :=
  match storedMap w with
  | some m => tget mittenFull m.entries c.val
  | none => 0

/-! Entries (R34 to R37). -/

/-- An entry from its fields. -/
def entryOf (ls : List Nat) (spare st defects : Nat) (bank : Bool) : BitVec 32 :=
  BitVec.ofNat 32 ((ls.zipIdx.map fun e => place e.1 (3 * e.2) 3).sum + place spare 12 3 + place st 16 2 + place defects 18 5
    + place (if bank then 1 else 0) 23 1)
/-- The physical segments of s0 to s3. -/
def entryLs (e : BitVec 32) : List Nat := (List.range 4).map (lsPhys e)
/-- The healthy segments of a defect mask, and how many are not. -/
def healthy (defects : Nat) : List Nat := (List.range 5).filter fun p => !defects.testBit p
def defectCount (defects : Nat) : Nat := 5 - (healthy defects).length

/-- An entry is consistent (R36). -/
def entryConsistent (w : Word64) : Bool :=
  let e : BitVec 32 := w.extractLsb' 0 32
  let ls := entryLs e
  let h (p : Nat) : Bool := decide (p < 5) && !(defectMask e).testBit p
  let base := pairOk w && !e.toNat.testBit 15 && bits e.toNat 24 8 == 0
    && (sparePhys e :: ls).all fun p => decide (p < 5) || p == 7
  base && (match clusterState e with
    | 0 =>
      let fifth := ((List.range 5).filter fun p => !ls.contains p).headD 7
      ls.all h && decide ls.Nodup && !bankFail e && sparePhys e == (if h fifth then fifth else 7)
    | 1 => ls[3]? == some 7 && (ls.take 3).all h && decide (ls.take 3).Nodup && sparePhys e == 7 && defectCount (defectMask e) == 2 && !bankFail e
    | _ => (sparePhys e :: ls).all (· == 7))

/-- One failed role of an assignment (R37): the lowest healthy unused segment; or s3's, with s3 absent. -/
def fillRole (good : List Nat) (ls : List Nat) (i : Nat) : List Nat :=
  let p := (ls[i]?).getD 7
  if p = 7 || good.contains p then ls
  else match good.find? fun q => !ls.contains q with
    | some q => ls.set i q
    | none => if i = 3 then ls.set 3 7 else (ls.set i ((ls[3]?).getD 7)).set 3 7

/-- The entry for a set of defects: an existing assignment changed as little as can be, or one built afresh (R36, R37). -/
def deriveEntry (kept : Option (List Nat)) (defects : Nat) (bank degraded : Bool) : BitVec 32 :=
  let good := healthy defects
  let n := defectCount defects
  if bank || decide (3 ≤ n) || (n == 2 && !degraded) then entryOf [7, 7, 7, 7] 7 2 defects bank
  else
    let ls := match kept with
      | none => if n < 2 then good.take 4 else good.take 3 ++ [7]
      | some l => (List.range 4).foldl (fillRole good) l
    let full := ls[3]? != some 7
    let spare := if full then (good.filter fun p => !ls.contains p).getLast?.getD 7 else 7
    entryOf ls spare (if full then 0 else 1) defects bank

/-- A cluster's running entry after more defects, its failed roles filled in ascending order of logical segment (R36, R37). -/
def entryWithoutAll (s : State) (c : CoreNo) (ps : List Nat) : BitVec 32 :=
  let e := mittenEntry s c
  let d := ps.foldl (fun d p => d ||| 2 ^ p) (defectMask e)
  if clusterState e = 2 then entryOf [7, 7, 7, 7] 7 2 d (bankFail e) else deriveEntry (some (entryLs e)) d (bankFail e) (useDegraded s)
/-- The entry after one more defect. -/
def entryWithout (s : State) (c : CoreNo) (p : Nat) : BitVec 32 := entryWithoutAll s c [p]

/-- Weala writes a running entry; one that differs from the stored entry is reported (R40). -/
def writeMitten (s : State) (c : CoreNo) (e : BitVec 32) : State :=
  let stored := storedEntry s.weala c
  let s := setMitten s c e
  if mkPair e == stored then s
  else raise s { code := 0x0031, part := tileOwner s (coreTile c), args := [c.val, stored.toNat, (mkPair e).toNat] }

end Sys2Proof.Machine
end

