-- ==== Sys2Proof/Machine/Audit.lean ====
section
/-!
DEFINITION. The audit log (R411), and the settings records of the flash (R408, R409).
-/
namespace Sys2Proof.Machine
open Sys2Proof

/-- An entry of the audit log (R411). When the log is full, its oldest 64 entries go. -/
def addAudit (s : State) (kind : Nat) (args : List Nat) : State :=
  let w := s.weala
  let kept := if w.audit.length < 327680 then w.audit else w.audit.drop 64
  { s with weala := { w with
      audit := kept ++ [{ time := now s, quality := quality s, epoch := s.tb.epoch, kind := BitVec.ofNat 16 kind, seq := w.auditSeq, args := args }]
      auditSeq := w.auditSeq + 1 } }

/-- An entry whose arguments the spec does not give: four free values. -/
def addAuditOpen (s : State) (kind : Nat) : State :=
  let a := freshWord s
  let b := freshWord a.2
  let c := freshWord b.2
  let d := freshWord c.2
  addAudit d.2 kind [a.1.toNat, b.1.toNat, c.1.toNat, d.1.toNat]

/-- A record is valid (R409). -/
def recordValid (r : SettingRec) : Bool := r.sealWord == 0 && r.valueC == ~~~r.value

/-- The valid record of an ID with the highest SEQ (R409). -/
def latestRecord (w : Weala) (id : Nat) : Option SettingRec :=
  (w.records.filter fun r => recordValid r && r.id.toNat == id).foldl
    (fun acc r => match acc with
      | none => some r
      | some b => if b.seq.toNat < r.seq.toNat then some r else some b) none

/-- The IDs of the catalogue (R412). -/
def settingIds : List Nat := [1, 2, 3, 4, 5, 0x10, 0x11]
/-- The changes that a limited setting is allowed (R412). -/
def changesAllowed : Nat → Option Nat
  | 1 => some 4 | 2 => some 32 | 3 => some 8 | 4 => some 16 | 5 => some 8 | _ => none

/-- Records that a bank of 2 MiB holds (R406, R408). -/
def bankRecords : Nat := 16384

/-- Append a record to a bank. -/
def putRecordIn (s : State) (bank : Bool) (id : Nat) (v : BitVec 256) : State :=
  let w := s.weala
  let q := w.recordSeq + 1
  let r : SettingRec :=
    { id := BitVec.ofNat 16 id, seq := q, time := now s, quality := quality s, value := v, valueC := ~~~v, sealWord := 0, bank := bank }
  { s with weala := { w with records := w.records ++ [r], recordSeq := q } }

/-- Write a settings record (R409). A full active bank gives way to the other, into which the latest valid record of each ID goes first. -/
def writeRecord (s : State) (id : Nat) (v : BitVec 256) : State :=
  let w := s.weala
  let s :=
    if (w.records.filter fun r => r.bank == w.activeBank).length < bankRecords then s
    else
      let s := settingIds.foldl (fun s i => match latestRecord w i with
        | some r => putRecordIn s (!w.activeBank) i r.value
        | none => s) s
      { s with weala := { s.weala with activeBank := !w.activeBank, records := s.weala.records.filter fun r => r.bank != w.activeBank } }
  putRecordIn s s.weala.activeBank id v

/-- Changes left of a limited setting (R415, R424). -/
def changesLeft (w : Weala) (id : Nat) : Nat := (changesAllowed id).getD 0 - changesMade w id

end Sys2Proof.Machine
end

