-- ==== Sys2Proof/Machine/Requests.lean ====
section
/-!
DEFINITION. Requests to Weala (R403, R412 to R416, R425, R479): settings, maps, boot images, areas, the ledger. A request is taken and answered in one
step, but for a map that waits for a change of the running map (R44), behind which every later request waits too.
-/
namespace Sys2Proof.Machine
open Sys2Proof

/-! Results (R425). -/
def resOk : Byte := 0x00
def resUnchanged : Byte := 0x01
def resPair : Byte := 0x10
def resOpcode : Byte := 0x11
def resArgument : Byte := 0x12
def resAuth : Byte := 0x13
def resExhausted : Byte := 0x14
def resFlash : Byte := 0x15
def resSignature : Byte := 0x16

/-- BAR0 offset of MG_REQ_CMD (R493). -/
def offReqCmd : Nat := 0x000100

/-- OP and TOKEN of a request (R425). -/
def reqOp : Instr → Nat
  | .setSetting _ _ _ _ => 1 | .persistMap _ _ _ => 2 | .writeImage _ _ _ _ _ => 3 | .commitImage _ _ _ _ _ _ => 4
  | .readArea _ _ _ _ _ => 5 | .readLedger _ _ => 6 | _ => 0
def reqSource : Instr → Option ReqSource
  | .setSetting x _ _ _ => some x | .persistMap x _ _ => some x | .writeImage x _ _ _ _ => some x | .commitImage x _ _ _ _ _ => some x
  | .readArea x _ _ _ _ => some x | .readLedger x _ => some x | _ => none
def reqAuth : Instr → Auth
  | .setSetting _ _ _ a => a | .persistMap _ _ a => a | .writeImage _ _ _ _ a => a | .commitImage _ _ _ _ _ a => a
  | .readArea _ _ _ _ a => a | .readLedger _ a => a | _ => { sigValid := false, keyDigest := 0 }
def srcToken : ReqSource → BitVec 24
  | .bar0 _ v => v.extractLsb' 8 24
  | .mctp _ t => t

/-- Put bytes into MG_REQ_BUF's data part (R425). -/
def bufData (s : State) (d : List Byte) : State :=
  { s with weala := { s.weala with reqBuf := (d.take 3840).zipIdx.foldl (fun t e => tput 0 t (256 + e.2) e.1) s.weala.reqBuf } }

/-- The outcome of a request (R413, R416): MG_REQ_STATUS, the data, the answer over MCTP, and for a failure its event and audit entry. -/
def answerReq (s : State) (op : Nat) (src : ReqSource) (res : Byte) (d : List Byte) : State :=
  let tok := srcToken src
  let s := { s with weala := { s.weala with reqResult := res, reqToken := tok } }
  let s := match src with
    | .bar0 _ _ => bufData s d
    | .mctp b _ => reply s b (.requestResult (BitVec.ofNat 8 op) res d)
  if 0x10 ≤ res.toNat then raise (addAuditOpen s 3) { code := 0x0073, args := [op, res.toNat, tok.toNat] } else s

/-- OWNER_KEY in force, and the authority a request needs (R413, R403): over MCTP always a set key and a signature; in the recovery state WRITE_IMAGE,
COMMIT_IMAGE, READ_AREA and READ_LEDGER are taken over SMBus, signed where a key is set and they need it, and nothing else is. -/
def ownerKey (s : State) : Nat := settingValue s 5
def authorised (s : State) (i : Instr) : Bool :=
  let a := reqAuth i
  let signed := a.sigValid && a.keyDigest.toNat == ownerKey s
  match reqSource i with
  | some (.bar0 _ _) => ownerKey s == 0 || decide (5 ≤ reqOp i) || signed
  | some (.mctp b _) =>
    if s.weala.recovery then
      b == .smbus && decide (3 ≤ reqOp i) && (ownerKey s == 0 || decide (5 ≤ reqOp i) || signed)
    else ownerKey s != 0 && signed
  | none => false

/-! SET_SETTING (R412, R414). -/

/-- The value is one that the setting takes. SPARE_MAP_GENERATION changes only with a map (R410). -/
def settingOk (id : Nat) (v : BitVec 256) : Bool :=
  match id with
  | 1 | 0x11 => decide (1 ≤ v.toNat ∧ v.toNat ≤ 2)
  | 3 => decide (100 ≤ v.toNat ∧ v.toNat ≤ 300)
  | 4 | 0x10 => decide (v.toNat ≤ 1)
  | 5 => true
  | _ => false

/-- The change of a setting (R414): the fuse and the ledger entry of a limited one, the record, the mirror, the audit entry, the event. -/
def changeSetting (s : State) (id : Nat) (v : BitVec 256) : State :=
  let limited := (changesAllowed id).isSome
  let s := if limited then
      { s with weala := { s.weala with fuses := s.weala.fuses ++
          [{ id := BitVec.ofNat 16 id, index := changesMade s.weala id + 1, time := now s, quality := quality s, epoch := s.tb.epoch, value := v }] } }
    else s
  let s := writeRecord s id v
  let s := { s with weala := { s.weala with
    mirror := if limited then s.weala.fuses else s.weala.mirror
    settings := tput (BitVec.ofNat 256 (settingDefault id)) s.weala.settings id v } }
  let s := addAuditOpen s (if id = 2 then 4 else 2)
  let left := if limited then (changesLeft s.weala id, s) else let r := freshWord s; (r.1.toNat, r.2)
  raise left.2 { code := 0x0072, args := [id, left.1, v.toNat % 2 ^ 64] }

/-- SET_SETTING's own checks and work. -/
def doSetSetting (s : State) (src : ReqSource) (id : BitVec 16) (v : BitVec 256) : State :=
  let n := id.toNat
  if !settingOk n v then answerReq s 1 src resArgument []
  else if settingValue s n == v.toNat then answerReq s 1 src resUnchanged []
  else if (changesAllowed n).isSome && changesLeft s.weala n == 0 then answerReq s 1 src resExhausted []
  else answerReq (changeSetting s n v) 1 src resOk []

/-! PERSIST_MAP (R39, R40, R410). -/

/-- The running grade (R49). -/
def runningGrade (s : State) : BitVec 2 :=
  let n := (allTiles.filter (isHole s)).length
  if n = 0 then 0 else if n ≤ 2 then 1 else 2

/-- The map clears a DEFECT_MASK bit of the stored map (R39). -/
def clearsDefect (s : State) (es : List Word64) : Bool :=
  (List.finRange 256).any fun c =>
    let old := storedEntry s.weala c
    let d := defectMask (old.extractLsb' 0 32)
    entryConsistent old && decide (d &&& defectMask ((es.getD c.val 0).extractLsb' 0 32) ≠ d)

/-- Write a map into the copy not in use, then count the change (R410, R414). -/
def storeMap (s : State) (es : Tbl Word64) (grade : BitVec 2) : State :=
  let w := s.weala
  let n := changesMade w 2 + 1
  let copy : MapCopy := { generation := n, grade := grade, entries := es, ok := true }
  let inA := storedMap w == some w.mapA
  let w' := if inA then { w with mapB := copy } else { w with mapA := copy }
  changeSetting { s with weala := w', gradeStored := grade } 2 (BitVec.ofNat 256 n)

/-- The running map's 256 entries. -/
def runningEntries (s : State) : List Word64 := (List.range 256).map (tget mittenFull s.mitten)

/-- There is a running map that can be persisted (R39, R40): main power is on, every entry is formed, and none clears a stored defect. -/
def runningPersists (s : State) : Bool :=
  s.pw.stage == .main && (runningEntries s).all entryConsistent && !clearsDefect s (runningEntries s)

/-- PERSIST_MAP's own checks and work. Without a running map that may be stored, a request for it has no argument to store (log 44). -/
def doPersistMap (s : State) (src : ReqSource) (m : Option OfferedMap) : State :=
  if changesLeft s.weala 2 == 0 then answerReq s 2 src resExhausted []
  else match m with
    | none =>
      if runningPersists s then answerReq (storeMap s s.mitten (runningGrade s)) 2 src resOk []
      else answerReq s 2 src resArgument []
    | some o =>
      if o.entries.length ≠ 256 || !o.entries.all entryConsistent then answerReq s 2 src resArgument []
      else if clearsDefect s o.entries && !o.camormetSigned then answerReq s 2 src resSignature []
      else
        let es := o.entries.zipIdx.foldl (fun t e => tput mittenFull t e.2 e.1) []
        answerReq (storeMap s es o.grade) 2 src resOk []

/-! Boot images (R407, R413). -/

/-- The slot is one that Weala is not running from (R413). -/
def slotFree (s : State) (imageB : Bool) : Bool := s.weala.recovery || imageB != s.weala.bootB
def getImage (w : Weala) (imageB : Bool) : Image := if imageB then w.imageB else w.imageA
def setImage (s : State) (imageB : Bool) (x : Image) : State :=
  { s with weala := if imageB then { s.weala with imageB := x } else { s.weala with imageA := x } }

/-- WRITE_IMAGE's own checks and work: what is written runs only once its signature has been checked. -/
def doWriteImage (s : State) (src : ReqSource) (imageB : Bool) (offset : Nat) (d : List Byte) : State :=
  if !slotFree s imageB || !decide (d.length ≤ 3840 ∧ offset + d.length ≤ 2 ^ 24) then answerReq s 3 src resArgument []
  else
    let x := getImage s.weala imageB
    let bytes := d.zipIdx.foldl (fun t e => tput 0 t (offset + e.2) e.1) x.data
    answerReq (addAuditOpen (setImage s imageB { x with signed := false, data := bytes }) 5) 3 src resOk []

/-- COMMIT_IMAGE's own checks and work: the header that the image carries, and whether Camormet's signature over it holds. -/
def doCommitImage (s : State) (src : ReqSource) (imageB : Bool) (version : Nat) (gens : BitVec 2) (signed : Bool) : State :=
  if !slotFree s imageB then answerReq s 4 src resArgument []
  else if !signed then answerReq s 4 src resSignature []
  else
    let x := getImage s.weala imageB
    answerReq (addAuditOpen (setImage s imageB { x with version := version, gens := gens, signed := true }) 5) 4 src resOk []

/-! READ_AREA and READ_LEDGER. -/

/-- Size of an area (R406). -/
def areaSize : FlashArea → Nat
  | .directory => 2 ^ 20 | .imageA => 2 ^ 24 | .imageB => 2 ^ 24 | .settings => 2 ^ 22 | .map => 2 ^ 22 | .ledgerMirror => 2 ^ 20
  | .audit => 20 * 2 ^ 20 | .factory => 2 ^ 21

/-- A settings record's 128 bytes (R408), reserved bits 0. -/
def settingBytes (r : SettingRec) : List Byte :=
  bytesOf 128 (place r.id.toNat 0 16 + place r.seq.toNat 32 32 + place r.time.toNat 64 64 + place r.quality.toNat 128 4
    + place r.value.toNat 256 256 + place r.valueC.toNat 512 256 + place r.sealWord.toNat 992 32)

/-- An audit entry's 64 bytes (R411). -/
def auditBytes (e : Audit) : List Byte :=
  let v := place e.time.toNat 0 64 + place e.quality.toNat 64 4 + place e.epoch.toNat 68 16 + place e.kind.toNat 96 16 + place e.seq.toNat 128 64
    + (e.args.take 4).zipIdx.foldl (fun n a => n + place a.1 (192 + 64 * a.2) 64) 0
  bytesOf 64 (v + place (crc32c (bytesOf 56 v)).toNat 448 32)

/-- A byte of an area; none where the spec gives the area no layout. Erased flash reads as ones (R409). -/
def areaByte (w : Weala) (a : FlashArea) (off : Nat) : Option Byte :=
  match a with
  | .imageA => if w.imageA.data.isEmpty then none else some (tget 0 w.imageA.data off)
  | .imageB => if w.imageB.data.isEmpty then none else some (tget 0 w.imageB.data off)
  | .settings =>
    match (w.records.filter fun r => r.bank == decide (2 ^ 21 ≤ off))[off % 2 ^ 21 / 128]? with
    | some r => some ((settingBytes r).getD (off % 128) 0xFF)
    | none => some 0xFF
  | .audit =>
    match w.audit.find? fun e => e.seq.toNat % 327680 == off / 64 with
    | some e => some ((auditBytes e).getD (off % 64) 0xFF)
    | none => some 0xFF
  | _ => none

/-- Bytes of an area, free values where the layout is open. -/
def areaBytes (s : State) (a : FlashArea) (off n : Nat) : State × List Byte :=
  (List.range n).foldl
    (fun r i => match areaByte s.weala a (off + i) with
      | some b => (r.1, r.2 ++ [b])
      | none => let f := freshByte r.1; (f.2, r.2 ++ [f.1])) (s, [])

def doReadArea (s : State) (src : ReqSource) (a : FlashArea) (off n : Nat) : State :=
  if n ≤ 3840 ∧ off + n ≤ areaSize a then
    let r := areaBytes s a off n
    answerReq r.1 5 src resOk r.2
  else answerReq s 5 src resArgument []

/-- READ_LEDGER: 64 bytes for each entry (R414), whose layout the spec leaves open. -/
def doReadLedger (s : State) (src : ReqSource) : State :=
  let r := (List.range (64 * s.weala.fuses.length)).foldl (fun (r : State × List Byte) _ => let f := freshByte r.1; (f.2, r.2 ++ [f.1])) (s, [])
  answerReq r.1 6 src resOk r.2

/-! Taking requests. -/

/-- A request that writes the flash, where the flash cannot be written or erased, fails with FLASH and changes nothing (R416). -/
def flashFailed (s : State) (i : Instr) (src : ReqSource) (done : State) : State :=
  if reqOp i ≤ 4 ∧ done.weala.reqResult = resOk then answerReq s (reqOp i) src resFlash [] else done

/-- What a request does that may be done. -/
def doRequest (s : State) (src : ReqSource) : Instr → State
  | .setSetting _ id v _ => doSetSetting s src id v
  | .persistMap _ m _ => doPersistMap s src m
  | .writeImage _ b off d _ => doWriteImage s src b off d
  | .commitImage _ b v g c _ => doCommitImage s src b v g c
  | .readArea _ a off n _ => doReadArea s src a off n
  | .readLedger _ _ => doReadLedger s src
  | _ => s

/-- Handle one request. -/
def serve (s : State) (i : Instr) : State :=
  match reqSource i with
  | none => s
  | some src =>
    if !authorised s i then answerReq s (reqOp i) src resAuth []
    else if (reqAuth i).flashOk then doRequest s src i
    else flashFailed s i src (doRequest s src i)

/-- A map waits while the running map changes (R44). -/
def mustWait (s : State) (i : Instr) : Bool := reqOp i == 2 && !s.changes.isEmpty

/-- Handle the requests that wait, in order, as far as they can go. -/
def serveWaiting (s : State) : Nat → State
  | 0 => s
  | n + 1 =>
    match s.weala.reqQueue with
    | [] => s
    | i :: rest => if mustWait s i then s else serveWaiting (serve { s with weala := { s.weala with reqQueue := rest } } i) n

/-- Once a change of the running map is over, the requests behind it go on. -/
def serveAll (s : State) : State := serveWaiting s s.weala.reqQueue.length

/-- A request that has been taken. -/
def takeRequest (s : State) (i : Instr) : State :=
  if !s.weala.reqQueue.isEmpty || mustWait s i then { s with weala := { s.weala with reqQueue := s.weala.reqQueue ++ [i] } } else serve s i

/-- A request arrives (R413, R425, R479): a write of MG_REQ_CMD, which a busy Weala ignores, or a message. An invalid pair is answered PAIR and
leaves OP and TOKEN of the register as they are (R17, R18). A word whose OP is another request's is not
this row's. -/
def request (s : State) (i : Instr) : State :=
  match reqSource i with
  | none => s
  | some (.mctp b _) => if bindingUp s b then takeRequest s i else s
  | some (.bar0 port v) =>
    let op := v.toNat % 256
    if !bar0Open s port true then s
    else if !s.weala.reqQueue.isEmpty then setupRefused s offReqCmd
    else if !pairOk v then answerReq s op (.bar0 port v) resPair []
    else
      let s := { s with weala := { s.weala with reqCmd := v } }
      if op = 0 ∨ 6 < op then answerReq s op (.bar0 port v) resOpcode []
      else if op ≠ reqOp i then s
      else takeRequest s i

/-- SET_SETTING (R412, R414, R415). -/
def execSetSetting (src : ReqSource) (id : BitVec 16) (value : BitVec 256) (auth : Auth) (s : State) :=
  finishFuse s (request s (.setSetting src id value auth))

/-- PERSIST_MAP (R39, R40, R44, R410). -/
def execPersistMap (src : ReqSource) (map : Option OfferedMap) (auth : Auth) (s : State) :=
  finishFuse s (request s (.persistMap src map auth))

/-- WRITE_IMAGE (R413). -/
def execWriteImage (src : ReqSource) (imageB : Bool) (offset : Nat) (data : List Byte) (auth : Auth) (s : State) :=
  finishFuse s (request s (.writeImage src imageB offset data auth))

/-- COMMIT_IMAGE (R407, R413). -/
def execCommitImage (src : ReqSource) (imageB : Bool) (version : Nat) (gens : BitVec 2) (camormetSigned : Bool) (auth : Auth) (s : State) :=
  finishFuse s (request s (.commitImage src imageB version gens camormetSigned auth))

/-- READ_AREA (R413). -/
def execReadArea (src : ReqSource) (area : FlashArea) (offset length : Nat) (auth : Auth) (s : State) :=
  finishFuse s (request s (.readArea src area offset length auth))

/-- READ_LEDGER (R413, R414). -/
def execReadLedger (src : ReqSource) (auth : Auth) (s : State) := finishFuse s (request s (.readLedger src auth))

end Sys2Proof.Machine
end

