-- ==== Sys2Proof/Machine/Grid.lean ====
section
/-!
DEFINITION. The grid of cores: the Mitten map, segment failures, cluster mode and holes (R29 to R50, R507, R508).
-/
namespace Sys2Proof.Machine
open Sys2Proof

/-! Failures in service (R41 to R44). -/

/-- Contexts with work on a core. -/
def workContexts (s : State) (c : CoreNo) : List CtxNo :=
  let co := getCore s c
  (co.slots.filterMap (fun sl => sl.2.task.map (·.ctx)) ++ (co.queue ++ co.held ++ co.palmQueue).map (·.ctx)).eraseDups

/-- A core is removed by a change of its entry (R43, R47, R193). -/
def coreRemoved (s : State) (c : CoreNo) : State := unitsLost (failFn s (fnCore c) 5 0) (tileOwner s (coreTile c))

/-- The tile's cores run descriptors. -/
def inCoreMode (s : State) (t : TileNo) : Bool := (getTile s t).mode == .core

/-- A core that its entry leaves present is READY, unless its tile is in cluster mode (R32) or a reset still clears it (R360). -/
def readyCore (s : State) (c : CoreNo) : State :=
  if corePresent s c && inCoreMode s (coreTile c) && !resettingCore s c then setFn s (fnCore c) 3 else s

/-- Segments that fail while their tile is in cluster mode wait for its return to core mode (R44). -/
def deferSegs (s : State) (c : CoreNo) (ps : List Nat) : State :=
  let x := getTile s (coreTile c)
  setTile s (coreTile c) { x with failedSegs := ps.foldl (fun m p => m ||| BitVec.ofNat 20 (2 ^ (5 * coreCluster c + p))) x.failedSegs }

/-- The cluster reset of R42 step 2 meets a platform owner's reset of the same core or cluster: they are merged (R360). -/
def mergeReset (s : State) (c : CoreNo) : State :=
  if s.resets.any fun r => decide (r.level.val ≤ 1) && r.target.toNat == c.val then
    { s with setup := { s.setup with merged := satInc s.setup.merged } }
  else s

/-- The map changes of the module, one at a time in order of detection (R44): steps 2 to 4 of the first that has begun nothing yet. A change with no
segment to test, or whose cluster is now removed, is over at once; one whose tile has entered cluster mode waits for its return. -/
def runChanges (s : State) : Nat → State
  | 0 => s
  | n + 1 =>
    match s.changes with
    | [] => s
    | m :: rest =>
      if m.step ≠ 0 then s
      else if !inCoreMode s (coreTile m.core) then runChanges (deferSegs { s with changes := rest } m.core (m.segs.map Fin.val)) n
      else
        let e := mittenEntry s m.core
        match m.segs with
        | [] => runChanges { s with changes := rest } n
        | p :: more =>
          let role := (entryLs e).findIdx? (· == p.val)
          let s := if (defectMask e).testBit p.val || clusterState e = 3 then s else writeMitten s m.core (entryWithout s m.core p.val)
          let s := { s with changes := { m with segs := more } :: rest }
          match role with
          | none => runChanges s n
          | some i =>
            let s := mergeReset (setFn (endCore s m.core stReset) (fnCore m.core) 1) m.core
            let e' := mittenEntry s m.core
            if clusterState e' = 2 then runChanges (coreRemoved s m.core) n
            else match (entryLs e')[i]? with
              | some q =>
                if q = 7 then runChanges (readyCore s m.core) n
                else { s with changes := { m with segs := more, step := 4, sub := q } :: rest }
              | none => s

/-- After a change the rings send what they held (R43), and a map that waited is persisted (R44). -/
def goChanges (s : State) : State :=
  let s' := runChanges s (2 * s.changes.length + 8)
  serveAll (if s.changes == s'.changes then s' else pumpAll s')

/-- A segment is declared defective (R41, R42 step 1): a core that uses it loses its tasks at once, and its change waits for its turn. In
cluster mode the failure waits for the return to core mode (R44). -/
def declareDefective (s : State) (c : CoreNo) (p : Fin 5) : State :=
  let e := mittenEntry s c
  if (defectMask e).testBit p.val || clusterState e = 3 then s
  else if !inCoreMode s (coreTile c) then deferSegs s c [p.val]
  else
    let s := if (entryLs e).contains p.val then
        let s := raise s { code := 0x0030, part := tileOwner s (coreTile c), tenants := true, only := some (workContexts s c)
                           args := [c.val, clusterState (entryWithout s c p.val)] }
        endCore s c stCoreFault
      else s
    goChanges { s with changes := s.changes ++ [{ core := c, segs := [p], step := 0 }] }

/-- SEGMENT_FAILURE (R41, R42, R44). -/
def execSegmentFailure (core : CoreNo) (phys : Fin 5) (s : State) :=
  finishFuse s (if isHole s (coreTile core) then s else declareDefective s core phys)

/-- SUBSTITUTE_SELFTEST_DONE (R42 steps 4 and 5, R43). -/
def execSubstituteSelftestDone (core : CoreNo) (pass : Bool) (s : State) :=
  finishFuse s <|
    match s.changes with
    | [] => s
    | m :: rest =>
      if m.core != core || m.step ≠ 4 then s
      else if pass then goChanges { readyCore s core with changes := { m with step := 0, sub := 7 } :: rest }
      else goChanges { s with changes := { m with step := 0, sub := 7, segs := Fin.ofNat 5 m.sub :: m.segs } :: rest }

/-- SPARE_SELFTEST (R42): the unused spare of each cluster of a tile in RUN is tested. -/
def execSpareSelftest (tile : TileNo) (s : State) :=
  finish s <|
    let x := getTile s tile
    if isHole s tile || !inCoreMode s tile || x.power != .run then s
    else setTile s tile { x with spareTests := (List.range 4).filter fun k => sparePhys (mittenEntry s (coreAt tile (Fin.ofNat 4 k))) != 7 }

/-- SPARE_SELFTEST_RESULT (R42): a failed spare is marked defective, and nothing else changes. -/
def execSpareSelftestResult (core : CoreNo) (pass : Bool) (s : State) :=
  finishFuse s <|
    let t := coreTile core
    let x := getTile s t
    if !x.spareTests.contains (coreCluster core) then s
    else
      let s := setTile s t { x with spareTests := x.spareTests.filter (· != coreCluster core) }
      let p := sparePhys (mittenEntry s core)
      if pass || p = 7 then s else declareDefective s core (Fin.ofNat 5 p)

/-! Cluster mode (R31 to R33, R507, R508). -/

/-- BAR0 offset of MG_DIAG_REQ's word 1 (R493). -/
def offDiagReq1 : Nat := 0x000128

/-- Every slot of the tile's cores is EMPTY (R31). -/
def tileResident (s : State) (t : TileNo) : Bool := (tileCores t).any fun c => (getCore s c).slots.any fun sl => sl.2.state != .empty

/-- The result of the last diagnostics request (R508). -/
def diagResult (s : State) (result : Nat) (first : TileNo) : State :=
  { s with setup := { s.setup with diagResult := BitVec.ofNat 3 result, diagFirst := BitVec.ofNat 6 first.val, diagBusy := false } }

/-- DIAG_REQUEST (R31, R344, R507): the conditions of R31, then the named tiles begin to enter cluster mode. The first tile that fails one is
the lowest-numbered (log 37); where it fails both, it is reported as outside the partition. Bit 79 of the register is reserved and not kept (R16). -/
def execDiagRequest (port : HostPort) (value : Word64) (s : State) :=
  finish s <|
    if !bar0Open s port true then s
    else if !pairOk value || s.setup.diagBusy then setupRefused s offDiagReq1
    else
      let v := pairVal value
      let image : Byte := BitVec.ofNat 8 v
      let token : BitVec 16 := BitVec.ofNat 16 (v / 2 ^ 16)
      let p : PartNo := Fin.ofNat 64 (bits v 8 6)
      let tiles := allTiles.filter fun t => s.setup.diagTiles.getLsb t
      let s := { s with setup := { s.setup with diagWord := mkPair (BitVec.ofNat 32 v &&& 0xFFFF7FFF), diagToken := token, diagPassed := 0 } }
      let outside := fun t : TileNo => bits v 8 7 ≥ 64 || !partHasTile s p t || isHole s t
      let part := if bits v 8 7 < 64 then some p else none
      match tiles.find? fun t => outside t || tileResident s t with
      | some t => raise (diagResult s (if outside t then 1 else 2) t) { code := 0x0033, part := part, args := [t.val] }
      | none =>
        if image == 0 || !Config.diagImage image then diagResult s 3 0
        else if tiles.isEmpty then diagResult s 0 0
        else
          let s := { s with setup := { s.setup with diagBusy := true, diagLeft := tiles, diagResult := 0, diagFirst := 0 } }
          tiles.foldl
            (fun s t =>
              let s := setTile s t { getTile s t with mode := .entering image token }
              (tileCores t).foldl (fun s c => if corePresent s c then setFn s (fnCore c) 1 else s) s) s

/-- The medium cores of a tile as its image starts (R30): every segment runs but those marked defective. -/
def mediumCores (s : State) (t : TileNo) : Tbl MediumCore :=
  (List.range 20).foldl
    (fun l i => tput {} l i { running := !(defectMask (mittenEntry s (coreAt t (Fin.ofNat 4 (i / 5))))).testBit (i % 5) }) []

/-- The image starts on the tile's medium cores (R30, R31). -/
def startImage (s : State) (t : TileNo) (image : Byte) : State :=
  setTile s t { getTile s t with mode := .cluster image, medium := mediumCores s t }

/-- The core holds nothing: it has been reset (R31, R356). -/
def coreCleared (s : State) (c : CoreNo) : Bool :=
  let co := getCore s c
  co.slots.isEmpty && co.queue.isEmpty && co.held.isEmpty && co.palmQueue.isEmpty

/-- Weala's recovery self-test is due on a tile in core mode (R31): a fault of one of its segments or clusters is to be examined, and its cores have
been reset. -/
def recoveryDue (s : State) (t : TileNo) : Bool :=
  !isHole s t && (getTile s t).power == .run && (tileCores t).all (coreCleared s)
    && (tileCores t).any fun c => changingCore s c || fnState s (fnCore c) == 4

/-- A tile enters cluster mode for recovery (R31): its changes in hand wait for the return (R44), and its cores are not ready (R32). -/
def enterRecovery (s : State) (t : TileNo) : State :=
  let mine := s.changes.filter fun m => coreTile m.core == t
  let s := mine.foldl (fun s m => deferSegs s m.core (m.segs.map Fin.val)) { s with changes := s.changes.filter fun m => coreTile m.core != t }
  let s := (tileCores t).foldl (fun s c => if corePresent s c then setFn s (fnCore c) 1 else s) s
  goChanges (startImage s t 0)

/-- CLUSTER_MODE_ENTRY (R30, R31): a tile that is entering for a diagnostics request starts its image, and one that Weala must examine after a fault
starts the recovery image. -/
def execClusterModeEntry (tile : TileNo) (s : State) :=
  finishFuse s <|
    match (getTile s tile).mode with
    | .entering image _ => startImage s tile image
    | .core => if recoveryDue s tile then enterRecovery s tile else s
    | .cluster _ => s

/-- The segments that the image has found failing, and those that failed meanwhile, applied to the tile's entries (R44). -/
def applyAtReturn (s : State) (t : TileNo) (failed : BitVec 20) : State :=
  let found := failed ||| (getTile s t).failedSegs
  let s := setTile s t { getTile s t with failedSegs := 0 }
  (List.finRange 4).foldl
    (fun s k =>
      let c := coreAt t k
      let new := (List.range 5).filter fun p => found.toNat.testBit (5 * k.val + p) && !(defectMask (mittenEntry s c)).testBit p
      if new.isEmpty then s else writeMitten s c (entryWithoutAll s c new)) s

/-- A tile returns to core mode (R33): its cluster memories and operand stores are zeroed, then its cores report ready or absent. -/
def returnTile (s : State) (t : TileNo) (failed : BitVec 20) : State :=
  let s := applyAtReturn s t failed
  let s := zeroRange s (cmemBase (coreAt t 0)) (2 ^ 30)
  let s := setTile s t { getTile s t with mode := .core, medium := [] }
  (tileCores t).foldl
    (fun s c =>
      let s := setCore s c { getCore s c with slots := tmap {} (fun _ sl => { sl with compute := [], transfer := [] }) (getCore s c).slots }
      if corePresent s c then readyCore s c
      else if fnState s (fnCore c) == 5 then s else coreRemoved s c) s

/-- A tile of a diagnostics run has returned: it is out of the run, which ends with the last (R508). -/
def diagReturned (s : State) (t : TileNo) (passed : Bool) : State :=
  let u := s.setup
  let left := u.diagLeft.filter (· != t)
  if !u.diagLeft.contains t then s
  else { s with setup := { u with
    diagLeft := left, diagBusy := !left.isEmpty, diagResult := 0
    diagPassed := if passed then u.diagPassed ||| BitVec.ofNat 64 (2 ^ t.val) else u.diagPassed } }

/-- CLUSTER_MODE_RETURN (R33, R508): an image ends on a tile, with the segments that failed. -/
def execClusterModeReturn (tile : TileNo) (failed : BitVec 20) (s : State) :=
  finishFuse s <|
    match (getTile s tile).mode with
    | .cluster _ =>
      let passed := (List.finRange 20).all fun i =>
        !failed.toNat.testBit i.val || (defectMask (mittenEntry s (coreAt tile (Fin.ofNat 4 (i.val / 5))))).testBit (i.val % 5)
      serveAll (pumpAll (diagReturned (returnTile s tile failed) tile passed))
    | _ => s

/-- A reset ends a diagnostics run (R508): its tiles return to core mode. -/
def abortDiag (s : State) : State :=
  if !s.setup.diagBusy then s
  else
    let left := s.setup.diagLeft
    let s := left.foldl (fun s t => if inCoreMode s t then s else returnTile s t 0) s
    { s with setup := { s.setup with diagBusy := false, diagResult := 4, diagLeft := [] } }

/-- Segments declared defective whose change is still waiting keep their defect when the changes in hand are dropped (R40). -/
def applyPending (s : State) : State :=
  let s := s.changes.foldl (fun s m => deferSegs s m.core (m.segs.map Fin.val)) { s with changes := [] }
  allTiles.foldl (fun s t => if (getTile s t).failedSegs == 0 then s else applyAtReturn s t 0) s

/-! Holes (R48). -/

/-- A hole's cores and station end what they have (R48). -/
def holeEnds (s : State) (t : TileNo) : State := endStation ((tileCores t).foldl (fun s c => endCore s c stCoreFault) s) t stCoreFault

/-- The tile is a hole: no change, packet, burst or diagnostics run has it, and the escape tables are computed anew (R48, R151). -/
def holeMarked (s : State) (t : TileNo) : State :=
  let s := { s with
    holes := s.holes ||| BitVec.ofNat 64 (2 ^ t.val)
    changes := s.changes.filter fun m => coreTile m.core != t
    packets := s.packets.filter fun p => p.here != t
    bursts := s.bursts.filter fun b => b.here != t
    escapeLoading := true
    setup := { s.setup with diagLeft := s.setup.diagLeft.filter (· != t), diagBusy := s.setup.diagBusy && s.setup.diagLeft != [t] } }
  setTile s t { getTile s t with mode := .core, medium := [], failedSegs := 0, nodes := [], spareTests := [] }

/-- A cluster of a hole is absent (R48). -/
def holeCluster (s : State) (c : CoreNo) : State :=
  let e := mittenEntry s c
  failFn (writeMitten s c (entryOf [7, 7, 7, 7] 7 3 (defectMask e) (bankFail e))) (fnCore c) 5 0

/-- What hangs on the hole is lost with it: SRAM, stacks, expansion port, host port (R48). -/
def holeUnits (s : State) (t : TileNo) : State :=
  let s := (tileStacks t).foldl (fun s k => withdrawStack s k 4) (failFn s (fnSram t) 5 0)
  let s := match tilePort t with | some p => withdrawPort s p 4 | none => s
  match tileHost t with
  | some p => failFn (setHp s p { getHp s p with linkUp := false, ats := [] }) (fnHost p) 5 0
  | none => s

/-- A partition whose corner tile is the hole loses its coordinator (R341). -/
def holeCorner (s : State) (t : TileNo) (owner : Option PartNo) : State :=
  match owner with
  | some p => if cornerTile (getPart s p) == t then endCoordinator s p stCore else s
  | none => s

/-- A tile becomes a hole: its cores, SRAM, stacks, ports and station are lost, and the escape tables are computed anew (R48, R151, R341). -/
def makeHole (s : State) (t : TileNo) : State :=
  if isHole s t then s
  else
    let owner := tileOwner s t
    let s := holeUnits ((tileCores t).foldl holeCluster (holeMarked (holeEnds s t) t)) t
    goChanges (unitsLost (holeCorner s t owner) owner)

/-- TILE_HOLE (R48). -/
def execTileHole (tile : TileNo) (cause : HoleCause) (s : State) :=
  finishFuse s <| match cause with
    | .router | .seam | .vddl | .selfTest => makeHole s tile

end Sys2Proof.Machine
end

