-- ==== Sys2Proof/Machine/TilePower.lean ====
section
/-!
DEFINITION. A tile's power state and its events: what resets, power states, heat and interlocks share (R441, R455).
-/
namespace Sys2Proof.Machine
open Sys2Proof

/-- STATE as TL_PW_STATUS codes it (R441). -/
def stateCode : PState → Nat
  | .run => 0 | .idle => 1 | .nap => 2 | .doze => 3 | .off => 4 | .entering => 5 | .waking => 6 | .claspHeld => 7

/-- STATE as it shows: a tile in RUN none of whose slots holds anything is IDLE (R441). -/
def shownState (s : State) (t : TileNo) : Nat :=
  let x := getTile s t
  if x.power == .run && !tileResident s t then 1 else stateCode x.power

/-- TILE_STATE (R455). -/
def tileStateEvent (s : State) (t : TileNo) (old new cause : Nat) : State :=
  raise s { code := 0x0060, part := tileOwner s t, tenants := true, args := [t.val, old, new, cause] }

/-- A tile goes to a state, and says so. -/
def toState (s : State) (t : TileNo) (p : PState) (cause : Nat) : State :=
  let old := shownState s t
  let s := setTile s t { getTile s t with power := p }
  tileStateEvent s t old (shownState s t) cause

/-- A wake request reaches a tile in NAP (R176, R444): it returns to RUN, but for a thermal NAP, in which the request stays pending (R450). -/
def wakeNap (s : State) (t : TileNo) : State :=
  let x := getTile s t
  if x.power == .nap && !x.thermal then toState s t .run 0 else s

/-- CLOCK_WAKE (R176): the stopped clock domain of a tile's cores restarts. -/
def execClockWake (tile : TileNo) (s : State) := finish s (wakeNap s tile)

/-! Crossings into a tile's CK_CORE (R174, R176, R444): tag completions and swaps wake a tile in NAP. A tag's completion is the fabric's business and
goes on in a thermal NAP (R450); a swap waits for the clock. -/

/-- A fetch tag, or a store tag, of the slot has had its last response. -/
def fetchDue (sl : Slot) (tag : Nat) : Bool := sl.fetchTags.any fun f => f.tag == tag && f.left == 0
def storeDue (sl : Slot) (tag : Nat) : Bool := sl.storeTags.any fun f => f.tag == tag && f.left == 0

/-- FETCH_TAG_COMPLETE (R92): every packet of a fetch tag has landed. -/
def execFetchTagComplete (core : CoreNo) (slot : SlotNo) (tag : Nat) (s : State) :=
  finish s (if fetchDue (getSlot s core slot) tag then fetchLanded (wakeNap s (coreTile core)) core slot tag else s)

/-- STORE_TAG_COMPLETE (R92, R94). -/
def execStoreTagComplete (core : CoreNo) (slot : SlotNo) (tag : Nat) (s : State) :=
  finish s (if storeDue (getSlot s core slot) tag then storeDone (wakeNap s (coreTile core)) core slot tag else s)

/-- SWAP_COMPLETE (R88, R90). -/
def execSwapComplete (core : CoreNo) (slot : SlotNo) (s : State) :=
  finish s <|
    if !swapDue (getCore s core) slot then s
    else
      let s := wakeNap s (coreTile core)
      if clockStopped s core then s else swapDone s core slot

/-- The tile that a function stands on (R404, R24). -/
def fnTile (f : Nat) : Option TileNo :=
  if f < 2 then none
  else if f < 66 then some (Fin.ofNat 64 (f - 2))
  else if f < 98 then some (stackTile (Fin.ofNat 32 (f - 66)))
  else if f < 106 then some (portTile (Fin.ofNat 8 (f - 98)))
  else if f < 110 then some (hostTile (Fin.ofNat 4 (f - 106)))
  else if f < 366 then some (coreTile (Fin.ofNat 256 (f - 110)))
  else none

/-- A function can start: it does not stand on a hole or on a tile that is out of the fabric. -/
def fnStarts (s : State) (f : Nat) : Bool := match fnTile f with | some t => !tileOut s t | none => true

/-- The domains that a tile has (R430): VDDL, VDDA, VDDM on an edge tile, VDDX on a tile with a port. -/
def tileDomains (t : TileNo) : BitVec 4 :=
  3 ||| (if (tileStacks t).isEmpty then 0 else 4) ||| (if (tilePort t).isSome || (tileHost t).isSome then 8 else 0)

end Sys2Proof.Machine
end

