-- ==== Sys2Proof/Machine/Resets.lean ====
section
/-!
DEFINITION. Resets (R356 to R360, R364, R365): a request marks its units at step 1, RESET_DRAIN_END is step 4, RESET_CLEAR_DONE step 6.
-/
namespace Sys2Proof.Machine
open Sys2Proof

/-- BAR0 offset of PT_RESET (R496). -/
def offPtReset : Nat := 0x3000C0

/-- The tiles and cores that a reset covers. -/
def resetTiles (s : State) (level : Fin 4) (target : Byte) : List TileNo :=
  match level with
  | 0 | 1 => [coreTile (Fin.ofNat 256 target.toNat)]
  | 2 => partTiles s (Fin.ofNat 64 target.toNat)
  | 3 => allTiles
def resetCores (s : State) (level : Fin 4) (target : Byte) : List CoreNo :=
  match level with
  | 0 | 1 => [Fin.ofNat 256 target.toNat]
  | 2 | 3 => (resetTiles s level target).flatMap tileCores

/-- The target exists (R364). -/
def resetTargetOk (s : State) (level : Fin 4) (target : Byte) : Bool :=
  match level with
  | 0 | 1 => !isHole s (coreTile (Fin.ofNat 256 target.toNat))
  | 2 => decide (target.toNat < 64) && (getPart s (Fin.ofNat 64 target.toNat)).valid
  | 3 => target == 0

/-- What a reset of one level and target covers takes in another's (R360). -/
def resetInside (s : State) (level : Fin 4) (target : Byte) (outer : Fin 4) (outerTarget : Byte) : Bool :=
  decide (level ≤ outer) &&
    (match outer with
     | 3 => true
     | 2 => if level = 2 then target == outerTarget else partHasTile s (Fin.ofNat 64 outerTarget.toNat) (coreTile (Fin.ofNat 256 target.toNat))
     | 0 | 1 => target == outerTarget)

/-- Traffic of the reset's units that is outstanding (R357): their fetch and store tags, the chunks of a REDUCE, a STREAM's bursts. -/
def outstandingTraffic (s : State) (r : Reset) : Bool :=
  (resetCores s r.level r.target).any (fun c =>
    !(getCore s c).cancelled.isEmpty
      || (getCore s c).slots.any fun e => !e.2.fetchTags.isEmpty || !e.2.storeTags.isEmpty || e.2.adding.isSome || decide (0 < e.2.outstanding))
  || (decide (2 ≤ r.level) && (resetTiles s r.level r.target).any fun t => (getTile s t).station.running.isSome)

/-- The step at which a new reset begins: that of the least advanced reset which it takes over, but for a module reset, which takes over at once
and drains from step 1 (R360, log 39). -/
def takenStep (level : Fin 4) (inside : List Reset) : Nat :=
  match inside with
  | [] => 1
  | r :: more => if level = 3 then 1 else more.foldl (fun n x => min n x.step) r.step

/-- Take over the running resets inside a new one (R360). -/
def takeOver (s : State) (level : Fin 4) (target : Byte) (immediate : Bool) : State :=
  let inside := s.resets.filter fun r => resetInside s r.level r.target level target
  let rest := s.resets.filter fun r => !resetInside s r.level r.target level target
  { s with
    resets := rest ++ [{ level := level, target := target, step := takenStep level inside, immediate := immediate, inner := (inside.map fun r => 1 + r.inner).sum }]
    setup := { s.setup with resetLevel := BitVec.ofNat 2 level.val, resetTarget := target } }

/-- Step 1: the units are marked; their functions are RUNNING (R405); a requested NAP is over (R454). A module reset takes MOD_READY away (R401). -/
def beginReset (s : State) (level : Fin 4) (target : Byte) (immediate : Bool) : State :=
  let s := takeOver s level target immediate
  let s := (resetTiles s level target).foldl wakeNap s
  let s := (resetCores s level target).foldl (fun s c => if fnReady s (fnCore c) then setFn s (fnCore c) 1 else s) s
  if level = 3 then
    let s := (List.range 366).foldl (fun s i => if fnStarts s (i + 1) then setFn s (i + 1) 1 else s) s
    { s with pw := { s.pw with modReady := false } }
  else s

/-- A partition's units other than its cores end what they have (R356), its Palm slots close (R226), its segment self-tests and a diagnostics run of
its tiles end (R508). Its collectives have closed before its cores ended (`closeColls`). -/
def clearPart (s : State) (p : PartNo) : State :=
  let tiles := partTiles s p
  let s := if s.setup.diagLeft.any (partHasTile s p) then abortDiag s else s
  let s := tiles.foldl (fun s t => endStation s t stReset) s
  let s := endCoordinator (endPartCuffs s p stReset) p stReset
  let s := tiles.foldl (fun s t => setTile s t { getTile s t with nodes := [], spareTests := [] }) s
  let mine (n : Nat) : Bool := cuffOwner s (Fin.ofNat 40 n) == some p
  let s := { s with cuffs := tmap {} (fun n c => if mine n then { c with roots := [], discarded := [] } else c) s.cuffs }
  { s with palms := s.palms.filter fun e => !partHasTile s p (coreTile (Fin.ofNat 256 (e.1 / 16))) }

/-- The open collectives of a partition under reset end for every member with the reset status (R193, R356). -/
def closeColls (s : State) (p : PartNo) : State := (getPart s p).colls.foldl (fun s x => endColl s x.first x stReset) s

/-- Step 5: the clearing of R356, short of a module reset's. -/
def clearUnits (s : State) (r : Reset) : State :=
  let s := if r.level = 2 then closeColls s (Fin.ofNat 64 r.target.toNat) else s
  let s := (resetCores s r.level r.target).foldl (fun s c => endCore s c stReset) s
  match r.level with
  | 0 => s
  | 1 =>
    let c : CoreNo := Fin.ofNat 256 r.target.toNat
    let t := coreTile c
    setTile s t { getTile s t with spareTests := (getTile s t).spareTests.filter (· != coreCluster c) }
  | 2 => clearPart s (Fin.ofNat 64 r.target.toNat)
  | 3 => s

/-- Step 6: the units are ready again, the commits held for them are taken (R420), and the rings send what they held (R359). -/
def endReset (s : State) (r : Reset) : State :=
  let s := clearUnits s r
  let s := { s with
    resets := s.resets.erase r
    setup := { s.setup with resetCount := satAdd s.setup.resetCount (1 + r.inner) } }
  let s := (resetCores s r.level r.target).foldl
    (fun s c =>
      if fnState s (fnCore c) == 1 && corePresent s c && !changingCore s c && inCoreMode s (coreTile c) then setFn s (fnCore c) 3 else s) s
  pumpAll (if r.level = 2 then releaseCommits s (Fin.ofNat 64 r.target.toNat) else s)

/-! The module's own reset. -/

/-- A tile after a module reset: its power board keeps what is switched on, held and measured; sensors and faults are judged afresh (R435, R447,
R488). A tile in DOZE, OFF or between them stays there. -/
def resetTile (x : Tile) : Tile :=
  { power := match x.power with | .doze => .doze | .off => .off | .waking => .waking | .claspHeld => .claspHeld | _ => .run
    clasped := x.clasped, claspFault := x.claspFault, domainsUp := x.domainsUp, ramping := x.ramping, rampHeld := x.rampHeld
    goal := x.goal, fromState := x.fromState, retained := x.retained, senseLost := x.senseLost, vddlCurrent := x.vddlCurrent
    visorHist := x.visorHist, visorLast := x.visorLast }

/-- Every unit but Weala and the time base at its reset values (R356, R367, R488). The running Mitten map and the holes stand (R40), memory stands
until it is written with zeros, and the pins keep the platform's levels. -/
def clearedUnits (s : State) : State :=
  { pending := s.pending, freeCtr := s.freeCtr, taskCtr := s.taskCtr, mem := s.mem, poison := s.poison, liners := s.liners
    tiles := tmap {} (fun _ x => resetTile x) s.tiles
    hports := tmap {} (fun _ (h : HPort) => { perstReleased := h.perstReleased }) s.hports
    xports := tmap {} (fun _ (x : XPort) => { withdrawn := x.withdrawn && x.cause == 4, cause := if x.cause == 4 then 4 else 0 }) s.xports
    hbm := tmap {} (fun _ (x : Stack) => { withdrawn := x.withdrawn && x.cause == 4, cause := if x.cause == 4 then 4 else 0 }) s.hbm
    mitten := s.mitten, holes := s.holes, gradeStored := s.gradeStored
    fns := s.fns, tb := s.tb, weala := s.weala, msix := s.msix
    pw := { s.pw with limit := BitVec.ofNat 9 (settingValue s 3), busMin := 470, throttleC := 95, hystC := 5, alertC := 100 } }

/-- Cores end what they have with the reset status. -/
def resetCoresAt (l : List CoreNo) (s : State) : State := l.foldl (fun s c => endCore s c stReset) s

/-- The partitions' units, and what the rings have read and not sent, end with the reset status. -/
def resetRest (s : State) : State :=
  let s := (s.parts.map fun e => (Fin.ofNat 64 e.1 : PartNo)).foldl clearPart s
  let queued := s.rings.flatMap fun e => e.2.sendQueue
  queued.foldl (fun s t => complete s t stReset)
    { s with rings := tmap {} (fun _ r => { r with sendQueue := [] }) s.rings }

/-- Everything ends with the reset status (R356): the cores, the partitions' units and what the rings have read and not sent. -/
def endEverything (s : State) : State :=
  resetRest (resetCoresAt (List.finRange 256) ((s.parts.map fun e => (Fin.ofNat 64 e.1 : PartNo)).foldl closeColls s))

/-- A module reset records itself (R365), and the abort of a diagnostics run that it ended stands with that run's token (R508). -/
def moduleRest (aborts : Bool) (s : State) : State :=
  let u := s.setup
  serveAll { clearedUnits s with setup :=
      { resetLevel := 3, resetTarget := 0, resetCount := 1, abandoned := u.abandoned, drain := u.drain
        diagResult := if aborts then 4 else 0, diagToken := if aborts then u.diagToken else 0, diagPassed := if aborts then u.diagPassed else 0 } }

/-- A module reset ends at step 4 (R357). Start-up goes on from clocks and fabric; segments declared defective stay so (R40). -/
def moduleCleared (s : State) : State := moduleRest s.setup.diagBusy (applyPending (endEverything s))

/-- Step 4: what is outstanding is abandoned; a module reset is over with it. -/
def drainEnd (s : State) (r : Reset) (drain : BitVec 16) : State :=
  let s := { s with
    resets := s.resets.map fun x => if x == r then { r with step := 5 } else x
    setup := { s.setup with abandoned := outstandingTraffic s r, drain := drain } }
  if r.level = 3 then moduleCleared s else s

/-! The rows. -/

/-- A reset of a core or cluster on a tile in DOZE or OFF has nothing to drain, and the next wake clears it (R454). -/
def powerHeld (s : State) (level : Fin 4) (target : Byte) : Bool :=
  decide (level ≤ 1) && (match (getTile s (coreTile (Fin.ofNat 256 target.toNat))).power with
    | .doze | .off | .waking | .claspHeld => true
    | _ => false)

/-- The core is being replaced (R42), so Weala's cluster reset has it: a platform owner's reset of the core or cluster is merged (R360). -/
def replacing (s : State) (level : Fin 4) (target : Byte) : Bool := decide (level ≤ 1) && changingCore s (Fin.ofNat 256 target.toNat)

/-- A write of PT_RESET (R364); its reserved bits are not kept (R16). -/
def resetWrite (port : HostPort) (value : Word64) (s : State) : State :=
  if !bar0Open s port false then s
  else
    let v := pairVal value
    let level : Fin 4 := Fin.ofNat 4 (bits v 8 2)
    let target : Byte := BitVec.ofNat 8 v
    if !pairOk value || !resetTargetOk s level target then setupRefused s offPtReset
    else
      let s := { s with setup := { s.setup with reset := mkPair (BitVec.ofNat 32 (v % 2 ^ 11)) } }
      if (s.resets.any fun r => resetInside s level target r.level r.target) || replacing s level target then
        { s with setup := { s.setup with merged := satInc s.setup.merged } }
      else
        let s := beginReset s level target (v.testBit 10)
        match s.resets.getLast? with
        | none => s
        | some r =>
          if powerHeld s level target then endReset (drainEnd s r 0) { r with step := 5 }
          else if r.immediate || r.step == 5 then drainEnd s r 0 else s

/-- CORE_RESET (R356, R364). -/
def execCoreReset (port : HostPort) (value : Word64) (s : State) := finishFuse s (resetWrite port value s)

/-- CLUSTER_RESET (R356, R364): the same register write. -/
def execClusterReset (port : HostPort) (value : Word64) (s : State) := finishFuse s (resetWrite port value s)

/-- PARTITION_RESET (R356, R364): the same register write. -/
def execPartitionReset (port : HostPort) (value : Word64) (s : State) := finishFuse s (resetWrite port value s)

/-- MODULE_RESET (R356, R364): the same register write. -/
def execModuleReset (port : HostPort) (value : Word64) (s : State) := finishFuse s (resetWrite port value s)

/-- RESET_DRAIN_END (R357, step 4): after the time that the row says, in units of 100 ns. -/
def execResetDrainEnd (level : Fin 4) (target : Byte) (drain100ns : BitVec 16) (s : State) :=
  finishFuse s <|
    match s.resets.find? fun r => r.level == level && r.target == target && decide (r.step < 4) with
    | none => s
    | some r => drainEnd s r drain100ns

/-- RESET_CLEAR_DONE (R357, steps 5 and 6). On a tile in a thermal NAP step 5 waits for the end of the NAP (R454). -/
def execResetClearDone (level : Fin 4) (target : Byte) (s : State) :=
  finish s <|
    match s.resets.find? fun r => r.level == level && r.target == target && r.step == 5 with
    | none => s
    | some r =>
      if (resetTiles s level target).any fun t => (getTile s t).power == .nap && (getTile s t).thermal then s else endReset s r

end Sys2Proof.Machine
end

