-- ==== Sys2Proof/Machine/MainPower.lean ====
section
/-!
DEFINITION. Main power as a whole: the interlocks before it, shutdowns, and the pins that go with them (R397, R427, R452, R453, R466 to R472).
-/
namespace Sys2Proof.Machine
open Sys2Proof

/-! Before main power (R397, R470). -/

/-- Step 2: Weala is ready and asks for coolant flow; step 3: with coolant it asks the shelf for its busbars, and without it waits. -/
def advanceInterlocks (s : State) : State :=
  let p := s.pw
  let p := if p.stage == .off && s.weala.running && !s.weala.recovery && !p.needPwrEnCycle then
      { p with stage := .waitCoolant, pumpReq := true, pumpHold := false } else p
  let p := if p.stage == .waitCoolant && p.coolantOk then { p with stage := .waitMain, shelfEn := true }
    else if p.stage == .waitMain && !p.coolantOk then { p with stage := .waitCoolant, shelfEn := false }
    else p
  { s with pw := p }

/-! Main power off (R453, R471). -/

/-- What the wafer and the stacks hold is gone; what hosts and expansion devices hold stands. -/
def keepOutside (s : State) : State :=
  { s with mem := s.mem.filter fun c => decide (2 ^ 53 ≤ c.1), poison := s.poison.filter fun e => decide (2 ^ 53 ≤ e.1 * 64), writeback := [] }

/-- Main conversion stops: no unit holds anything, the running map is forgotten (R40), CK_TB stands (R367), MOD_READY and SHELF_EN fall, and
PUMP_REQ stays for its 60 s. -/
def mainOff (s : State) (cycle : Bool) : State :=
  let s := keepOutside s
  serveAll
  { pending := s.pending, freeCtr := s.freeCtr, mem := s.mem, poison := s.poison, msix := s.msix, gradeStored := s.gradeStored
    hports := tmap {} (fun _ (h : HPort) => { perstReleased := h.perstReleased }) s.hports
    fns := s.fns.filter fun e => e.1 == 0
    weala := { s.weala with vdmOut := [] }
    pw := { aux := s.pw.aux, pwrEn := s.pw.pwrEn, coolantOk := s.pw.coolantOk, vA := s.pw.vA, vB := s.pw.vB
            pumpReq := s.pw.pumpReq, pumpHold := s.pw.pumpReq, needPwrEnCycle := cycle } }

/-- A shutdown with main power on (R453): its audit entry, SHUTDOWN_PENDING where there is time, then power off. The time of power-off that the
event announces is open within its bound. -/
def shutdown (s : State) (cause : Nat) (orderly : Bool) : State :=
  if s.pw.stage != .main then s
  else
    let s := addAudit { s with pw := { s.pw with modReady := false } } 9 [cause]
    let s := if orderly then
        let (w, s) := freshWord s
        raise (platformMessage s 70 4) { code := 0x0068, everyone := true, args := [cause, w.toNat] }
      else s
    mainOff s true

/-- Weala is down (R472): the flash and the fuses stand, all else is lost, and every output is at its reset level (R482). -/
def wealaDown (s : State) (cause : Nat) : State :=
  let s := { s with weala := { s.weala with reqQueue := [] } }
  let s := if s.pw.stage == .main then mainOff s false else s
  let w := s.weala
  { s with
    fns := []
    weala := { stopCause := cause, bootB := w.bootB, imageA := w.imageA, imageB := w.imageB, records := w.records, recordSeq := w.recordSeq
               activeBank := w.activeBank, mapA := w.mapA, mapB := w.mapB, mirror := w.mirror, fuses := w.fuses, audit := w.audit
               auditSeq := w.auditSeq }
    pw := { aux := s.pw.aux, pwrEn := s.pw.pwrEn, coolantOk := s.pw.coolantOk, vA := s.pw.vA, vB := s.pw.vB } }

/-! The rows. -/

/-- The time base after a row that may stop main power: CK_TB stands with it (R367). -/
def tbAfter (s t : State) : TimeBase := if s.pw.stage == .main && t.pw.stage != .main then {} else s.tb

/-- The outcome of such a row. -/
def finishMain (s t : State) : Host.Outcome State Fault Refusal := finishPower s (tbAfter s t) t

/-- UNDERVOLTAGE_SHUTDOWN (R453): the bus has stayed below 44.0 V for 5 ms. -/
def execUndervoltageShutdown (s : State) := finishMain s (shutdown s 1 false)

/-- OVERVOLTAGE_SHUTDOWN (R453): the bus has stayed above 60.0 V for 100 µs. -/
def execOvervoltageShutdown (s : State) := finishMain s (shutdown s 2 false)

/-- COOLANT_OK_ASSERT (R397, R452): start-up proceeds; in service, the ticks release the tiles. -/
def execCoolantOkAssert (s : State) :=
  finish s <|
    let back := s.pw.stage == .main && s.pw.coolantLost
    let s := { s with pw := { s.pw with coolantOk := true, coolantLost := false } }
    if back then raise s { code := 0x0065, everyone := true, args := [1] } else advanceInterlocks s

/-- COOLANT_LOSS (R452): in service every ceiling drops to 0.40 GHz at once; before main power Weala goes back a step (R470). -/
def execCoolantLoss (s : State) :=
  finish s <|
    if !s.pw.coolantOk then s
    else
      let s := { s with pw := { s.pw with coolantOk := false } }
      if s.pw.stage == .main then
        let s := allTiles.foldl (fun s t => setTile s t { getTile s t with ceil := 16 }) { s with pw := { s.pw with coolantLost := true } }
        raise s { code := 0x0065, everyone := true, args := [0] }
      else advanceInterlocks s

/-- COOLANT_TIMEOUT (R452): no coolant for 2 s. -/
def execCoolantTimeout (s : State) := finishMain s (if s.pw.coolantLost then shutdown s 3 true else s)

/-- PWR_EN_ASSERT (R397, R453): main power is permitted; after a shutdown it starts again from step 2. -/
def execPwrEnAssert (s : State) :=
  finish s (if s.pw.pwrEn then s else advanceInterlocks { s with pw := { s.pw with pwrEn := true, needPwrEnCycle := false } })

/-- PWR_EN_DEASSERT (R453). -/
def execPwrEnDeassert (s : State) :=
  finishMain s (if s.pw.pwrEn then shutdown { s with pw := { s.pw with pwrEn := false } } 4 true else s)

/-- AUX_LOSS (R472, R453): Weala resets itself, and main power stops with it. -/
def execAuxLoss (s : State) :=
  finishMain s <|
    let t := wealaDown s 5
    { t with pw := { t.pw with aux := false } }

/-- WATCHDOG_EXPIRY (R472). R453 numbers no cause for it: what the next START entry carries is open. -/
def execWatchdogExpiry (s : State) :=
  finishMain s <|
    if !s.weala.running then s
    else let (b, s) := freshByte s; wealaDown s b.toNat

/-- PUMP_HOLD_EXPIRY (R452): 60 s after a shutdown. -/
def execPumpHoldExpiry (s : State) :=
  finish s (if s.pw.pumpHold then { s with pw := { s.pw with pumpHold := false, pumpReq := false } } else s)

end Sys2Proof.Machine
end

