-- ==== Sys2Proof/Machine/Startup.lean ====
section
/-!
DEFINITION. Start-up (R38, R397 to R405, R407, R409, R410, R414): Weala, main power, the fabric, and each function's own outcome.
-/
namespace Sys2Proof.Machine
open Sys2Proof

/-! Weala (R398, R407, R409, R410, R414). -/

/-- A settings record that is not valid is skipped and reported (R409): its flash offset, its ID, the SEQ of the record used instead. -/
def reportInvalid (s : State) : State :=
  let bank (b : Bool) : List (SettingRec × Nat) := (s.weala.records.filter fun r => r.bank == b).zipIdx
  (bank false ++ bank true).foldl
    (fun s e =>
      if recordValid e.1 then s
      else
        let used := match latestRecord s.weala e.1.id.toNat with | some r => r.seq.toNat | none => 0
        raise (addAuditOpen s 8)
          { code := 0x0074, args := [0x2100000 + (if e.1.bank then 2 ^ 21 else 0) + 128 * e.2, e.1.id.toNat, used] }) s

/-- The latest ledger entry of a limited setting (R414). -/
def latestChange (w : Weala) (id : Nat) : Option LedgerEntry := (w.fuses.filter fun e => e.id.toNat == id).getLast?

/-- The ledger decides a limited setting (R414): a record that differs is rewritten from it, and so is the mirror. -/
def repairLedger (s : State) : State :=
  let fix (s : State) (id : Nat) : State :=
    match latestChange s.weala id with
    | none => s
    | some e =>
      let stale := match latestRecord s.weala id with | some r => r.value != e.value | none => true
      let lag := !s.weala.mirror.contains e
      if stale || lag then
        let s := if stale then writeRecord s id e.value else s
        raise (addAuditOpen s 7) { code := 0x0076, args := [id, e.index] }
      else s
  let s := [1, 2, 3, 4, 5].foldl fix s
  { s with weala := { s.weala with mirror := s.weala.fuses } }

/-- The settings as the records leave them (R409). -/
def loadSettings (s : State) : State :=
  let put (t : Tbl (BitVec 256)) (id : Nat) : Tbl (BitVec 256) :=
    match latestRecord s.weala id with
    | some r => tput (BitVec.ofNat 256 (settingDefault id)) t id r.value
    | none => t
  { s with weala := { s.weala with settings := settingIds.foldl put [] } }

/-- A boot image may run (R407): Camormet's signature holds, and it supports the generation. -/
def imageRuns (x : Image) (gen : Nat) : Bool := x.signed && x.gens.toNat.testBit (gen - 1)

/-- The image that Weala takes, as its slot (R407). -/
def pickImage (w : Weala) (gen : Nat) : Option Bool :=
  match imageRuns w.imageA gen, imageRuns w.imageB gen with
  | true, true => some (decide (w.imageA.version < w.imageB.version))
  | true, false => some false
  | false, true => some true
  | false, false => none

/-- The stored map is the copy that the ledger names, or that is reported (R410). -/
def reportMap (s : State) : State :=
  let n := changesMade s.weala 2
  let good := match storedMap s.weala with | some m => m.generation == n | none => false
  if good then s
  else raise (addAuditOpen s 8) { code := 0x0074, args := [0x2500000, 2, match storedMap s.weala with | some m => m.generation | none => 0] }

/-- BOOT_FALLBACK (R407): an image that may not run is passed over. Its reason has no numbers in the spec. -/
def reportFallback (s : State) (useB : Bool) (gen : Nat) : State :=
  if imageRuns (getImage s.weala (!useB)) gen then s
  else
    let r := freshWord s
    raise r.2 { code := 0x0075, args := [if useB then 1 else 0, if useB then 0 else 1, r.1.toNat] }

/-- WEALA_START (R398, R403): Weala boots, reads its settings, ledger and map, and picks a boot image; without one it stays in the recovery state. -/
def execWealaStart (s : State) :=
  finish s <|
    if s.weala.running then s
    else
      let s := { s with pw := { s.pw with aux := true }, weala := { s.weala with running := true, recovery := false } }
      let s := loadSettings (repairLedger (reportInvalid (addAudit s 1 [s.weala.stopCause])))
      let gen := settingValue s 0x11
      let s := reportMap { s with weala := { s.weala with level := settingValue s 1, generation := gen } }
      let s := { s with gradeStored := match storedMap s.weala with | some m => m.grade | none => 0 }
      let s := setFn s fnWeala 3
      match pickImage s.weala gen with
      | none => { s with weala := { s.weala with recovery := true } }
      | some useB => advanceInterlocks (addAuditOpen (reportFallback { s with weala := { s.weala with bootB := useB } } useB gen) 6)

/-! Main power and the fabric (R397, R398, R402, R434). -/

/-- The running map before the core step: the stored entries; without a stored map, words that are not consistent (R38, R410). -/
def loadedMap (w : Weala) : Tbl Word64 :=
  match storedMap w with
  | some m => m.entries
  | none => (List.range 256).map fun c => (c, 0)

/-- The tiles that the map gives as holes (R36). -/
def mapHoles (m : Tbl Word64) : BitVec 64 :=
  BitVec.ofNat 64 ((allTiles.map fun t =>
    if (tileCores t).all fun c => entryConsistent (tget mittenFull m c.val) && clusterState ((tget mittenFull m c.val).extractLsb' 0 32) == 3
    then 2 ^ t.val else 0).sum)

/-- MAIN_POWER_START (R397, R402, R367): t_main. The tiles' domains begin to ramp, and CK_TB starts from 0. -/
def execMainPowerStart (s : State) :=
  if s.pw.stage == .waitMain && s.pw.pwrEn && s.pw.coolantOk && s.weala.running then
    let m := loadedMap s.weala
    let tb : TimeBase := { running := true, prefer := settingValue s 4 == 1 }
    let t := { s with
      mitten := m, holes := mapHoles m
      tiles := allTiles.foldl (fun l t => tput {} l t.val { ramping := tileDomains t }) []
      pw := { s.pw with stage := .main, limit := BitVec.ofNat 9 (settingValue s 3), busMin := 470, throttleC := 95, hystC := 5, alertC := 100 }
      tb := tb }
    finishTime s tb (setFn t fnFabric 1)
  else finishTime s s.tb s

/-- A stack or a port of a hole is withdrawn at start-up (R48, R278, R279, R298). -/
def lostStack (s : State) (k : StackNo) : State :=
  let s := raise (setStack s k { getStack s k with withdrawn := true, cause := 4 }) { code := 0x0011, args := [0, k.val, 4] }
  failFn s (fnStack k) 5 4
def lostPort (s : State) (p : PortNo) : State :=
  let s := raise (setXp s p { getXp s p with withdrawn := true, cause := 4 }) { code := 0x0011, args := [1, p.val, 4] }
  failFn s (fnPort p) 5 4

/-- The units of a hole are not there (R48). -/
def absentUnits (s : State) (t : TileNo) : State :=
  let s := ([fnSram t] ++ (tileCores t).map fnCore).foldl (fun s f => failFn s f 5 0) s
  let s := (tileStacks t).foldl lostStack s
  let s := match tilePort t with
    | some p => lostPort s p
    | none => s
  match tileHost t with
  | some p => failFn s (fnHost p) 5 0
  | none => s

/-- A tile's own functions start: SRAM, stacks, port, host-port controller; XP_PERST_N is released (R398, R475). -/
def startUnits (s : State) (t : TileNo) : State :=
  let s := setFn s (fnSram t) 1
  let s := (tileStacks t).foldl (fun s k => setFn s (fnStack k) 1) s
  let s := match tilePort t with
    | some p => setFn (setXp s p { getXp s p with perstReleased := true }) (fnPort p) 1
    | none => s
  match tileHost t with
  | some p => setFn s (fnHost p) 1
  | none => s

/-- The tile's ramps are over, but for those that a droop holds (R434, R436). -/
def rampsOver (x : Tile) : Tile := { x with domainsUp := x.domainsUp ||| (x.ramping &&& ~~~x.rampHeld), ramping := x.ramping &&& x.rampHeld }

/-- FABRIC_READY (R398): the escape tables are in force, and the tile, stack and port functions start. -/
def execFabricReady (s : State) :=
  finish s <|
    if s.pw.stage != .main || fnState s fnFabric != 1 then s
    else
      let s := { s with tiles := tmap {} (fun _ x => rampsOver x) s.tiles }
      let s := setFn { s with escape := escapeTable s, escapeLoading := false } fnFabric 3
      allTiles.foldl (fun s t => if isHole s t then absentUnits s t else if tileOut s t then s else startUnits s t) s

/-! The functions' outcomes. -/

/-- The function is coming up. -/
def comingUp (s : State) (f : Nat) : Bool := fnReady s fnFabric && fnState s f == 1

/-- A function is READY. -/
def fnUp (s : State) (f : Nat) : State := settleModule (setFn s f 3)

/-- A bank that could not be repaired takes its cluster's core away (R36, R47); the entry is reported when the running map is formed (R40). -/
def bankLost (s : State) (c : CoreNo) : State :=
  let raw := tget mittenFull s.mitten c.val
  let d := if entryConsistent raw then defectMask (raw.extractLsb' 0 32) else 0
  setMitten s c (entryOf [7, 7, 7, 7] 7 2 d true)

/-- Clusters with bad banks, by bit 16c + b. -/
def badClusters (bad : BitVec 64) : List (Fin 4) := (List.finRange 4).filter fun k => bits bad.toNat (16 * k.val) 16 != 0

/-- TILE_SRAM_READY (R398): zeros in all four cluster memories; the tile's cores can start. -/
def execTileSramReady (tile : TileNo) (badBanks : BitVec 64) (s : State) :=
  finish s <|
    if !comingUp s (fnSram tile) then s
    else
      let s := zeroRange s (cmemBase (coreAt tile 0)) (2 ^ 30)
      let s := (badClusters badBanks).foldl (fun s k => bankLost s (coreAt tile k)) s
      let s := (tileCores tile).foldl (fun s c => setFn s (fnCore c) 1) s
      fnUp s (fnSram tile)

/-- STACK_TRAIN_RESULT (R272, R278, R398): ready after its zero fill; at the third failed attempt it is withdrawn. -/
def execStackTrainResult (stack : StackNo) (ok : Bool) (s : State) :=
  finish s <|
    let x := getStack s stack
    if !comingUp s (fnStack stack) || x.withdrawn || x.zeroing then s
    else if ok then fnUp (zeroRange s (stackBase stack) (2 ^ 36)) (fnStack stack)
    else if x.attempts + 1 < 3 then setStack s stack { x with attempts := x.attempts + 1 }
    else withdrawStack (setStack s stack { x with attempts := 3 }) stack 1

/-- HOST_PORT_WAITING (R401, R474): the controller is set up. A PERST_N that is already released lets the link train; MOD_READY may rise. -/
def execHostPortWaiting (p : HostPort) (sris : Bool) (s : State) :=
  finish s <|
    if !comingUp s (fnHost p) then s
    else
      let h := getHp s p
      let s := setHp s p { h with sris := sris }
      let s := if h.perstReleased then s else settleModule (setFn s (fnHost p) 2)
      { s with pw := { s.pw with modReady := s.weala.running } }

/-- HOST_LINK_UP (R474): the link is in L0, at start-up, after PERST_N or after its recovery, with what the host has written to the port's configuration;
on a link that is in L0 the host writes it anew (log 72). -/
def execHostLinkUp (p : HostPort) (width speed : BitVec 3) (cfg : HostConfig) (s : State) :=
  finish s <|
    let h := getHp s p
    if h.linkUp then hostConfigured s p cfg
    else if !h.perstReleased || !(comingUp s (fnHost p) || fnReady s (fnHost p)) then s
    else
      let s := if h.recovering then s else dropPending s p
      let h := { h with linkUp := true, width := width, speed := speed, flit := cfg.flit, recovering := false }
      fnUp (hostConfigured (setHp s p h) p cfg) (fnHost p)

/-- The widths and rates that a port supports (R280, R298): x16, x8, x4 at 64, 32, 16 and 8 GT/s. -/
def linkSupported (w v : BitVec 3) : Bool := decide (2 ≤ w.toNat ∧ w.toNat ≤ 4 ∧ 3 ≤ v.toNat ∧ v.toNat ≤ 6)

/-- What a port reports of the link it has trained (R281, R298). -/
def trained (x : XPort) (w v : BitVec 3) : XPort := { x with width := w, speed := v, degraded := !(w == 4 && v == 6) }

/-- XP_READY (R280, R281): the port is mapped, up to 64 TiB, or withdrawn with its cause. -/
def execXpReady (p : PortNo) (result : XpResult) (s : State) :=
  finish s <|
    if !comingUp s (fnPort p) || (getXp s p).withdrawn then s
    else match result with
      | .mapped cap w v =>
        if linkSupported w v then fnUp (setXp s p { trained (getXp s p) w v with linkUp := true, capacity := min cap 262144 }) (fnPort p)
        else withdrawPort (setXp s p (trained (getXp s p) w v)) p 9
      | .noDevice => withdrawPort s p 8
      | .unsupported w v => withdrawPort (setXp s p (trained (getXp s p) w v)) p 9

/-- The running entry of a cluster after its self-test (R38). -/
def formedEntry (s : State) (c : CoreNo) (failed : BitVec 5) : BitVec 32 :=
  let raw := tget mittenFull s.mitten c.val
  let e : BitVec 32 := raw.extractLsb' 0 32
  let ok := entryConsistent raw
  let kept := if ok && clusterState e < 2 then some (entryLs e) else none
  deriveEntry kept ((if ok then defectMask e else 0) ||| failed.toNat) (ok && bankFail e) (useDegraded s)

/-- A core is assembled from its running entry, or is not there (R38, R399). -/
def assemble (s : State) (c : CoreNo) (failed : BitVec 5) : State :=
  let s := writeMitten s c (formedEntry s c failed)
  if corePresent s c then fnUp s (fnCore c) else coreRemoved s c

/-- CORE_READY (R38, R398): the segments that failed their self-test. -/
def execCoreReady (core : CoreNo) (failed : BitVec 5) (s : State) :=
  finish s <|
    if !comingUp s (fnCore core) || !fnReady s (fnSram (coreTile core)) || !inCoreMode s (coreTile core) || changingCore s core
        || resettingCore s core then s
    else assemble s core failed

/-- FUNCTION_TIMEOUT (R399): a stack is withdrawn with TRAIN_FAIL, a port as having no device that trains, a core's cluster is REMOVED; any other
function is FAILED. -/
def execFunctionTimeout (fn : Fin 367) (s : State) :=
  finish s <|
    let f := fn.val
    if s.pw.stage != .main || f = 0 || 1 < fnState s f then s
    else if 66 ≤ f ∧ f < 98 then withdrawStack s (Fin.ofNat 32 (f - 66)) 1
    else if 98 ≤ f ∧ f < 106 then withdrawPort s (Fin.ofNat 8 (f - 98)) 8
    else if 110 ≤ f ∧ f < 366 then
      let c : CoreNo := Fin.ofNat 256 (f - 110)
      let e := mittenEntry s c
      failFn (writeMitten s c (entryOf [7, 7, 7, 7] 7 2 (defectMask e) (bankFail e))) f 4 0
    else failFn s f 4 0

end Sys2Proof.Machine
end

