-- ==== Sys2Proof/Machine/PowerStates.lean ====
section
/-!
DEFINITION. Tile power states (R441 to R446, R459, R462, R464): requests, their refusers, entry into NAP, DOZE and OFF, and the wake.
-/
namespace Sys2Proof.Machine
open Sys2Proof

/-! BAR0 offsets (R495, R505). -/
def tlBase (t : TileNo) : Nat := 0x1000000 + t.val * 0x40000
def offPwReq (t : TileNo) : Nat := tlBase t + 0x220
def offClaspRelease : Nat := 0x200028

/-! The refusers (R443). -/

/-- Some slot of the tile's cores. -/
def someSlot (s : State) (t : TileNo) (p : Slot → Bool) : Bool := (tileCores t).any fun c => (getCore s c).slots.any fun e => p e.2

/-- The tile holds a map area, a node or a root of a current map (R443, PARTITION_ROLE). -/
def inMap (s : State) (t : TileNo) : Bool :=
  s.parts.any fun e =>
    let m := e.2.map
    (mapAreaValid e.2.mapArea && (match regionOf (mapAreaBase e.2.mapArea) with | some r => regionTile r == t | none => false)) ||
    (!m.isEmpty && ((List.range (mapNNodes m)).any (fun i => ndTile (nodeEntry m i) == t)
      || (List.range (mapNTrees m)).any fun i => trRootTile (treeEntry m i) == t))

/-- The tile has a role in a partition (R443). -/
def partRole (s : State) (t : TileNo) : Bool :=
  s.parts.any (fun e => e.2.valid && cornerTile e.2 == t) || inMap s t
    || (match tileHost t with
        | some p => s.rings.any fun r => r.2.enabled && r.2.home == p
        | none => false)

/-- An open Palm lies in a bank that the mask does not keep (R443). -/
def palmUnkept (s : State) (t : TileNo) (mask : BitVec 64) : Bool :=
  s.palms.any fun e =>
    let c := e.1 / 16
    let first := e.2.base / 2 ^ 24
    let last := (e.2.base + 8 * e.2.elements - 1) / 2 ^ 24
    e.2.isOpen && c / 4 == t.val && (List.range (last - first + 1)).any fun i => !mask.getLsbD (16 * (c % 4) + first + i)

/-- Without the tile, some tile of the fabric has no path to some host port's tile (R443, LAST_PATH). -/
def lastPath (s : State) (t : TileNo) : Bool :=
  let s' := setTile s t { getTile s t with power := .entering }
  let live := allTiles.filter fun u => !tileOut s' u
  let hosts := ((List.finRange 4).map hostTile).filter fun h => !tileOut s h
  hosts.any fun h => tileOut s' h || (let seen := spread s' 63 [h]; live.any fun u => !seen.contains u)

/-- The objectors to a target state, as a mask by refuser number. FABRIC_UNDRAINED and BUS_DROOP object later. -/
def objections (s : State) (t : TileNo) (goal : PState) : Nat :=
  let x := getTile s t
  let deep := goal == .doze || goal == .off
  let cores := tileCores t
  let bit (n : Nat) (b : Bool) : Nat := if b then 2 ^ n else 0
  bit 1 (goal == .nap && someSlot s t fun sl => sl.state == .ready || sl.state == .running || sl.state == .late)
    + bit 2 (deep && tileResident s t)
    + bit 3 (deep && s.writeback.any fun e => cores.any fun c => e.1 * 64 / 2 ^ 28 == (cmemBase c) / 2 ^ 28)
    + bit 5 (x.clasped != 0 && (poweredIn x || x.power == .claspHeld))
    + bit 6 (deep && ((someSlot s t fun sl => match sl.task with | some u => u.op == some .timed | none => false)
        || s.parts.any fun e => e.2.valid && cornerTile e.2 == t && (match e.2.phases with | h :: _ => h.step == 5 | [] => false)))
    + bit 7 (deep && ((tileStacks t).any (fun k => (stackOwner s k).isSome)
        || (match tilePort t with | some p => (portOwner s p).isSome | none => false)))
    + bit 8 (deep && partRole s t)
    + bit 9 (deep && palmUnkept s t (if goal == .doze then x.retWord else 0))
    + bit 10 (cores.any (resettingCore s) || s.resets.any fun r => r.level.val = 2 && partHasTile s (Fin.ofNat 64 r.target.toNat) t)
    + bit 11 (x.mode != .core)
    + bit 13 (x.thermal && x.power == .nap && (goal == .run || goal == .nap))
    + bit 14 (deep && poweredIn x && lastPath s t)

/-- The lowest bit set. -/
def lowestBit (m : Nat) : Nat := ((List.range 16).find? fun i => m.testBit i).getD 0

/-- A refusal (R443, R464, STATE_REFUSED). -/
def refuse (s : State) (t : TileNo) (goal mask : Nat) : State :=
  let x := getTile s t
  let counts := (List.range 16).foldl (fun l i => if mask.testBit i then tput 0 l i (satInc (tget 0 l i)) else l) x.refuse
  let last : BitVec 128 := BitVec.ofNat 128
    (place (lowestBit mask) 0 4 + place goal 4 3 + place mask 16 16 + place (quality s).toNat 32 4 + place (now s).toNat 64 64)
  raise (setTile s t { x with refuse := counts, pwLast := last }) { code := 0x0061, args := [t.val, goal, mask] }

/-! Requests. -/

/-- The state that a STATE value names (R462). -/
def goalOf : Nat → Option PState
  | 0 => some .run | 2 => some .nap | 3 => some .doze | 4 => some .off | _ => none

/-- Entry into DOZE or OFF, step 1 (R445); the escape tables without the tile follow. -/
def beginEntry (s : State) (t : TileNo) (goal : PState) : State :=
  let x := getTile s t
  { setTile s t { x with power := .entering, goal := goal, fromState := x.power, retained := if goal == .doze then x.retWord else 0 } with escapeLoading := true }

/-- A wake from DOZE or OFF (R446): the domains ramp. -/
def beginWake (s : State) (t : TileNo) (goal : PState) : State :=
  let x := getTile s t
  setTile s t { x with power := .waking, goal := goal, fromState := x.power, ramping := tileDomains t &&& ~~~x.faulted, domainsUp := 0 }

/-- A request that has been taken (R443). -/
def powerRequest (s : State) (t : TileNo) (v : Nat) : State :=
  let x := getTile s t
  let auto := v.testBit 3
  match goalOf (v % 8) with
  | none => s
  | some goal =>
    if goal == .doze && x.retCompl != ~~~x.retWord then raise s { code := 0x0061, args := [t.val, 3, 0] }
    else
      let mask := objections s t goal
      if mask ≠ 0 then refuse s t (v % 8) mask
      else
        let s := setTile s t { x with autoNap := auto, reqState := BitVec.ofNat 3 (v % 8) }
        match x.power, goal with
        | .run, .nap | .idle, .nap | .nap, .run => toState s t goal 0
        | .run, .doze | .run, .off | .idle, .doze | .idle, .off | .nap, .doze | .nap, .off | .doze, .off | .off, .doze => beginEntry s t goal
        | .doze, .run | .off, .run | .doze, .nap | .off, .nap => beginWake s t goal
        | _, _ => s

/-- A request held while an entry or a wake ran is taken now (R454). -/
def takeHeld (s : State) (t : TileNo) : State :=
  let x := getTile s t
  match x.heldReq with
  | none => s
  | some v => powerRequest (setTile s t { x with heldReq := none }) t (pairVal v)

/-- A write of TL_PW_REQ (R443, R454, R462). A reserved STATE is no request. -/
def powerWrite (port : HostPort) (t : TileNo) (value : Word64) (s : State) : State :=
  if !bar0Open s port false then s
  else if !pairOk value || (goalOf (pairVal value % 8)).isNone then setupRefused s (offPwReq t)
  else if isHole s t then s
  else
    let x := getTile s t
    match x.power with
    | .entering | .waking => setTile s t { x with heldReq := some value }
    | _ => powerRequest s t (pairVal value)

/-- RUN_REQUEST (R443). -/
def execRunRequest (port : HostPort) (tile : TileNo) (value : Word64) (s : State) := finish s (powerWrite port tile value s)

/-- NAP_REQUEST (R444): the same register write. -/
def execNapRequest (port : HostPort) (tile : TileNo) (value : Word64) (s : State) := finish s (powerWrite port tile value s)

/-- DOZE_REQUEST (R445): the same register write. -/
def execDozeRequest (port : HostPort) (tile : TileNo) (value : Word64) (s : State) := finish s (powerWrite port tile value s)

/-- OFF_REQUEST (R445): the same register write. -/
def execOffRequest (port : HostPort) (tile : TileNo) (value : Word64) (s : State) := finish s (powerWrite port tile value s)

/-- AUTO_NAP_ENTRY (R443, R444): refused, it is tried again and not counted. -/
def execAutoNapEntry (tile : TileNo) (s : State) :=
  finish s <|
    let x := getTile s tile
    if !x.autoNap || x.power != .run || isHole s tile || (someSlot s tile fun sl => sl.state != .empty && sl.state != .blocked)
        || objections s tile .nap ≠ 0 then s
    else toState s tile .nap 1

/-! Entry into DOZE and OFF (R445). -/

/-- The router of the tile holds packets, or its stations bursts. -/
def holdsPackets (s : State) (t : TileNo) : Bool := s.packets.any (fun p => p.here == t) || s.bursts.any fun b => b.here == t

/-- The units of a tile that goes down are ABSENT, and its ports lose their links (R445, R475). -/
def unitsDown (s : State) (t : TileNo) : State :=
  let s := ([fnSram t] ++ (tileCores t).map fnCore ++ (tileStacks t).map fnStack).foldl (fun s f => setFn s f 5) s
  let s := match tilePort t with
    | some p => setFn (setXp s p { getXp s p with linkUp := false, perstReleased := false, recovering := false, capacity := 0 }) (fnPort p) 5
    | none => s
  match tileHost t with
  | some p => setFn (setHp s p { getHp s p with linkUp := false, recovering := false, ats := [], latch := none }) (fnHost p) 5
  | none => s

/-- POWER_DOWN_DONE (R445, step 4): with the escape tables loaded and the router empty, the Clasps latch and the domains go off; in DOZE VDDA stays
for the banks retained. -/
def execPowerDownDone (tile : TileNo) (s : State) :=
  finish s <|
    let x := getTile s tile
    if x.power != .entering || s.escapeLoading || holdsPackets s tile then s
    else
      let old := stateCode x.fromState
      let s := unitsDown s tile
      let s := setTile s tile { getTile s tile with
        power := x.goal, thermal := false, clasped := x.clasped ||| tileDomains tile
        domainsUp := if x.goal == .doze then x.domainsUp &&& 2 else 0 }
      takeHeld (tileStateEvent s tile old (stateCode x.goal) 0) tile

/-- FABRIC_UNDRAINED_TIMEOUT (R443, R445): packets are still there 20 µs after the tables are in force. -/
def execFabricUndrainedTimeout (tile : TileNo) (s : State) :=
  finish s <|
    let x := getTile s tile
    if x.power != .entering || s.escapeLoading || !holdsPackets s tile then s
    else
      let s := setTile { s with escapeLoading := true } tile { x with power := if x.thermal then .nap else .run }
      takeHeld (refuse s tile (stateCode x.goal) (2 ^ 4)) tile

/-! Wake (R442, R446). -/

/-- The logic of a tile that has been without power resets (R446): its cores, router, station, memory and link controllers, and Cuffs take their
reset values (R488). Weala's board keeps what it holds of the tile; a link that is down, a withdrawn unit and an open Palm's registers stay
(DEDUCED, log 75). -/
def logicReset (s : State) (t : TileNo) : State :=
  let s := (tileCores t).foldl (fun s c => setCore s c {}) s
  let s := (tileStacks t).foldl
    (fun s k =>
      let x := getStack s k
      setCuff (setStack s k { withdrawn := x.withdrawn, cause := x.cause }) (Fin.ofNat 40 k.val) {}) s
  let s := match tilePort t with
    | some p =>
      let x := getXp s p
      setCuff (setXp s p { withdrawn := x.withdrawn, cause := x.cause }) (Fin.ofNat 40 (32 + p.val)) {}
    | none => s
  let s := match tileHost t with
    | some p => setHp { s with ringTurn := tput 0 s.ringTurn p.val 0 } p { perstReleased := (getHp s p).perstReleased }
    | none => s
  let x := getTile s t
  setTile s t { x with
    links := tmap {} (fun _ (l : Link) => { down := l.down, frame := l.frame }) x.links
    notOwner := 0, absorbed := 0, redDiscard := 0, protocol := 0, nodes := [], station := {}
    cmemCe := [], cmemUe := [], cmemPasses := [], cmemPos := [], banksDone := [], spareTests := [] }

/-- WAKE_RAMP_DONE (R446): every domain is up, the logic has reset, and the tile waits for its Clasps. -/
def execWakeRampDone (tile : TileNo) (s : State) :=
  finish s <|
    let x := getTile s tile
    if x.power == .waking && x.ramping != 0 && x.rampHeld == 0 then
      logicReset (setTile s tile { x with power := .claspHeld, domainsUp := x.ramping, ramping := 0 }) tile
    else s

/-- CLASP_RELEASE (R442, R459): domains that are up let go of their Clasps; those latched at a fault stay. -/
def execClaspRelease (port : HostPort) (value : Word64) (s : State) :=
  finish s <|
    if !bar0Open s port true then s
    else if !pairOk value then setupRefused s offClaspRelease
    else
      let v := pairVal value
      let t : TileNo := Fin.ofNat 64 v
      let d : BitVec 4 := BitVec.ofNat 4 (v / 64)
      let x := getTile s t
      if d &&& ~~~x.domainsUp != 0 then setupRefused s offClaspRelease
      else
        let left := x.clasped &&& ~~~(d &&& ~~~x.claspFault)
        let free := left &&& ~~~x.claspFault == 0
        setTile s t { x with clasped := left, power := if x.power == .claspHeld && free then .waking else x.power }

/-- The banks that a wake writes with zeros: those not retained. -/
def zeroBanks (s : State) (t : TileNo) (kept : BitVec 64) : State :=
  (List.range 64).foldl
    (fun s i => if kept.getLsbD i then s else zeroRange s (cmemBase (coreAt t 0) + i / 16 * 2 ^ 28 + i % 16 * 2 ^ 24) (2 ^ 24)) s

/-- The tile's stacks and ports start again (R446, step 5); withdrawn ones stay withdrawn. -/
def restartUnits (s : State) (t : TileNo) : State :=
  let s := (tileStacks t).foldl
    (fun s k => if (getStack s k).withdrawn then s else setFn (setStack s k { getStack s k with attempts := 0 }) (fnStack k) 1) s
  let s := match tilePort t with
    | some p => if (getXp s p).withdrawn then s else setFn (setXp s p { getXp s p with perstReleased := true }) (fnPort p) 1
    | none => s
  match tileHost t with
  | some p => setFn s (fnHost p) 1
  | none => s

/-- WAKE_COMPLETE (R446): the tile is back in the fabric, its memory zeroed where it was not retained, its cores tested and assembled. -/
def execWakeComplete (tile : TileNo) (failed : BitVec 20) (badBanks : BitVec 64) (s : State) :=
  finish s <|
    let x := getTile s tile
    if x.power != .waking || x.ramping != 0 || x.clasped &&& ~~~x.claspFault != 0 then s
    else
      let goal : PState := if x.napForGood then .nap else x.goal
      let s := { setTile s tile { x with power := goal, thermal := x.napForGood, freq := min x.target.toNat x.ceil } with escapeLoading := true }
      let s := zeroBanks s tile x.retained
      let s := if x.fromState == .off then (badClusters badBanks).foldl (fun s k => bankLost s (coreAt tile k)) s else s
      let s := setFn s (fnSram tile) 3
      let s := (List.finRange 4).foldl
        (fun s k => assemble s (coreAt tile k) (BitVec.ofNat 5 (bits failed.toNat (5 * k.val) 5))) s
      let s := restartUnits s tile
      takeHeld (tileStateEvent s tile (stateCode x.fromState) (stateCode goal) 0) tile

end Sys2Proof.Machine
end

