-- ==== Sys2Proof/Machine/Heat.lean ====
section
/-!
DEFINITION. Throttling, sensors, thermal NAPs and the Visor (R429, R432, R433, R437 to R440, R447 to R450, R457).
-/
namespace Sys2Proof.Machine
open Sys2Proof

/-- BAR0 offset of PW_LIMIT (R495). -/
def offPwLimit : Nat := 0x200010

/-! Throttling (R429, R448). -/

/-- The effective limit L in W (R429): voltages in 10 mV, limits in 0.1 kW. -/
def effectiveLimit (s : State) (vA vB : BitVec 16) : Nat :=
  let pair (v : BitVec 16) : Nat := if 4400 ≤ v.toNat then v.toNat * 350 / 100 else 0
  min (min (settingValue s 3 * 100) (s.pw.limit.toNat * 100)) (pair vA + pair vB)

/-- Sensors of a tile that work (R447). -/
def workingSensors (x : Tile) : Nat := ((List.range 16).filter fun i => !x.sensorsFailed.getLsbD i).length

/-- The highest ceiling that a tile may have (R435, R447): 0.90 GHz with a phase lost, 0.40 GHz with fewer than 12 working sensors. -/
def ceilCap (x : Tile) : Nat := if workingSensors x < 12 then 16 else if x.phases.toNat < 16 then 36 else 48

/-- The tile is one that the controller runs over: in RUN or IDLE (R448). -/
def throttled (s : State) (t : TileNo) : Bool := !isHole s t && (getTile s t).power == .run

/-- A THROTTLE event, at most once a second for a tile (R448). -/
def throttleEvent (s : State) (t : TileNo) (cause : Nat) : State :=
  let x := getTile s t
  let recent := match x.throttleTime with | some v => decide ((now s).toNat < v.toNat + 2 ^ 32) | none => false
  if recent then s
  else raise (setTile s t { x with throttleTime := some (now s) }) { code := 0x0062, args := [t.val, min x.target.toNat x.ceil, cause] }

/-- Lower a tile by one step: 0 heat, 1 power, 2 clamp. Its first lowering is reported. -/
def lowerTile (cause : Nat) (s : State) (t : TileNo) : State :=
  let x := getTile s t
  let s := setTile s t { x with ceil := x.freq - 1, throttled := true }
  if x.throttled then s else throttleEvent s t cause

/-- Raise a tile's ceiling by one step; one that reaches TARGET is full again, which is reported. -/
def raiseTile (s : State) (t : TileNo) : State :=
  let x := getTile s t
  if x.target.toNat ≤ x.ceil + 1 then
    let s := setTile s t { x with ceil := ceilCap x, throttled := false }
    if x.throttled then throttleEvent s t 3 else s
  else setTile s t { x with ceil := x.ceil + 1 }

/-- The tile of a list with the highest key; on equal keys the lower number. -/
def topTile (key : TileNo → Int) : List TileNo → Option TileNo
  | [] => none
  | t :: r => match topTile key r with
    | none => some t
    | some u => if key t < key u then some u else some t

/-- The tick itself (R448), on the power and the limit of the last tick. -/
def tick (s : State) (p l : Nat) : State :=
  let tiles := allTiles.filter (throttled s)
  let fast := tiles.filter fun t => decide (16 < (getTile s t).freq)
  let hot := fast.filter fun t => decide ((s.pw.throttleC.toNat * 4 : Int) ≤ (getTile s t).temp)
  let lowered (s : State) : State := { s with pw := { s.pw with ticksSinceLower := 0 } }
  let rested (s : State) : State := { s with pw := { s.pw with ticksSinceLower := s.pw.ticksSinceLower + 1 } }
  if 115 * l < 100 * p then (if fast.isEmpty then rested s else lowered (fast.foldl (lowerTile 2) s))
  else match topTile (fun t => (getTile s t).temp) hot with
    | some t => lowered (lowerTile 0 s t)
    | none =>
      if l < p then
        match topTile (fun t => ((getTile s t).vddlCurrent.toNat : Int)) fast with
        | some t => lowered (lowerTile 1 s t)
        | none => rested s
      else if 10 ≤ s.pw.ticksSinceLower && decide (100 * p < 97 * l) then
        let cool := tiles.filter fun t =>
          let x := getTile s t
          decide (x.ceil < ceilCap x ∧ x.temp < ((s.pw.throttleC.toNat : Int) - s.pw.hystC.toNat) * 4)
        match topTile (fun t => -(getTile s t).temp) cool with
        | some t => rested (raiseTile s t)
        | none => rested s
      else rested s

/-- THROTTLE_TICK (R428, R448, R456): the pairs' voltages and currents and the input power over the tick. While coolant is away the clamp of R452
stands. -/
def execThrottleTick (vA vB iA iB : BitVec 16) (power : BitVec 32) (s : State) :=
  finish s <|
    if s.pw.stage != .main then { s with pw := { s.pw with vA := vA, vB := vB, iA := iA, iB := iB, power := power } }
    else
      let l := effectiveLimit s vA vB
      let s := { s with pw := { s.pw with vA := vA, vB := vB, iA := iA, iB := iB, power := power, limitNow := BitVec.ofNat 32 l } }
      if s.pw.coolantLost then s else tick s power.toNat l

/-- FREQ_STEP (R432, R433): one step of 25 MHz towards min(TARGET, CEIL). -/
def execFreqStep (tile : TileNo) (s : State) :=
  finish s <|
    let x := getTile s tile
    let goal := min x.target.toNat x.ceil
    if !throttled s tile then s
    else if x.freq < goal then setTile s tile { x with freq := x.freq + 1 }
    else if goal < x.freq then setTile s tile { x with freq := x.freq - 1 }
    else s

/-! Sensors (R447, R449, R450). -/

/-- Insert a reading in order. -/
def insertInt (v : Int) : List Int → List Int
  | [] => [v]
  | x :: r => if v ≤ x then v :: x :: r else x :: insertInt v r

/-- Twice the median of readings. -/
def median2 (l : List Int) : Int :=
  let o := l.foldr insertInt []
  let n := o.length
  if n % 2 = 1 then 2 * o.getD (n / 2) 0 else o.getD (n / 2 - 1) 0 + o.getD (n / 2) 0

/-- A reading in 0.25 °C that shows a failed sensor (R447), against the tile's median. -/
def badReading (med2 v : Int) : Bool := decide (v < -80 ∨ 560 < v ∨ 160 < (2 * v - med2).natAbs)

/-- The tile goes into a thermal NAP (R449, R450). -/
def enterThermal (s : State) (t : TileNo) : State :=
  let x := getTile s t
  if x.thermal then s
  else match x.power with
    | .run | .idle => toState (setTile s t { x with thermal := true }) t .nap 2
    | .nap => setTile s t { x with thermal := true }
    | _ => s

/-- What a sample of a tile's sensors says: failures, T, the cap and the NAPs. -/
def sampleTile (s : State) (t : TileNo) (readings : List Int) : State :=
  let x := getTile s t
  let at_ (i : Nat) : Int := readings.getD i 0
  let before := (List.range 16).filter fun i => !x.sensorsFailed.getLsbD i
  let med := median2 (before.map at_)
  let bad := before.filter fun i => badReading med (at_ i)
  let good := before.filter fun i => !badReading med (at_ i)
  let mask := (bad.map fun i => 2 ^ i).sum
  let top := good.foldl (fun (acc : Option Nat) i => match acc with
    | none => some i
    | some j => if at_ j < at_ i then some i else some j) none
  let x := { x with sensorsFailed := x.sensorsFailed ||| BitVec.ofNat 16 mask, napForGood := x.napForGood || decide (good.length < 4)
                    temp := match top with | some i => at_ i | none => x.temp
                    hottest := top.getD x.hottest }
  let s := setTile s t { x with ceil := min x.ceil (ceilCap x) }
  let s := if bad.isEmpty then s else raise s { code := 0x0066, args := [t.val, mask] }
  if x.napForGood || decide (420 ≤ x.temp) then enterThermal s t else s

/-- A working sensor stands at 115.0 °C or more (R449). -/
def trips (s : State) (t : TileNo) : Bool :=
  let x := getTile s t
  decide (460 ≤ x.temp) && decide (0 < workingSensors x)

/-- SENSOR_SAMPLE (R447, R449): readings in 0.25 °C. A trip comes before a NAP (R454). -/
def execSensorSample (tile : TileNo) (readings : List Int) (s : State) :=
  finishMain s <|
    if s.pw.stage != .main || isHole s tile then s
    else
      let t := sampleTile s tile readings
      if trips t tile then shutdown t 0 false else t

/-- THERMAL_NAP_END (R450): the tile returns to RUN with CEIL at 0.40 GHz. -/
def execThermalNapEnd (tile : TileNo) (s : State) :=
  finish s <|
    let x := getTile s tile
    if x.power == .nap && x.thermal && !x.napForGood && decide (x.temp < 400) then
      toState (setTile s tile { x with thermal := false, ceil := 16, freq := 16 }) tile .run 2
    else s

/-- THERM_ALERT_N is asserted (R449): some tile at ALERT_C, or in a thermal NAP. -/
def thermAlert (s : State) : Bool :=
  s.tiles.any fun e => decide ((s.pw.alertC.toNat * 4 : Int) ≤ e.2.temp) || (e.2.thermal && e.2.power == .nap)

/-! The Visor (R437 to R440). -/

/-- A slot of PW_VMIN when nothing has been sampled (R460). -/
def vminEmpty : BitVec 128 := 0xFFFF

/-- A history entry (R437). -/
def visorEntry (s : State) (v : VisorSample) : BitVec 128 :=
  BitVec.ofNat 128 (place (now s).toNat 0 64 + place v.mean.toNat 64 16 + place v.peak.toNat 80 16 + place v.vmean.toNat 96 16
    + place (quality s).toNat 112 4 + place (if v.off then 1 else 0) 116 1)

/-- VISOR_LOST, at most once a second for a domain (R455). -/
def visorLost (s : State) (t : TileNo) (k : Nat) : State :=
  let x := getTile s t
  let p := tget {} x.visorPtr k
  let recent := match p.lastEvent with | some v => decide ((now s).toNat < v.toNat + 2 ^ 32) | none => false
  if recent then s
  else raise (setTile s t { x with visorPtr := tput {} x.visorPtr k { p with lastEvent := some (now s) } })
    { code := 0x0067, args := [t.val, k, p.lost.toNat] }

/-- One domain's interval (R437 to R440). -/
def visorOne (s : State) (v : VisorSample) : State :=
  let t : TileNo := Fin.ofNat 64 (v.index / 4)
  let k := v.index % 4
  if !(tileDomains t).getLsbD k then s
  else
    let x := getTile s t
    let p := tget {} x.visorPtr k
    let full := decide (1024 ≤ (p.wr - p.rd).toNat)
    let e := visorEntry s v
    let x := { x with
      visorHist := tput 0 x.visorHist (k * 1024 + p.wr.toNat % 1024) e
      visorPtr := tput {} x.visorPtr k { p with wr := p.wr + 1, lost := if full then satInc p.lost else p.lost }
      visorLast := tput 0 x.visorLast k e
      vddlCurrent := if k = 0 then v.mean else x.vddlCurrent }
    let s := setTile s t x
    let old := tget vminEmpty s.pw.vmin v.index
    let low := decide (v.vmin.toNat < old.toNat % 2 ^ 16)
    let slot : BitVec 128 := BitVec.ofNat 128 (place v.vmin.toNat 0 16 + place (quality s).toNat 16 4 + place v.vminTime.toNat 64 64)
    let s := if low then { s with pw := { s.pw with vmin := tput vminEmpty s.pw.vmin v.index slot } } else s
    if full then visorLost s t k else s

/-- VISOR_INTERVAL (R437). -/
def execVisorInterval (samples : List VisorSample) (s : State) :=
  finish s (if s.pw.stage == .main then samples.foldl visorOne s else s)

/-- PW_VMIN_READ (R439, R487): the minimum restarts, and its time stays readable until the next such read. -/
def execPwVminRead (port : HostPort) (index : Fin 256) (s : State) :=
  finish s <|
    let i := index.val
    if !(getHp s port).linkUp || !(tileDomains (Fin.ofNat 64 (i / 4))).getLsbD (i % 4) then s
    else
      let v := tget vminEmpty s.pw.vmin i
      { s with pw := { s.pw with vmin := tput vminEmpty s.pw.vmin i vminEmpty, vminRead := tput 0 s.pw.vminRead i (v.extractLsb' 64 64) } }

/-- PW_LIMIT_WRITE (R457). -/
def execPwLimitWrite (port : HostPort) (value : Word64) (s : State) :=
  finish s <|
    let v := pairVal value % 512
    if !bar0Open s port true then s
    else if !pairOk value || !decide (100 ≤ v ∧ v ≤ 300 ∧ v ≤ settingValue s 3) then setupRefused s offPwLimit
    else { s with pw := { s.pw with limit := BitVec.ofNat 9 v } }

end Sys2Proof.Machine
end

