-- ==== Sys2Proof/Machine/Domains.lean ====
section
/-!
DEFINITION. Tile domains and the bus (R427 to R431, R434 to R436): faults and their consequences, ramps held by a droop, lost pairs.
-/
namespace Sys2Proof.Machine
open Sys2Proof

/-- A domain of a tile that can fault: present, not faulted, on a tile that is no hole, with main power on. -/
def domainLive (s : State) (t : TileNo) (k : Fin 4) : Bool :=
  s.pw.stage == .main && !isHole s t && (tileDomains t).getLsbD k.val && !(getTile s t).faulted.getLsbD k.val

/-- The mask of one domain. -/
def domainBit (k : Fin 4) : BitVec 4 := BitVec.ofNat 4 (2 ^ k.val)

/-- The contexts with work on a cluster that loses its VDDA hear of it (R42), and what runs there ends. -/
def clusterEnds (s : State) (c : CoreNo) : State :=
  endCore (if corePresent s c then
      raise s { code := 0x0030, part := tileOwner s (coreTile c), tenants := true, only := some (workContexts s c), args := [c.val, 2] } else s) c stCoreFault

/-- A cluster is REMOVED with BANK_FAIL 1. -/
def clusterBanksFail (s : State) (c : CoreNo) : State :=
  writeMitten { s with changes := s.changes.filter fun m => m.core != c } c (entryOf [7, 7, 7, 7] 7 2 (defectMask (mittenEntry s c)) true)

/-- A cluster without VDDA becomes REMOVED with BANK_FAIL 1 (R435, R36). -/
def clusterLost (s : State) (c : CoreNo) : State :=
  let t := clusterBanksFail (clusterEnds s c) c
  if corePresent s c then coreRemoved t c else t

/-- VDDA is gone: the four clusters of the tile are lost (R435). -/
def clustersLost (s : State) (t : TileNo) : State := (tileCores t).foldl clusterLost s

/-- A host port whose VDDX is gone (R435). -/
def hostLost (s : State) (p : HostPort) : State := failFn (setHp s p { getHp s p with linkUp := false, recovering := false, ats := [] }) (fnHost p) 4 0

/-- A domain faults (R435): it is switched off alone, its Clasps latch for good, and what it supplies is lost. Causes: 0 overcurrent, 1 SOFT_START,
2 sense lost, 3 phase loss. -/
def domainFault (s : State) (t : TileNo) (k : Fin 4) (cause : Nat) : State :=
  let x := getTile s t
  let b := domainBit k
  let s := setTile s t { x with
    faulted := x.faulted ||| b, clasped := x.clasped ||| b, claspFault := x.claspFault ||| b
    domainsUp := x.domainsUp &&& ~~~b, ramping := x.ramping &&& ~~~b, rampHeld := x.rampHeld &&& ~~~b }
  let s := raise s { code := 0x0063, part := tileOwner s t, tenants := true, args := [t.val, k.val, cause] }
  if k.val = 0 then makeHole s t
  else if k.val = 1 then goChanges (clustersLost s t)
  else if k.val = 2 then (tileStacks t).foldl (fun s st => withdrawStack s st 5) s
  else
    let s := match tilePort t with | some p => withdrawPort s p 5 | none => s
    match tileHost t with
    | some p => hostLost s p
    | none => s

/-- DOMAIN_OVERCURRENT (R435). -/
def execDomainOvercurrent (tile : TileNo) (k : Fin 4) (s : State) :=
  finishFuse s (if domainLive s tile k then domainFault s tile k 0 else s)

/-- VDDL_PHASE_LOSS (R435): with 14 or 15 phases CEIL is held at 0.90 GHz or below; with fewer the domain faults. -/
def execVddlPhaseLoss (tile : TileNo) (s : State) :=
  finishFuse s <|
    if !domainLive s tile 0 then s
    else
      let x := getTile s tile
      let x := { x with phases := x.phases - 1 }
      if x.phases.toNat < 14 then domainFault (setTile s tile x) tile 0 3
      else setTile s tile { x with ceil := min x.ceil (ceilCap x) }

/-- SENSE_LINE_OPEN (R431): VDDL has four sense points, the others two; the domain faults with the last. -/
def execSenseLineOpen (tile : TileNo) (k : Fin 4) (s : State) :=
  finishFuse s <|
    if !domainLive s tile k then s
    else
      let x := getTile s tile
      let n := tget 0 x.senseLost k.val + 1
      let s := setTile s tile { x with senseLost := tput 0 x.senseLost k.val n }
      if (if k = 0 then 4 else 2) ≤ n then domainFault s tile k 2 else s

/-- SOFT_START_TIMEOUT (R434): a ramping domain has not reached its set-point. -/
def execSoftStartTimeout (tile : TileNo) (k : Fin 4) (s : State) :=
  finishFuse s (if domainLive s tile k && (getTile s tile).ramping.getLsbD k.val then domainFault s tile k 1 else s)

/-! The bus (R427, R429, R436). -/

/-- The bus voltage: the higher of the pairs' (R427). -/
def busVolts (vA vB : BitVec 16) : Nat := max vA.toNat vB.toNat

/-- A BUS event: 0 droop, 1 recovered, 2 pair lost (R455). -/
def busEvent (s : State) (why : Nat) : State := raise s { code := 0x0064, args := [s.pw.vA.toNat, s.pw.vB.toNat, why] }

/-- BUS_DROOP (R436): every ramping domain holds its output. -/
def execBusDroop (vA vB : BitVec 16) (s : State) :=
  finish s <|
    if s.pw.stage != .main || s.pw.drooped || s.pw.busMin.toNat * 10 ≤ busVolts vA vB then s
    else busEvent { s with
      pw := { s.pw with vA := vA, vB := vB, drooped := true }
      tiles := tmap {} (fun _ x => { x with rampHeld := x.ramping }) s.tiles } 0

/-- RAMP_RESUME (R436): the bus has been 0.5 V above the threshold for 100 µs. -/
def execRampResume (vA vB : BitVec 16) (s : State) :=
  finish s <|
    if s.pw.stage != .main || !s.pw.drooped || busVolts vA vB < s.pw.busMin.toNat * 10 + 50 then s
    else busEvent { s with
      pw := { s.pw with vA := vA, vB := vB, drooped := false }
      tiles := tmap {} (fun _ x => { x with rampHeld := 0 }) s.tiles } 1

/-- RAMP_ABORT (R436): at a wake the tile returns to the state it left, refused by BUS_DROOP; at start-up the tile's ramp is tried once more, and a second
abort on the tile faults its domain. -/
def execRampAbort (tile : TileNo) (k : Fin 4) (s : State) :=
  finishFuse s <|
    let x := getTile s tile
    let b := domainBit k
    if !x.rampHeld.getLsbD k.val then s
    else if x.power == .waking then
      let s := setTile s tile { x with power := x.fromState, ramping := 0, rampHeld := 0, domainsUp := if x.fromState == .doze then 2 else 0 }
      takeHeld (refuse s tile (stateCode x.goal) (2 ^ 12)) tile
    else if x.rampRetried != 0 then domainFault s tile k 1
    else setTile s tile { x with rampHeld := x.rampHeld &&& ~~~b, rampRetried := x.rampRetried ||| b }

/-- BUS_PAIR_LOST (R429): the effective limit falls at the next tick. -/
def execBusPairLost (pair : BusPair) (v : BitVec 16) (s : State) :=
  finish s <|
    let other := match pair with | .A => s.pw.vB | .B => s.pw.vA
    if s.pw.stage != .main || 4400 ≤ v.toNat || other.toNat < 4400 then s
    else match pair with
      | .A => if s.pw.lostA then s else busEvent { s with pw := { s.pw with vA := v, lostA := true } } 2
      | .B => if s.pw.lostB then s else busEvent { s with pw := { s.pw with vB := v, lostB := true } } 2

/-- BUS_PAIR_RECOVERED (R429). -/
def execBusPairRecovered (pair : BusPair) (v : BitVec 16) (s : State) :=
  finish s <|
    if s.pw.stage != .main || v.toNat < 4400 then s
    else match pair with
      | .A => if s.pw.lostA then busEvent { s with pw := { s.pw with vA := v, lostA := false } } 1 else s
      | .B => if s.pw.lostB then busEvent { s with pw := { s.pw with vB := v, lostB := false } } 1 else s

end Sys2Proof.Machine
end

