-- ==== Sys2Proof/Machine/Mgmt.lean ====
section
/-!
DEFINITION. The management endpoint (R403, R478 to R480): MCTP control, PLDM for monitoring and control, and the SMBus messages held. The fields that
the MCTP and PLDM standards add to an answer and the spec does not state are presumed from those standards.
-/
namespace Sys2Proof.Machine
open Sys2Proof

/-- A message that arrives on a binding that carries messages gets its answer there (R478, R479). -/
def onBinding (s : State) (b : Binding) (f : State → State × MgmtMsg) : State :=
  if bindingUp s b then let r := f s; reply r.1 b r.2 else s

/-- Place of a binding's endpoint ID (R479: one, assigned by the bus owner of each binding). -/
def bindingIndex : Binding → Nat
  | .smbus => 0
  | .vdm p => 1 + p.val

/-- MCTP message types (R479). -/
def messageTypes : List Byte := [0x00, 0x01, 0x7E]

/-- PLDM commands by type (R480). -/
def pldmCommands : Nat → List Byte
  | 0 => [0x01, 0x02, 0x03, 0x04, 0x05]
  | 2 => [0x04, 0x0A, 0x11, 0x21, 0x50, 0x51]
  | _ => []

/-- Highest T over all tiles (R480). -/
def hottestTile (s : State) : Int := allTiles.foldl (fun m t => max m (getTile s t).temp) (getTile s 0).temp

/-- A numeric sensor of R480, in the units of the register it reports. -/
def numericSensor (s : State) (n : Nat) : Option Int :=
  if n = 1 then some s.pw.power.toNat
  else if n = 2 then some s.pw.vA.toNat
  else if n = 3 then some s.pw.vB.toNat
  else if n = 4 then some (hottestTile s)
  else if 5 ≤ n ∧ n ≤ 68 then some (getTile s (Fin.ofNat 64 (n - 5))).temp
  else none

/-! MCTP control (R479). -/

/-- SETENDPOINTID. -/
def execSetEndpointId (b : Binding) (eid : Byte) (s : State) :=
  finish s <| onBinding s b fun s =>
    if eid = 0 ∨ eid = 0xFF then (s, .error)
    else ({ s with weala := { s.weala with eids := tput 0 s.weala.eids (bindingIndex b) eid } }, .endpointIdSet eid)

/-- GETENDPOINTID. -/
def execGetEndpointId (b : Binding) (s : State) := finish s <| onBinding s b fun s => (s, .endpointId (tget 0 s.weala.eids (bindingIndex b)))

/-- GETENDPOINTUUID. -/
def execGetEndpointUuid (b : Binding) (s : State) := finish s <| onBinding s b fun s => (s, .uuid Config.uuid)

/-- GETMCTPVERSIONSUPPORT: the versions are not stated, so the one given is free. -/
def execGetMctpVersionSupport (b : Binding) (msgType : Byte) (s : State) :=
  finish s <| onBinding s b fun s =>
    if messageTypes.contains msgType then let (w, s) := freshWord s; (s, .versions [w.extractLsb' 0 32]) else (s, .error)

/-- GETMESSAGETYPESUPPORT. -/
def execGetMessageTypeSupport (b : Binding) (s : State) := finish s <| onBinding s b fun s => (s, .types messageTypes)

/-! PLDM type 0 (R480). -/

/-- GETTID. -/
def execGettid (b : Binding) (s : State) := finish s <| onBinding s b fun s => (s, .tid s.weala.tid)

/-- SETTID. -/
def execSettid (b : Binding) (tid : Byte) (s : State) :=
  finish s <| onBinding s b fun s =>
    if tid = 0 ∨ tid = 0xFF then (s, .error) else ({ s with weala := { s.weala with tid := tid } }, .done)

/-- GETPLDMVERSION: the version is free. -/
def execGetpldmversion (b : Binding) (pldmType : Byte) (s : State) :=
  finish s <| onBinding s b fun s =>
    if pldmCommands pldmType.toNat = [] then (s, .error) else let (w, s) := freshWord s; (s, .versions [w.extractLsb' 0 32])

/-- GETPLDMTYPES. -/
def execGetpldmtypes (b : Binding) (s : State) := finish s <| onBinding s b fun s => (s, .types [0, 2])

/-- GETPLDMCOMMANDS. -/
def execGetpldmcommands (b : Binding) (pldmType : Byte) (s : State) :=
  finish s <| onBinding s b fun s =>
    if pldmCommands pldmType.toNat = [] then (s, .error) else (s, .commands (pldmCommands pldmType.toNat))

/-! PLDM type 2 (R480). -/

/-- GETPDRREPOSITORYINFO: one record for each of the 71 sensors. -/
def execGetpdrrepositoryinfo (b : Binding) (s : State) := finish s <| onBinding s b fun s => (s, .pdrInfo 71)

/-- GETPDR: record 0 names the first. -/
def execGetpdr (b : Binding) (record : Nat) (s : State) :=
  finish s <| onBinding s b fun s =>
    let n := if record = 0 then 1 else record
    if n ≤ 71 then (s, .pdr n n) else (s, .error)

/-- GETSENSORREADING. -/
def execGetsensorreading (b : Binding) (sensor : Nat) (s : State) :=
  finish s <| onBinding s b fun s =>
    match numericSensor s sensor with
    | some v => (s, .reading sensor v)
    | none => (s, .error)

/-- GETSTATESENSORREADINGS. -/
def execGetstatesensorreadings (b : Binding) (sensor : Nat) (s : State) :=
  finish s <| onBinding s b fun s => if 69 ≤ sensor ∧ sensor ≤ 71 then (s, .stateReading sensor (stateSensor s sensor)) else (s, .error)

/-- SETEVENTRECEIVER. -/
def execSeteventreceiver (b : Binding) (eid : Byte) (s : State) :=
  finish s <| onBinding s b fun s => ({ s with weala := { s.weala with receiver := some (b, eid) } }, .done)

/-! The SMBus bus owner (R478, R479). -/

/-- MCTPMESSAGEREAD: the oldest message held is read; SMB_ALERT_N is released with the last. -/
def execMctpMessageRead (s : State) :=
  finish s (if bindingUp s .smbus then { s with weala := { s.weala with smbOut := s.weala.smbOut.drop 1 } } else s)

/-- SMBUSCLOCKLOWTIMEOUT (R478): the transfer in hand is given up and both lines are released. A message is one command here, taken whole, so
there is no part of one to discard; a message that is held stays held. -/
def execSmbusClockLowTimeout (s : State) := finish s s

/-- The module's SMBus address (R478). -/
def smbusAddress : Nat := 0x6C + Config.smbStraps.toNat

end Sys2Proof.Machine
end

