-- ==== Sys2Proof/Machine/MoePlace.lean ====
section
/-!
DEFINITION. The placement of token assignments (R199 to R205): lists, capacity policies, receive areas and records. Pure arithmetic on the
participants' route records.
-/
namespace Sys2Proof.Machine
open Sys2Proof

/-- An assignment of a token: the rank of its originating choice, the participant's position, the token's index. -/
structure Assign where
  rank : Nat
  part : Nat
  tok : Nat
  deriving DecidableEq, Repr

/-- A place in an expert's list: the assignment, the rank of the route record it came by, and its position. -/
structure Listed where
  a : Assign
  expert : Nat
  record : Nat
  pos : Nat
  deriving DecidableEq, Repr

/-- What the count phase works on: the experts that each participant's tokens name, by rank; and the agreed parameters. -/
structure PlaceIn where
  experts : List (List (List Nat))
  k : Nat
  kalt : Nat
  cap : Nat
  policy : Nat
  replMax : Nat

/-- Expert of a token's record. -/
def PlaceIn.expert (x : PlaceIn) (a : Assign) (record : Nat) : Nat :=
  ((((x.experts[a.part]?).getD [])[a.tok]?).getD [])[record]?.getD 0

/-- Join the ends of the lists, in the order given: the places, and the lists' lengths after them (R199). -/
def joinLists (x : PlaceIn) (lens : Tbl Nat) (l : List (Assign × Nat)) : List Listed × Tbl Nat :=
  l.foldl
    (fun acc e =>
      let ex := x.expert e.1 e.2
      let n := tget 0 acc.2 ex
      (acc.1 ++ [{ a := e.1, expert := ex, record := e.2, pos := n }], tput 0 acc.2 ex (n + 1)))
    ([], lens)

/-- Every chosen assignment, by rank, participant and token: round 0. -/
def roundZero (x : PlaceIn) : List (Assign × Nat) :=
  (List.range x.k).flatMap fun c =>
    x.experts.zipIdx.flatMap fun p => (List.range p.1.length).map fun i => ({ rank := c, part := p.2, tok := i }, c)

/-- Overflows take their tokens' next unused alternates, in ascending rank of the choices; `used` counts a token's alternates taken. -/
def takeAlternates (x : PlaceIn) (used : Tbl Nat) (over_ : List Assign) : List (Assign × Nat) × Tbl Nat :=
  over_.foldl
    (fun acc a =>
      let key := a.part * 65536 + a.tok
      let n := tget 0 acc.2 key
      if n < x.kalt then (acc.1 ++ [(a, x.k + n)], tput 0 acc.2 key (n + 1)) else acc)
    ([], used)

/-- The rounds of SPILL (R201), at most `fuel` more: every place taken. -/
def spillRounds (x : PlaceIn) : Nat → Tbl Nat → Tbl Nat → List Listed → List Listed
  | 0, _, _, fresh => fresh
  | n + 1, lens, used, fresh =>
    let alt := takeAlternates x used ((fresh.filter fun e => decide (x.cap ≤ e.pos)).map (·.a))
    let next := joinLists x lens alt.1
    fresh ++ spillRounds x n next.2 alt.2 next.1

/-- Every place of every list. -/
def allListed (x : PlaceIn) : List Listed :=
  let r0 := joinLists x [] (roundZero x)
  if x.policy = 1 then spillRounds x x.kalt r0.2 [] r0.1 else r0.1

/-- Length of an expert's list. -/
def listLength (l : List Listed) (e : Nat) : Nat := (l.filter fun v => v.expert == e).length

/-- Replicas of an expert whose list has n places (R200). -/
def replicasFor (x : PlaceIn) (nrepl n : Nat) : Nat :=
  if x.policy = 0 && decide (x.cap < n) then min (min ((n + x.cap - 1) / x.cap) x.replMax) nrepl else 1
/-- Kept positions. -/
def keptOf (x : PlaceIn) (r n : Nat) : Nat := if x.policy = 0 then min n (r * x.cap) else min n x.cap
/-- First position of replica q, and the replica that receives a position. -/
def replicaFirst (kept r q : Nat) : Nat := q * kept / r
def replicaOf (kept r pos : Nat) : Nat :=
  ((List.range r).find? fun q => decide (replicaFirst kept r q ≤ pos ∧ pos < replicaFirst kept r (q + 1))).getD 0

/-- An expert after the count: its list, its cores, its replicas and kept rows. -/
structure ExpertRows where
  expert : Nat
  cores : List CoreNo
  rows : List Listed
  r : Nat
  kept : Nat

/-- The experts of a set after the count. -/
def countExperts (x : PlaceIn) (cores : List (List CoreNo)) : List ExpertRows :=
  let l := allListed x
  cores.zipIdx.map fun e =>
    let rows := l.filter fun v => v.expert == e.2
    let r := replicasFor x e.1.length rows.length
    { expert := e.2, cores := e.1, rows := rows, r := r, kept := keptOf x r rows.length }

/-- One directory entry of a core: expert, replica, first row, rows (R202). -/
structure DirEntry where
  expert : Nat
  replica : Nat
  first : Nat
  rows : List Listed

/-- The entries of a core, sorted by expert and replica, with their rows one after another. -/
def coreEntries (xs : List ExpertRows) (c : CoreNo) : List DirEntry :=
  let mine := xs.flatMap fun e =>
    ((List.range e.r).filter fun q => e.cores[q]? == some c).map fun q =>
      (e.expert, q, (e.rows.take (replicaFirst e.kept e.r (q + 1))).drop (replicaFirst e.kept e.r q))
  (mine.foldl (fun (acc : List DirEntry × Nat) v =>
    (acc.1 ++ [{ expert := v.1, replica := v.2.1, first := acc.2, rows := v.2.2 }], acc.2 + v.2.2.length)) ([], 0)).1

/-- Rows that a core receives, in order. -/
def coreRows (d : List DirEntry) : List Listed := d.flatMap (·.rows)

/-- A directory: its header and its entries (R202). -/
def directoryBytes (layer mb : Nat) (valid : Bool) (d : List DirEntry) : List Byte :=
  bytesOf 64 (place (coreRows d).length 0 32 + place d.length 32 16 + place (if valid then 1 else 0) 48 1 + place mb 64 32 + place layer 96 16)
    ++ d.flatMap fun e => bytesOf 16 (place e.expert 0 13 + place e.replica 13 3 + place e.first 16 24 + place e.rows.length 40 24)

/-- Where an assignment's row is received: core, row and the place it took; none where it was dropped. -/
def placeOf (dirs : List (CoreNo × List DirEntry)) (a : Assign) : Option (CoreNo × Nat × Listed) :=
  dirs.findSome? fun d =>
    match (coreRows d.2).findIdx? fun v => v.a == a with
    | none => none
    | some i => ((coreRows d.2)[i]?).map fun v => (d.1, i, v)

/-- A placement record (R203). Of a dropped choice the spec states no EXPERT and no RECORD: they are free (log 23). -/
def placementRecord (dirs : List (CoreNo × List DirEntry)) (free : Nat) (a : Assign) : Nat :=
  match placeOf dirs a with
  | some (c, row, v) =>
    place c.val 0 8 + place row 8 24 + place v.expert 32 13 + place v.record 45 3 + place (if v.record = a.rank then 0 else 1) 48 2
  | none => place free 32 16 + place 2 48 2

/-- The placement records of a participant; `free` numbers the free values it may take. -/
def placements (x : PlaceIn) (dirs : List (CoreNo × List DirEntry)) (free part tokens : Nat) : List Byte :=
  (List.range (tokens * x.k)).flatMap fun i =>
    bytesOf 8 (placementRecord dirs (Config.freeWord (free + i)).toNat { rank := i % x.k, part := part, tok := i / x.k })

/-- Assignments in all, dropped ones, and those that moved to an alternate. -/
def assignmentCount (x : PlaceIn) : Nat := (roundZero x).length
def droppedCount (x : PlaceIn) (xs : List ExpertRows) : Nat := assignmentCount x - (xs.map fun e => e.kept).sum
def spilledCount (x : PlaceIn) (xs : List ExpertRows) : Nat :=
  ((xs.flatMap fun e => e.rows.filter fun v => decide (x.k ≤ v.record)).map (·.a)).eraseDups.length

/-- The summary (R204). -/
def summaryBytes (x : PlaceIn) (xs : List ExpertRows) : List Byte :=
  bytesOf 64 (place (assignmentCount x) 0 48 + place (droppedCount x xs) 64 48 + place (spilledCount x xs) 128 48
      + place (xs.filter fun e => decide (1 < e.r)).length 176 16)
    ++ xs.flatMap fun e => bytesOf 4 (place e.r 0 4 + place e.kept 4 24 + place (if e.kept < e.rows.length then 1 else 0) 28 1)

/-- The checks of one participant's route records (R205). -/
def recordsOk (nExperts k n : Nat) (recs : List Nat) : Bool :=
  (groupsOf n recs.length recs).all fun g =>
    let es := g.map fun r => bits r 0 13
    g.zipIdx.all (fun e => decide (bits e.1 0 13 < nExperts) && bits e.1 13 3 == e.2 && e.1.testBit 16 == decide (k ≤ e.2)) && decide es.Nodup

end Sys2Proof.Machine
end

