-- ==== Sys2Proof/Machine/MoeDispatch.lean ====
section
/-!
DEFINITION. DISPATCH and its backward form (R198 to R206, R208, R322).
-/
namespace Sys2Proof.Machine
open Sys2Proof

/-! Fields (R322). -/
def diSet (t : Task) : Nat := t.f 256 2
def diLayer (t : Task) : Nat := t.f 258 16
def diMicro (t : Task) : Nat := t.f 274 32
def diCap (t : Task) : Nat := t.f 306 24
def diPolicy (t : Task) : Nat := t.f 330 2
def diReplMax (t : Task) : Nat := t.f 332 4
def diK (t : Task) : Nat := t.f 336 4
def diKalt (t : Task) : Nat := t.f 340 4
def diH (t : Task) : Nat := t.f 344 17
def diFmt (t : Task) : Nat := t.f 361 4
def diT (t : Task) : Nat := t.f 365 17
def diTokenBase (t : Task) : Nat := t.f 384 32
def diRecvRows (t : Task) : Nat := t.f 416 24
def diDirOff (t : Task) : Nat := t.f 448 28
def diRidOff (t : Task) : Nat := t.f 476 28
def diRowsOff (t : Task) : Nat := t.f 512 28
def diRoute (t : Task) : Nat := t.addr 576
def diSrc (t : Task) : Nat := t.addr 640
def diPlace (t : Task) : Nat := t.addr 704
def diSummary (t : Task) : Nat := t.addr 768
def diTally (t : Task) : Nat := t.addr 832
/-- Bytes of a row. -/
def diRow (t : Task) : Nat := elemBytes (fmtD (diFmt t)) (diH t)

/-- The checks of DISPATCH (R198). The count phase makes those of the records and ranges (R205); the backward form has none, and needs none
of its fields. -/
def dispatchFails (s : State) (c : CoreNo) (t : Task) : List Fail :=
  let m := (getPart s t.part).map
  let fwd := !t.bwd
  bodyFails t
    [(256, 2, true), (258, 16, true), (274, 32, true), (306, 24, fwd), (330, 2, fwd), (332, 4, fwd && diPolicy t == 0), (336, 4, true),
     (340, 4, fwd), (344, 17, true), (361, 4, true), (365, 17, true), (384, 32, fwd), (416, 24, fwd), (448, 28, fwd), (476, 28, fwd),
     (512, 28, true), (576, 56, fwd), (640, 56, true), (704, 56, true), (768, 56, fwd), (832, 56, fwd)]
    ++ headerFails s t ++ footprintFails s c t
    ++ need (isPlain (diFmt t)) stFormat 45
    ++ need (decide (1 ≤ diK t ∧ diK t ≤ 8)) stParam 42 ++ need (decide (1 ≤ diH t ∧ diH t ≤ 65536)) stParam 43
    ++ need (decide (diT t ≤ 65536)) stParam 45
    ++ (if fwd then
          need (decide (1 ≤ diCap t)) stParam 38 ++ need (decide (diPolicy t ≤ 2)) stParam 41
            ++ need (diPolicy t != 0 || decide (1 ≤ diReplMax t ∧ diReplMax t ≤ 8)) stParam 41
            ++ need (decide (diK t + diKalt t ≤ 8)) stParam 42
            ++ need (diTally t == 0 || tallyOk (diTally t)) stParam 104
        else rangeFails s t [(.read, diPlace t, 8 * diT t * diK t, 88), (.write, diSrc t, diT t * diRow t, 80)])
    ++ need ((participants m).contains c && decide (diSet t < mapNSets m)) stPhaseMap 32
    ++ need (t.bwd || (participants m).all (coreAvailable s)) stCore 3 ++ cornerFails s t

/-- Only participant 0 may name a summary (R204). -/
def summaryWrong (s : State) (c : CoreNo) (t : Task) : Bool := diSummary t != 0 && (participants (getPart s t.part).map).head? != some c

/-- A DISPATCH fetches its route records and its tokens' rows, as far as its context may read them, and joins its collective. -/
def dispatchJoin (c : CoreNo) (k : SlotNo) (s : State) (t : Task) : State :=
  if t.bwd || (getSlot s c k).joined then s
  else if summaryWrong s c t then breakColl s c k t stDispatchMismatch
  else
    let reads := [(diRoute t, 8 * (diT t * (diK t + diKalt t))), (diSrc t, diT t * diRow t)].filter fun r => rangeOk s t.ctx .read r.1 r.2
    let w := (startWork s c k t).fetchAll reads
    if w.halted then finishWork s w c k .route else joinColl s c k t

/-- DISPATCH (R198). -/
def execDispatch (core : CoreNo) (slot : SlotNo) (s : State) := finish s (runTask s core slot .dispatch (dispatchJoin core slot))

/-! The count phase (R199 to R206). -/

/-- The members in participant order. -/
def inOrder (s : State) (x : Coll) : List (CoreNo × SlotNo × Task) :=
  (participants (getPart s x.first.part).map).filterMap (memberOf x)

/-- A member's operand store. -/
def memberView (s : State) (m : CoreNo × SlotNo × Task) : State := (startWork s m.1 m.2.1 m.2.2).view

/-- The route records of a member, or the status with which they cannot be read. -/
def memberRecords (s : State) (m : CoreNo × SlotNo × Task) : Except (BitVec 8) (List Nat) :=
  let t := m.2.2
  let n := diT t * (diK t + diKalt t)
  if rangeOk s t.ctx .read (diRoute t) (8 * n) then .ok ((List.range n).map fun i => memNat (memberView s m) (diRoute t + 8 * i) 8) else .error stRange

/-- The lowest of some statuses. -/
def lowestStatus (l : List (BitVec 8)) : Option (BitVec 8) :=
  match l with
  | [] => none
  | a :: r => some (r.foldl (fun m e => if e.toNat < m.toNat then e else m) a)

/-- The cores of each expert of a set. -/
def setCores (m : List Byte) (k : Nat) : List (List CoreNo) := (List.range (setExperts m k)).map fun e => exReplicas (expertEntry m k e)

/-- The ranges of a member that the count phase checks (R205): its tokens, placements and receive area, and the summary. -/
def memberRanges (t : Task) (c : CoreNo) (d : List DirEntry) (nExperts : Nat) : List (Right × Nat × Nat) :=
  let rows := (coreRows d).length
  [(.read, diSrc t, diT t * diRow t), (.write, diPlace t, 8 * diT t * diK t), (.write, cmemBase c + diDirOff t, 64 + 16 * d.length),
   (.write, cmemBase c + diRidOff t, 4 * rows), (.write, cmemBase c + diRowsOff t, rows * diRow t)]
    ++ (if diSummary t = 0 then [] else [(.write, diSummary t, 64 + 4 * nExperts)])
    ++ (if diTally t = 0 then [] else [(.add, diTally t, 8)])

/-- The rows that one participant sends to one receive area, with their identifiers (R202, R206). -/
def memberRows (s : State) (m : CoreNo × SlotNo × Task) (part : Nat) (d : CoreNo × List DirEntry) : List Out :=
  let t := m.2.2
  let n := diRow t
  let mine := (coreRows d.2).zipIdx.filter fun e => e.1.a.part == part
  let rows := mine.map fun e => (cmemBase d.1 + diRowsOff t + e.2 * n, memBytes (memberView s m) (diSrc t + e.1.a.tok * n) n)
  let ids := mine.map fun e => (cmemBase d.1 + diRidOff t + 4 * e.2, bytesOf 4 (diTokenBase t + e.1.a.tok))
  (storePieces rows ++ storePieces ids).map .store

/-- What one participant stores (R206): in step 3 its placements and its directory with VALID 0, participant 0 the summary and then its tally; in step 4
its rows. -/
def memberOuts (s : State) (x : PlaceIn) (xs : List ExpertRows) (dirs : List (CoreNo × List DirEntry)) (free : Nat)
    (e : (CoreNo × SlotNo × Task) × Nat) : List Out :=
  let c := e.1.1
  let t := e.1.2.2
  let d := ((dirs.find? fun v => v.1 == c).map (·.2)).getD []
  let summary : List Out :=
    if e.2 = 0 && diSummary t != 0 then
      (storePieces [(diSummary t, summaryBytes x xs)]).map .store ++ (if diTally t = 0 then [] else [.barrier, .tally (diTally t) 1])
    else []
  (storePieces [(diPlace t, placements x dirs free e.2 (diT t))]).map .store
    ++ (storePieces [(cmemBase c + diDirOff t, directoryBytes (diLayer t) (diMicro t) false d)]).map .store
    ++ summary ++ [.barrier] ++ dirs.flatMap (memberRows s e.1 e.2)

/-- The records of each member, or the statuses with which they cannot be used (R206). -/
def countLists (s : State) (x : Coll) : List (List Nat) :=
  ((inOrder s x).map (memberRecords s)).map fun r => match r with | .ok l => l | .error _ => []
def countReadFails (s : State) (p : PartNo) (x : Coll) : List (BitVec 8) :=
  let t := x.first
  let recs := (inOrder s x).map (memberRecords s)
  (recs.filterMap fun r => match r with | .error st => some st | .ok _ => none)
    ++ (if (countLists s x).all (recordsOk (setExperts (getPart s p).map (diSet t)) (diK t) (diK t + diKalt t)) then [] else [stRouteRecord])

/-- What the placement works on, the rows of each expert, and each member's directory. -/
def countInput (s : State) (x : Coll) : PlaceIn :=
  let t := x.first
  let n := diK t + diKalt t
  { experts := (countLists s x).map fun l => (groupsOf n l.length l).map fun g => g.map fun r => bits r 0 13
    k := diK t, kalt := diKalt t, cap := diCap t, policy := diPolicy t, replMax := diReplMax t }
def countRows (s : State) (p : PartNo) (x : Coll) : List ExpertRows := countExperts (countInput s x) (setCores (getPart s p).map (diSet x.first))
def countDirs (s : State) (p : PartNo) (x : Coll) : List (CoreNo × List DirEntry) := (inOrder s x).map fun e => (e.1, coreEntries (countRows s p x) e.1)

/-- The statuses of the checks that need the placement: ranges and room (R206). -/
def countFails (s : State) (p : PartNo) (x : Coll) : List (BitVec 8) :=
  ((inOrder s x).zip (countDirs s p x)).flatMap fun e =>
    let u := e.1.2.2
    ((memberRanges u e.1.1 e.2.2 (setExperts (getPart s p).map (diSet x.first))).flatMap fun r => if rangeOk s u.ctx r.1 r.2.1 r.2.2 then [] else [stRange])
      ++ (if diRecvRows u < (coreRows e.2.2).length then [stReceiveSpace] else [])

/-- A participant's store engine takes what the count phase gave it. -/
def giveOuts (s : State) (m : CoreNo × SlotNo × Task) (outs : List Out) : State :=
  let sl := getSlot s m.1 m.2.1
  drainSlot (setSlot s m.1 m.2.1 { sl with outs := outs, outsReady := true }) m.1 m.2.1

/-- Steps 3 and 4 begin, and the counts of R220 grow. The free values are numbered on, participant by participant. -/
def countStores (s : State) (p : PartNo) (x : Coll) : State :=
  let xi := countInput s x
  let xs := countRows s p x
  let dirs := countDirs s p x
  let members := (inOrder s x).zipIdx
  let per := 65536 * 8
  let all := members.map fun e => (e.1, memberOuts s xi xs dirs (s.freeCtr + e.2 * per) e)
  let q := getPart s p
  let s := setPart { s with freeCtr := s.freeCtr + members.length * per } p
    { q with dropped := satAdd q.dropped (droppedCount xi xs), spilled := satAdd q.spilled (spilledCount xi xs) }
  all.foldl (fun s e => giveOuts s e.1 e.2) s

/-- The coordinator's count phase (R206, steps 2 to 4). -/
def countPhase (s : State) (p : PartNo) (x : Coll) : State :=
  let t := x.first
  match lowestStatus (countReadFails s p x) with
  | some st => endColl s t x st
  | none =>
    match lowestStatus (countFails s p x) with
    | some st => endColl s t x st
    | none => setColl (countStores s p x) t { x with stage := 2 }

/-- DISPATCH_COUNT_PHASE (R206). -/
def execDispatchCountPhase (p : PartNo) (key : Nat) (s : State) :=
  finish s <|
    match (getPart s p).colls.find? fun x => x.first.op == some .dispatch && x.key == key && x.stage == 1 with
    | none => s
    | some x => if resettingPart s p then s else countPhase s p x

/-- A store into a core's cluster memory. -/
def intoCmem (c : CoreNo) (a : Nat) : Bool := decide (cmemBase c ≤ a ∧ a < cmemBase c + 2 ^ 28)

/-- A slot has a store into a core's cluster memory that is not over. -/
def storingInto (s : State) (c : CoreNo) (m : CoreNo × SlotNo × Task) : Bool :=
  let co := getCore s m.1
  let sl := coreSlot co m.2.1
  (sl.storeTags.any fun x => x.parts.any fun r => intoCmem c r.1)
    || (co.storeQueue.any fun e => e.1 == m.2.1 && e.2.any fun r => intoCmem c r.1)
    || sl.outs.any fun o => match o with
      | .store p => p.any fun r => intoCmem c r.1
      | _ => false

/-- A participant's step 3 is over: the barrier behind it has been passed. -/
def step3Over (s : State) (m : CoreNo × SlotNo × Task) : Bool :=
  !(getSlot s m.1 m.2.1).outs.any fun o => match o with
    | .barrier => true
    | _ => false

/-- DISPATCH_DIRECTORY_VALID (R206, step 5): every row for a participant has landed, so its directory becomes valid; its DISPATCH completes with
that and its own rows. -/
def execDispatchDirectoryValid (core : CoreNo) (slot : SlotNo) (s : State) :=
  finish s <|
    match (getSlot s core slot).task with
    | none => s
    | some t =>
      match findColl s t with
      | none => s
      | some x =>
        let mine := x.members.any fun m => m.1 == core && m.2.1 == slot && memberRuns s m
        let ready := x.members.all fun m => !memberRuns s m || (step3Over s m && !storingInto s core m)
        if !(t.op == some .dispatch && x.stage == 2 && mine && ready) then s
        else
          let sl := getSlot s core slot
          let a := cmemBase core + diDirOff t
          leaveColl (endTask s core slot stOk 0 (sl.outs ++ [.store [(a + 6, [1])]]) false) t

/-! The backward form (R208). -/

/-- Fields of a placement record (R203). -/
def plCore (r : Nat) : CoreNo := Fin.ofNat 256 (bits r 0 8)
def plRow (r : Nat) : Nat := bits r 8 24
def plDropped (r : Nat) : Bool := bits r 48 2 == 2

/-- Where the expert-side rows of a token's kept choices lie (R203, R208). -/
def gatherPlaces (t : Task) (v : State) (i : Nat) : List Nat :=
  let pl := (List.range (diK t)).map fun j => memNat v (diPlace t + 8 * (i * diK t + j)) 8
  (pl.filter fun r => !plDropped r).map fun r => cmemBase (plCore r) + diRowsOff t + plRow r * diRow t

/-- A token's gradient row: the expert-side rows of its kept choices, summed in ascending order (R208). -/
def gatherRow (t : Task) (v : State) (i : Nat) : List Byte :=
  let f := fmtD (diFmt t)
  let y := (gatherPlaces t v i).foldl
    (fun y a => zip3 f32Add y ((List.range (diH t)).map fun e => toF32 f (some 0) (elemCode (memByte v) f a e)))
    (List.replicate (diH t) f32Zero)
  packBytes f.width (y.map (convertTo f false))

/-- One token of a DISPATCH with BWD set. -/
def gatherToken (t : Task) (w : Work) (i : Nat) : Work :=
  (w.fetchAll ((gatherPlaces t w.view i).map fun a => (a, diRow t))).andThen fun w => w.store (diSrc t + i * diRow t) (gatherRow t w.view i)

/-- The transfers and sums of a DISPATCH with BWD set. -/
def dispatchBwdRun (c : CoreNo) (k : SlotNo) (s : State) (t : Task) : Work :=
  ((startWork s c k t).fetch (diPlace t) (8 * diT t * diK t)).andThen fun w => (List.range (diT t)).foldl (gatherToken t) w

/-- The work of a DISPATCH with BWD set. -/
def dispatchBwdWork (c : CoreNo) (k : SlotNo) (s : State) (t : Task) : State := if !t.bwd then s else finishWork s (dispatchBwdRun c k s t) c k .route

/-- DISPATCH_BWD (R208). -/
def execDispatchBwd (core : CoreNo) (slot : SlotNo) (s : State) := finish s (runTask s core slot .dispatch (dispatchBwdWork core slot))

end Sys2Proof.Machine
end

