-- ==== Sys2Proof/Machine/MoeRoute.lean ====
section
/-!
DEFINITION. ROUTE and its backward form (R194 to R197, R209, R322).
-/
namespace Sys2Proof.Machine
open Sys2Proof

/-! Fields (R322). -/
def roT (t : Task) : Nat := t.f 256 17
def roE (t : Task) : Nat := t.f 273 14
def roK (t : Task) : Nat := t.f 287 4
def roKalt (t : Task) : Nat := t.f 291 4
def roScore (t : Task) : Nat := t.f 295 2
def roNorm (t : Task) : Bool := t.b 297
def roCensus (t : Task) : Bool := t.b 298
def roScale (t : Task) : F32 := t.fp 320
def roZ (t : Task) : Nat := t.addr 384
def roOut (t : Task) : Nat := t.addr 448
def roBias (t : Task) : Nat := t.addr 512
def roDw (t : Task) : Nat := t.addr 576
def roDz (t : Task) : Nat := t.addr 640
/-- Records of a token. -/
def roStride (t : Task) : Nat := roK t + roKalt t

/-- The checks of ROUTE (R194). BIAS and CENSUS belong to the selection, which the backward form does not make. -/
def routeFails (s : State) (c : CoreNo) (t : Task) : List Fail :=
  let bytes := 8 * roT t * roStride t
  bodyFails t
    [(256, 17, true), (273, 14, true), (287, 4, true), (291, 4, true), (295, 2, true), (297, 1, true), (298, 1, !t.bwd), (320, 32, true),
     (384, 56, true), (448, 56, true), (512, 56, !t.bwd), (576, 56, t.bwd), (640, 56, t.bwd)]
    ++ headerFails s t ++ footprintFails s c t
    ++ need (decide (1 ≤ roT t ∧ roT t ≤ 65536)) stParam 32 ++ need (decide (1 ≤ roE t ∧ roE t ≤ 8192)) stParam 34
    ++ need (decide (1 ≤ roK t ∧ roK t ≤ 8)) stParam 35
    ++ need (decide (roK t + roKalt t ≤ 8 ∧ roK t + roKalt t ≤ roE t)) stParam 36
    ++ need (decide (roScore t ≤ 2)) stParam 36 ++ need (!(roNorm t && roScore t == 2)) stParam 37
    ++ rangeFails s t
      ([(.read, roZ t, 4 * roT t * roE t, 48), (if t.bwd then .read else .write, roOut t, bytes, 56)]
        ++ (if roBias t = 0 then [] else [(.read, roBias t, 4 * roE t, 64)])
        ++ (if t.bwd then [(.read, roDw t, 4 * roT t * roK t, 72), (.write, roDz t, 4 * roT t * roE t, 80)] else []))

/-! Selection (R195). -/

/-- Expert a ranks above expert b, by key, +0 and −0 being equal, then by number. -/
def ranksAbove (a b : F32 × Nat) : Bool :=
  if f32IsZero a.1 && f32IsZero b.1 then decide (a.2 < b.2)
  else if f32IsNan a.1 && f32IsNan b.1 then decide (a.2 < b.2)
  else if f32IsNan a.1 then true
  else if f32IsNan b.1 then false
  else if f32Key a.1 = f32Key b.1 then decide (a.2 < b.2)
  else decide (f32Key b.1 < f32Key a.1)

/-- The highest of some experts. -/
def topRanked : List (F32 × Nat) → Option (F32 × Nat)
  | [] => none
  | e :: r => match topRanked r with
    | none => some e
    | some b => some (if ranksAbove e b then e else b)

/-- The first n experts in rank order. -/
def rankFirst : Nat → List (F32 × Nat) → List Nat
  | 0, _ => []
  | n + 1, l => match topRanked l with
    | none => []
    | some b => b.2 :: rankFirst n (l.filter fun e => e.2 != b.2)

/-- The experts of a token's records, in rank order. -/
def selectExperts (n : Nat) (z : List F32) (bias : Option (List F32)) : List Nat :=
  let keys := match bias with | none => z | some b => zip3 f32Add z b
  rankFirst n keys.zipIdx

/-! Weights (R196). -/

/-- A sum in ascending order from +0. -/
def sumUp (l : List F32) : F32 := l.foldl f32Add f32Zero

def logitOf (z : List F32) (e : Nat) : F32 := (z[e]?).getD f32Zero

/-- s, p or the raw exponentials of the chosen experts: the weight before NORM. -/
def routeU (gen score : Nat) (z : List F32) (chosen : List Nat) : List F32 :=
  let zc := chosen.map (logitOf z)
  match score with
  | 0 => zc.map (vecFn gen .sigmoid)
  | 1 =>
    let m := z.foldl f32Max f32NegInf
    let p := (pairsum (z.map fun v => vecFn gen .exp (f32Sub v m))).toF32
    zc.map fun v => f32Div (vecFn gen .exp (f32Sub v m)) p
  | _ =>
    let z0 := zc.headD f32Zero
    let ex := zc.map fun v => vecFn gen .exp (f32Sub v z0)
    ex.map fun v => f32Div v (sumUp ex)

/-- u after NORM. -/
def routeNorm (norm : Bool) (u : List F32) : List F32 := if norm then u.map fun v => f32Div v (sumUp u) else u

/-- w of the chosen experts. -/
def routeWeights (gen score : Nat) (norm : Bool) (scale : F32) (z : List F32) (chosen : List Nat) : List F32 :=
  (routeNorm norm (routeU gen score z chosen)).map fun v => f32Mul v scale

/-- A route record (R197). -/
def routeRecord (expert rank : Nat) (alt : Bool) (w : F32) : Nat :=
  place expert 0 13 + place rank 13 3 + place (if alt then 1 else 0) 16 1 + place w.toNat 32 32

/-- The records of a token, and its weights. -/
def routeToken (gen : Nat) (t : Task) (z : List F32) (bias : Option (List F32)) : List Nat × List F32 :=
  let es := selectExperts (roStride t) z bias
  let w := routeWeights gen (roScore t) (roNorm t) (roScale t) z (es.take (roK t))
  (es.zipIdx.map fun e => routeRecord e.1 e.2 (decide (roK t ≤ e.2)) ((w[e.2]?).getD f32Zero), w)

/-- The tokens of a ROUTE, from what its operand store holds. -/
def routeTokens (v : State) (t : Task) : List (List Nat × List F32) :=
  let bias := if roBias t = 0 then none else some (f32s v (roBias t) (roE t))
  (List.range (roT t)).map fun i => routeToken v.weala.generation t (f32s v (roZ t + 4 * roE t * i) (roE t)) bias

/-- Their records (R197). -/
def routeBytes (v : State) (t : Task) : List Byte := ((routeTokens v t).map Prod.fst).flatten.flatMap (bytesOf 8)

/-- The transfers and records of a ROUTE. -/
def routeRun (c : CoreNo) (k : SlotNo) (s : State) (t : Task) : Work :=
  let w := startWork s c k t
  let w := if roBias t = 0 then w else w.fetch (roBias t) (4 * roE t)
  (w.fetch (roZ t) (4 * roT t * roE t)).andThen fun w =>
    let w := { w with census := if roCensus t then nonFinites ((routeTokens w.view t).map Prod.snd).flatten else 0 }
    w.store (roOut t) (routeBytes w.view t)

/-- The work of a ROUTE. -/
def routeWork (c : CoreNo) (k : SlotNo) (s : State) (t : Task) : State := if t.bwd then s else finishWork s (routeRun c k s t) c k .route

/-- ROUTE (R194 to R197). -/
def execRoute (core : CoreNo) (slot : SlotNo) (s : State) := finish s (runTask s core slot .route (routeWork core slot))

/-! The backward form (R209). -/

def rrExpert (r : Nat) : Nat := bits r 0 13
def rrRank (r : Nat) : Nat := bits r 13 3
def rrAlt (r : Nat) : Bool := r.testBit 16
def rrWeight (r : Nat) : F32 := BitVec.ofNat 32 (bits r 32 32)

/-- dz of one token, from its logits, the experts of its chosen records and dW. -/
def routeGradient (gen score : Nat) (norm : Bool) (scale : F32) (z : List F32) (chosen : List Nat) (dW : List F32) : List F32 :=
  let u := routeU gen score z chosen
  let w := (routeNorm norm u).map fun v => f32Mul v scale
  let dw := dW.map fun v => f32Mul v scale
  let D := sumUp ((dw.zip w).map fun e => f32Mul e.1 (f32Div e.2 scale))
  let minus (l : List F32) (x : F32) : List F32 := l.map fun v => f32Sub v x
  let slope (s : List F32) (g : List F32) : List F32 := (g.zip s).map fun e => f32Mul (f32Mul e.1 e.2) (f32Sub f32One e.2)
  let put (base : List F32) (v : List F32) : List F32 :=
    (chosen.zip v).foldl (fun l e => l.set e.1 e.2) base
  let zeros := z.map fun _ => f32Zero
  let pAll := routeU gen 1 z (List.range z.length)
  let others (q : F32) : List F32 := pAll.map fun p => f32Mul (f32Neg p) q
  match score, norm with
  | 0, false => put zeros (slope u dw)
  | 0, true =>
    let S := sumUp u
    put zeros (slope u ((minus dw D).map fun v => f32Div v S))
  | 1, false => put (others D) (zip3 f32Mul u (minus dw D))
  | 1, true =>
    let d := (minus dw D).map fun v => f32Div v (sumUp u)
    let Q := sumUp (zip3 f32Mul d u)
    put (others Q) (zip3 f32Mul u (minus d Q))
  | _, _ => put zeros (zip3 f32Mul u (minus dw D))

/-- dZ of a ROUTE with BWD set, from what its operand store holds. -/
def routeBwdBytes (v : State) (t : Task) : List Byte :=
  (List.range (roT t)).flatMap fun i =>
    let chosen := (List.range (roK t)).map fun j => rrExpert (memNat v (roOut t + 8 * (i * roStride t + j)) 8)
    (routeGradient v.weala.generation (roScore t) (roNorm t) (roScale t) (f32s v (roZ t + 4 * roE t * i) (roE t)) chosen
      (f32s v (roDw t + 4 * roK t * i) (roK t))).flatMap fun x => bytesOf 4 x.toNat

/-- The transfers and gradients of a ROUTE with BWD set. -/
def routeBwdRun (c : CoreNo) (k : SlotNo) (s : State) (t : Task) : Work :=
  ((startWork s c k t).fetchAll [(roZ t, 4 * roT t * roE t), (roOut t, 8 * roT t * roStride t), (roDw t, 4 * roT t * roK t)]).andThen fun w =>
    w.store (roDz t) (routeBwdBytes w.view t)

/-- The work of a ROUTE with BWD set. -/
def routeBwdWork (c : CoreNo) (k : SlotNo) (s : State) (t : Task) : State := if !t.bwd then s else finishWork s (routeBwdRun c k s t) c k .route

/-- ROUTE_BWD (R209). -/
def execRouteBwd (core : CoreNo) (slot : SlotNo) (s : State) := finish s (runTask s core slot .route (routeBwdWork core slot))

end Sys2Proof.Machine
end

