-- ==== Sys2Proof/Machine/MoeCombine.lean ====
section
/-!
DEFINITION. COMBINE and its backward form (R207, R208, R322).
-/
namespace Sys2Proof.Machine
open Sys2Proof

/-! Fields (R322). -/
def coK (t : Task) : Nat := t.f 256 4
def coH (t : Task) : Nat := t.f 260 17
def coOfmt (t : Task) : Nat := t.f 277 4
def coYfmt (t : Task) : Nat := t.f 281 4
def coT (t : Task) : Nat := t.f 285 17
def coOutOff (t : Task) : Nat := t.f 320 28
def coGradOff (t : Task) : Nat := t.f 352 28
def coPlace (t : Task) : Nat := t.addr 384
def coRoute (t : Task) : Nat := t.addr 448
def coResid (t : Task) : Nat := t.addr 512
def coY (t : Task) : Nat := t.addr 576
def coDw (t : Task) : Nat := t.addr 640
def coOrow (t : Task) : Nat := elemBytes (fmtD (coOfmt t)) (coH t)
def coYrow (t : Task) : Nat := elemBytes (fmtD (coYfmt t)) (coH t)

/-- Alternates among token 0's route records from rank n on: records that carry their rank and ALT (R197). COMBINE names no KALT (log 24). -/
def alternatesFrom (s : State) (t : Task) : Nat → Nat → Nat
  | 0, _ => 0
  | fuel + 1, n =>
    let r := memNat s (coRoute t + 8 * n) 8
    if n < 8 && rangeOk s t.ctx .read (coRoute t + 8 * n) 8 && rrRank r == n && rrAlt r then 1 + alternatesFrom s t fuel (n + 1) else 0

/-- Route records of a token: K and its alternates. -/
def coStride (s : State) (t : Task) : Nat := coK t + alternatesFrom s t 8 (coK t)

/-- The checks of COMBINE (R207, R208). The residual is in the output format (log 24). -/
def combineFails (s : State) (c : CoreNo) (t : Task) : List Fail :=
  let y := coT t * coYrow t
  bodyFails t
    [(256, 4, true), (260, 17, true), (277, 4, true), (281, 4, true), (285, 17, true), (320, 28, true), (352, 28, t.bwd), (384, 56, true),
     (448, 56, true), (512, 56, !t.bwd), (576, 56, true), (640, 56, t.bwd)]
    ++ headerFails s t ++ footprintFails s c t
    ++ need (isPlain (coOfmt t)) stFormat 34 ++ need (isPlain (coYfmt t)) stFormat 35
    ++ need (decide (1 ≤ coK t ∧ coK t ≤ 8)) stParam 32 ++ need (decide (1 ≤ coH t ∧ coH t ≤ 65536)) stParam 32
    ++ need (decide (coT t ≤ 65536)) stParam 35
    ++ rangeFails s t
      ([(.read, coPlace t, 8 * coT t * coK t, 48), (.read, coRoute t, 8 * coT t * coStride s t, 56),
        (if t.bwd then .read else .write, coY t, y, 72)]
        ++ (if coResid t = 0 then [] else [(.read, coResid t, y, 64)])
        ++ (if t.bwd then [(.write, coDw t, 4 * coT t * coK t, 80)] else []))

/-- A row of a plain format as FP32. -/
def plainRow (s : State) (f : Fmt) (a n : Nat) : List F32 := (List.range n).map fun e => toF32 f (some 0) (elemCode (memByte s) f a e)

/-- The choices of a token: placement record and weight. -/
def tokenChoices (s : State) (t : Task) (stride i : Nat) : List (Nat × F32) :=
  (List.range (coK t)).map fun j => (memNat s (coPlace t + 8 * (i * coK t + j)) 8, rrWeight (memNat s (coRoute t + 8 * (i * stride + j)) 8))

/-- Where a choice's output row lies. -/
def outRowAddr (t : Task) (r : Nat) : Nat := cmemBase (plCore r) + coOutOff t + plRow r * coOrow t

/-- The start of a COMBINE: its records, and its residual or incoming gradient. The stride is known once token 0's records have been read. -/
def combineStart (c : CoreNo) (k : SlotNo) (s : State) (t : Task) : Work :=
  let w := startWork s c k t
  let n := min (8 * (8 * coT t)) 64
  let w := (w.fetch (coPlace t) (8 * coT t * coK t)).fetch (coRoute t) (8 * coT t * coK t)
  let w := if coT t != 0 && coK t < 8 && rangeOk s t.ctx .read (coRoute t) n then w.fetch (coRoute t) n else w
  let w := w.andThen fun w => w.fetch (coRoute t) (8 * coT t * coStride w.view t)
  if t.bwd then w.fetch (coY t) (coT t * coYrow t)
  else if coResid t = 0 then w else w.fetch (coResid t) (coT t * coYrow t)

/-- The output rows that a token's kept choices name are fetched. -/
def fetchChoices (t : Task) (cs : List (Nat × F32)) (w : Work) : Work :=
  w.fetchAll ((cs.filter fun e => !plDropped e.1).map fun e => (outRowAddr t e.1, coOrow t))

/-- The output row of one token of COMBINE: its residual or zeros, and each kept choice's row times its weight (R207). -/
def combineRow (t : Task) (stride : Nat) (v : State) (i : Nat) : List Byte :=
  let yf := fmtD (coYfmt t)
  let start := if coResid t = 0 then List.replicate (coH t) f32Zero else plainRow v yf (coResid t + i * coYrow t) (coH t)
  let y := ((tokenChoices v t stride i).filter fun e => !plDropped e.1).foldl
    (fun y e => zip3 f32Add y ((plainRow v (fmtD (coOfmt t)) (outRowAddr t e.1) (coH t)).map fun x => f32Mul e.2 x)) start
  packBytes yf.width (y.map (convertTo yf t.saturate))

/-- One token of COMBINE. -/
def combineToken (t : Task) (stride : Nat) (w : Work) (i : Nat) : Work :=
  (fetchChoices t (tokenChoices w.view t stride i) w).andThen fun w => w.store (coY t + i * coYrow t) (combineRow t stride w.view i)

/-- The transfers and sums of a COMBINE. -/
def combineRun (c : CoreNo) (k : SlotNo) (s : State) (t : Task) : Work :=
  (combineStart c k s t).andThen fun w => (List.range (coT t)).foldl (combineToken t (coStride w.view t)) w

/-- The work of a COMBINE. -/
def combineWork (c : CoreNo) (k : SlotNo) (s : State) (t : Task) : State := if t.bwd then s else finishWork s (combineRun c k s t) c k .route

/-- COMBINE (R207). -/
def execCombine (core : CoreNo) (slot : SlotNo) (s : State) := finish s (runTask s core slot .combine (combineWork core slot))

/-- One choice of a token of COMBINE with BWD set: w × g to the expert row, and dW. -/
def choiceStores (t : Task) (g : List F32) (v : State) (e : (Nat × F32) × Nat) : List (Nat × List Byte) :=
  let yf := fmtD (coYfmt t)
  let r := e.1.1
  if plDropped r then [(coDw t + 4 * e.2, bytesOf 4 0)]
  else
    let o := plainRow v (fmtD (coOfmt t)) (outRowAddr t r) (coH t)
    [(cmemBase (plCore r) + coGradOff t + plRow r * coYrow t, packBytes yf.width (g.map fun x => convertTo yf t.saturate (f32Mul e.1.2 x))),
     (coDw t + 4 * e.2, bytesOf 4 (pairsum (zip3 f32Mul g o)).toF32.toNat)]

/-- The stores of one token of COMBINE with BWD set (R208). -/
def scatterStores (t : Task) (stride : Nat) (v : State) (i : Nat) : List (Nat × List Byte) :=
  let g := plainRow v (fmtD (coYfmt t)) (coY t + i * coYrow t) (coH t)
  (tokenChoices v t stride i).zipIdx.flatMap fun e => choiceStores t g v (e.1, i * coK t + e.2)

/-- One token of COMBINE with BWD set. -/
def scatterToken (t : Task) (stride : Nat) (w : Work) (i : Nat) : Work :=
  (fetchChoices t (tokenChoices w.view t stride i) w).andThen fun w =>
    (scatterStores t stride w.view i).foldl (fun w e => w.store e.1 e.2) w

/-- The transfers and gradients of a COMBINE with BWD set (R208). -/
def combineBwdRun (c : CoreNo) (k : SlotNo) (s : State) (t : Task) : Work :=
  (combineStart c k s t).andThen fun w => (List.range (coT t)).foldl (scatterToken t (coStride w.view t)) w

/-- The work of a COMBINE with BWD set. -/
def combineBwdWork (c : CoreNo) (k : SlotNo) (s : State) (t : Task) : State := if !t.bwd then s else finishWork s (combineBwdRun c k s t) c k .route

/-- COMBINE_BWD (R208). -/
def execCombineBwd (core : CoreNo) (slot : SlotNo) (s : State) := finish s (runTask s core slot .combine (combineBwdWork core slot))

end Sys2Proof.Machine
end

