-- ==== Sys2Proof/Machine/Delivery.lean ====
section
/-!
DEFINITION. Packets at their destination router (R153, R154), requests at the units that serve them (R259 to R263, R267, R270, R271, R283,
R349), and responses at the units that asked (R92, R94, R108, R213).
-/
namespace Sys2Proof.Machine
open Sys2Proof

/-! Delivery (R153, R154). -/

/-- The owner of a unit, in the sense of R153: none where no partition owns it. -/
def unitOwner (s : State) (t : TileNo) (u : BitVec 4) : Option PartNo :=
  match u.toNat with
  | 8 => ((tileStacks t)[0]?).bind (stackOwner s)
  | 9 => ((tileStacks t)[1]?).bind (stackOwner s)
  | 10 => (tilePort t).bind (portOwner s)
  | 11 => none
  | 13 => none
  | _ => tileOwner s t

/-- The owning check of the destination router (R153). -/
def ownerOk (s : State) (p : Packet) : Bool :=
  p.partition == 0x7F || (p.dstUnit == 11 && (tileHost p.dstTile).isSome)
    || (match unitOwner s p.dstTile p.dstUnit with | some q => p.partition.toNat == q.val | none => false)

/-- A reset covers the unit, at least as far as `step` (R154, R357): a core; with its cluster the cluster memory; a partition's reduction units,
stations and Cuffs. Memory outside the wafer's own stays in service through a reset short of the module's. -/
def unitReset (s : State) (p : Packet) (step : Nat) : Bool :=
  s.resets.any fun r =>
    decide (step ≤ r.step) &&
      (if r.level.val = 3 then p.dstUnit != 13
       else if r.level.val = 2 then
         (match unitOwner s p.dstTile p.dstUnit with
          | some q => q.val == r.target.toNat
          | none => false)
           && (decide (p.dstUnit.toNat < 8) || p.dstUnit == 12 || p.dstUnit == 14
                || (decide (8 ≤ p.dstUnit.toNat ∧ p.dstUnit.toNat ≤ 10) && (p.typ == 6 || p.typ == 0x0B)))
       else decide (p.dstUnit.toNat < (if r.level.val = 1 then 8 else 4)) && p.dstTile.val * 4 + p.dstUnit.toNat % 4 == r.target.toNat)

/-- The VDDA domain of a cluster's tile has faulted, so its core and its memory have no power (R176, R435). -/
def unitUnpowered (s : State) (p : Packet) : Bool := decide (p.dstUnit.toNat < 8) && (getTile s p.dstTile).faulted.getLsbD 1

/-- Responses of R143. -/
def isResponse (p : Packet) : Bool := [0x02, 0x03, 0x05, 0x07, 0x0A, 0x0B].contains p.typ.toNat

/-- The router absorbs the packet (R154, R176, R357): responses only once its unit's own requests are abandoned. -/
def absorbs (s : State) (p : Packet) : Bool := unitReset s p (if isResponse p then 4 else 0) || unitUnpowered s p

/-- Where a tree's root stands (R189). -/
def rootPlace (s : State) (p : Packet) : TileNo × BitVec 4 :=
  let v := treeEntry (getPart s (Fin.ofNat 64 p.partition.toNat)).map p.tree.toNat
  (trRootTile v, BitVec.ofNat 4 (trRootUnit v))

/-- An ERR_RSP to a tree's root (R154, R159, R162). -/
def errToRoot (s : State) (p : Packet) (at_ : TileNo) (status : BitVec 4) : Packet :=
  let r := rootPlace s p
  { errTo p at_ 0xC status with dstTile := r.1, dstUnit := r.2, context := 0, sys := true }

/-- The packet can be taken at its destination: where it is one in flight, it has come there, first of its flow (R149). One that the list does not hold
comes from a unit whose packets the model does not keep (log 38). -/
def atHand (s : State) (p : Packet) : Bool :=
  match s.packets.findIdx? (· == p) with
  | none => true
  | some i => p.here == p.dstTile && firstOfFlow s i p

/-- A packet arrives at its destination router: taken off the mesh, then refused, absorbed or delivered to its unit. -/
def arrive (s : State) (p : Packet) (deliver : State → State) : State :=
  if !atHand s p then s
  else
    let s := { s with packets := s.packets.erase p }
    let x := getTile s p.dstTile
    if badPacket p then countProtocol s p.dstTile
    else if !ownerOk s p then
      let s := setTile s p.dstTile { x with notOwner := satInc x.notOwner }
      if isRequest p || p.typ == 6 then send s [errTo p p.dstTile p.dstUnit 1] else s
    else if absorbs s p then
      let s := setTile s p.dstTile { x with absorbed := satInc x.absorbed }
      if p.typ == 6 then send s [errToRoot s p p.dstTile 2]
      else if isRequest p then send s [errTo p p.dstTile p.dstUnit 2] else s
    else deliver s

/-! Requests at a serving unit (R259 to R263, R270, R271, R283, R349). -/

/-- The response to a request. -/
def answer (p : Packet) (typ : BitVec 5) (data : List Byte) : Packet :=
  { p with cls := 1, typ := typ, srcTile := p.dstTile, srcUnit := p.dstUnit, dstTile := p.srcTile, dstUnit := p.srcUnit
           length := BitVec.ofNat 13 data.length, addr := 0, nonfinite := false, poison := false, status := 0, origClass := 1, payload := data
           here := p.dstTile, input := 4, descended := false }

/-- The answer to a read; to a station of the same tile it goes on the BCAST class (R147, R165). -/
def readAnswer (p : Packet) (data : List Byte) : Packet :=
  if p.srcUnit == 0xE && p.srcTile == p.dstTile then { answer p 0x02 data with cls := 3, origClass := 3 } else answer p 0x02 data

/-- A stack controller takes a request while fewer than 256 answers of its kind, to reads or to writes, wait to leave it (R147, R267, log 71). -/
def controllerRoom (s : State) (p : Packet) : Bool :=
  let kind (x : Packet) : Bool := if p.typ == 1 then x.typ == 3 else x.typ == 2 || x.typ == 5
  if p.dstUnit == 8 || p.dstUnit == 9 then
    decide ((s.packets.filter fun x => x.here == p.dstTile && x.srcTile == p.dstTile && x.srcUnit == p.dstUnit && x.input == 4 && kind x).length < 256)
  else true

/-- Why a serving unit refuses [ADDR, ADDR + n), as a fabric status: no mapped window of its own, a host link down, a page or host window that is not
the context's (log 13). -/
def serveRefusal (s : State) (p : Packet) (rt : Right) (n : Nat) : Option (BitVec 4) :=
  let a := p.addr.toNat
  match rangeRegion a (max n 1) with
  | none => some 7
  | some r =>
    if !regionMaps s r a (max n 1) || servingUnit a != (p.dstTile, p.dstUnit) then some 7
    else if !linkUpFor s r then some 3
    else if p.sys then none
    else match r with
      | .cmem _ _ => if pagesOk s p.context a (max n 1) then none else some 1
      | .host _ => if entryCovers s p.context rt a n then none else some 1
      | _ => none

/-- Under ATS a host access leaves its page's translation with the port (R260, R473, log 47). -/
def holdTranslation (s : State) (p : Packet) : State :=
  match regionOf p.addr.toNat with
  | some (.host q) =>
    let h := getHp s q
    let e : CtxNo × Nat := (p.context, p.addr.toNat % 2 ^ 53 / 4096)
    if h.atsEnabled && !h.ats.contains e then setHp s q { h with ats := h.ats ++ [e] } else s
  | _ => s

/-- A request that its unit can take arrives; else it waits at its router (R147, R267). -/
def arriveRequest (s : State) (p : Packet) (deliver : State → State) : State :=
  if controllerRoom s p then arrive s p deliver else s

/-- RD_REQ (R263, R267, R270). -/
def execRdReq (pkt : Packet) (ecc : Ecc) (s : State) :=
  finish s <| arriveRequest s pkt fun s =>
    let n := pkt.length.toNat
    match serveRefusal s pkt .read n with
    | some st => send s [errTo pkt pkt.dstTile pkt.dstUnit st]
    | none =>
      let a := pkt.addr.toNat
      let s := findLine (holdTranslation s pkt) a ecc
      if rangePoisoned s a n then send (countPoisonRead s a) [errTo pkt pkt.dstTile pkt.dstUnit 6]
      else send s [readAnswer pkt (memBytes s a n)]

/-- WR_REQ (R263, R267, R270): a write that covers part of a line reads that line first. -/
def execWrReq (pkt : Packet) (ecc : Ecc) (s : State) :=
  finish s <| arriveRequest s pkt fun s =>
    let n := pkt.length.toNat
    match serveRefusal s pkt .write n with
    | some st => send s [errTo pkt pkt.dstTile pkt.dstUnit st]
    | none =>
      let a := pkt.addr.toNat
      let s := holdTranslation s pkt
      let s :=
        if isPortAddr a then s
        else if a % 64 != 0 then findLine s a ecc
        else if (a + n) % 64 != 0 then findLine s (a + n - 1) ecc
        else s
      let w := writeMem s a pkt.payload
      if w.2 then send w.1 [answer pkt 0x03 []] else send w.1 [errTo pkt pkt.dstTile pkt.dstUnit 6]

/-- An add at its serving unit (R262, R271). The fabric has no code for the parameter status: what an unaligned word or a host address is answered
is left open (log 13). -/
def serveAdd (s : State) (pkt : Packet) (ecc : Ecc) (made : Word64 → Bool) : State :=
  let a := pkt.addr.toNat
  let host := match regionOf a with | some (.host _) => true | _ => false
  if a % 8 != 0 || host then
    let (w, s) := freshWord s
    send s [errTo pkt pkt.dstTile pkt.dstUnit (w.extractLsb' 0 4)]
  else match serveRefusal s pkt .add 8 with
    | some st => send s [errTo pkt pkt.dstTile pkt.dstUnit st]
    | none =>
      let s := findLine s a ecc
      if rangePoisoned s a 8 then send (countPoisonRead s a) [errTo pkt pkt.dstTile pkt.dstUnit 6]
      else
        let old : Word64 := BitVec.ofNat 64 (memNat s a 8)
        let v : Word64 := BitVec.ofNat 64 (natOfBytes (pkt.payload.take 8))
        let s := if made old then storeMem s a (bytesOf 8 (old + v).toNat) else s
        send s [answer pkt 0x05 (bytesOf 8 old.toNat)]

/-- ADD_REQ (R262). -/
def execAddReq (pkt : Packet) (ecc : Ecc) (s : State) := finish s <| arriveRequest s pkt fun s => serveAdd s pkt ecc fun _ => true

/-- ADDL_REQ (R143, R262): made only when the old value plus the addend does not exceed the bound. -/
def execAddlReq (pkt : Packet) (ecc : Ecc) (s : State) :=
  finish s <| arriveRequest s pkt fun s =>
    serveAdd s pkt ecc fun old =>
      decide (old.toNat + natOfBytes (pkt.payload.take 8) ≤ natOfBytes ((pkt.payload.drop 8).take 8))

/-! Responses at the requester (R92, R94, R108, R213). A TAG below 64 is a fetch or station tag, 64 + slot a leaf's chunk, 128 + n a store tag, 192 + slot
an allocation (log 13). -/

/-- The core that a unit belongs to. -/
def unitCore (t : TileNo) (u : BitVec 4) : Option CoreNo := if u.toNat < 4 then some (coreAt t (Fin.ofNat 4 u.toNat)) else none

/-- RD_RSP (R92, R213): its data enter the slot's transfer region, or a cancelled tag's are dropped; or the station's STREAM goes on. -/
def execRdRsp (pkt : Packet) (s : State) :=
  finish s <| arrive s pkt fun s =>
    if pkt.dstUnit == 0xE then stationLanded s pkt.dstTile pkt.tag.toNat pkt.payload pkt.poison
    else match unitCore pkt.dstTile pkt.dstUnit with
      | none => s
      | some c =>
        match slotOfFetch (getCore s c) pkt.tag.toNat with
        | some k => landData s c k pkt.tag.toNat pkt.offset.toNat pkt.payload
        | none => dropData s c pkt.tag.toNat

/-- WR_ACK (R92, R263): one packet of a store tag's transfer stands. -/
def execWrAck (pkt : Packet) (s : State) :=
  finish s <| arrive s pkt fun s =>
    match unitCore pkt.dstTile pkt.dstUnit with
    | none => s
    | some c =>
      match slotOfStore (getCore s c) (pkt.tag.toNat - 128) with
      | some k => storeAcked s c k (pkt.tag.toNat - 128)
      | none => s

/-- ADD_RSP (R108, R143): the old value of an allocation word places the slot's frame, or shows that the area is full. -/
def execAddRsp (pkt : Packet) (s : State) :=
  finish s <| arrive s pkt fun s =>
    match unitCore pkt.dstTile pkt.dstUnit with
    | none => s
    | some c => if 192 ≤ pkt.tag.toNat then placeFrame s c (Fin.ofNat 4 (pkt.tag.toNat - 192)) (natOfBytes (pkt.payload.take 8)) else s

/-- A core's engine gets an error in place of a response: a fetch, a store, an allocation or a leaf's chunk has failed (R94, R162). -/
def coreError (s : State) (c : CoreNo) (tag : Nat) (st : BitVec 8) : State :=
  if 192 ≤ tag then
    let k : SlotNo := Fin.ofNat 4 (tag - 192)
    if (getSlot s c k).adding.isSome then storeFails s c k st else s
  else if 128 ≤ tag then
    match slotOfStore (getCore s c) (tag - 128) with
    | some k => storeFails (storeAcked s c k (tag - 128)) c k st
    | none => s
  else if 64 ≤ tag then failSlot s c (Fin.ofNat 4 (tag - 64)) st
  else match slotOfFetch (getCore s c) tag with
    | some k => taskFails (landData s c k tag 0 []) c k st
    | none => dropData s c tag

/-- BCAST_DATA (R171): a mesh copy of a burst, delivered to the cores of this tile. -/
def execBcastData (pkt : Packet) (s : State) :=
  finish s <| arrive s pkt fun s =>
    deliverCopy s pkt.srcTile (Fin.ofNat 64 pkt.partition.toNat) pkt.tree.toNat pkt.dstTile pkt.offset.toNat pkt.payload

/-- MG_REQ (R143): answered by a response of as many bytes as were asked, whose content the rules do not give (log 13). -/
def execMgReq (pkt : Packet) (s : State) :=
  finish s <| arrive s pkt fun s =>
    let r := (List.range pkt.length.toNat).foldl (fun (acc : List Byte × State) _ => let b := freshByte acc.2; (acc.1 ++ [b.1], b.2)) ([], s)
    send r.2 [{ answer pkt 0x0A r.1 with cls := 4, origClass := 4 }]

/-- MG_RSP (R143): back at Weala or the host port, with nothing further to do. -/
def execMgRsp (pkt : Packet) (s : State) := finish s <| arrive s pkt fun s => s

end Sys2Proof.Machine
end

