-- ==== Sys2Proof/Machine/Nodes.lean ====
section
/-!
DEFINITION. Reduction nodes (R157 to R162): their chunk buffers, windows and credits, and what ends them.
-/
namespace Sys2Proof.Machine
open Sys2Proof

def getNode (s : State) (t : TileNo) (k : Nat) : RedNode := tget {} (getTile s t).nodes k
def setNode (s : State) (t : TileNo) (k : Nat) (v : RedNode) : State :=
  let x := getTile s t
  setTile s t { x with nodes := tput {} x.nodes k v }

/-- Where a node of a map sends (R159, R189): the tile, the unit, the node and the role there. -/
def nodeTarget (m : List Byte) (tree : BitVec 16) (v : Nat) : TileNo × BitVec 4 × BitVec 16 × Bool :=
  if ndUpRoot v then
    let r := treeEntry m tree.toNat
    (trRootTile r, BitVec.ofNat 4 (trRootUnit r), 0, false)
  else (ndTile (nodeEntry m (ndUp v)), 0xC, BitVec.ofNat 16 (ndUp v), ndUpRole v)

/-- The credit that a node returns to the child that sent a chunk (R159, R161): the chunk's TAG names the child's sender. -/
def nodeCredit (c : Packet) : Packet :=
  { c with cls := 1, typ := 7, srcTile := c.dstTile, srcUnit := 0xC, dstTile := c.srcTile, dstUnit := c.srcUnit, context := 0, length := 0
           addr := 0, nonfinite := false, poison := false, last := false, status := 0, origClass := 1, sys := true, payload := []
           here := c.dstTile, input := 4, descended := false }

/-- The pairs of a chunk added position by position, operand a first (R69, R159). -/
def addChunks (a b : List Byte) (k : Nat) : List Pair :=
  ((chunkPairs a k).zip (chunkPairs b k)).map fun e => pairAdd e.1 e.2

def pairsBytes (l : List Pair) : List Byte := l.flatMap fun v => bytesOf 8 (v.hi.toNat + v.lo.toNat * 2 ^ 32)

/-- Chunks for a node are discarded and counted (R162, R182). -/
def discardChunks (s : State) (t : TileNo) (k : Nat) : State :=
  let x := getTile s t
  setTile s t { x with redDiscard := satAdd x.redDiscard k }

/-- A node stops: what it holds is discarded, and later chunks for it are counted (R162). -/
def stopNode (s : State) (t : TileNo) (k : Nat) : State :=
  let n := getNode s t k
  setNode (discardChunks s t (n.a.length + n.b.length)) t k { stopped := true }

/-- A node's result on its way to the parent. -/
def nodeResult (m : List Byte) (t : TileNo) (k v : Nat) (c : Packet) : Packet :=
  let g := nodeTarget m c.tree v
  { c with cls := 2, typ := 6, srcTile := t, srcUnit := 0xC, dstTile := g.1, dstUnit := g.2.1, node := g.2.2.1, role := g.2.2.2
           tag := BitVec.ofNat 8 k, context := 0, sys := true, origClass := 2, here := t, input := 4, descended := false }

/-- The sum of two chunks (R159). -/
def sumChunk (a b : Packet) : Packet :=
  let sum := addChunks a.payload b.payload (a.length.toNat / 8)
  { a with
    payload := pairsBytes sum, nonfinite := a.nonfinite || b.nonfinite || sum.any fun p => f32NonFinite p.hi
    poison := a.poison || b.poison, last := a.last && b.last }

/-- A node works on the chunks it holds while its own window of 8 at the parent is open: each result leaves for the parent, and then each child gets its
credit (R159, R161). -/
def runNode (t : TileNo) (k : Nat) (v : Nat) (m : List Byte) : Nat → State → State
  | 0, s => s
  | fuel + 1, s =>
    let n := getNode s t k
    if 8 ≤ n.outstanding then s
    else match n.a, n.b with
      | a :: ra, b :: rb =>
        if ndPass v then
          runNode t k v m fuel (send (setNode s t k { n with a := ra, outstanding := n.outstanding + 1 }) [nodeResult m t k v a, nodeCredit a])
        else if a.offset != b.offset || a.length != b.length then stopNode (send s [errToRoot s a t 4]) t k
        else
          runNode t k v m fuel
            (send (setNode s t k { n with a := ra, b := rb, outstanding := n.outstanding + 1 })
              [nodeResult m t k v (sumChunk a b), nodeCredit a, nodeCredit b])
      | a :: ra, [] =>
        if ndPass v then
          runNode t k v m fuel (send (setNode s t k { n with a := ra, outstanding := n.outstanding + 1 }) [nodeResult m t k v a, nodeCredit a])
        else s
      | [], _ => s

/-- The node slot of a map's node, when the tile is its tile. -/
def nodeSlotAt (m : List Byte) (t : TileNo) (n : Nat) : Option Nat :=
  if n < mapNNodes m && ndTile (nodeEntry m n) == t then some (ndSlot (nodeEntry m n)) else none

/-- A packet for a root Cuff. -/
def rootOf (p : Packet) : Option CuffNo := rootCuff p.dstTile p.dstUnit.toNat

/-- The node of a map in a node slot of a tile. -/
def nodeInSlot (m : List Byte) (t : TileNo) (k : Nat) : Option Nat :=
  (List.range (mapNNodes m)).find? fun n => ndTile (nodeEntry m n) == t && ndSlot (nodeEntry m n) == k

/-- The map that a packet's partition runs on. -/
def mapOf (s : State) (p : Packet) : List Byte := (getPart s (Fin.ofNat 64 p.partition.toNat)).map

/-- There is a buffer for the chunk: 8 for each input of a node, and 8 for each tree at a root (R157, R161, R238). A chunk that would be discarded needs
none. -/
def chunkRoom (s : State) (p : Packet) : Bool :=
  if p.dstUnit == 0xC then
    match nodeSlotAt (mapOf s p) p.dstTile p.node.toNat with
    | none => true
    | some k => let n := getNode s p.dstTile k; decide ((if p.role then n.b else n.a).length < 8)
  else match rootOf p with
    | some c => (getCuff s c).roots.all fun b => b.tree != p.tree || decide (b.chunks.length < 8)
    | none => true

/-- RED_DATA (R159, R162, R238): a chunk at a node joins its operand's buffer and is added to its partner; at a root it is buffered. -/
def execRedData (pkt : Packet) (s : State) :=
  finish s <|
    if !chunkRoom s pkt then s
    else arrive s pkt fun s =>
      if pkt.dstUnit == 0xC then
        match nodeSlotAt (mapOf s pkt) pkt.dstTile pkt.node.toNat with
        | none => discardChunks s pkt.dstTile 1
        | some k =>
          let n := getNode s pkt.dstTile k
          if n.stopped then discardChunks s pkt.dstTile 1
          else
            let n := if pkt.role then { n with b := n.b ++ [pkt] } else { n with a := n.a ++ [pkt] }
            runNode pkt.dstTile k (nodeEntry (mapOf s pkt) pkt.node.toNat) (mapOf s pkt) (n.a.length + 1) (setNode s pkt.dstTile k n)
      else match rootOf pkt with
        | some n => rootArrival s n pkt
        | none => s

/-- A credit returns to a node: its window opens by one, and it works on what it holds (R161); in a reset it sends nothing (R357). -/
def nodeCredited (s : State) (p : PartNo) (t : TileNo) (k : Nat) : State :=
  let n := getNode s t k
  if n.stopped then s
  else
    let s := setNode s t k { n with outstanding := n.outstanding - 1 }
    if resettingPart s p then s
    else match nodeInSlot (getPart s p).map t k with
      | none => s
      | some v => runNode t k (nodeEntry (getPart s p).map v) (getPart s p).map 9 s

/-- RED_CREDIT (R161): a place in the child's window is free again. -/
def execRedCredit (pkt : Packet) (s : State) :=
  finish s <| arrive s pkt fun s =>
    if pkt.dstUnit == 0xC then nodeCredited s (Fin.ofNat 64 pkt.partition.toNat) pkt.dstTile pkt.tag.toNat
    else match unitCore pkt.dstTile pkt.dstUnit with
      | none => s
      | some c =>
        let k : SlotNo := Fin.ofNat 4 (pkt.tag.toNat - 64)
        let sl := getSlot s c k
        match sl.task with
        | some t => if t.op == some .reduce then reduceGo (setSlot s c k { sl with outstanding := sl.outstanding - 1 }) c k t else s
        | none => s

/-- ERR_RSP at a node (R162): in place of a chunk it goes on towards the root, and the node stops; at a stopped node it is one more chunk discarded. -/
def nodeError (s : State) (pkt : Packet) : State :=
  let m := mapOf s pkt
  let own := nodeSlotAt m pkt.dstTile pkt.node.toNat
  let k := own.getD (pkt.tag.toNat % 16)
  if (getNode s pkt.dstTile k).stopped then discardChunks s pkt.dstTile 1
  else
    let up := match own with
      | some _ =>
        let g := nodeTarget m pkt.tree (nodeEntry m pkt.node.toNat)
        { pkt with srcTile := pkt.dstTile, srcUnit := 0xC, dstTile := g.1, dstUnit := g.2.1, node := g.2.2.1, role := g.2.2.2
                   cls := 1, origClass := 1, context := 0, sys := true, here := pkt.dstTile, input := 4, descended := false }
      | none => errToRoot s pkt pkt.dstTile pkt.status
    stopNode (send s [up]) pkt.dstTile k

/-- ERR_RSP (R94, R145, R159, R162, R214): it ends what waited: a core's transfer or REDUCE, a station's STREAM, a node, or an UPDATE at its root. -/
def execErrRsp (pkt : Packet) (s : State) :=
  finish s <| arrive s pkt fun s =>
    if pkt.dstUnit == 0xC then nodeError s pkt
    else if pkt.dstUnit == 0xE then stationFailed s pkt.dstTile pkt.tag.toNat (ofFabric pkt.status.toNat)
    else match unitCore pkt.dstTile pkt.dstUnit with
      | some c => coreError s c pkt.tag.toNat (ofFabric pkt.status.toNat)
      | none =>
        match rootOf pkt with
        | some n => rootArrival s n pkt
        | none => s

/-- RED_TIMEOUT (R162): a node has waited too long for a partner chunk. -/
def execRedTimeout (tile : TileNo) (slot : Fin 16) (s : State) :=
  finish s <|
    let n := getNode s tile slot.val
    match n.stopped, n.a, n.b with
    | false, c :: _, [] => stopNode (send s [errToRoot s c tile 5]) tile slot.val
    | false, [], c :: _ => stopNode (send s [errToRoot s c tile 5]) tile slot.val
    | _, _, _ => s

end Sys2Proof.Machine
end

