-- ==== Sys2Proof/Machine/Registers.lean ====
section
/-!
DEFINITION. BAR0 writes to registers that have no row of their own (R417, R418, R484 to R486, R491, R493 to R505): selectors, shadows, buffer
windows and plain registers.
-/
namespace Sys2Proof.Machine
open Sys2Proof

/-! What stands at an offset. -/

/-- The registers that take writes. `pair` is a commit register or an unshadowed pair whose valid writes are rows of their own. -/
inductive Reg where
  | none | pair
  | diagTiles | busMin | thermCtl
  | partSel | ctxSel | ctxShadow | pageSel | pageShadow | ringSel
  | quiet (p : PartNo) | redTmo (p : PartNo) | moeClr (p : PartNo)
  | scrubCtl (k : StackNo) | load (k : StackNo)
  | mboxCmd (p : PortNo) | farCtl (q : PortNo)
  | lsShadow (p : PartNo) (i : Nat)
  | evPtr
  | coreCtl (c : CoreNo) | sparseClr (c : CoreNo) | pwFreq (t : TileNo) | pwLl (t : TileNo) | visorPtr (t : TileNo) (k : Nat)
  deriving DecidableEq, Repr

/-- A frame's register: its frame number and the offset within the frame, of `n` frames of `size` bytes from `base` on. -/
def frameAt (o base size n : Nat) : Option (Nat × Nat) :=
  if base ≤ o ∧ o < base + size * n then some ((o - base) / size, (o - base) % size) else none

/-- The TL register at a word offset within tile t's block (R505). -/
def tlReg (t : TileNo) (o : Nat) : Reg :=
  if 0x40 ≤ o ∧ o < 0x60 then .coreCtl (coreAt t (Fin.ofNat 4 ((o - 0x40) / 8)))
  else if 0xA0 ≤ o ∧ o < 0xC0 then .sparseClr (coreAt t (Fin.ofNat 4 ((o - 0xA0) / 8)))
  else if o = 0x200 then .pwFreq t
  else if o = 0x208 then .pwLl t
  else if o = 0x220 then .pair
  else match frameAt o 0x280 16 4 with
    | some (k, 0) => .visorPtr t k
    | _ => .none

/-- The FB, HC, XP, CU and LS registers at a word offset within their block (R498 to R502). -/
def frameReg (block o : Nat) : Reg :=
  match block with
  | 5 => match frameAt o 0x1000 0x40 64 with
    | some (p, 0) => .quiet (Fin.ofNat 64 p)
    | some (p, 8) => .redTmo (Fin.ofNat 64 p)
    | some (_, 0x10) => .pair
    | some (p, 0x38) => .moeClr (Fin.ofNat 64 p)
    | _ => if o = 0 then .pair else .none
  | 6 => match frameAt o 0 0x100 32 with
    | some (k, 0x18) => .scrubCtl (Fin.ofNat 32 k)
    | some (k, 0x30) => .load (Fin.ofNat 32 k)
    | some (_, 0x38) => .pair
    | _ => .none
  | 7 => match frameAt o 0 0x2000 8 with
    | some (p, 0x40) => .mboxCmd (Fin.ofNat 8 p)
    | _ => .none
  | 8 => match frameAt o 0x400 8 8 with
    | some (q, _) => .farCtl (Fin.ofNat 8 q)
    | none => match frameAt o 0x1000 0x20 64 with
      | some (_, 8) => .pair
      | _ => .none
  | _ => match frameAt o 0 0x40 64 with
    | some (p, k) => if k < 0x20 then .lsShadow (Fin.ofNat 64 p) (k / 8) else if k = 0x20 then .pair else .none
    | none => .none

/-- The register whose 8 bytes begin at a BAR0 offset (R484, R493 to R505). -/
def regAt (o : Nat) : Reg :=
  if 0x1000000 ≤ o then tlReg (Fin.ofNat 64 ((o - 0x1000000) / 0x40000)) ((o - 0x1000000) % 0x40000)
  else
    let block := o / 0x100000
    let x := o % 0x100000
    match block with
    | 0 => if x = 0x120 then .diagTiles else if x = 0x100 ∨ x = 0x128 then .pair else .none
    | 1 => if x = 0x8 ∨ x = 0x10 then .pair else .none
    | 2 => if x = 0x18 then .busMin else if x = 0x20 then .thermCtl else if x = 0x10 ∨ x = 0x28 then .pair else .none
    | 3 =>
      if x = 0 then .partSel else if x = 0x40 then .ctxSel else if x = 0x48 then .ctxShadow else if x = 0x80 then .pageSel
      else if x = 0x88 then .pageShadow else if x = 0x20 ∨ x = 0x50 ∨ x = 0x90 ∨ x = 0xC0 then .pair else .none
    | 4 => if x = 0 then .ringSel else if x = 0x40 ∨ x = 0x60 then .pair else .none
    | 5 | 6 | 7 | 8 | 9 => frameReg block x
    | 10 => if x = 0 then .evPtr else .none
    | _ => .none

/-! Plain registers. -/

/-- The word that a write of half of it leaves in its other half. -/
def regWord (s : State) (r : Reg) : Word64 :=
  match r with
  | .diagTiles => s.setup.diagTiles
  | .busMin => s.pw.busMin.setWidth 64
  | .thermCtl => BitVec.ofNat 64 (s.pw.throttleC.toNat + place s.pw.hystC.toNat 8 4 + place s.pw.alertC.toNat 20 8)
  | .partSel => s.setup.partSel.setWidth 64
  | .ctxSel => s.setup.ctxSel.setWidth 64
  | .ctxShadow => s.setup.ctxShadow
  | .pageSel => s.setup.pageSel.setWidth 64
  | .pageShadow => s.setup.pageShadow.setWidth 64
  | .ringSel => s.setup.ringSel.setWidth 64
  | .quiet p => (getPart s p).quietShadow
  | .redTmo p => (getPart s p).redTmo.setWidth 64
  | .scrubCtl k => BitVec.ofNat 64 ((getStack s k).periodH.toNat + if (getStack s k).scrubEnable then 256 else 0)
  | .load k => BitVec.ofNat 64 (place (getStack s k).busyThresh.toNat 24 8)
  | .mboxCmd p => (getXp s p).mboxCmd
  | .farCtl q => (getCuff s ⟨32 + q.val, by omega⟩).outstanding.setWidth 64
  | .lsShadow p i =>
    let l := (getPart s p).ls
    if i = 0 then l.shadowExp else if i = 1 then l.shadowMax else if i = 2 then l.shadowGrowth else l.shadowMode
  | .evPtr => (s.weala.evRd.setWidth 64) <<< 32
  | .coreCtl c => (getCore s c).ctl.setWidth 64
  | .pwFreq t => (getTile s t).target.setWidth 64
  | .visorPtr t k => ((tget {} (getTile s t).visorPtr k).rd.setWidth 64) <<< 32
  | .none | .pair | .moeClr _ | .sparseClr _ | .pwLl _ => 0

/-- PW_THERM_CTL (R458): a field outside its range leaves the register as it is. -/
def thermWrite (s : State) (v : Nat) : State :=
  let th := bits v 0 8
  let h := bits v 8 4
  let al := bits v 20 8
  if 70 ≤ th ∧ th ≤ 100 ∧ 2 ≤ h ∧ h ≤ 15 ∧ 80 ≤ al ∧ al ≤ 104 then
    { s with pw := { s.pw with throttleC := BitVec.ofNat 8 th, hystC := BitVec.ofNat 4 h, alertC := BitVec.ofNat 8 al } }
  else s

/-- TL_PW_LL (R461, R418): a pair; the fields of absent domains are ignored. -/
def llWrite (s : State) (t : TileNo) (w : Word64) : State :=
  if !pairOk w then setupRefused s (tlBase t + 0x208)
  else
    let x := getTile s t
    let has (k : Nat) : Bool := (tileDomains t).getLsbD k
    let field (k : Nat) : Nat := bits w.toNat (8 * k) 8
    if (List.range 4).any fun k => has k && decide (200 < field k) then s
    else
      let v := ((List.range 4).map fun k => place (if has k then field k else bits x.loadLines.toNat (8 * k) 8) (8 * k) 8).sum
      setTile s t { x with loadLines := BitVec.ofNat 32 v }

/-- A register takes its new 64-bit content; out-of-range values leave it as it is. -/
def setReg (s : State) (r : Reg) (w : Word64) : State :=
  let v := w.toNat
  match r with
  | .none | .pair => s
  | .diagTiles => { s with setup := { s.setup with diagTiles := w } }
  | .busMin => if 440 ≤ bits v 0 10 ∧ bits v 0 10 ≤ 500 then { s with pw := { s.pw with busMin := w.extractLsb' 0 10 } } else s
  | .thermCtl => thermWrite s v
  | .partSel => { s with setup := { s.setup with partSel := w.extractLsb' 0 6 } }
  | .ctxSel => { s with setup := { s.setup with ctxSel := w.extractLsb' 0 16 } }
  | .ctxShadow => { s with setup := { s.setup with ctxShadow := (w.extractLsb' 0 8).setWidth 64 } }
  | .pageSel => { s with setup := { s.setup with pageSel := w.extractLsb' 0 16 } }
  | .pageShadow => { s with setup := { s.setup with pageShadow := (w.extractLsb' 0 27).setWidth 32 } }
  | .ringSel => { s with setup := { s.setup with ringSel := w.extractLsb' 0 20 } }
  | .quiet p => setPart s p { getPart s p with quietShadow := w }
  | .redTmo p =>
    if 1000 ≤ bits v 0 26 ∧ bits v 0 26 ≤ 60000000 then setPart s p { getPart s p with redTmo := w.extractLsb' 0 26 } else s
  | .moeClr p => if v.testBit 0 then setPart s p { getPart s p with dropped := 0, spilled := 0 } else s
  | .scrubCtl k =>
    if 1 ≤ bits v 0 8 ∧ bits v 0 8 ≤ 168 then
      setStack s k { getStack s k with periodH := w.extractLsb' 0 8, scrubEnable := v.testBit 8 }
    else s
  | .load k => loadChange s k { getStack s k with busyThresh := w.extractLsb' 24 8 }
  | .mboxCmd p => mboxWrite s p w
  | .farCtl q =>
    let n : CuffNo := ⟨32 + q.val, by omega⟩
    if 16 ≤ bits v 0 9 ∧ bits v 0 9 ≤ 256 then setCuff s n { getCuff s n with outstanding := w.extractLsb' 0 9 } else s
  | .lsShadow p i =>
    let x := getPart s p
    let l := x.ls
    setPart s p { x with ls :=
      if i = 0 then { l with shadowExp := w } else if i = 1 then { l with shadowMax := w }
      else if i = 2 then { l with shadowGrowth := w } else { l with shadowMode := w } }
  | .evPtr =>
    let rd := w.extractLsb' 32 32
    if (s.weala.evWr.extractLsb' 0 32 - rd).toNat < 2 ^ 31 then { s with weala := { s.weala with evRd := rd } } else s
  | .coreCtl c =>
    if tlAnswers s (coreTile c) then setCore s c (judge { getCore s c with ctl := w.extractLsb' 0 32 &&& 0x01FFFFFF }) else s
  | .sparseClr c =>
    if tlAnswers s (coreTile c) && v.testBit 0 then setCore s c { getCore s c with pruned := 0, sparseFaults := 0 } else s
  | .pwFreq t => if 16 ≤ bits v 0 6 ∧ bits v 0 6 ≤ 48 then setTile s t { getTile s t with target := w.extractLsb' 0 6 } else s
  | .pwLl t => llWrite s t w
  | .visorPtr t k =>
    let x := getTile s t
    let p := tget {} x.visorPtr k
    let rd := w.extractLsb' 32 32
    if (p.wr - rd).toNat < 2 ^ 31 then setTile s t { x with visorPtr := tput {} x.visorPtr k { p with rd := rd } } else s

/-! Buffer windows and the shadows held as bytes (R417, R486). -/

/-- A window of bytes. -/
inductive Window where
  | reqBuf | partShadow | rangeShadow | ringShadow | mbox (p : PortNo) | pwRet (t : TileNo)
  deriving DecidableEq, Repr

/-- The window at a BAR0 offset, the offset within it, and its size. -/
def windowAt (o : Nat) : Option (Window × Nat × Nat) :=
  let inside (base size : Nat) : Bool := decide (base ≤ o ∧ o < base + size)
  if inside 0x4000 4096 then some (.reqBuf, o - 0x4000, 4096)
  else if inside 0x300010 16 then some (.partShadow, o - 0x300010, 16)
  else if inside 0x300400 1024 then some (.rangeShadow, o - 0x300400, 1024)
  else if inside 0x400020 32 then some (.ringShadow, o - 0x400020, 32)
  else if inside 0x700000 0x10000 && decide (0x1000 ≤ (o - 0x700000) % 0x2000) then
    some (.mbox (Fin.ofNat 8 ((o - 0x700000) / 0x2000)), (o - 0x700000) % 0x2000 - 0x1000, 4096)
  else if decide (0x1000000 ≤ o) && decide (0x210 ≤ (o - 0x1000000) % 0x40000 ∧ (o - 0x1000000) % 0x40000 < 0x220) then
    some (.pwRet (Fin.ofNat 64 ((o - 0x1000000) / 0x40000)), (o - 0x1000000) % 0x40000 - 0x210, 16)
  else none

/-- Byte i of a word is replaced. -/
def setByte {n : Nat} (v : BitVec n) (i : Nat) (b : Byte) : BitVec n := (v &&& ~~~(0xFF#n <<< (8 * i))) ||| (b.setWidth n <<< (8 * i))

/-- One byte of a window is written. -/
def setWindowByte (s : State) (w : Window) (i : Nat) (b : Byte) : State :=
  match w with
  | .reqBuf => { s with weala := { s.weala with reqBuf := tput 0 s.weala.reqBuf i b } }
  | .partShadow => { s with setup := { s.setup with partShadow := setByte s.setup.partShadow i b } }
  | .rangeShadow =>
    { s with setup := { s.setup with
        rangeShadow := tput 0 s.setup.rangeShadow (i / 16) (setByte (tget 0 s.setup.rangeShadow (i / 16)) (i % 16) b) } }
  | .ringShadow => { s with setup := { s.setup with ringShadow := setByte s.setup.ringShadow i b } }
  | .mbox p => setXp s p { getXp s p with mboxPayload := tput 0 (getXp s p).mboxPayload i b }
  | .pwRet t =>
    let x := getTile s t
    setTile s t (if i < 8 then { x with retWord := setByte x.retWord i b } else { x with retCompl := setByte x.retCompl (i - 8) b })

/-- The bytes of a window from i on are written. -/
def setWindow (s : State) (w : Window) : Nat → List Byte → State
  | _, [] => s
  | i, b :: r => setWindow (setWindowByte s w i b) w (i + 1) r

/-! The row. -/

/-- MG, EV and PW take writes throughout a module reset (R491). -/
def alwaysOpen (o : Nat) : Bool := o / 0x100000 == 0 || o / 0x100000 == 2 || o / 0x100000 == 10

/-- A write to a register: naturally aligned, 4 or 8 bytes; a register that takes only a whole pair refuses half of it (R418, R486). -/
def writeReg (s : State) (o : Nat) (bs : List Byte) : State :=
  if !((bs.length == 4 || bs.length == 8) && o % bs.length == 0) then setupRefused s o
  else
    let r := regAt (o / 8 * 8)
    let v : Word64 := BitVec.ofNat 64 (natOfBytes bs)
    if bs.length = 8 then setReg s r v
    else
      let old := regWord s r
      match r with
      | .pair | .pwLl _ => setupRefused s (o / 8 * 8)
      | _ =>
        if o % 8 = 0 then setReg s r ((old.extractLsb' 32 32) ++ (v.extractLsb' 0 32))
        else setReg s r ((v.extractLsb' 0 32) ++ (old.extractLsb' 0 32))

/-- REGISTER_WRITE (R486): a BAR0 write to a register without a row of its own. An 8-byte write to a pair that has a row is that row's. -/
def execRegisterWrite (port : HostPort) (offset : Nat) (bytes : List Byte) (s : State) :=
  finish s <|
    if !bar0Open s port (alwaysOpen offset) then s
    else match windowAt offset with
      | some (w, i, size) =>
        let n := bytes.length
        if 4 ≤ n ∧ n ≤ 512 ∧ n % 4 = 0 ∧ offset % 4 = 0 ∧ i + n ≤ size then setWindow s w i bytes else setupRefused s offset
      | none => writeReg s offset bytes

end Sys2Proof.Machine
end

