-- ==== Sys2Proof/Machine/Rotate.lean ====
section
/-!
DEFINITION. ROTATE: a GEMM over a ring of resident weight shards (R215, R216, R323). What R323 leaves out of its arrays' layout is in log 25.
-/
namespace Sys2Proof.Machine
open Sys2Proof

/-! Fields (R323). -/
def rtKsplit (t : Task) : Bool := t.b 260
def rtGrad (t : Task) : Bool := t.b 261
def rtM (t : Task) : Nat := t.f 262 24
def rtN (t : Task) : Nat := t.f 286 24
def rtK (t : Task) : Nat := t.f 310 24
def rtXfmt (t : Task) : Nat := t.f 334 4
def rtWfmt (t : Task) : Nat := t.f 338 4
def rtYfmt (t : Task) : Nat := t.f 342 4
def rtShard (t : Task) : Nat := t.f 384 28
def rtGacc (t : Task) : Nat := t.f 416 28
def rtX (t : Task) : Nat := t.addr 448
def rtY (t : Task) : Nat := t.addr 512
def rtDy (t : Task) : Nat := t.addr 576
/-- Row lengths of X and of Y on a ring of R cores. -/
def rtXcols (t : Task) (R : Nat) : Nat := if rtKsplit t then rtK t * R else rtK t
def rtYcols (t : Task) (R : Nat) : Nat := if rtKsplit t then rtN t else rtN t * R
/-- Bytes of a shard and of its accumulator. -/
def rtShardBytes (t : Task) : Nat := rtN t * elemBytes (fmtD (rtWfmt t)) (rtK t)
def rtGaccBytes (t : Task) : Nat := 8 * rtN t * rtK t

/-- The checks of ROTATE (R191, R215, R323). -/
def rotateFails (s : State) (c : CoreNo) (t : Task) : List Fail :=
  let R := (ringCores (getPart s t.part).map (t.f 256 4)).length
  let pairOk : Bool := match fmtOf (rtXfmt t), fmtOf (rtWfmt t) with
    | some a, some b => gemmPair a b && !a.isMx && !b.isMx
    | _, _ => false
  let ext (f cols : Nat) : Nat := rtM t * elemBytes (fmtD f) cols
  bodyFails t
    [(256, 4, true), (260, 1, true), (261, 1, true), (262, 24, true), (286, 24, true), (310, 24, true), (334, 4, true), (338, 4, true),
     (342, 4, true), (352, 32, true), (384, 28, true), (416, 28, rtGrad t), (448, 56, true), (512, 56, true), (576, 56, rtGrad t)]
    ++ headerFails s t ++ footprintFails s c t ++ ringFails s c t
    ++ need pairOk stFormat 41 ++ need (isPlain (rtYfmt t)) stFormat 42
    ++ need (decide (1 ≤ rtM t)) stParam 32 ++ need (decide (1 ≤ rtN t)) stParam 35 ++ need (decide (1 ≤ rtK t)) stParam 38
    ++ rangeFails s t
      ([(.read, cmemBase c + rtShard t, rtShardBytes t, 48), (.read, rtX t, ext (rtXfmt t) (rtXcols t R), 56),
        (.write, rtY t, ext (rtYfmt t) (rtYcols t R), 64)]
        ++ (if rtGrad t then
              [(.read, cmemBase c + rtGacc t, rtGaccBytes t, 52), (.write, cmemBase c + rtGacc t, rtGaccBytes t, 52),
               (.read, rtDy t, ext (rtYfmt t) (rtYcols t R), 72)]
            else []))

/-- Codes of columns [col, col + n) of the rows of an array, `cols` elements a row. -/
def sliceCodes (s : State) (f : Fmt) (base rows cols col n : Nat) : List (List Nat) :=
  (List.range rows).map fun r => (List.range n).map fun j => elemCode (memByte s) f (base + r * elemBytes f cols) (col + j)

/-- The shard that a core computes with in a round: its own, or the one that has come from its ring predecessor. -/
def roundShard (s v : State) (c : CoreNo) (t : Task) (x : Coll) (cores : List CoreNo) (round j : Nat) : Except (BitVec 8) (State × List (List Nat)) :=
  if round = 0 then
    let b := sliceCodes v (fmtD (rtWfmt t)) (cmemBase c + rtShard t) (rtN t) (rtK t) 0 (rtK t)
    .ok (setColl s t { x with blocks := tput [] x.blocks j b }, b)
  else if reachable s (coreTile (predecessor cores c)) (coreTile c) then .ok (s, tget [] x.blocks j)
  else .error stUnreachable

/-- Pairs as words, hi then lo. -/
def pairWords (l : List Pair) : List F32 := l.flatMap fun p => [p.hi, p.lo]
def wordPairs : List F32 → List Pair
  | a :: b :: r => ⟨a, b⟩ :: wordPairs r
  | _ => []

/-- The accumulator that travels with shard j: from its home at first. -/
def travelling (v : State) (c : CoreNo) (t : Task) (x : Coll) (round j : Nat) : List Pair :=
  if round = 0 then wordPairs (f32s v (cmemBase c + rtGacc t) (2 * rtN t * rtK t)) else wordPairs (tget [] x.travel j)

/-- A core's contribution to the gradient of a shard: DY^T × X over its rows. -/
def shardGradient (t : Task) (dy : List (List F32)) (x : List (List Nat)) : List F32 :=
  let f := fmtD (rtXfmt t)
  let dcols := (columns dy (rtN t)).map (opRowOfF32 f false)
  let xcols := (List.range (rtK t)).map fun j => toOp f (x.map fun r => (r[j]?).getD 0)
  dcols.flatMap fun d => xcols.map fun k => dotRows f32Zero d k

/-- Stores of Y's columns from `col` on. -/
def ySlices (t : Task) (R col : Nat) (rows : List (List F32)) : List (Nat × List Byte) :=
  let f := fmtD (rtYfmt t)
  rows.zipIdx.map fun e => (rtY t + e.2 * elemBytes f (rtYcols t R) + col * f.width / 8, packBytes f.width (e.1.map (convertTo f t.saturate)))

/-- The rows of X that shard j multiplies. -/
def rotateX (v : State) (t : Task) (R j : Nat) : List (List Nat) :=
  sliceCodes v (fmtD (rtXfmt t)) (rtX t) (rtM t) (rtXcols t R) (if rtKsplit t then j * rtK t else 0) (rtK t)

/-- The slice of the product that shard j gives, with KSPLIT added to what the rounds before it gave (R215, R216). -/
def rotateProduct (v : State) (t : Task) (sl : Slot) (R j : Nat) (shard : List (List Nat)) : List (List F32) :=
  let a := (rotateX v t R j).map (toOp (fmtD (rtXfmt t)))
  let b := shard.map (toOp (fmtD (rtWfmt t)))
  let acc := if rtKsplit t && sl.round ≠ 0 then groupsOf (rtN t) sl.acc.length sl.acc
    else List.replicate (rtM t) (List.replicate (rtN t) f32Zero)
  (a.zip acc).map fun e => (e.2.zip b).map fun x => dotRows x.1 e.1 x.2

/-- What a core computes with a shard in a round (R215, R216): its slice of the product, with GRAD the shard's gradient, and the result put
out, after each round or with KSPLIT after the last. -/
def rotateCompute (c : CoreNo) (k : SlotNo) (s v : State) (t : Task) (x : Coll) (sl : Slot) (R : Nat) (shard : List (List Nat)) : State :=
  let j := (ringPos (collCores s t) c + R - sl.round) % R
  let yf := fmtD (rtYfmt t)
  let xs := rotateX v t R j
  let y := rotateProduct v t sl R j shard
  let s := if rtGrad t then
      let dy := sliceCodes v yf (rtDy t) (rtM t) (rtYcols t R) (if rtKsplit t then 0 else j * rtN t) (rtN t)
      let g := shardGradient t (dy.map fun r => r.map (toF32 yf (some 0))) xs
      let cur := (findColl s t).getD x
      setColl s t { cur with travel := tput [] cur.travel j (pairWords (addTerms (travelling v c t cur sl.round j) g)) }
    else s
  let s := setSlot s c k { roundOver sl with acc := if rtKsplit t then y.flatten else [] }
  if !rtKsplit t then keepOuts s c k (ySlices t R (j * rtN t) y)
  else if sl.round + 1 = R then keepOuts s c k (ySlices t R 0 y) else s

/-- A round of ROTATE (R215, R216); with GRAD the hop after the last brings the accumulator home. -/
def rotateRound (c : CoreNo) (k : SlotNo) (s : State) (t : Task) (x : Coll) : State :=
  let sl := getSlot s c k
  let v := (startWork s c k t).view
  let cores := collCores s t
  let R := cores.length
  let i := ringPos cores c
  if sl.round = R then
    endMember (keepOuts s c k [(cmemBase c + rtGacc t, pairsToBytes (wordPairs (tget [] x.travel i)))]) c k t
  else
    match roundShard s v c t x cores sl.round ((i + R - sl.round) % R) with
    | .error st => taskFails s c k st
    | .ok (s, shard) =>
      let s := rotateCompute c k s v t x sl R shard
      if decide (sl.round + 1 = R) && !rtGrad t then endMember s c k t else s

/-- The reads of a core's own arrays. -/
def rotateReads (c : CoreNo) (t : Task) (R : Nat) : List (Nat × Nat) :=
  [(cmemBase c + rtShard t, rtShardBytes t), (rtX t, rtM t * elemBytes (fmtD (rtXfmt t)) (rtXcols t R))]
    ++ (if rtGrad t then [(rtDy t, rtM t * elemBytes (fmtD (rtYfmt t)) (rtYcols t R)), (cmemBase c + rtGacc t, rtGaccBytes t)] else [])

/-- ROTATE on its slot: its fetches, the join of its collective, then round 0. -/
def rotateStart (c : CoreNo) (k : SlotNo) (s : State) (t : Task) : State :=
  let sl := getSlot s c k
  if !sl.joined then
    let w := (startWork s c k t).fetchAll (rotateReads c t (collCores s t).length)
    if w.halted then finishWork s w c k .stages else joinColl s c k t
  else match findColl s t with
    | none => s
    | some x => if x.stage = 1 && sl.round = 0 then rotateRound c k s t x else s

/-- ROTATE (R215). -/
def execRotate (core : CoreNo) (slot : SlotNo) (s : State) := finish s (runTask s core slot .rotate (rotateStart core slot))

/-- ROTATE_SHARD_RECEIVED (R215): the next shard has come from the ring predecessor. -/
def execRotateShardReceived (core : CoreNo) (slot : SlotNo) (s : State) :=
  finish s <|
    match runningTask s core slot .rotate with
    | none => s
    | some t =>
      let sl := getSlot s core slot
      match findColl s t with
      | none => s
      | some x =>
        if x.stage = 1 && sl.round ≠ 0 && predecessorDone s x (collCores s t) core sl.head sl.round then rotateRound core slot s t x
        else s

end Sys2Proof.Machine
end

