-- ==== Sys2Proof/Machine/TaskAdmit.lean ====
section
/-!
DEFINITION. Admission at a core (R84, R191, R227, R327, R330).
-/
namespace Sys2Proof.Machine
open Sys2Proof

/-- The checks that a core makes of a descriptor. -/
def coreFails (s : State) (c : CoreNo) (t : Task) : List Fail :=
  match t.op with
  | some .copy => copyTaskFails s c t
  | some .wait => waitFails s t
  | some .timed => timedFails s t
  | some .gauntlet => gauntletFails s c t
  | some .attn => attnFails s c t
  | some .route => routeFails s c t
  | some .dispatch => dispatchFails s c t
  | some .combine => combineFails s c t
  | some .rotate => rotateFails s c t
  | some .reduce => reduceFails s c t
  | _ => []

/-- Units of a half that the core's slots hold. -/
def unitsHeld (c : Core) : Nat := (c.slots.map fun e => e.2.footprint).sum
/-- The lowest empty slot. DESIGN CHOICE (log 62): where several slots are EMPTY the spec names none of them. -/
def emptySlot (c : Core) : Option SlotNo := (List.finRange 4).find? fun k => (coreSlot c k).state == .empty

/-- The destination ranges of a descriptor as R94 has them. -/
def destRanges (s : State) (c : CoreNo) (t : Task) : List (Nat × Nat) :=
  match t.op with
  | some .gauntlet => gauntletDest t (admitRows s c t)
  | some .copy => [(cpDst t, cpBytes t)]
  | some .attn => writes (attnRanges t)
  | some .route => if t.bwd then [(roDz t, 4 * roT t * roE t)] else [(roOut t, 8 * roT t * roStride t)]
  | some .dispatch => if t.bwd then [(diSrc t, diT t * diRow t)] else []
  | some .combine => if t.bwd then [(coDw t, 4 * coT t * coK t)] else [(coY t, coT t * coYrow t)]
  | some .rotate =>
    let R := (ringCores (getPart s t.part).map (t.f 256 4)).length
    (rtY t, rtM t * elemBytes (fmtD (rtYfmt t)) (rtYcols t R)) :: (if rtGrad t then [(cmemBase c + rtGacc t, rtGaccBytes t)] else [])
  | _ => []
where
  /-- Of some ranges, those written. -/
  writes (l : List (Right × Nat × Nat × Nat)) : List (Nat × Nat) := (l.filter fun r => r.1 == .write).map fun r => (r.2.1, r.2.2.1)

/-- The first waiting descriptor takes a slot: READY, or BLOCKED as a gate or for its step (R78, R84). -/
def takeSlot (s : State) (n : CoreNo) (k : SlotNo) (t : Task) : State :=
  let c := getCore s n
  let p := getPart s t.part
  let next := stepWhen p t.step == .next
  let gate := t.isGate
  let t' := { admitMark s t with exp := if next then none else some (stepExp p t.step) }
  setCore s n (judge (putSlot { c with queue := c.queue.tail } k
    { task := some t', footprint := t.footprint, dest := destRanges s n t, state := if next || gate then .blocked else .ready, stepHeld := next }))

/-- The first of a core's descriptors leaves the queue without a slot. -/
def popQueue (s : State) (n : CoreNo) : State := let c := getCore s n; setCore s n { c with queue := c.queue.tail }

/-- The first of a core's descriptors is refused: a gate with the rest of its ring (R332). -/
def refuseFirst (s : State) (n : CoreNo) (t : Task) (st : BitVec 8) (d : BitVec 16) : State :=
  let s := rejectTask (popQueue s n) t st d
  if t.isGate then pumpRing (ringSkip s t.ring.toNat t st) t.ring.toNat else s

/-- What happens to the first descriptor that waits at a core. -/
def admitFirst (s : State) (n : CoreNo) (t : Task) : State :=
  let c := getCore s n
  let bound := match t.op with | some op => op.usesMapGen | none => false
  let gen := if bound then genWhen (getPart s t.part) t.mapGen t.afterMark else .run
  if gen = .hold && coreAvailable s n then
    if c.held.length < 16 then setCore s n { c with queue := c.queue.tail, held := c.held ++ [t] }
    else refuseFirst s n t stStalePhase 5
  else
    match admissionFailure (need (coreAvailable s n) stCore 3 ++ genFails gen ++ coreFails s n t), emptySlot c with
    | some (st, d), _ => refuseFirst s n t st d
    | none, none => s
    | none, some k => if unitsHeld c + t.footprint ≤ coreUnits s n then takeSlot s n k t else s

/-- TASK_ADMIT (R84). -/
def execTaskAdmit (core : CoreNo) (s : State) :=
  finish s <|
    match (getCore s core).queue with
    | [] => s
    | t :: _ => if resettingCore s core || changingCore s core || clockStopped s core then s else admitFirst s core t

end Sys2Proof.Machine
end

