-- ==== Sys2Proof/Machine/TimeBase.lean ====
section
/-!
DEFINITION. The time base: the references, their judging, selection, slews, holdover, time sets, not-before release and the EXPORT ring's register
(R366 to R396, R477). Steering itself is physical: an edge carries the phase that was measured, and a row says when a slew is over. What happens to
the time base is worked out on it alone, with the events that it raises; the rest of the module sees only the result.
-/
namespace Sys2Proof.Machine
open Sys2Proof

/-! BAR0 offsets (R494, R501). -/
def offTbCtl : Nat := 0x100008
def offTbSet : Nat := 0x100010
def offTbNow : Nat := 0x100018
def offCuExport (p : PartNo) : Nat := 0x801008 + 0x20 * p.val

/-! Reference states (R372). -/
def refAbsent : BitVec 3 := 0
def refQualifying : BitVec 3 := 1
def refGood : BitVec 3 := 2
def refSuspect : BitVec 3 := 3
def refLost : BitVec 3 := 4
def refMisaligned : BitVec 3 := 5

/-- A time base on its way: what it is now, the events raised, and whether a time set took effect. -/
structure TimeRun where
  tb : TimeBase
  events : List Event := []
  wasSet : Bool := false

def TimeRun.emit (r : TimeRun) (ev : Event) : TimeRun := { r with events := r.events ++ [ev] }
def TimeRun.ref (r : TimeRun) (i : Fin 2) : Ref := tget {} r.tb.refs i.val
def TimeRun.putRef (r : TimeRun) (i : Fin 2) (v : Ref) : TimeRun := { r with tb := { r.tb with refs := tput {} r.tb.refs i.val v } }
def TimeRun.good (r : TimeRun) (i : Fin 2) : Bool := (r.ref i).state == refGood

/-- The reference that a source is (R376). -/
def sourceRef : Source → Option (Fin 2)
  | .refA => some 0
  | .refB => some 1
  | _ => none
def refSource (i : Fin 2) : Source := if i = 0 then .refA else .refB
/-- SOURCE as TB_STATUS codes it (R391). -/
def sourceCode : Source → Nat
  | .free => 0 | .refA => 1 | .refB => 2 | .holdover => 3

/-- A signed event argument. -/
def signedArg (v : Int) : Nat := signedBits v 64

/-- A phase within half a second of zero. -/
def wrapPhase (p : Int) : Int := (p + 500000000) % 1000000000 - 500000000

/-- The counter moves against both references' edges by d ns. -/
def shiftPhases (r : TimeRun) (d : Int) : TimeRun :=
  let one (r : TimeRun) (i : Fin 2) : TimeRun :=
    let x := r.ref i
    if x.state == refAbsent then r else r.putRef i { x with phaseNs := wrapPhase (x.phaseNs - d) }
  one (one r 0) 1

/-- PPS_OUT is high (R477): for 100 ms from each whole second while CK_TB runs. -/
def ppsOutLevel (tb : TimeBase) : Bool := tb.running && decide (tb.now.toNat % 2 ^ 32 * 10 < 2 ^ 32)

/-! Holdover (R378). -/

/-- E(t) in ns, t since the entry into holdover. -/
def holdoverError (tb : TimeBase) : Nat :=
  let t := (tb.now - tb.holdStart).toNat
  let c := if tb.holdLong then 1 else 10
  (400000 * 2 ^ 64 + c * t * 200000 * 2 ^ 32 + t * t) / (200000 * 2 ^ 64)

/-! Switching (R376, R377). -/

/-- The counter has another source (R370, REF_SWITCH). -/
def switchTo (r : TimeRun) (src : Source) (phase : Int) : TimeRun :=
  let e := r.tb.epoch + 1
  { r with tb := { r.tb with source := src, epoch := e } }.emit
    { code := 0x0051, everyone := true, args := [sourceCode r.tb.source, sourceCode src, e.toNat, signedArg phase] }

/-- A switch to a reference begins (R377): the first lock while the quality is UNSET steps the fraction to the PPS edge, any other slews the
difference away, and one of more than 1 ms is not taken. -/
def takeRef (r : TimeRun) (i : Fin 2) : TimeRun × Bool :=
  let p := (r.ref i).phaseNs
  let tb := r.tb
  if !tb.timeSet && !tb.everLocked then
    let now := tb.now >>> 32 <<< 32
    (shiftPhases (switchTo { r with tb := { tb with now := now, everLocked := true, slewing := false, errNs := 0, lockedSince := now } } (refSource i) p) p, true)
  else if 1000000 < p.natAbs then
    ((r.putRef i { r.ref i with state := refMisaligned }).emit { code := 0x0056, args := [i.val, signedArg p] }, false)
  else
    let tb := { tb with everLocked := true, slewing := decide (2 < p.natAbs), errNs := p.natAbs, fine := decide (p.natAbs < 1000), lockedSince := tb.now }
    (switchTo { r with tb := tb } (refSource i) p, true)

/-- Holdover begins (R378): the OCXO runs on at its learned offset. -/
def enterHoldover (r : TimeRun) : TimeRun :=
  let tb := { r.tb with slewing := false, fine := true, holdStart := r.tb.now
                        holdLong := !r.tb.slewing && decide (1024 * 2 ^ 32 ≤ (r.tb.now - r.tb.lockedSince).toNat) }
  let r := switchTo { r with tb := tb } .holdover 0
  r.emit { code := 0x0055, everyone := true, args := [(qualityOf r.tb).toNat, holdoverError r.tb] }

/-- Take one of two references, in order, if it is good and aligned; note when it is not the preferred one. -/
def tryRefs (r : TimeRun) (pref : Fin 2) : TimeRun × Bool :=
  let first := if r.good pref then takeRef r pref else (r, false)
  if first.2 then ({ first.1 with tb := { first.1.tb with stayOther := false } }, true)
  else
    let other := 1 - pref
    let second := if first.1.good other then takeRef first.1 other else (first.1, false)
    if second.2 then ({ second.1 with tb := { second.1.tb with stayOther := true } }, true) else (second.1, false)

/-- The source that R376 calls for. A slew in hand finishes first (R390). -/
def selectSource (r : TimeRun) : TimeRun :=
  let tb := r.tb
  let pref : Fin 2 := if tb.prefer then 1 else 0
  match sourceRef tb.source with
  | some c =>
    if r.good c then
      if tb.slewing || c == pref || !r.good pref || (tb.stayOther && !tb.revert) then r
      else
        let x := takeRef r pref
        if x.2 then { x.1 with tb := { x.1.tb with stayOther := false } } else x.1
    else
      let x := tryRefs r pref
      if x.2 then x.1 else enterHoldover x.1
  | none => (tryRefs r pref).1

/-! Judging (R372 to R375). -/

/-- A reference becomes GOOD (REF_GOOD), and may be selected. -/
def refBecomesGood (r : TimeRun) (i : Fin 2) : TimeRun :=
  (r.putRef i { r.ref i with state := refGood, outPhase := 0 }).emit { code := 0x0054, args := [i.val] }

/-- A reference becomes SUSPECT: 0 for its frequency, 1 for its phase. -/
def refBecomesSuspect (r : TimeRun) (i : Fin 2) (why : Nat) : TimeRun :=
  let x := r.ref i
  (r.putRef i { x with state := refSuspect, inWindows := 0, outPhase := 0 }).emit { code := 0x0052, args := [i.val, signedArg x.freq, why] }

/-- A loss (R373): 0 no PPS, 1 no 10 MHz, 2 inconsistent. A reference that is lost, or absent with no edge seen yet, begins its intervals afresh. -/
def refLoses (r : TimeRun) (i : Fin 2) (cause : Nat) : TimeRun :=
  let x := r.ref i
  if (x.state == refAbsent && !x.seen) || x.state == refLost then r.putRef i { x with consistent := 0, lossInWindow := true }
  else
    let r := r.putRef i { x with state := refLost, consistent := 0, outWindows := 0, inWindows := 0, outPhase := 0, lossInWindow := true }
    selectSource (r.emit { code := 0x0053, args := [i.val, cause] })

/-- No difference is left for a slew to remove (R377). -/
def slewOver (r : TimeRun) : TimeRun :=
  if r.tb.slewing then { r with tb := { r.tb with slewing := false, errNs := 0, lockedSince := r.tb.now } } else r

/-- The armed set takes effect (R380, TIME_SET): one pulse, a new epoch, and a misaligned reference may be judged again (R377). -/
def applySet (r : TimeRun) (secs : BitVec 32) : TimeRun :=
  let old := r.tb.now
  let new : Word64 := secs ++ (0 : BitVec 32)
  let e := r.tb.epoch + 1
  let r := { r with wasSet := true, tb := { r.tb with
    now := new, timeSet := true, epoch := e, armed := none, ppsPulses := r.tb.ppsPulses + 1
    holdStart := r.tb.holdStart + (new - old), lockedSince := r.tb.lockedSince + (new - old) } }
  let r := r.emit { code := 0x0050, everyone := true, args := [old.toNat, new.toNat, e.toNat] }
  let one (r : TimeRun) (i : Fin 2) : TimeRun := if (r.ref i).state == refMisaligned then refBecomesGood r i else r
  selectSource (one (one r 0) 1)

/-- The intervals of a reference that is absent or lost (R373): after 8 consistent ones it qualifies, or is good when no source has been locked
since power-on. -/
def qualify (r : TimeRun) (i : Fin 2) : TimeRun :=
  let x := r.ref i
  if x.consistent + 1 < 8 then r.putRef i { x with consistent := x.consistent + 1 }
  else
    let r := r.putRef i { x with state := refQualifying, consistent := 0, outWindows := 0, inWindows := 0 }
    if r.tb.everLocked then r else selectSource (refBecomesGood r i)

/-- An edge of the selected reference against the counter's prediction (R375). A slew's own remaining difference is predicted. -/
def comparePhase (r : TimeRun) (i : Fin 2) : TimeRun :=
  let x := r.ref i
  if r.tb.slewing then r
  else if x.phaseNs.natAbs ≤ 100 then r.putRef i { x with outPhase := 0 }
  else if x.outPhase + 1 < 3 then r.putRef i { x with outPhase := x.outPhase + 1 }
  else selectSource (refBecomesSuspect r i 1)

/-- An armed set takes effect at an edge of the selected reference (R380): the fraction stands at the edge, so a slew has nothing left to remove. -/
def armedEdge (r : TimeRun) (i : Fin 2) (phaseNs : Int) : TimeRun :=
  match r.tb.armed with
  | some secs => if sourceRef r.tb.source == some i then applySet (shiftPhases (slewOver r) (wrapPhase phaseNs)) secs else r
  | none => r

/-- What an edge with consistent cycles says of its reference (R373, R375, R377). -/
def judgeEdge (r : TimeRun) (i : Fin 2) : TimeRun :=
  let x := r.ref i
  if x.state == refAbsent || x.state == refLost then qualify r i
  else if x.state == refMisaligned then (if x.phaseNs.natAbs ≤ 1000000 then selectSource (refBecomesGood r i) else r)
  else if sourceRef r.tb.source == some i then comparePhase r i
  else r

/-- A PPS edge (R373 to R377, R380). The first one ends no interval. -/
def ppsEdge (r : TimeRun) (i : Fin 2) (cycles : Nat) (phaseNs : Int) : TimeRun :=
  let first := !(r.ref i).seen
  let r := r.putRef i { r.ref i with phaseNs := wrapPhase phaseNs, seen := true }
  if first then r
  else if !decide (9999999 ≤ cycles ∧ cycles ≤ 10000001) then refLoses r i 2 else judgeEdge (armedEdge r i phaseNs) i

/-- The OCXO's learned offset (R374): the mean of the windows learned. -/
def learnedOffset (tb : TimeBase) : Int := tb.learnedWindows.sum / (max tb.learnedWindows.length 1 : Nat)

/-- Two frequencies within TB_TOL, which is in ppb; frequencies are in 0.1 ppb. -/
def withinTol (tb : TimeBase) (a b : Int) : Bool := decide ((a - b).natAbs ≤ tb.tolPpb.toNat * 10)

/-- One reference over a window (R374): its own measured offset, the other reference's with the state it had, the corrected OCXO's. Nothing to
compare with leaves it in tolerance. A window that holds a loss counts as neither. -/
def judgeWindow (other : BitVec 3) (r : TimeRun) (i : Fin 2) (f fOther ocxo : Int) : TimeRun :=
  let x := r.ref i
  if x.state == refAbsent || x.state == refLost then r.putRef i { x with lossInWindow := false }
  else if x.lossInWindow then r.putRef i { x with lossInWindow := false, freq := f - ocxo }
  else
    let sources := (if other == refGood || other == refSuspect || other == refQualifying then [fOther] else [])
      ++ (if r.tb.learnedWindows.isEmpty then [] else [ocxo])
    if sources.isEmpty || sources.any (withinTol r.tb f) then
      let n := satInc x.inWindows
      let r := r.putRef i { x with freq := f - ocxo, outWindows := 0, inWindows := n }
      if (x.state == refSuspect && decide (8 ≤ n.toNat)) || (x.state == refQualifying && decide (3 ≤ n.toNat)) then refBecomesGood r i else r
    else
      let n := satInc x.outWindows
      let r := r.putRef i { x with freq := f - ocxo, inWindows := 0, outWindows := n }
      if (x.state == refGood || x.state == refMisaligned) && decide (3 ≤ n.toNat) then refBecomesSuspect r i 0 else r

/-- The OCXO learns its offset from the selected reference (R374), good and in tolerance over the window. -/
def learn (before r : TimeRun) (freqA freqB ocxo : Int) : TimeRun :=
  match sourceRef before.tb.source with
  | none => r
  | some i =>
    if before.good i && !(before.ref i).lossInWindow && r.good i && (r.ref i).outWindows == 0 then
      let f := if i = 0 then freqA else freqB
      { r with tb := { r.tb with learnedWindows := ((ocxo - f) :: r.tb.learnedWindows).take 64 } }
    else r

/-- A window of 16 s (R374): both references, then the learning, then the selection. -/
def windowEnd (r : TimeRun) (freqA freqB ocxo : Int) : TimeRun :=
  let corrected := ocxo - learnedOffset r.tb
  let a := judgeWindow (r.ref 1).state r 0 freqA freqB corrected
  let b := judgeWindow (r.ref 0).state a 1 freqB freqA corrected
  selectSource (learn r b freqA freqB ocxo)

/-- The slew has brought Thefa time to the reference (R377); a switch that waited for it follows (R390). -/
def slewEnd (r : TimeRun) : TimeRun :=
  if r.tb.slewing then selectSource (slewOver r) else r

/-- E reaches 1 µs (R378, HOLDOVER). -/
def degrade (r : TimeRun) : TimeRun :=
  if r.tb.source == .holdover && r.tb.fine && decide (1000 ≤ holdoverError r.tb) then
    let r := { r with tb := { r.tb with fine := false } }
    r.emit { code := 0x0055, everyone := true, args := [(qualityOf r.tb).toNat, holdoverError r.tb] }
  else r

/-- A whole second of Thefa time (R477): a pulse, and, with no reference selected, an armed set (R380). -/
def wholeSecond (r : TimeRun) : TimeRun :=
  if r.tb.now.toNat % 2 ^ 32 ≠ 0 then r
  else match sourceRef r.tb.source, r.tb.armed with
    | none, some secs => applySet r secs
    | _, _ => { r with tb := { r.tb with ppsPulses := r.tb.ppsPulses + 1 } }

/-! What the rest of the module sees. -/

/-- Work held for a time, judged by the time as it now is (R381, R382): what is reached goes on, and a TIMED that a set has left more than 60 s
ahead ends with the timeout status. -/
def reevaluate (s : State) : State :=
  let far (t : Task) : Bool := decide ((now s).toNat + 60 * 2 ^ 32 < t.f 256 64)
  let s := (s.rings.map (·.1)).foldl
    (fun s rn => match ringFront s rn .timed with
      | some t =>
        if (getRing s rn).gateStarted && far t then endRingGate s rn t stTimeout 0 else pollGate s .timed (.ring (BitVec.ofNat 20 rn))
      | none => s) s
  let s := (s.cores.map fun e => (Fin.ofNat 256 e.1 : CoreNo)).foldl
    (fun s c => (List.finRange 4).foldl
      (fun s k => match coreGate s c k .timed true with
        | some t => if far t then endCoreGate s c k t stTimeout else pollGate s .timed (.core c k)
        | none => s) s) s
  (s.parts.map fun e => (Fin.ofNat 64 e.1 : PartNo)).foldl phaseReached s

/-- The state once the time base has become what a row made of it. -/
def timeSeen (s : State) (r : TimeRun) : State :=
  let s := r.events.foldl raise { s with tb := r.tb }
  if r.wasSet then reevaluate s else s

/-- A row that acts on the time base, while CK_TB runs. -/
def timeRow (s : State) (f : TimeRun → TimeRun) : Host.Outcome State Fault Refusal :=
  if s.tb.running then let r := f { tb := s.tb }; finishTime s r.tb (timeSeen s r) else finishTime s s.tb s

/-- REF_PPS_EDGE: an edge, the cycles of its own 10 MHz since the one before, and its phase against Thefa time. -/
def execRefPpsEdge (ref : Fin 2) (cycles : Nat) (phaseNs : Int) (s : State) := timeRow s fun r => ppsEdge r ref cycles phaseNs

/-- REF_PPS_TIMEOUT (R373). -/
def execRefPpsTimeout (ref : Fin 2) (s : State) := timeRow s fun r => refLoses r ref 0

/-- REF_FREQ_LOSS (R373). -/
def execRefFreqLoss (ref : Fin 2) (s : State) := timeRow s fun r => refLoses r ref 1

/-- TOLERANCE_WINDOW_END (R374): the measured offsets from one nominal frequency, in 0.1 ppb. -/
def execToleranceWindowEnd (freqA freqB ocxo : Int) (s : State) := timeRow s fun r => windowEnd r freqA freqB ocxo

/-- SLEW_DONE (R377). -/
def execSlewDone (s : State) := timeRow s slewEnd

/-- SLEW_HOLD_FINE (R377). -/
def execSlewHoldFine (s : State) := timeRow s fun r => if r.tb.slewing then { r with tb := { r.tb with fine := true } } else r

/-- HOLDOVER_DEGRADE (R378). -/
def execHoldoverDegrade (s : State) := timeRow s degrade

/-- THEFA_WHOLE_SECOND (R477, R380). -/
def execThefaWholeSecond (s : State) := timeRow s wholeSecond

/-! The registers. -/

/-- TB_SET (R380, R393). -/
def execTbSet (port : HostPort) (value : Word64) (s : State) :=
  if !bar0Open s port false then finishTime s s.tb s
  else if !pairOk value then finishTime s s.tb (setupRefused s offTbSet)
  else finishTime s { s.tb with armed := some (value.extractLsb' 0 32) } s

/-- TB_CTL_WRITE (R392, R376). A change of PREFER calls for the new one at once, or after a slew. -/
def execTbCtlWrite (port : HostPort) (value : Word64) (s : State) :=
  let v := pairVal value
  let tol := bits v 4 10
  if !bar0Open s port false then finishTime s s.tb s
  else if !pairOk value || !decide (5 ≤ tol ∧ tol ≤ 1000) then finishTime s s.tb (setupRefused s offTbCtl)
  else
    let prefer := v.testBit 0
    let tb := { s.tb with prefer := prefer, revert := v.testBit 1, tolPpb := BitVec.ofNat 10 tol
                          stayOther := s.tb.stayOther && prefer == s.tb.prefer }
    let r := selectSource { tb := tb }
    finishTime s r.tb (timeSeen s r)

/-- TB_NOW_LOW_READ (R394, R487). -/
def execTbNowLowRead (port : HostPort) (s : State) :=
  finish s <|
    if (getHp s port).linkUp then setHp s port { getHp s port with latch := some (offTbNow, s.tb.now.extractLsb' 32 32) } else s

/-- NOT_BEFORE_REACHED (R381). -/
def execNotBeforeReached (what : HeldUntil) (s : State) :=
  finish s <| match what with
    | .gate g => pollGate s .timed g
    | .phase p => phaseReached s p

/-- EXPORT_RING_SET (R383, R396). -/
def execExportRingSet (port : HostPort) (p : PartNo) (value : Word64) (s : State) :=
  finish s <|
    if !bar0Open s port false then s
    else
      let v := pairVal value
      let r := getRing s (v % 2 ^ 20)
      let cx := getCtx s r.ctx
      let names := r.enabled && r.kind == 3 && cx.bound && cx.part == p
      if pairOk value && (!v.testBit 20 || names) then setPart s p { getPart s p with exportRing := BitVec.ofNat 21 v }
      else setupRefused s (offCuExport p)

end Sys2Proof.Machine
end

