-- ==== Sys2Proof/Machine/Timeouts.lean ====
section
/-!
DEFINITION. The wait timeout (R331): what an expiry does in each place where a descriptor can be in a counted wait.
-/
namespace Sys2Proof.Machine
open Sys2Proof

/-- A task leaves a list. -/
def dropTask (l : List Task) (t : Task) : List Task := l.filter fun u => !sameTask u t

/-- A descriptor waits where it stands for the census of the running step (R78). -/
def stepWaits (s : State) (t : Task) : Bool := stepWhen (getPart s t.part) t.step == .next

/-- In the ring unit: a started WAIT reads its tally once more; what its step holds ends. -/
def ringExpiry (s : State) (rn : Nat) : State :=
  let r := getRing s rn
  match r.sendQueue with
  | [] => s
  | t :: _ =>
    if !homeStands s r || fenceWaits r t || gateHolds r || targetHeld s t || t.tkind ≠ 0 then s
    else if r.gateStarted then
      (if t.op == some .wait then endRingGate s rn t ((waitResult s (hostTile r.home) t).getD stTimeout) 0 else s)
    else if !stepWaits s t then s
    else if t.op == some .wait || t.op == some .timed then endRingGate s rn t stTimeout 0
    else if t.op == some .nop || t.op == some .signal then pumpRing (complete (popSend s rn) t stTimeout) rn
    else s

/-- A task of a slot ends with WAIT_TIMEOUT: a gate with the rest of its ring. -/
def slotTimesOut (s : State) (c : CoreNo) (k : SlotNo) (t : Task) : State :=
  if t.op == some .wait || t.op == some .timed then endCoreGate s c k t stTimeout else failSlot s c k stTimeout

/-- An operation on a Palm whose sequence has not come due times out (R225). -/
def palmExpiry (s : State) (c : CoreNo) (k : SlotNo) (n : Nat) (seq : BitVec 32) : State :=
  let next := (getPalm s c n).nextSeq
  if seq != next && !seqBefore seq next then failSlot s c k stTimeout else s

/-- A collective's task: one that still gathers ends for every participant that has come (R198, R215); one that waits for another to close
ends alone (R217). -/
def collExpiry (s : State) (c : CoreNo) (k : SlotNo) (t : Task) : State :=
  match findColl s t with
  | some x => if x.stage = 0 && (x.members.any fun m => m.1 == c && m.2.1 == k) then endColl s t x stTimeout else s
  | none => if !(getSlot s c k).joined && decide (256 ≤ (getPart s t.part).colls.length) then failSlot s c k stTimeout else s

/-- In a slot: the hold for its step, a WAIT, a collective, a Palm sequence, a REDUCE's credits (R234). -/
def slotExpiry (s : State) (c : CoreNo) (k : SlotNo) : State :=
  let sl := getSlot s c k
  match sl.task with
  | none => s
  | some t =>
    if sl.ended then s
    else if sl.stepHeld then (if stepWaits s t then slotTimesOut s c k t else s)
    else match t.op with
      | some .wait => if sl.gateStarted then endCoreGate s c k t ((waitResult s (coreTile c) t).getD stTimeout) else s
      | some .dispatch | some .attn | some .rotate => collExpiry s c k t
      | some .gauntlet => if gPalm t && sl.started then palmExpiry s c k (gPalmSlot t) (gPalmSeq t) else s
      | some .reduce => if sl.started then failSlot s c k stTimeout else palmExpiry s c k (rePalm t) (reSeq t)
      | _ => s

/-- A held descriptor whose switch has not come (R191). -/
def genWaits (s : State) (t : Task) : Bool := genWhen (getPart s t.part) t.mapGen t.afterMark == .hold

/-- At a core: an entry of the held list, or after it the PALM_INIT that its step holds at the front of their queue. -/
def coreExpiry (s : State) (c : CoreNo) (i : Nat) : State :=
  let co := getCore s c
  match co.held[i]? with
  | some t => if genWaits s t then complete (setCore s c { co with held := co.held.eraseIdx i }) t stTimeout else s
  | none =>
    match co.palmQueue with
    | t :: _ => if i = co.held.length && !co.palmBusy && stepWaits s t then complete (popPalm s c) t stTimeout else s
    | [] => s

/-- At a Cuff: an entry of the held list, or after it the arrival that its step holds at the front. -/
def cuffExpiry (s : State) (n : CuffNo) (i : Nat) : State :=
  let c := getCuff s n
  match c.held[i]? with
  | some t => if genWaits s t then complete (setCuff s n { c with held := c.held.eraseIdx i }) t stTimeout else s
  | none =>
    match c.inbox with
    | t :: rest => if i = c.held.length && stepWaits s t then complete (setCuff s n { c with inbox := rest }) t stTimeout else s
    | [] => s

/-- At a station: likewise. -/
def stationExpiry (s : State) (n : TileNo) (i : Nat) : State :=
  let x := getTile s n
  match x.station.held[i]? with
  | some t =>
    if genWaits s t then complete (setTile s n { x with station := { x.station with held := x.station.held.eraseIdx i } }) t stTimeout else s
  | none =>
    match x.station.inbox with
    | t :: rest =>
      if i = x.station.held.length && stepWaits s t then
        complete (setTile s n { x with station := { x.station with inbox := rest } }) t stTimeout
      else s
    | [] => s

/-- At the coordinator: a PHASE in step 1, 4 or 5 (R192), or after them the PHASE that its step holds. -/
def phaseExpiry (s : State) (p : PartNo) (i : Nat) : State :=
  let x := getPart s p
  match x.phases[i]? with
  | some h =>
    let goesOn := if h.step = 1 then i = 0 else if h.step = 4 then oldGenerationDone s p else decide (phNotBefore h.task ≤ (now s).toNat)
    if goesOn then s else endPhase s p i stTimeout
  | none =>
    match x.coord.find? fun t => t.op == some .phase with
    | some t =>
      if i = x.phases.length && stepWaits s t then complete (setPart s p { x with coord := dropTask x.coord t }) t stTimeout else s
    | none => s

/-- The pending STEP_CLOSE in its step 2 (R229): the mark is withdrawn, CUR and the counts stand. -/
def closeExpiry (s : State) (p : PartNo) : State :=
  match (getPart s p).closing with
  | some t => if stepDone s p then s else complete (withdrawClose s p) t stTimeout
  | none => s

/-- WAIT_TIMEOUT_EXPIRY (R331): the condition is checked once more; where it holds now the descriptor goes on. -/
def execWaitTimeoutExpiry (w : WaitPlace) (s : State) :=
  finish s <|
    match w with
    | .ring r => ringExpiry s r.toNat
    | .slot c k => slotExpiry s c k
    | .coreHeld c i => coreExpiry s c i
    | .cuffHeld n i => cuffExpiry s n i
    | .stationHeld t i => stationExpiry s t i
    | .phase p i => phaseExpiry s p i
    | .stepClose p => closeExpiry s p

end Sys2Proof.Machine
end

