-- ==== Sys2Proof/Machine/Dispatch.lean ====
section
/-!
DEFINITION. What each command does: one arm per row of the table.
-/
namespace Sys2Proof.Machine
open Sys2Proof

/-- The effect of a command on everything but the queue. -/
def exec (i : Instr) (s : State) : Host.Outcome State Fault Refusal :=
  match i with
  | .diagRequest port value => Sys2Proof.Machine.execDiagRequest port value s
  | .clusterModeEntry tile => Sys2Proof.Machine.execClusterModeEntry tile s
  | .clusterModeReturn tile failed => Sys2Proof.Machine.execClusterModeReturn tile failed s
  | .segmentFailure core phys => Sys2Proof.Machine.execSegmentFailure core phys s
  | .substituteSelftestDone core pass => Sys2Proof.Machine.execSubstituteSelftestDone core pass s
  | .spareSelftest tile => Sys2Proof.Machine.execSpareSelftest tile s
  | .spareSelftestResult core pass => Sys2Proof.Machine.execSpareSelftestResult core pass s
  | .tileHole tile cause => Sys2Proof.Machine.execTileHole tile cause s
  | .lsCommit port p value => Sys2Proof.Machine.execLsCommit port p value s
  | .lsPairInvalid p => Sys2Proof.Machine.execLsPairInvalid p s
  | .taskAdmit core => Sys2Proof.Machine.execTaskAdmit core s
  | .sliceExpiry core => Sys2Proof.Machine.execSliceExpiry core s
  | .minRunExpiry core => Sys2Proof.Machine.execMinRunExpiry core s
  | .fetchTagComplete core slot tag => Sys2Proof.Machine.execFetchTagComplete core slot tag s
  | .storeTagComplete core slot tag => Sys2Proof.Machine.execStoreTagComplete core slot tag s
  | .swapComplete core slot => Sys2Proof.Machine.execSwapComplete core slot s
  | .fetchFailure core slot status => Sys2Proof.Machine.execFetchFailure core slot status s
  | .gauntlet core slot => Sys2Proof.Machine.execGauntlet core slot s
  | .attn core slot => Sys2Proof.Machine.execAttn core slot s
  | .attnBwd core slot => Sys2Proof.Machine.execAttnBwd core slot s
  | .attnRound core slot => Sys2Proof.Machine.execAttnRound core slot s
  | .copy core slot => Sys2Proof.Machine.execCopy core slot s
  | .sparseMetaCheck core slot => Sys2Proof.Machine.execSparseMetaCheck core slot s
  | .tlSparseClear port core value => Sys2Proof.Machine.execTlSparseClear port core value s
  | .linkReplay tile dir good => Sys2Proof.Machine.execLinkReplay tile dir good s
  | .linkDown tile dir => Sys2Proof.Machine.execLinkDown tile dir s
  | .escapeTableLoad => Sys2Proof.Machine.execEscapeTableLoad s
  | .packetHop hop => Sys2Proof.Machine.execPacketHop hop s
  | .rdReq pkt ecc => Sys2Proof.Machine.execRdReq pkt ecc s
  | .wrReq pkt ecc => Sys2Proof.Machine.execWrReq pkt ecc s
  | .rdRsp pkt => Sys2Proof.Machine.execRdRsp pkt s
  | .wrAck pkt => Sys2Proof.Machine.execWrAck pkt s
  | .addReq pkt ecc => Sys2Proof.Machine.execAddReq pkt ecc s
  | .addlReq pkt ecc => Sys2Proof.Machine.execAddlReq pkt ecc s
  | .addRsp pkt => Sys2Proof.Machine.execAddRsp pkt s
  | .redData pkt => Sys2Proof.Machine.execRedData pkt s
  | .redCredit pkt => Sys2Proof.Machine.execRedCredit pkt s
  | .bcastData pkt => Sys2Proof.Machine.execBcastData pkt s
  | .mgReq pkt => Sys2Proof.Machine.execMgReq pkt s
  | .mgRsp pkt => Sys2Proof.Machine.execMgRsp pkt s
  | .errRsp pkt => Sys2Proof.Machine.execErrRsp pkt s
  | .redTimeout tile slot => Sys2Proof.Machine.execRedTimeout tile slot s
  | .brimBurstHop index => Sys2Proof.Machine.execBrimBurstHop index s
  | .clockWake tile => Sys2Proof.Machine.execClockWake tile s
  | .fbCommit port value => Sys2Proof.Machine.execFbCommit port value s
  | .quietTablesApplied => Sys2Proof.Machine.execQuietTablesApplied s
  | .phase p => Sys2Proof.Machine.execPhase p s
  | .phaseDrained p => Sys2Proof.Machine.execPhaseDrained p s
  | .route core slot => Sys2Proof.Machine.execRoute core slot s
  | .routeBwd core slot => Sys2Proof.Machine.execRouteBwd core slot s
  | .dispatch core slot => Sys2Proof.Machine.execDispatch core slot s
  | .dispatchCountPhase p key => Sys2Proof.Machine.execDispatchCountPhase p key s
  | .dispatchDirectoryValid core slot => Sys2Proof.Machine.execDispatchDirectoryValid core slot s
  | .dispatchBwd core slot => Sys2Proof.Machine.execDispatchBwd core slot s
  | .combine core slot => Sys2Proof.Machine.execCombine core slot s
  | .combineBwd core slot => Sys2Proof.Machine.execCombineBwd core slot s
  | .stream tile => Sys2Proof.Machine.execStream tile s
  | .streamStart tile => Sys2Proof.Machine.execStreamStart tile s
  | .rotate core slot => Sys2Proof.Machine.execRotate core slot s
  | .rotateShardReceived core slot => Sys2Proof.Machine.execRotateShardReceived core slot s
  | .fbMapAreaWrite port p value => Sys2Proof.Machine.execFbMapAreaWrite port p value s
  | .fbMoeClear port p value => Sys2Proof.Machine.execFbMoeClear port p value s
  | .palmInit core => Sys2Proof.Machine.execPalmInit core s
  | .palmContribution core slot => Sys2Proof.Machine.execPalmContribution core slot s
  | .reduce core slot => Sys2Proof.Machine.execReduce core slot s
  | .stepClose p => Sys2Proof.Machine.execStepClose p s
  | .censusFinal p => Sys2Proof.Machine.execCensusFinal p s
  | .updateApply cuff => Sys2Proof.Machine.execUpdateApply cuff s
  | .updatePark cuff => Sys2Proof.Machine.execUpdatePark cuff s
  | .cuffUpdateStart cuff => Sys2Proof.Machine.execCuffUpdateStart cuff s
  | .cuffChunk cuff read => Sys2Proof.Machine.execCuffChunk cuff read s
  | .rootBufferTimeout cuff tree => Sys2Proof.Machine.execRootBufferTimeout cuff tree s
  | .correctedWriteback line => Sys2Proof.Machine.execCorrectedWriteback line s
  | .scrubLine stack ecc => Sys2Proof.Machine.execScrubLine stack ecc s
  | .refresh stack => Sys2Proof.Machine.execRefresh stack s
  | .phyRecalibration stack pc ok => Sys2Proof.Machine.execPhyRecalibration stack pc ok s
  | .hcWithdraw port stack value => Sys2Proof.Machine.execHcWithdraw port stack value s
  | .hcLoadWindow stack util => Sys2Proof.Machine.execHcLoadWindow stack util s
  | .hcLoadRead port stack => Sys2Proof.Machine.execHcLoadRead port stack s
  | .xpLinkRecovery p => Sys2Proof.Machine.execXpLinkRecovery p s
  | .xpLinkLost p => Sys2Proof.Machine.execXpLinkLost p s
  | .promote cuff => Sys2Proof.Machine.execPromote cuff s
  | .drain cuff => Sys2Proof.Machine.execDrain cuff s
  | .mboxGo port p value => Sys2Proof.Machine.execMboxGo port p value s
  | .mboxComplete p returnCode output => Sys2Proof.Machine.execMboxComplete p returnCode output s
  | .mboxTimeout p => Sys2Proof.Machine.execMboxTimeout p s
  | .ringCreate port value => Sys2Proof.Machine.execRingCreate port value s
  | .ringChange port value => Sys2Proof.Machine.execRingChange port value s
  | .ringDisable port value => Sys2Proof.Machine.execRingDisable port value s
  | .doorbell port ctx slot size value => Sys2Proof.Machine.execDoorbell port ctx slot size value s
  | .ringRead r => Sys2Proof.Machine.execRingRead r s
  | .headWriteback r => Sys2Proof.Machine.execHeadWriteback r s
  | .fenceRelease r => Sys2Proof.Machine.execFenceRelease r s
  | .nop r => Sys2Proof.Machine.execNop r s
  | .signal r => Sys2Proof.Machine.execSignal r s
  | .wait g => Sys2Proof.Machine.execWait g s
  | .timed g => Sys2Proof.Machine.execTimed g s
  | .waitPoll g => Sys2Proof.Machine.execWaitPoll g s
  | .waitTimeoutExpiry w => Sys2Proof.Machine.execWaitTimeoutExpiry w s
  | .holdoffExpiry r => Sys2Proof.Machine.execHoldoffExpiry r s
  | .platformEventSet port value => Sys2Proof.Machine.execPlatformEventSet port value s
  | .partitionCreate port value => Sys2Proof.Machine.execPartitionCreate port value s
  | .partitionChange port value => Sys2Proof.Machine.execPartitionChange port value s
  | .partitionRemove port value => Sys2Proof.Machine.execPartitionRemove port value s
  | .ownershipSwitch p => Sys2Proof.Machine.execOwnershipSwitch p s
  | .stackHandoverZeroDone stack => Sys2Proof.Machine.execStackHandoverZeroDone stack s
  | .contextBind port value => Sys2Proof.Machine.execContextBind port value s
  | .contextUnbind port value => Sys2Proof.Machine.execContextUnbind port value s
  | .contextMove port value => Sys2Proof.Machine.execContextMove port value s
  | .contextEntriesChange port value => Sys2Proof.Machine.execContextEntriesChange port value s
  | .pageAllocate port value => Sys2Proof.Machine.execPageAllocate port value s
  | .pageZeroDone first => Sys2Proof.Machine.execPageZeroDone first s
  | .pageFree port value => Sys2Proof.Machine.execPageFree port value s
  | .coreReset port value => Sys2Proof.Machine.execCoreReset port value s
  | .clusterReset port value => Sys2Proof.Machine.execClusterReset port value s
  | .partitionReset port value => Sys2Proof.Machine.execPartitionReset port value s
  | .moduleReset port value => Sys2Proof.Machine.execModuleReset port value s
  | .resetDrainEnd level target drain100ns => Sys2Proof.Machine.execResetDrainEnd level target drain100ns s
  | .resetClearDone level target => Sys2Proof.Machine.execResetClearDone level target s
  | .refPpsEdge ref cycles phaseNs => Sys2Proof.Machine.execRefPpsEdge ref cycles phaseNs s
  | .refPpsTimeout ref => Sys2Proof.Machine.execRefPpsTimeout ref s
  | .refFreqLoss ref => Sys2Proof.Machine.execRefFreqLoss ref s
  | .toleranceWindowEnd freqA freqB ocxo => Sys2Proof.Machine.execToleranceWindowEnd freqA freqB ocxo s
  | .slewDone => Sys2Proof.Machine.execSlewDone s
  | .holdoverDegrade => Sys2Proof.Machine.execHoldoverDegrade s
  | .tbSet port value => Sys2Proof.Machine.execTbSet port value s
  | .tbCtlWrite port value => Sys2Proof.Machine.execTbCtlWrite port value s
  | .tbNowLowRead port => Sys2Proof.Machine.execTbNowLowRead port s
  | .notBeforeReached what => Sys2Proof.Machine.execNotBeforeReached what s
  | .exportRingSet port p value => Sys2Proof.Machine.execExportRingSet port p value s
  | .wealaStart => Sys2Proof.Machine.execWealaStart s
  | .mainPowerStart => Sys2Proof.Machine.execMainPowerStart s
  | .fabricReady => Sys2Proof.Machine.execFabricReady s
  | .tileSramReady tile badBanks => Sys2Proof.Machine.execTileSramReady tile badBanks s
  | .stackTrainResult stack ok => Sys2Proof.Machine.execStackTrainResult stack ok s
  | .hostPortWaiting p sris => Sys2Proof.Machine.execHostPortWaiting p sris s
  | .hostLinkUp p width speed cfg => Sys2Proof.Machine.execHostLinkUp p width speed cfg s
  | .xpReady p result => Sys2Proof.Machine.execXpReady p result s
  | .coreReady core failed => Sys2Proof.Machine.execCoreReady core failed s
  | .functionTimeout fn => Sys2Proof.Machine.execFunctionTimeout fn s
  | .setSetting src id value auth => Sys2Proof.Machine.execSetSetting src id value auth s
  | .persistMap src map auth => Sys2Proof.Machine.execPersistMap src map auth s
  | .writeImage src imageB offset data auth => Sys2Proof.Machine.execWriteImage src imageB offset data auth s
  | .commitImage src imageB version gens camormetSigned auth => Sys2Proof.Machine.execCommitImage src imageB version gens camormetSigned auth s
  | .readArea src area offset length auth => Sys2Proof.Machine.execReadArea src area offset length auth s
  | .readLedger src auth => Sys2Proof.Machine.execReadLedger src auth s
  | .setEndpointId b eid => Sys2Proof.Machine.execSetEndpointId b eid s
  | .getEndpointId b => Sys2Proof.Machine.execGetEndpointId b s
  | .getEndpointUuid b => Sys2Proof.Machine.execGetEndpointUuid b s
  | .getMctpVersionSupport b msgType => Sys2Proof.Machine.execGetMctpVersionSupport b msgType s
  | .getMessageTypeSupport b => Sys2Proof.Machine.execGetMessageTypeSupport b s
  | .gettid b => Sys2Proof.Machine.execGettid b s
  | .settid b tid => Sys2Proof.Machine.execSettid b tid s
  | .getpldmversion b pldmType => Sys2Proof.Machine.execGetpldmversion b pldmType s
  | .getpldmtypes b => Sys2Proof.Machine.execGetpldmtypes b s
  | .getpldmcommands b pldmType => Sys2Proof.Machine.execGetpldmcommands b pldmType s
  | .getpdrrepositoryinfo b => Sys2Proof.Machine.execGetpdrrepositoryinfo b s
  | .getpdr b record => Sys2Proof.Machine.execGetpdr b record s
  | .getsensorreading b sensor => Sys2Proof.Machine.execGetsensorreading b sensor s
  | .getstatesensorreadings b sensor => Sys2Proof.Machine.execGetstatesensorreadings b sensor s
  | .seteventreceiver b eid => Sys2Proof.Machine.execSeteventreceiver b eid s
  | .throttleTick vA vB iA iB power => Sys2Proof.Machine.execThrottleTick vA vB iA iB power s
  | .freqStep tile => Sys2Proof.Machine.execFreqStep tile s
  | .sensorSample tile readings => Sys2Proof.Machine.execSensorSample tile readings s
  | .thermalNapEnd tile => Sys2Proof.Machine.execThermalNapEnd tile s
  | .visorInterval samples => Sys2Proof.Machine.execVisorInterval samples s
  | .pwVminRead port index => Sys2Proof.Machine.execPwVminRead port index s
  | .pwLimitWrite port value => Sys2Proof.Machine.execPwLimitWrite port value s
  | .runRequest port tile value => Sys2Proof.Machine.execRunRequest port tile value s
  | .napRequest port tile value => Sys2Proof.Machine.execNapRequest port tile value s
  | .dozeRequest port tile value => Sys2Proof.Machine.execDozeRequest port tile value s
  | .offRequest port tile value => Sys2Proof.Machine.execOffRequest port tile value s
  | .autoNapEntry tile => Sys2Proof.Machine.execAutoNapEntry tile s
  | .powerDownDone tile => Sys2Proof.Machine.execPowerDownDone tile s
  | .wakeRampDone tile => Sys2Proof.Machine.execWakeRampDone tile s
  | .claspRelease port value => Sys2Proof.Machine.execClaspRelease port value s
  | .wakeComplete tile failed badBanks => Sys2Proof.Machine.execWakeComplete tile failed badBanks s
  | .domainOvercurrent tile k => Sys2Proof.Machine.execDomainOvercurrent tile k s
  | .vddlPhaseLoss tile => Sys2Proof.Machine.execVddlPhaseLoss tile s
  | .senseLineOpen tile k => Sys2Proof.Machine.execSenseLineOpen tile k s
  | .softStartTimeout tile k => Sys2Proof.Machine.execSoftStartTimeout tile k s
  | .busDroop vA vB => Sys2Proof.Machine.execBusDroop vA vB s
  | .rampResume vA vB => Sys2Proof.Machine.execRampResume vA vB s
  | .rampAbort tile k => Sys2Proof.Machine.execRampAbort tile k s
  | .busPairLost pair v => Sys2Proof.Machine.execBusPairLost pair v s
  | .undervoltageShutdown => Sys2Proof.Machine.execUndervoltageShutdown s
  | .overvoltageShutdown => Sys2Proof.Machine.execOvervoltageShutdown s
  | .coolantOkAssert => Sys2Proof.Machine.execCoolantOkAssert s
  | .coolantLoss => Sys2Proof.Machine.execCoolantLoss s
  | .coolantTimeout => Sys2Proof.Machine.execCoolantTimeout s
  | .pwrEnAssert => Sys2Proof.Machine.execPwrEnAssert s
  | .pwrEnDeassert => Sys2Proof.Machine.execPwrEnDeassert s
  | .auxLoss => Sys2Proof.Machine.execAuxLoss s
  | .watchdogExpiry => Sys2Proof.Machine.execWatchdogExpiry s
  | .pumpHoldExpiry => Sys2Proof.Machine.execPumpHoldExpiry s
  | .perstRelease p => Sys2Proof.Machine.execPerstRelease p s
  | .perstAssert p => Sys2Proof.Machine.execPerstAssert p s
  | .registerWrite port offset bytes => Sys2Proof.Machine.execRegisterWrite port offset bytes s
  | .slewHoldFine => Sys2Proof.Machine.execSlewHoldFine s
  | .thefaWholeSecond => Sys2Proof.Machine.execThefaWholeSecond s
  | .hostLinkRecovery p loss => Sys2Proof.Machine.execHostLinkRecovery p loss s
  | .xpLinkReturnL0 p => Sys2Proof.Machine.execXpLinkReturnL0 p s
  | .atsInvalidateRequest p ctx page => Sys2Proof.Machine.execAtsInvalidateRequest p ctx page s
  | .ctrlFault unit => Sys2Proof.Machine.execCtrlFault unit s
  | .busPairRecovered pair v => Sys2Proof.Machine.execBusPairRecovered pair v s
  | .fabricUndrainedTimeout tile => Sys2Proof.Machine.execFabricUndrainedTimeout tile s
  | .palmInitDone core => Sys2Proof.Machine.execPalmInitDone core s
  | .cmemScrubLine core bank ecc => Sys2Proof.Machine.execCmemScrubLine core bank ecc s
  | .mctpMessageRead => Sys2Proof.Machine.execMctpMessageRead s
  | .smbusClockLowTimeout => Sys2Proof.Machine.execSmbusClockLowTimeout s

end Sys2Proof.Machine
end

