-- ==== Sys2Proof/Machine/Views.lean ====
section
/-!
DEFINITION. What BAR0 and the doorbell pages read as (R309, R484 to R487, R490, R491, R493 to R513): every readable register as a function
of State. A read that changes something is a row of its own (TB_NOW_LOW_READ, HC_LOAD_READ, PW_VMIN_READ); no other read does.
-/
namespace Sys2Proof.Machine
open Sys2Proof

def bit (b : Bool) (i : Nat) : Nat := if b then 2 ^ i else 0
/-- A word with bit i set where `f i` holds. -/
def mask (n : Nat) (f : Nat → Bool) : Nat := ((List.range n).map fun i => bit (f i) i).sum
/-- A pair as it reads: the value with its complement (R17). -/
def pairNat (v : Nat) : Nat := (mkPair (BitVec.ofNat 32 v)).toNat

/-! MG (R405, R424, R425, R506 to R508). -/

/-- MG_IDENTITY (R424). -/
def mgIdentity (s : State) : Nat :=
  0xB1 + place s.weala.level 8 2 + place (settingValue s 1) 10 2 + place s.weala.generation 16 8 + place (settingValue s 0x11) 24 8 + place 3 32 8

/-- MG_CHANGES_LEFT (R424). -/
def mgChangesLeft (s : State) : Nat := ((List.range 5).map fun i => place (changesLeft s.weala (i + 1)) (8 * i) 8).sum

/-- MG_GRID_STATUS (R506). -/
def mgGridStatus (s : State) : Nat :=
  let cores := List.finRange 256
  let n (p : CoreNo → Bool) : Nat := (cores.filter p).length
  s.holes.toNat + place (runningGrade s).toNat 64 2 + place s.gradeStored.toNat 66 2
    + bit (cores.any fun c => tget mittenFull s.mitten c.val != storedEntry s.weala c) 68
    + place (n (coreDegraded s)) 72 9 + place (n fun c => clusterState (mittenEntry s c) == 2) 81 9
    + place (allStacks.filter fun k => (getStack s k).withdrawn).length 96 6 + place (allPorts.filter fun p => (getXp s p).withdrawn).length 102 4

/-- MG_READY_UNIT, MG_READY_TILE and MG_READY_CORE, and the MG_FAIL registers in the same layouts (R405). -/
def mgUnit (f : Nat → Bool) : Nat :=
  mask 32 (fun i => f (66 + i)) + place (mask 8 fun i => f (98 + i)) 32 8 + place (mask 4 fun i => f (106 + i)) 40 4 + bit (f fnFabric) 45
def mgReadyUnit (s : State) : Nat := mgUnit (fnReady s) + bit true 44 + bit (fnReady s fnModule) 46
def mgTile (f : Nat → Bool) : Nat := mask 64 fun t => f (2 + t)
def mgCore (f : Nat → Bool) (i : Nat) : Nat := mask 64 fun j => f (110 + 64 * i + j)

/-- The cause that a stack's or port's function shows (R405). -/
def fnCause (s : State) (f : Nat) : Nat :=
  if 66 ≤ f ∧ f < 98 then (getStack s (Fin.ofNat 32 (f - 66))).cause.toNat
  else if 98 ≤ f ∧ f < 106 then (getXp s (Fin.ofNat 8 (f - 98))).cause.toNat
  else 0

/-- MG_READY_TIME of a function (R405). -/
def mgReadyTime (s : State) (f : Nat) : Nat :=
  let x := getFn s f
  x.state.toNat + place x.quality.toNat 4 4 + place (fnCause s f) 8 8 + place x.time.toNat 64 64

/-- MG_REQ_STATUS (R425). -/
def mgReqStatus (s : State) : Nat :=
  bit (!s.weala.reqQueue.isEmpty) 0 + place s.weala.reqResult.toNat 8 8 + place s.weala.reqToken.toNat 16 24

/-- MG_DIAG_STATUS (R508). -/
def mgDiagStatus (s : State) : Nat :=
  let d := s.setup
  d.diagPassed.toNat + bit d.diagBusy 64 + place d.diagResult.toNat 65 3 + place d.diagFirst.toNat 68 6 + place d.diagToken.toNat 80 16

/-- A word of the MG block (R493). -/
def mgWord (s : State) (o : Nat) : Nat :=
  if o = 0 then mgIdentity s
  else if o = 8 then mgChangesLeft s
  else if o = 0x10 ∨ o = 0x18 then bits (mgGridStatus s) (8 * (o - 0x10)) 64
  else if o = 0x40 then mgReadyUnit s
  else if o = 0x48 then mgTile (fnReady s)
  else if 0x50 ≤ o ∧ o < 0x70 then mgCore (fnReady s) ((o - 0x50) / 8)
  else if o = 0x80 then mgUnit (isFailedOrAbsent s)
  else if o = 0x88 then mgTile (isFailedOrAbsent s)
  else if 0x90 ≤ o ∧ o < 0xB0 then mgCore (isFailedOrAbsent s) ((o - 0x90) / 8)
  else if o = 0x100 then s.weala.reqCmd.toNat
  else if o = 0x108 then mgReqStatus s
  else if o = 0x120 then s.setup.diagTiles.toNat
  else if o = 0x128 then s.setup.diagWord.toNat
  else if o = 0x130 ∨ o = 0x138 then bits (mgDiagStatus s) (8 * (o - 0x130)) 64
  else if 0x1000 ≤ o ∧ o < 0x1000 + 16 * 367 then bits (mgReadyTime s ((o - 0x1000) / 16)) (8 * ((o - 0x1000) % 16)) 64
  else if 0x4000 ≤ o ∧ o < 0x5000 then natOfBytes ((List.range 8).map fun i => tget 0 s.weala.reqBuf (o - 0x4000 + i))
  else 0

/-! TB (R391 to R395). -/

/-- ERR_NS (R391). -/
def errNs (tb : TimeBase) : Nat :=
  let q := (qualityOf tb).toNat
  if q < 2 then 0xFFFFFFFF
  else if 4 ≤ q then 2
  else min 0xFFFFFFFF (if tb.slewing then tb.errNs + 2 else holdoverError tb)

/-- TB_STATUS (R391). -/
def tbStatus (s : State) : Nat :=
  (quality s).toNat + place (sourceCode s.tb.source) 4 2 + bit s.tb.slewing 6 + bit s.tb.armed.isSome 7 + place s.tb.epoch.toNat 16 16
    + place (errNs s.tb) 32 32

/-- A signed number in the width of its field. -/
def signed (v : Int) (n : Nat) : Nat := (BitVec.ofInt n v).toNat
/-- A signed number at the end of its range when it lies outside. -/
def satSigned (v : Int) (n : Nat) : Nat := signed (max (-(2 ^ (n - 1) : Int)) (min (2 ^ (n - 1) - 1 : Int) v)) n

/-- TB_REF_STAT (R395). -/
def tbRefStat (s : State) (i : Nat) : Nat :=
  let r := tget {} s.tb.refs i
  r.state.toNat + place r.outWindows.toNat 4 4 + place r.inWindows.toNat 8 8 + place (satSigned r.freq 16) 16 16
    + place (satSigned r.phaseNs 32) 32 32

/-- A word of the TB block (R494). -/
def tbWord (s : State) (o : Nat) : Nat :=
  if o = 0 then tbStatus s
  else if o = 8 then pairNat (bit s.tb.prefer 0 + bit s.tb.revert 1 + place s.tb.tolPpb.toNat 4 10)
  else if o = 0x10 then (match s.tb.armed with | some v => pairNat v.toNat | none => 0)
  else if o = 0x18 then s.tb.now.toNat
  else if o = 0x20 ∨ o = 0x28 then tbRefStat s ((o - 0x20) / 8)
  else 0

/-! PW (R440, R456 to R460). -/

/-- PW_INPUT (R456). -/
def pwInput (s : State) : Nat :=
  let p := s.pw
  p.vA.toNat + place p.vB.toNat 16 16 + place p.iA.toNat 32 16 + place p.iB.toNat 48 16 + place p.power.toNat 64 32 + place p.limitNow.toNat 96 32

/-- One slot of PW_VMIN (R439, R460): TIME is that of the minimum last read. -/
def vminSlot (s : State) (i : Nat) : Nat :=
  if !(tileDomains (Fin.ofNat 64 (i / 4))).getLsbD (i % 4) then 0xFFFF
  else
    let v := (tget vminEmpty s.pw.vmin i).toNat
    let t := (tget 0 s.pw.vminRead i).toNat
    v % 2 ^ 64 + place (if t = 0 then v / 2 ^ 64 else t) 64 64

/-- One slot of PW_TELEM (R440): the slot of PW_VMIN at identity level 1, the latest Visor entry at level 2. -/
def telemSlot (s : State) (i : Nat) : Nat :=
  if s.weala.level = 1 then vminSlot s i else (tget 0 (getTile s (Fin.ofNat 64 (i / 4))).visorLast (i % 4)).toNat

/-- A word of the PW block (R495). -/
def pwWord (s : State) (o : Nat) : Nat :=
  if o = 0 ∨ o = 8 then bits (pwInput s) (8 * o) 64
  else if o = 0x10 then pairNat s.pw.limit.toNat
  else if o = 0x18 then s.pw.busMin.toNat
  else if o = 0x20 then (regWord s .thermCtl).toNat
  else if 0x1000 ≤ o ∧ o < 0x2000 then bits (vminSlot s ((o - 0x1000) / 16)) (8 * (o % 16)) 64
  else if 0x2000 ≤ o ∧ o < 0x3000 then bits (telemSlot s ((o - 0x2000) / 16)) (8 * (o % 16)) 64
  else 0

/-! PT and RG (R336 to R339, R361 to R365, R419, R489): a shadowed register reads as the entry in force. -/

/-- PT_PAGE_SHADOW: the selected page in force (R496). -/
def ptPage (s : State) : Nat :=
  let o := tget 0 s.pages s.setup.pageSel.toNat
  if o = 0 then 0 else (o - 1) + bit true 16

/-- PT_RESET_STAT (R365). -/
def ptResetStat (s : State) : Nat :=
  let u := s.setup
  bit (!s.resets.isEmpty) 0 + place u.resetLevel.toNat 1 2 + place u.resetTarget.toNat 3 8 + bit u.abandoned 11 + place u.drain.toNat 16 16
    + place u.merged.toNat 32 16 + place u.resetCount.toNat 48 16

/-- A word of the PT block (R496). -/
def ptWord (s : State) (o : Nat) : Nat :=
  let u := s.setup
  let cx := getCtx s u.ctxSel
  if o = 0 then u.partSel.toNat
  else if o = 0x10 ∨ o = 0x18 then bits (getPart s (Fin.ofNat 64 u.partSel.toNat)).entry.toNat (8 * (o - 0x10)) 64
  else if o = 0x40 then u.ctxSel.toNat
  else if o = 0x48 then cx.binding.toNat
  else if o = 0x80 then u.pageSel.toNat
  else if o = 0x88 then ptPage s
  else if o = 0xC0 then u.reset.toNat
  else if o = 0xC8 then ptResetStat s
  else if 0x400 ≤ o ∧ o < 0x800 then bits (tget 0 cx.ranges ((o - 0x400) / 16)).toNat (8 * (o % 16)) 64
  else 0

/-- The ring stands at a gate (R330, R337). -/
def ringGated (r : Ring) : Bool := r.gateStarted || r.gateOut.isSome

/-- RG_RING_STAT (R337). -/
def rgRingStat (r : Ring) : Nat :=
  let st : Nat := match r.state with | .disabled => 0 | .faulted => 3 | .active => if ringGated r then 2 else 1
  r.head.toNat + place r.tail.toNat 32 32 + place st 64 2 + place r.fault.toNat 66 8

/-- A word of the RG block (R497). -/
def rgWord (s : State) (o : Nat) : Nat :=
  let r := getRing s s.setup.ringSel.toNat
  if o = 0 then s.setup.ringSel.toNat
  else if 0x20 ≤ o ∧ o < 0x40 then bits r.entry.toNat (8 * (o - 0x20)) 64
  else if o = 0x50 ∨ o = 0x58 then bits (rgRingStat r) (8 * (o - 0x50)) 64
  else if o = 0x60 then pairNat s.setup.platformEvent.toNat
  else if 0x80000 ≤ o ∧ o < 0x100000 then (getCtx s (BitVec.ofNat 16 ((o - 0x80000) / 8))).rejects.toNat
  else 0

/-! The frames of FB, HC, XP, CU and LS (R178, R179, R218 to R220, R254 to R257, R291 to R299, R396, R509). -/

/-- FB_PHASE_STAT (R219). -/
def fbPhaseStat (x : Partition) : Nat :=
  x.gen.toNat + bit (x.phases.any fun h => h.step != 1) 32 + place x.phaseQuality.toNat 36 4

/-- A word of the FB block (R498). -/
def fbWord (s : State) (o : Nat) : Nat :=
  match frameAt o 0x1000 0x40 64 with
  | some (p, k) =>
    let x := getPart s (Fin.ofNat 64 p)
    if k = 0 then pairNat (bit x.quiet 0)
    else if k = 8 then x.redTmo.toNat
    else if k = 0x10 then pairNat x.mapArea.toNat
    else if k = 0x18 then fbPhaseStat x
    else if k = 0x20 then x.phaseTime.toNat
    else if k = 0x28 then x.dropped.toNat
    else if k = 0x30 then x.spilled.toNat
    else 0
  | none => 0

/-- A word of the HC block (R291 to R297, R499). -/
def hcWord (s : State) (o : Nat) : Nat :=
  match frameAt o 0 0x100 32 with
  | some (i, k) =>
    let n : StackNo := Fin.ofNat 32 i
    let x := getStack s n
    if k = 0 then bit (fnReady s (fnStack n) && !x.withdrawn) 0 + bit x.withdrawn 1 + place x.cause.toNat 2 4
    else if k = 8 then x.ceCtrl.toNat + place x.ceDie.toNat 32 32
    else if k = 0x10 then x.ueLines.toNat + place x.ueForeground.toNat 32 16
    else if k = 0x18 then x.periodH.toNat + bit x.scrubEnable 8
    else if k = 0x20 then x.position.toNat + place x.passes.toNat 32 16
    else if k = 0x28 then x.scrubTime.toNat
    else if k = 0x30 then x.util.toNat + place x.peak.toNat 8 8 + bit x.busy 16 + place x.busyThresh.toNat 24 8
    else 0
  | none => 0

/-- XP_STATUS (R298). -/
def xpStatus (x : XPort) : Nat :=
  bit x.linkUp 0 + bit x.withdrawn 1 + place x.cause.toNat 2 4 + place x.width.toNat 6 3 + place x.speed.toNat 9 3 + bit x.degraded 12
    + place x.capacity 32 32

/-- XP_MBOX_STATUS (R509). -/
def xpMboxStatus (x : XPort) : Nat :=
  bit x.mboxBusy 0 + bit x.mboxRefused 1 + bit x.mboxNoLink 2 + bit x.mboxTimeout 3 + bit x.mboxTruncated 4 + place x.mboxReturn.toNat 16 16
    + place x.mboxOutLength 32 13

/-- A word of the XP block (R500). -/
def xpWord (s : State) (o : Nat) : Nat :=
  match frameAt o 0 0x2000 8 with
  | some (p, k) =>
    let x := getXp s (Fin.ofNat 8 p)
    if k = 0 then xpStatus x
    else if k = 8 then x.poisonReads.toNat + place x.recoveries.toNat 32 16
    else if k = 0x40 then x.mboxCmd.toNat % 2 ^ 29
    else if k = 0x48 then xpMboxStatus x
    else if 0x1000 ≤ k then natOfBytes ((List.range 8).map fun i => tget 0 x.mboxPayload (k - 0x1000 + i))
    else 0
  | none => 0

/-- A word of the CU block (R501). -/
def cuWord (s : State) (o : Nat) : Nat :=
  if o < 0x280 then
    let c := getCuff s (Fin.ofNat 40 (o / 16))
    if o % 16 = 0 then c.records.toNat else c.poisonSkips.toNat + place c.aborts.toNat 32 16
  else if 0x400 ≤ o ∧ o < 0x440 then
    let c := getCuff s (Fin.ofNat 40 (32 + (o - 0x400) / 8))
    c.outstanding.toNat + place c.latNs.toNat 16 16
  else match frameAt o 0x1000 0x20 64 with
    | some (p, k) =>
      let x := getPart s (Fin.ofNat 64 p)
      if k = 0 then x.cur.toNat + bit x.closing.isSome 32 + bit x.lastNonfinite 33
      else if k = 8 then pairNat x.exportRing.toNat
      else if k = 0x10 then x.exportSeq.toNat
      else 0
    | none => 0

/-- LS_STATUS (R75). -/
def lsStatus (l : LossScale) : Nat :=
  signed l.expNow 8 + place (signed l.expPrev 8) 8 8 + place l.clean 16 16 + place l.halvings 32 16 + place l.floorHits 48 16

/-- A word of the LS block (R75, R502): the pairs in force. -/
def lsWord (s : State) (o : Nat) : Nat :=
  match frameAt o 0 0x40 64 with
  | some (p, k) =>
    let l := (getPart s (Fin.ofNat 64 p)).ls
    if k = 0 then pairNat (signed l.expNow 8)
    else if k = 8 then pairNat (signed l.maxExp 8)
    else if k = 0x10 then pairNat l.growth
    else if k = 0x18 then pairNat (bit l.dynamic 0)
    else if k = 0x28 then lsStatus l
    else 0
  | none => 0

/-! EV and HP (R510 to R512). -/

/-- A word of the EV block (R503, R510). -/
def evWord (s : State) (o : Nat) : Nat :=
  let w := s.weala
  if o = 0 then w.evWr.toNat % 2 ^ 32 + place w.evRd.toNat 32 32
  else if o = 8 then w.evLost.toNat
  else if 0x40000 ≤ o ∧ o < 0x80000 then bits (tget 0 w.evLog ((o - 0x40000) / 64)).toNat (8 * (o % 64)) 64
  else 0

/-- HP_STATUS (R511). -/
def hpStatus (s : State) (p : HostPort) : Nat :=
  let h := getHp s p
  bit h.linkUp 0 + place h.width.toNat 1 3 + place h.speed.toNat 4 3 + bit (h.linkUp && !(h.width == 4 && h.speed == 6)) 7 + bit h.flit 8
    + bit h.sris 9 + bit (!h.perstReleased) 10 + place (fnState s (fnHost p)) 11 3 + bit h.atsEnabled 14

/-- A word of the HP block (R504, R512). -/
def hpWord (s : State) (o : Nat) : Nat :=
  match frameAt o 0 0x100 4 with
  | some (p, k) =>
    let h := getHp s (Fin.ofNat 4 p)
    if k = 0 then hpStatus s (Fin.ofNat 4 p)
    else if k = 8 then h.recoveries.toNat + place h.correctable.toNat 16 16 + place h.uncorrectable.toNat 32 16
    else 0
  | none => 0

/-! TL (R34, R87, R135, R180 to R182, R461 to R465, R491, R505, R513). -/

/-- FREQ_NOW: 0 while CK_CORE is stopped (R463). -/
def freqShown (x : Tile) : Nat :=
  match x.power with
  | .run | .idle => x.freq
  | _ => 0

/-- TL_PW_STATUS (R463). -/
def tlPwStatus (s : State) (t : TileNo) : Nat :=
  let x := getTile s t
  shownState s t + bit x.thermal 3 + place (freqShown x) 4 6 + place x.ceil 10 6 + place x.clasped.toNat 16 4 + place x.faulted.toNat 20 4
    + place x.phases.toNat 24 5

/-- TL_THERM (R463). -/
def tlTherm (x : Tile) : Nat := signed x.temp 11 + place x.hottest 11 4 + place x.sensorsFailed.toNat 16 16

/-- TL_PW_REFUSE (R464). -/
def tlPwRefuse (x : Tile) (i : Nat) : Nat := ((List.range 4).map fun j => place (tget 0 x.refuse (4 * i + j)).toNat (16 * j) 16).sum

/-- The registers that answer in every power state and on a hole: those of Weala and the power board (R491). -/
def tlWealaWord (s : State) (t : TileNo) (o : Nat) : Nat :=
  let x := getTile s t
  if o < 0x20 then (tget mittenFull s.mitten (4 * t.val + o / 8)).toNat
  else if o = 0x200 then x.target.toNat
  else if o = 0x208 then pairNat x.loadLines.toNat
  else if o = 0x210 then x.retWord.toNat
  else if o = 0x218 then x.retCompl.toNat
  else if o = 0x220 then pairNat (x.reqState.toNat + bit x.autoNap 3)
  else if o = 0x228 then tlPwStatus s t
  else if o = 0x230 then tlTherm x
  else if 0x240 ≤ o ∧ o < 0x260 then tlPwRefuse x ((o - 0x240) / 8)
  else if o = 0x260 ∨ o = 0x268 then bits x.pwLast.toNat (8 * (o - 0x260)) 64
  else if 0x280 ≤ o ∧ o < 0x2C0 then
    let v := tget {} x.visorPtr ((o - 0x280) / 16)
    if o % 16 = 0 then v.wr.toNat + place v.rd.toNat 32 32 else v.lost.toNat
  else if 0x10000 ≤ o ∧ o < 0x20000 then bits (tget 0 x.visorHist ((o - 0x10000) / 16)).toNat (8 * (o % 16)) 64
  else 0

/-- The registers of the tile itself, which read 0 while VDDL is off and on a hole (R491). -/
def tlOwnWord (s : State) (t : TileNo) (o : Nat) : Nat :=
  let x := getTile s t
  if 0x40 ≤ o ∧ o < 0x60 then (getCore s (coreAt t (Fin.ofNat 4 ((o - 0x40) / 8)))).ctl.toNat
  else if 0x80 ≤ o ∧ o < 0xA0 then
    let c := getCore s (coreAt t (Fin.ofNat 4 ((o - 0x80) / 8)))
    c.pruned.toNat + place c.sparseFaults.toNat 48 16
  else if 0x100 ≤ o ∧ o < 0x120 then (getLink s t (Fin.ofNat 4 ((o - 0x100) / 8))).cyclesOut.toNat
  else if 0x120 ≤ o ∧ o < 0x140 then
    let l := getLink s t (Fin.ofNat 4 ((o - 0x120) / 8))
    l.corrected.toNat + place l.replays.toNat 32 16 + bit l.down 48
  else if o = 0x140 then x.notOwner.toNat + place x.absorbed.toNat 16 16 + place x.redDiscard.toNat 32 16 + place x.protocol.toNat 48 8
  else if 0x180 ≤ o ∧ o < 0x1A0 then
    let c := (o - 0x180) / 8
    (tget 0 x.cmemCe c).toNat + place (tget 0 x.cmemUe c).toNat 32 16 + place (tget 0 x.cmemPasses c).toNat 48 16
  else 0

/-- The TL registers between 0x040 and 0x1FF are the tile's own (R505). -/
def tlWord (s : State) (t : TileNo) (o : Nat) : Nat :=
  if 0x40 ≤ o ∧ o < 0x200 then (if tlAnswers s t then tlOwnWord s t o else 0) else tlWealaWord s t o

/-! BAR0. -/

/-- The 8 bytes at a BAR0 offset that is a multiple of 8 (R484); an offset that no table names reads as 0. -/
def bar0Word (s : State) (o : Nat) : Nat :=
  if 0x1000000 ≤ o then (if o < 0x2000000 then tlWord s (Fin.ofNat 64 ((o - 0x1000000) / 0x40000)) ((o - 0x1000000) % 0x40000) else 0)
  else
    let x := o % 0x100000
    match o / 0x100000 with
    | 0 => mgWord s x | 1 => tbWord s x | 2 => pwWord s x | 3 => ptWord s x | 4 => rgWord s x | 5 => fbWord s x
    | 6 => hcWord s x | 7 => xpWord s x | 8 => cuWord s x | 9 => lsWord s x | 10 => evWord s x | 11 => hpWord s x
    | _ => 0

/-- A BAR0 read of n bytes through a port (R485 to R487): nothing while the port's link is down; 0 where the access is not naturally aligned
or not of a size that reads have; the upper half that the port latched, where it reads that half by itself. -/
def bar0Read (s : State) (port : HostPort) (o n : Nat) : Option Nat :=
  let h := getHp s port
  if !h.linkUp then none
  else if !([4, 8, 16, 32, 64].contains n && o % n == 0) then some 0
  else if n = 4 then
    some (if o % 8 = 0 then bar0Word s o % 2 ^ 32
      else match h.latch with
        | some (l, v) => if l + 4 = o then v.toNat else bar0Word s (o - 4) / 2 ^ 32
        | none => bar0Word s (o - 4) / 2 ^ 32)
  else some ((List.range (n / 8)).map fun i => bar0Word s (o + 8 * i) * 2 ^ (64 * i)).sum

/-- A read of a doorbell slot through a port (R309): head and tail of the context's ring that has the slot. -/
def doorbellRead (s : State) (port : HostPort) (ctx : CtxNo) (slot : BitVec 9) (n : Nat) : Option Nat :=
  if !(getHp s port).linkUp then none
  else if n ≠ 8 then some 0
  else match s.rings.find? fun e => e.2.enabled && e.2.ctx == ctx && e.2.dbSlot == slot.toNat with
    | some e => some (e.2.head.toNat + e.2.tail.toNat * 2 ^ 32)
    | none => some 0

/-- PCI Device ID that the host ports report (R421). -/
def deviceId (s : State) : BitVec 16 := if s.weala.level = 1 then 0x4816 else 0x6432

/-- VDDL set-point of a tile in µV (R432): the tile's V/F table at its clock, with the rise that a load line above 20 µΩ calls for, up to
0.85 V. The load line is in units of 0.25 µΩ (R461). -/
def vddlSetPoint (s : State) (t : TileNo) : Nat :=
  let x := getTile s t
  let ll := bits x.loadLines.toNat 0 8
  min 850000 (1000 * Config.vddlAt t x.freq + (if 80 < ll then (ll - 80) * 125 else 0))

/-! The levels of the pins that the module drives (R481, R482). MOD_READY, SHELF_EN and PUMP_REQ are high while asserted, and PRSNT_N is low on a
mated module; PPS_OUT stands at `ppsOutLevel`. -/

/-- The module's states, of which the mated ones show here (R481). While Weala waits for main power it is in none of them. -/
inductive ModuleState where
  | unpowered | inReset | waiting | inService
  deriving DecidableEq, Repr

/-- The state in which the module is (R481). -/
def moduleState (s : State) : ModuleState :=
  if !s.pw.aux then .unpowered
  else if !s.weala.running then .inReset
  else if s.pw.stage == .main then .inService else .waiting

def modReadyPin (s : State) : Bool := s.weala.running && s.pw.modReady
def shelfEnPin (s : State) : Bool := s.weala.running && s.pw.shelfEn
def pumpReqPin (s : State) : Bool := s.weala.running && s.pw.pumpReq

/-- THERM_ALERT_N and SMB_ALERT_N are asserted low, and high while Weala does not run. -/
def thermAlertPin (s : State) : Bool := !(s.weala.running && thermAlert s)
def smbAlertPin (s : State) : Bool := !(s.weala.running && smbAlert s)

/-- XP_PERST_N of a port: low while it holds the device in reset (R475). -/
def xpPerstPin (s : State) (p : PortNo) : Bool := s.weala.running && (getXp s p).perstReleased

/-- The port sends XP_REFCLK: it is training or up (R475). -/
def xpRefclkOn (s : State) (p : PortNo) : Bool := (getXp s p).linkUp || (getXp s p).recovering || fnState s (fnPort p) == 1

end Sys2Proof.Machine
end

