-- ==== Sys2Proof/Safety.lean ====
section
/-!
DEFINITION. The terms that claims are stated in: what reporting and what unit work leave alone, the canonical form of memory, and the invariants
of the block.
-/
namespace Sys2Proof.Machine
open Sys2Proof

/-- The canonical form of memory: addresses strictly rising, and no entry equal to what an unlisted address reads as (log 4). -/
abbrev Memory.wf (m : List Host.Cell) : Prop := m.Pairwise (fun a b => a.1 < b.1) ∧ ∀ c ∈ m, c.2 ≠ 0

/-! What raising events leaves alone (R333, R335, R510). -/

/-- Everything but what a report can change: memory and its markers (the EVENT rings' buffers), the rings, Weala's log, the messages and the free
counter. -/
def besideReports (s : State) : State :=
  { s with freeCtr := 0, mem := [], poison := [], writeback := [], rings := [], msix := [], msixPending := [], weala := {} }

/-- Weala but for its event log and the messages it holds or has sent. -/
def wealaBesideReports (w : Weala) : Weala := { w with evLog := [], evWr := 0, evLost := 0, smbOut := [], vdmOut := [] }

/-- A ring but for what a report can change of it: its tail, its state with the cause of a fault, its event number and its holdoff. -/
def ringBesideReports (r : Ring) : Ring := { r with tail := 0, state := .disabled, fault := 0, eventSeq := 0, holdoff := false, holdoffDue := false }

/-- The lines of a ring's buffer (R306): those that hold some byte of an entry. -/
def inRingBuffer (r : Ring) (a : Nat) : Prop :=
  r.enabled = true ∧ r.base / 64 ≤ a / 64 ∧ a / 64 ≤ (r.base + r.size * ringEntryBytes r.kind - 1) / 64

/-- No ring's buffer holds the byte. -/
def outsideRings (s : State) (a : Nat) : Prop := ∀ n, ¬ inRingBuffer (getRing s n) a

/-- t differs from s at most by reports that have been made. -/
structure OnlyReports (s t : State) : Prop where
  rest : besideReports t = besideReports s
  weala : wealaBesideReports t.weala = wealaBesideReports s.weala
  rings : ∀ n, ringBesideReports (getRing t n) = ringBesideReports (getRing s n)
  memory : ∀ a, outsideRings s a → memByte t a = memByte s a

/-! What a write to memory leaves alone. -/

/-- Everything but memory, its markers and the free counter. -/
def besideMemory (s : State) : State := { s with freeCtr := 0, mem := [], poison := [], writeback := [] }

/-! What a unit's work on descriptors leaves alone. -/

/-- Everything but what work on descriptors, and the reports that go with it, can change: the set-up registers, pages, stacks, ports, maps, resets,
functions, time and power, and Weala but for its reports and answers. -/
def besideWork (s : State) : State :=
  { s with freeCtr := 0, mem := [], poison := [], writeback := [], cores := [], palms := [], parts := [], cuffs := [], rings := [], ctxs := []
           tiles := [], packets := [], bursts := [], gradeStored := 0, msix := [], msixPending := [], liners := [], taskCtr := 0, ringTurn := []
           weala := { wealaBesideReports s.weala with audit := [], auditSeq := 0, reqBuf := [], reqResult := 0, reqToken := 0 } }

/-- Everything but what writing a completion record can change: partitions, Palms, packets and bursts stand as well. -/
def besideRecords (s : State) : State :=
  { besideWork s with palms := s.palms, parts := s.parts, packets := s.packets, bursts := s.bursts, gradeStored := s.gradeStored }

/-- Everything but what the end of a slot's task can change: as with its record, and the tags of its cancelled fetches may go to other slots, whose
requests enter the mesh (R92, R94). -/
def besideEnds (s : State) : State := { besideRecords s with packets := [] }

/-- Everything but what the loss of a stack or port can change beside the work it stops: functions, stacks, ports, partition commits and the slot tables that
follow them stand open as well. -/
def besideLoss (s : State) : State := { besideWork s with fns := [], hbm := [], xports := [], owning := [], quietDue := false }

/-- The status and detail with which a task's work ends. -/
def workStatus (w : Work) : BitVec 8 := match w.stop with | some e => e.1 | none => stOk
def workDetail (w : Work) : BitVec 16 := match w.stop with | some e => e.2 | none => 0

/-- What follows where segment p of a core, which it uses in role i, fails (R42): it is marked, and without a substitute the core is removed; else the
substitute is under test and the core RUNNING. -/
structure SegmentReplaced (s t : State) (c : CoreNo) (p : Fin 5) (i : Nat) : Prop where
  entry : mittenEntry t c = entryWithout s c p.val
  removed : clusterState (entryWithout s c p.val) = 2 → t.changes = [] ∧ fnState t (fnCore c) = 5
  replaced : ∀ q, clusterState (entryWithout s c p.val) ≠ 2 → (entryLs (entryWithout s c p.val))[i]? = some q → q ≠ 7 →
    t.changes = [{ core := c, segs := [], step := 4, sub := q }] ∧ fnState t (fnCore c) = 1

/-- A slot's compute region holds all of a range, and its task may read it (R88, R92, R348). -/
def Supplied (s : State) (c : CoreNo) (k : SlotNo) (t : Task) (a n : Nat) : Prop :=
  rangeOk s t.ctx .read a n = true ∧ (n = 0 ∨ covered (getSlot s c k).got a n = true)

/-- It holds all rows of a block, and its task may read them. -/
def BlockSupplied (s : State) (c : CoreNo) (k : SlotNo) (t : Task) (x : Xfer) : Prop :=
  rangeOk s t.ctx .read x.addr x.extent = true ∧ (x.bytes = 0 ∨ ∀ r ∈ x.ranges, covered (getSlot s c k).got r.1 r.2 = true)

/-- It holds what a COMBINE reads (R207, R208, log 24): its records, its residual or incoming gradient, and the rows that its kept choices name. -/
def CombineSupplied (s : State) (c : CoreNo) (k : SlotNo) (t : Task) : Prop :=
  let v := (startWork s c k t).view
  let n := min (8 * (8 * coT t)) 64
  Supplied s c k t (coPlace t) (8 * coT t * coK t) ∧ Supplied s c k t (coRoute t) (8 * coT t * coK t) ∧
  (coT t ≠ 0 → coK t < 8 → rangeOk s t.ctx .read (coRoute t) n = true → Supplied s c k t (coRoute t) n) ∧
  Supplied s c k t (coRoute t) (8 * coT t * coStride v t) ∧
  (t.bwd = true → Supplied s c k t (coY t) (coT t * coYrow t)) ∧
  (t.bwd = false → coResid t ≠ 0 → Supplied s c k t (coResid t) (coT t * coYrow t)) ∧
  ∀ i, i < coT t → ∀ e ∈ tokenChoices v t (coStride v t) i, plDropped e.1 = false → Supplied s c k t (outRowAddr t e.1) (coOrow t)

/-- Stores in their transfers. -/
def putOut (l : List (Nat × List Byte)) : List Out := (storePieces l).map .store

/-- From s to u the task of a collective's member is over with OK, and its output waits to be swapped and stored (R89, R94): nothing has changed but that core
and the partitions' collectives. -/
structure MemberOver (s u : State) (c : CoreNo) (k : SlotNo) (outs : List Out) : Prop where
  ended : (getSlot u c k).ended = true
  status : (getSlot u c k).status = stOk
  output : (getSlot u c k).outs = outs
  swap : (getSlot u c k).swapPending = true ∧ (getSlot u c k).outsReady = false ∧ (getSlot u c k).state = .late
  others : ∀ m, m ≠ c → getCore u m = getCore s m
  rest : { u with cores := s.cores, parts := s.parts } = s

/-- From s to u a head of an ATTN is finished: the next one begins, or after the last the task is over (R113, R114). -/
structure HeadOver (s u : State) (c : CoreNo) (k : SlotNo) (t : Task) (outs : List Out) : Prop where
  next : (getSlot s c k).head + 1 < atH t → (getSlot u c k).head = (getSlot s c k).head + 1 ∧ (getSlot u c k).round = 0 ∧ (getSlot u c k).outs = outs ∧
    (getSlot u c k).ended = (getSlot s c k).ended
  last : atH t ≤ (getSlot s c k).head + 1 → MemberOver s u c k outs
  others : ∀ m, m ≠ c → getCore u m = getCore s m
  rest : { u with cores := s.cores, parts := s.parts } = s

/-- The tile is not in a NAP that a task's transfer ends (R443). -/
def awake (s : State) (t : TileNo) : Bool := (getTile s t).power != .nap

/-- The ranges that a task on a core fetches first. -/
def firstReads (s : State) (c : CoreNo) (t : Task) : List (Nat × Nat) :=
  match t.op with
  | some .copy => [(cpSrc t, cpBytes t)]
  | some .attn => attnReads t
  | some .route =>
    if t.bwd then [(roZ t, 4 * roT t * roE t), (roOut t, 8 * roT t * roStride t), (roDw t, 4 * roT t * roK t)]
    else (if roBias t = 0 then [] else [(roBias t, 4 * roE t)]) ++ [(roZ t, 4 * roT t * roE t)]
  | some .dispatch =>
    if t.bwd then [(diPlace t, 8 * diT t * diK t)]
    else [(diRoute t, 8 * (diT t * (diK t + diKalt t))), (diSrc t, diT t * diRow t)].filter fun r => rangeOk s t.ctx .read r.1 r.2
  | some .combine =>
    let n := min (8 * (8 * coT t)) 64
    [(coPlace t, 8 * coT t * coK t), (coRoute t, 8 * coT t * coK t)]
      ++ (if coT t != 0 && coK t < 8 && rangeOk s t.ctx .read (coRoute t) n then [(coRoute t, n)] else [])
      ++ (if t.bwd then [(coY t, coT t * coYrow t)] else if coResid t = 0 then [] else [(coResid t, coT t * coYrow t)])
  | some .rotate => rotateReads c t (collCores s t).length
  | _ => []

/-- The direction that a row takes of a task which has two. -/
def bwdRow (i : Instr) (t : Task) : Bool :=
  match i with
  | .attn _ _ | .route _ _ | .dispatch _ _ | .combine _ _ => false
  | .attnBwd _ _ | .routeBwd _ _ | .dispatchBwd _ _ | .combineBwd _ _ => true
  | _ => t.bwd

/-- The rows that run a task's work on its slot, with the opcode of the task. -/
def taskRow : Instr → Option (CoreNo × SlotNo × Op)
  | .gauntlet c k => some (c, k, .gauntlet)
  | .attn c k => some (c, k, .attn)
  | .attnBwd c k => some (c, k, .attn)
  | .copy c k => some (c, k, .copy)
  | .route c k => some (c, k, .route)
  | .routeBwd c k => some (c, k, .route)
  | .dispatch c k => some (c, k, .dispatch)
  | .dispatchBwd c k => some (c, k, .dispatch)
  | .combine c k => some (c, k, .combine)
  | .combineBwd c k => some (c, k, .combine)
  | .rotate c k => some (c, k, .rotate)
  | _ => none

/-- The rows at which a packet arrives, with the packet. -/
def packetRow : Instr → Option Packet
  | .rdReq p _ => some p
  | .wrReq p _ => some p
  | .rdRsp p => some p
  | .wrAck p => some p
  | .addReq p _ => some p
  | .addlReq p _ => some p
  | .addRsp p => some p
  | .redData p => some p
  | .redCredit p => some p
  | .bcastData p => some p
  | .mgReq p => some p
  | .mgRsp p => some p
  | .errRsp p => some p
  | _ => none

/-- The destination router delivers the packet to its unit: the header is no protocol error, the packet's partition owns the unit, and no reset absorbs it
(R143, R153, R154). -/
def Delivered (s : State) (p : Packet) : Prop :=
  atHand s p = true ∧ badPacket p = false ∧ ownerOk s p = true ∧ absorbs s p = false

/-- The unit at which a packet arrives by a row has room for it (R147, R157, R161, R238, R267). -/
def packetRoom (i : Instr) (s : State) (p : Packet) : Bool :=
  match i with
  | .rdReq _ _ | .wrReq _ _ | .addReq _ _ | .addlReq _ _ => controllerRoom s p
  | .redData _ => chunkRoom s p
  | _ => true

/-- From s to t the packet p at place i of the list has crossed the link in direction d to tile u: it stands there in the input buffer of that link, its
cycles are counted at the sender and the sub-words corrected at the receiver (R138, R140, R147, R180, R181), and nothing else has changed. -/
structure Crosses (s t : State) (i : Nat) (p : Packet) (d : Fin 4) (u : TileNo) (down : Bool) (corrected : Nat) : Prop where
  packets : t.packets = s.packets.set i { p with here := u, input := inputPort d, descended := down }
  cycles : (getLink t p.here d).cyclesOut =
    (getLink s p.here d).cyclesOut + BitVec.ofNat 64 (if p.payload = [] then 1 else max 1 ((p.length.toNat + 2047) / 2048))
  corrected : (getLink t u (opposite d)).corrected = satAdd (getLink s u (opposite d)).corrected (min corrected (8 * linkCycles p))
  links : ∀ m e, (m, e) ≠ (p.here, d) → (m, e) ≠ (u, opposite d) → getLink t m e = getLink s m e
  rest : { t with packets := s.packets, tiles := s.tiles } = s

/-- The mesh without a packet that has arrived. -/
def taken (s : State) (p : Packet) : State := { s with packets := s.packets.erase p }

/-- From u to t a slot's task is over with an outcome, and its output is to be swapped into the transfer region, stored from there and acknowledged
first (R89, R94): nothing has changed but that core, the census of the task's partition, and what a report changes. -/
structure EndsUnstored (u t : State) (c : CoreNo) (k : SlotNo) (st : BitVec 8) (d : BitVec 16) (outs : List Out) : Prop where
  ended : (getSlot t c k).ended = true
  status : (getSlot t c k).status = st
  detail : (getSlot t c k).detail = d
  late : (getSlot t c k).state = .late
  output : (getSlot t c k).outs = outs
  swap : (getSlot t c k).swapPending = true ∧ (getSlot t c k).outsReady = false
  others : ∀ m, m ≠ c → getCore t m = getCore u m
  memory : ∀ a, outsideRings u a → memByte t a = memByte u a
  rest : besideWork t = besideWork u

/-- No destination range of a slot's task holds the byte. -/
def outsideDest (sl : Slot) (a : Nat) : Prop := ∀ r ∈ sl.dest, ¬ (r.1 ≤ a ∧ a < r.1 + r.2)

/-- From s to u a slot's task t is over with status st and no store outstanding (R94, R326): the slot is empty, or keeps its record for a full COMPLETE ring.
Beside cores, records, the header signal, reports and the requests of other slots that a freed fetch tag lets go, nothing has changed; where the failure spoils them (R94),
the task's destination ranges may have. -/
structure EndsAtOnce (s u : State) (c : CoreNo) (k : SlotNo) (t : Task) (st : BitVec 8) (spoils : Bool) : Prop where
  slot : getSlot u c k = {} ∨ ((getSlot u c k).recordHeld = true ∧ (getSlot u c k).ended = true ∧ (getSlot u c k).status = st ∧
    (getSlot u c k).state = .late)
  memory : t.sigMode = 0 → ∀ a, outsideRings s a → (spoils = true → outsideDest (getSlot s c k) a) → memByte u a = memByte s a
  rest : besideEnds u = besideEnds s

/-- The rows that act on the time base: its own, MAIN_POWER_START, and those with which main power may go (R366 to R380, R453). -/
def actsOnTime : Instr → Bool
  | .refPpsEdge _ _ _ | .refPpsTimeout _ | .refFreqLoss _ | .toleranceWindowEnd _ _ _ | .slewDone | .slewHoldFine | .holdoverDegrade
  | .thefaWholeSecond | .tbSet _ _ | .tbCtlWrite _ _ | .mainPowerStart | .sensorSample _ _ | .undervoltageShutdown | .overvoltageShutdown | .coolantTimeout
  | .pwrEnDeassert | .auxLoss | .watchdogExpiry => true
  | _ => false

/-- The rows that can burn a fuse: the requests, and the rows with which a request that waits for the running map can be answered (R44, R414). -/
def actsOnFuses : Instr → Bool
  | .setSetting _ _ _ _ | .persistMap _ _ _ | .writeImage _ _ _ _ _ | .commitImage _ _ _ _ _ _ | .readArea _ _ _ _ _ | .readLedger _ _
  | .clusterModeEntry _ | .clusterModeReturn _ _ | .segmentFailure _ _ | .substituteSelftestDone _ _ | .spareSelftestResult _ _ | .tileHole _ _
  | .coreReset _ _ | .clusterReset _ _ | .partitionReset _ _ | .moduleReset _ _ | .resetDrainEnd _ _ _
  | .domainOvercurrent _ _ | .vddlPhaseLoss _ | .senseLineOpen _ _ | .softStartTimeout _ _ | .rampAbort _ _
  | .sensorSample _ _ | .undervoltageShutdown | .overvoltageShutdown | .coolantTimeout | .pwrEnDeassert | .auxLoss | .watchdogExpiry => true
  | _ => false

/-- A request reaches a Weala that has none waiting (R413, R425, R479): over a binding that carries messages, or as a valid pair in MG_REQ_CMD that names its operation; and
the running map is not in change where it is a map that is asked for (R44). -/
def Arrives (s : State) (i : Instr) : Prop :=
  s.weala.reqQueue = [] ∧ mustWait s i = false ∧
    match reqSource i with
    | some (.mctp b _) => bindingUp s b = true
    | some (.bar0 port v) => bar0Open s port true = true ∧ pairOk v = true ∧ v.toNat % 256 = reqOp i
    | none => False

/-- Weala's settings, ledger, maps and boot images. -/
def flashPart (w : Weala) : Weala :=
  { settings := w.settings, records := w.records, fuses := w.fuses, mirror := w.mirror, mapA := w.mapA, mapB := w.mapB, imageA := w.imageA, imageB := w.imageB }

/-! Set-up registers (R418, R485, R489). -/

/-- The rows that write an unshadowed pair register, with the port, whether the block is one that a module reset leaves open (R491), the register's offset and
the word written. -/
def pairRow : Instr → Option (HostPort × Bool × Nat × Word64)
  | .diagRequest q v => some (q, true, offDiagReq1, v)
  | .fbMapAreaWrite q p v => some (q, false, offMapArea p, v)
  | .hcWithdraw q k v => some (q, false, offHcCtl k, v)
  | .ringCreate q v | .ringChange q v | .ringDisable q v => some (q, false, offRingCommit, v)
  | .platformEventSet q v => some (q, false, offPlatformEvent, v)
  | .partitionCreate q v | .partitionChange q v | .partitionRemove q v => some (q, false, offPartCommit, v)
  | .contextBind q v | .contextUnbind q v | .contextMove q v | .contextEntriesChange q v => some (q, false, offCtxCommit, v)
  | .pageAllocate q v | .pageFree q v => some (q, false, offPageCommit, v)
  | .coreReset q v | .clusterReset q v | .partitionReset q v | .moduleReset q v => some (q, false, offPtReset, v)
  | .tbSet q v => some (q, false, offTbSet, v)
  | .tbCtlWrite q v => some (q, false, offTbCtl, v)
  | .exportRingSet q p v => some (q, false, offCuExport p, v)
  | .pwLimitWrite q v => some (q, true, offPwLimit, v)
  | .runRequest q n v | .napRequest q n v | .dozeRequest q n v | .offRequest q n v => some (q, false, offPwReq n, v)
  | .claspRelease q v => some (q, true, offClaspRelease, v)
  | _ => none

/-- The commits of a block with a selector: the port, the offset, the word written, the index selected. -/
def selectorRow (s : State) : Instr → Option (HostPort × Nat × Word64 × Nat)
  | .ringCreate q v | .ringChange q v | .ringDisable q v => some (q, offRingCommit, v, s.setup.ringSel.toNat)
  | .partitionCreate q v | .partitionChange q v | .partitionRemove q v => some (q, offPartCommit, v, s.setup.partSel.toNat)
  | .contextBind q v | .contextUnbind q v | .contextMove q v | .contextEntriesChange q v => some (q, offCtxCommit, v, s.setup.ctxSel.toNat)
  | .pageAllocate q v | .pageFree q v => some (q, offPageCommit, v, s.setup.pageSel.toNat)
  | _ => none

/-- A BAR0 write, as it is with another port in its place; none for a row that is no BAR0 write or whose answer goes to the port that asks. -/
def viaPort (q : HostPort) : Instr → Option Instr
  | .diagRequest _ v => some (.diagRequest q v)
  | .lsCommit _ p v => some (.lsCommit q p v)
  | .tlSparseClear _ c v => some (.tlSparseClear q c v)
  | .fbCommit _ v => some (.fbCommit q v)
  | .fbMapAreaWrite _ p v => some (.fbMapAreaWrite q p v)
  | .fbMoeClear _ p v => some (.fbMoeClear q p v)
  | .hcWithdraw _ k v => some (.hcWithdraw q k v)
  | .mboxGo _ p v => some (.mboxGo q p v)
  | .ringCreate _ v => some (.ringCreate q v)
  | .ringChange _ v => some (.ringChange q v)
  | .ringDisable _ v => some (.ringDisable q v)
  | .platformEventSet _ v => some (.platformEventSet q v)
  | .partitionCreate _ v => some (.partitionCreate q v)
  | .partitionChange _ v => some (.partitionChange q v)
  | .partitionRemove _ v => some (.partitionRemove q v)
  | .contextBind _ v => some (.contextBind q v)
  | .contextUnbind _ v => some (.contextUnbind q v)
  | .contextMove _ v => some (.contextMove q v)
  | .contextEntriesChange _ v => some (.contextEntriesChange q v)
  | .pageAllocate _ v => some (.pageAllocate q v)
  | .pageFree _ v => some (.pageFree q v)
  | .coreReset _ v => some (.coreReset q v)
  | .clusterReset _ v => some (.clusterReset q v)
  | .partitionReset _ v => some (.partitionReset q v)
  | .moduleReset _ v => some (.moduleReset q v)
  | .tbSet _ v => some (.tbSet q v)
  | .tbCtlWrite _ v => some (.tbCtlWrite q v)
  | .exportRingSet _ p v => some (.exportRingSet q p v)
  | .pwLimitWrite _ v => some (.pwLimitWrite q v)
  | .runRequest _ n v => some (.runRequest q n v)
  | .napRequest _ n v => some (.napRequest q n v)
  | .dozeRequest _ n v => some (.dozeRequest q n v)
  | .offRequest _ n v => some (.offRequest q n v)
  | .claspRelease _ v => some (.claspRelease q v)
  | .registerWrite _ o bs => some (.registerWrite q o bs)
  | _ => none

/-! Invariants of the block. -/

/-- The counter stands on an edge of CK_TB: a multiple of 2^-30 s (R367, R368). -/
def CounterAligned (s : State) : Prop := s.tb.now.toNat % 4 = 0

/-- The fuses hold no more changes of a limited setting than it is allowed (R412, R414). -/
def LedgerBounded (s : State) : Prop := ∀ id n, changesAllowed id = some n → changesMade s.weala id ≤ n

/-- A safe state: the counter on an edge, the ledger within its bounds. -/
def Safe (s : State) : Prop := CounterAligned s ∧ LedgerBounded s

end Sys2Proof.Machine
end

