-- ==== Sys2Proof/Certificates/Slice0/Obligations.lean ====
section
/-!
DEFINITION. The statements for the provers, in the terms of Safety.lean. Each docstring names the rules of spec/ that it follows; a statement that rests on
a choice of the model's names its log entry.
-/
open Sys2Proof Sys2Proof.Machine

/-! The block as a whole. -/

/-- The model's own rule (log 1): a step takes the command at the front of the queue and runs it on the state with the queue's rest. On an empty queue a
step is one edge of CK_TB, which adds 2^-30 s to the counter while CK_TB runs (R367), and changes nothing else. -/
def Obligations.StepRunsFront : Prop :=
  (∀ (c : Instr) (rest : List Instr) (s : State), s.pending = c :: rest → step s = exec c { s with pending := rest }) ∧
  (∀ s : State, s.pending = [] →
     (s.tb.running = true → step s = .next { s with tb := { s.tb with now := s.tb.now + 4 } }) ∧
     (s.tb.running = false → step s = .next s))

/-- Every command comes to an end in every state, and no command touches the queue. -/
def Obligations.EveryCommandAnswers : Prop :=
  ∀ (i : Instr) (s : State), ∃ t, exec i s = .next t ∧ t.pending = s.pending

/-- The counter's place and the ledger's bound hold at power-on. -/
def Obligations.ResetIsSafe : Prop :=
  Safe State.reset

/-- From every safe state a step answers a safe state: the counter stays on an edge of CK_TB (R367, R368), and no limited setting is changed more often than
R412 allows. -/
def Obligations.StepKeepsSafe : Prop :=
  ∀ s t : State, Safe s → step s = .next t → Safe t

/-! Set-up registers as a whole. -/

/-- An unshadowed pair register takes only a single 8-byte write whose halves form a valid pair (R418): a row that writes an invalid pair, and a write of
any other size or place in such a register, only raises SETUP_REFUSED, as does an invalid pair of load lines. A pair is valid when its halves differ in
every bit. -/
def Obligations.PairsAreObeyed : Prop :=
  (∀ v : Word64, pairOk v = true ↔ v.extractLsb' 0 32 ^^^ v.extractLsb' 32 32 = BitVec.allOnes 32) ∧
  (∀ (i : Instr) (s : State) (port : HostPort) (always : Bool) (o : Nat) (v : Word64), pairRow i = some (port, always, o, v) →
    bar0Open s port always = true → pairOk v = false → exec i s = .next (setupRefused s o) ∧ OnlyReports s (setupRefused s o)) ∧
  (∀ (s : State) (port : HostPort) (o : Nat) (bs : List Byte), bar0Open s port (alwaysOpen o) = true → windowAt o = none →
    (regAt (o / 8 * 8) = .pair → bs.length ≠ 8 ∨ o % 8 ≠ 0 →
      ∃ x, exec (.registerWrite port o bs) s = .next (setupRefused s x) ∧ OnlyReports s (setupRefused s x)) ∧
    (∀ n, regAt o = .pwLl n → o % 8 = 0 → bs.length = 8 → pairOk (BitVec.ofNat 64 (natOfBytes bs)) = false →
      exec (.registerWrite port o bs) s = .next (setupRefused s (tlBase n + 0x208))))

/-- Selectors (R489): a commit whose value differs from its block's selector is refused, changes nothing and raises SETUP_REFUSED; a write of a selector
changes nothing else, the shadows least; a shadowed register reads as the entry in force for the selected index. -/
def Obligations.SelectorsAreNamed : Prop :=
  (∀ (i : Instr) (s : State) (port : HostPort) (o n : Nat) (v : Word64), selectorRow s i = some (port, o, v, n) → bar0Open s port false = true →
    pairOk v = true → pairVal v ≠ n → exec i s = .next (setupRefused s o) ∧ OnlyReports s (setupRefused s o)) ∧
  (∀ (s : State) (port : HostPort) (bs : List Byte), bar0Open s port false = true → bs.length = 8 →
    (let w : Word64 := BitVec.ofNat 64 (natOfBytes bs)
     exec (.registerWrite port 0x300000 bs) s = .next { s with setup := { s.setup with partSel := w.extractLsb' 0 6 } } ∧
     exec (.registerWrite port 0x300040 bs) s = .next { s with setup := { s.setup with ctxSel := w.extractLsb' 0 16 } } ∧
     exec (.registerWrite port 0x300080 bs) s = .next { s with setup := { s.setup with pageSel := w.extractLsb' 0 16 } } ∧
     exec (.registerWrite port 0x400000 bs) s = .next { s with setup := { s.setup with ringSel := w.extractLsb' 0 20 } })) ∧
  (∀ s : State,
    (let e := (getPart s (Fin.ofNat 64 s.setup.partSel.toNat)).entry.toNat
     bar0Word s 0x300010 = e % 2 ^ 64 ∧ bar0Word s 0x300018 = e / 2 ^ 64) ∧
    bar0Word s 0x300048 = (getCtx s s.setup.ctxSel).binding.toNat ∧
    (∀ j h, j < 64 → h < 2 → bar0Word s (0x300400 + 16 * j + 8 * h) = (tget 0 (getCtx s s.setup.ctxSel).ranges j).toNat / 2 ^ (64 * h) % 2 ^ 64) ∧
    bar0Word s 0x300088 = (let o := tget 0 s.pages s.setup.pageSel.toNat; if o = 0 then 0 else o - 1 + 2 ^ 16) ∧
    ∀ w, w < 4 → bar0Word s (0x400020 + 8 * w) = (getRing s s.setup.ringSel.toNat).entry.toNat / 2 ^ (64 * w) % 2 ^ 64)

/-- BAR0 is one set of registers (R485): a write through any port whose link is up has the same effect, and a read the same value but for a half that a port
has latched (R487); while a port's link is down its BAR0 cannot be reached. -/
def Obligations.PortsShareRegisters : Prop :=
  (∀ (i a b : Instr) (s : State) (p q : HostPort), viaPort p i = some a → viaPort q i = some b →
    ((getHp s p).linkUp = true → (getHp s q).linkUp = true → exec a s = exec b s) ∧
    ((getHp s p).linkUp = false → exec a s = .next s)) ∧
  (∀ (s : State) (p q : HostPort) (o n : Nat),
    ((getHp s p).linkUp = true → (getHp s q).linkUp = true → n ≠ 4 ∨ o % 8 = 0 → bar0Read s p o n = bar0Read s q o n) ∧
    ((getHp s p).linkUp = false → bar0Read s p o n = none))

/-- Host ports (R473, R474, R512) and writes to registers without a row of their own (R417, R484 to R486). -/
def Obligations.HostPortsAndWrites : Prop :=
  (∀ (s : State) (p : HostPort),
    (∃ u, exec (.perstRelease p) s = .next u ∧ getHp u p = { getHp s p with perstReleased := true } ∧
      (fnState s (fnHost p) = 2 → fnState u (fnHost p) = 1) ∧ (fnState s (fnHost p) ≠ 2 → u.fns = s.fns) ∧
      (∀ q, q ≠ p → getHp u q = getHp s q) ∧ { u with fns := s.fns, hports := s.hports } = s) ∧
    (∃ u, exec (.perstAssert p) s = .next u ∧ (getHp u p).perstReleased = false ∧ (getHp u p).linkUp = false ∧ (getHp u p).ats = [] ∧
      (getHp u p).recoveries = (getHp s p).recoveries ∧ (getHp u p).correctable = (getHp s p).correctable ∧
      (getHp u p).msixOn = false ∧ (∀ e, e ∈ u.msixPending ↔ e ∈ s.msixPending ∧ e.1 ≠ p) ∧
      (fnReady s (fnHost p) = true → fnState u (fnHost p) = 2) ∧ (∀ q, q ≠ p → getHp u q = getHp s q) ∧
      { u with fns := s.fns, hports := s.hports, msixPending := s.msixPending } = s) ∧
    ((getHp s p).linkUp = true →
      (∀ ce ue, let h := getHp s p
        exec (.hostLinkRecovery p ⟨false, ce, ue⟩) s = .next (setHp s p { h with
          linkUp := false, recovering := true, recoveries := satInc h.recoveries
          correctable := satAdd h.correctable ce, uncorrectable := satAdd h.uncorrectable ue }) ∧
        ∃ u, exec (.hostLinkRecovery p ⟨true, ce, ue⟩) s = .next u ∧ (getHp u p).linkUp = false ∧ (getHp u p).recovering = false ∧
          (getHp u p).correctable = satAdd h.correctable ce ∧ (getHp u p).uncorrectable = satAdd h.uncorrectable ue ∧
          (getHp u p).recoveries = h.recoveries ∧ (∀ q, q ≠ p → getHp u q = getHp s q) ∧ { u with hports := s.hports } = s) ∧
      ∀ c pg, exec (.atsInvalidateRequest p c pg) s = .next (setHp s p { getHp s p with
        ats := (getHp s p).ats.filter (· != (c, pg)), atsCompleted := (getHp s p).atsCompleted + 1 }))) ∧
  (∀ (s : State) (port : HostPort) (o : Nat) (bs : List Byte), bar0Open s port (alwaysOpen o) = true →
    (∀ w i size, windowAt o = some (w, i, size) →
      (4 ≤ bs.length → bs.length ≤ 512 → bs.length % 4 = 0 → o % 4 = 0 → i + bs.length ≤ size →
        exec (.registerWrite port o bs) s = .next (setWindow s w i bs)) ∧
      (bs.length < 4 ∨ 512 < bs.length ∨ bs.length % 4 ≠ 0 ∨ o % 4 ≠ 0 ∨ size < i + bs.length →
        ∃ u, exec (.registerWrite port o bs) s = .next u ∧ OnlyReports s u)) ∧
    (windowAt o = none →
      ((bs.length ≠ 4 ∧ bs.length ≠ 8) ∨ o % bs.length ≠ 0 → ∃ u, exec (.registerWrite port o bs) s = .next u ∧ OnlyReports s u) ∧
      (bs.length = 8 → o % 8 = 0 → (∀ k, regAt o ≠ .load k) → (∀ p, regAt o ≠ .mboxCmd p) → (∀ n, regAt o ≠ .pwLl n) →
        exec (.registerWrite port o bs) s = .next (setReg s (regAt o) (BitVec.ofNat 64 (natOfBytes bs))))))

/-- The registers' values after reset (R488), where the spec states one. -/
def Obligations.ResetValues : Prop :=
  regWord State.reset .busMin = 470 ∧ State.reset.pw.throttleC = 95 ∧ State.reset.pw.hystC = 5 ∧ State.reset.pw.alertC = 100 ∧ State.reset.pw.limit = 270 ∧
  (∀ p, regWord State.reset (.quiet p) = mkPair 0 ∧ regWord State.reset (.redTmo p) = 10000 ∧ regWord State.reset (.lsShadow p 0) = mkPair 16 ∧
    regWord State.reset (.lsShadow p 1) = mkPair 32 ∧ regWord State.reset (.lsShadow p 2) = mkPair 2000 ∧ regWord State.reset (.lsShadow p 3) = mkPair 1) ∧
  (∀ k, regWord State.reset (.scrubCtl k) = 0x118 ∧ regWord State.reset (.load k) = 0xE6000000) ∧ (∀ q, regWord State.reset (.farCtl q) = 256) ∧
  (∀ c, regWord State.reset (.coreCtl c) = 0x01080400) ∧ (∀ n, regWord State.reset (.pwFreq n) = 40) ∧
  (∀ n, (getTile State.reset n).loadLines = 0x28282850 ∧ (getTile State.reset n).freq = 40) ∧ State.reset.tb.tolPpb = 50 ∧
  State.reset.tb.now = 0 ∧ quality State.reset = 0 ∧ State.reset.setup.partSel = 0 ∧ State.reset.resets = [] ∧ State.reset.pending = []

/-! The grid of cores. -/

/-- CLUSTER_MODE_ENTRY (R30, R31): a tile that is entering runs its image on its medium cores, one for each segment that is not marked defective, and
nothing else changes; a tile that Weala examines after a fault runs the recovery image, its changes in hand wait for the return and its cores are not ready.
SPARE_SELFTEST: on a tile in RUN and core mode the unused spare of each cluster is under test, and nothing else changes; a spare that passes is under test
no more. -/
def Obligations.ClusterModeAndSpares : Prop :=
  (∀ (s : State) (n : TileNo) (image : Byte) (token : BitVec 16), (getTile s n).mode = .entering image token →
    ∃ u, exec (.clusterModeEntry n) s = .next u ∧ (getTile u n).mode = .cluster image ∧
      (∀ i, i < 20 → (tget {} (getTile u n).medium i).running = !(defectMask (mittenEntry s (coreAt n (Fin.ofNat 4 (i / 5))))).testBit (i % 5)) ∧
      (getTile u n).failedSegs = (getTile s n).failedSegs ∧ (∀ m, m ≠ n → getTile u m = getTile s m) ∧ { u with tiles := s.tiles } = s) ∧
  (∀ (s : State) (n : TileNo), (getTile s n).mode = .core → recoveryDue s n = true → (∀ m ∈ s.changes, coreTile m.core = n) → s.weala.reqQueue = [] →
    ∃ u, exec (.clusterModeEntry n) s = .next u ∧ (getTile u n).mode = .cluster 0 ∧ u.changes = [] ∧
      (∀ c ∈ tileCores n, corePresent s c = true → fnState u (fnCore c) = 1) ∧ (∀ m, m ≠ n → getTile u m = getTile s m) ∧
      { u with tiles := s.tiles, fns := s.fns, changes := s.changes } = s) ∧
  (∀ (s : State) (n : TileNo), isHole s n = false → inCoreMode s n = true → (getTile s n).power = .run →
    exec (.spareSelftest n) s = .next (setTile s n { getTile s n with
      spareTests := (List.range 4).filter fun k => sparePhys (mittenEntry s (coreAt n (Fin.ofNat 4 k))) != 7 })) ∧
  (∀ (s : State) (c : CoreNo), coreCluster c ∈ (getTile s (coreTile c)).spareTests →
    exec (.spareSelftestResult c true) s = .next (setTile s (coreTile c) { getTile s (coreTile c) with
      spareTests := (getTile s (coreTile c)).spareTests.filter (· != coreCluster c) }))

/-- DIAG_REQUEST over tiles of the partition named none of which holds a task: with an image of the catalogue the run begins, BUSY is 1 and the tiles are
those still out; without it the result is 3. Either way only the request's registers, the named tiles and their cores' functions change. With a tile outside
the partition, a hole or one that holds a task, the first of them is reported and no tile enters. CLUSTER_MODE_RETURN with no Weala request waiting and no
reset of the tile's cores: a tile of the run is out of it no more, BUSY falls with the last, and its PASSED bit is set when no segment has failed; each of
its cores that the map leaves present is READY. What the rings then send touches units, memory and records only. That the first tile is the lowest-numbered
that fails is the model's choice (log 37). -/
def Obligations.DiagnosticsRuns : Prop :=
  (∀ (s : State) (port : HostPort) (v : Word64), bar0Open s port true = true → pairOk v = true → s.setup.diagBusy = false →
     bits (pairVal v) 8 7 < 64 →
     (∀ n : TileNo, s.setup.diagTiles.getLsb n = true →
       partHasTile s (Fin.ofNat 64 (bits (pairVal v) 8 6)) n = true ∧ isHole s n = false ∧ tileResident s n = false) →
     ∃ t, exec (.diagRequest port v) s = .next t ∧
       t.setup.diagWord = mkPair (BitVec.ofNat 32 (pairVal v) &&& 0xFFFF7FFF) ∧ t.setup.diagToken = BitVec.ofNat 16 (pairVal v / 2 ^ 16) ∧ t.setup.diagPassed = 0 ∧
       (let image : Byte := BitVec.ofNat 8 (pairVal v)
        let named := allTiles.filter fun n => s.setup.diagTiles.getLsb n
        if image = 0 ∨ Config.diagImage image = false then t.setup.diagResult = 3 ∧ t.setup.diagBusy = false ∧ t.tiles = s.tiles ∧ t.fns = s.fns
        else t.setup.diagResult = 0 ∧ (named ≠ [] → t.setup.diagBusy = true ∧ t.setup.diagLeft = named ∧
          (∀ n ∈ named, (getTile t n).mode = .entering image (BitVec.ofNat 16 (pairVal v / 2 ^ 16))) ∧
          (∀ n ∈ named, ∀ c ∈ tileCores n, corePresent s c = true → fnState t (fnCore c) = 1))) ∧
       { t with setup := s.setup, tiles := s.tiles, fns := s.fns, weala := s.weala } = s) ∧
  (∀ (s : State) (port : HostPort) (v : Word64) (n : TileNo), bar0Open s port true = true → pairOk v = true → s.setup.diagBusy = false →
     bits (pairVal v) 8 7 < 64 →
     (let outside := fun m : TileNo => !partHasTile s (Fin.ofNat 64 (bits (pairVal v) 8 6)) m || isHole s m
      (allTiles.filter fun m => s.setup.diagTiles.getLsb m).find? (fun m => outside m || tileResident s m) = some n →
      ∃ t, exec (.diagRequest port v) s = .next t ∧ t.setup.diagResult = (if outside n then 1 else 2) ∧ t.setup.diagFirst = BitVec.ofNat 6 n.val ∧
        t.setup.diagBusy = false ∧ OnlyReports { s with setup := t.setup } t)) ∧
  (∀ (s : State) (n : TileNo) (failed : BitVec 20) (image : Byte), (getTile s n).mode = .cluster image → s.weala.reqQueue = [] →
     (∀ c ∈ tileCores n, resettingCore s c = false) →
     ∃ t, exec (.clusterModeReturn n failed) s = .next t ∧
       (n ∈ s.setup.diagLeft → t.setup.diagLeft = s.setup.diagLeft.filter (· != n) ∧
         t.setup.diagBusy = !(s.setup.diagLeft.filter (· != n)).isEmpty ∧ t.setup.diagResult = 0 ∧
         (failed = 0 → t.setup.diagPassed = s.setup.diagPassed ||| BitVec.ofNat 64 (2 ^ n.val))) ∧
       (n ∉ s.setup.diagLeft → t.setup = s.setup) ∧
       (∀ c ∈ tileCores n, corePresent t c = true → fnReady t (fnCore c) = true) ∧
       t.holes = s.holes ∧ t.resets = s.resets ∧ t.owning = s.owning ∧ t.hbm = s.hbm ∧ t.xports = s.xports ∧ t.pages = s.pages ∧ t.pw = s.pw ∧ t.tb = s.tb)

/-- A failure of a segment that no role uses (an unused spare's, too, by either row): the entry becomes the one with the defect, and everything else but
what the rings then send is as it was. One that a role uses (R42): its substitute is under test and the core RUNNING, or without one the core is removed. In
cluster mode the failure waits for the return (R44). SUBSTITUTE_SELFTEST_DONE, with no other segment of the change to see to and no request waiting: passed,
the change is over and the core READY; failed, the substitute is a failed segment in its turn. -/
def Obligations.SegmentChanges : Prop :=
  (∀ (s : State) (c : CoreNo) (p : Fin 5) (i : Nat), isHole s (coreTile c) = false → inCoreMode s (coreTile c) = true →
     (entryLs (mittenEntry s c)).findIdx? (· == p.val) = some i → (defectMask (mittenEntry s c)).testBit p.val = false →
     clusterState (mittenEntry s c) ≠ 3 → s.changes = [] → s.weala.reqQueue = [] →
     ∃ t, exec (.segmentFailure c p) s = .next t ∧ SegmentReplaced s t c p i) ∧
  (∀ (s : State) (c : CoreNo) (p : Fin 5), isHole s (coreTile c) = false → inCoreMode s (coreTile c) = false →
     (defectMask (mittenEntry s c)).testBit p.val = false → clusterState (mittenEntry s c) ≠ 3 →
     exec (.segmentFailure c p) s = .next (setTile s (coreTile c) { getTile s (coreTile c) with
       failedSegs := (getTile s (coreTile c)).failedSegs ||| BitVec.ofNat 20 (2 ^ (5 * coreCluster c + p.val)) })) ∧
  (∀ (s : State) (c : CoreNo) (p : Fin 5), isHole s (coreTile c) = false → inCoreMode s (coreTile c) = true →
     (entryLs (mittenEntry s c)).contains p.val = false → (defectMask (mittenEntry s c)).testBit p.val = false →
     clusterState (mittenEntry s c) ≠ 3 → s.changes = [] → s.weala.reqQueue = [] →
     ∃ t, exec (.segmentFailure c p) s = .next t ∧ mittenEntry t c = entryWithout s c p.val ∧
       besideWork t = besideWork (setMitten s c (entryWithout s c p.val))) ∧
  (∀ (s : State) (c : CoreNo) (m : MapChange), s.changes = [m] → m.core = c → m.step = 4 → m.segs = [] → s.weala.reqQueue = [] →
     inCoreMode s (coreTile c) = true →
     (corePresent s c = true → resettingCore s c = false →
       ∃ t, exec (.substituteSelftestDone c true) s = .next t ∧ t.changes = [] ∧ fnReady t (fnCore c) = true ∧
         besideWork t = besideWork { setFn s (fnCore c) 3 with changes := [] }) ∧
     (∀ i, (entryLs (mittenEntry s c)).findIdx? (· == (Fin.ofNat 5 m.sub).val) = some i →
       (defectMask (mittenEntry s c)).testBit (Fin.ofNat 5 m.sub).val = false → clusterState (mittenEntry s c) ≠ 3 →
       ∃ t, exec (.substituteSelftestDone c false) s = .next t ∧ SegmentReplaced s t c (Fin.ofNat 5 m.sub) i))

/-- TILE_HOLE (R48, R151), for each cause: the tile is a hole, no other tile becomes or ceases to be one, and the escape tables are worked out anew. -/
def Obligations.TileBecomesHole : Prop :=
  ∀ (s : State) (n : TileNo) (cause : HoleCause), isHole s n = false →
    ∃ t, exec (.tileHole n cause) s = .next t ∧ isHole t n = true ∧ t.escapeLoading = true ∧
      (∀ m : TileNo, m ≠ n → isHole t m = isHole s m)

/-- The service grade (R49) counts the tiles that are not holes; degraded and removed cores leave it alone, and MG_GRID_STATUS reports them beside it. -/
def Obligations.GradeCountsUsableTiles : Prop :=
  ∀ s : State,
    (let usable := (allTiles.filter fun t => !isHole s t).length
     (usable = 64 → runningGrade s = 0) ∧ (62 ≤ usable → usable < 64 → runningGrade s = 1) ∧ (usable < 62 → runningGrade s = 2)) ∧
    (∀ t : State, t.holes = s.holes → runningGrade t = runningGrade s) ∧
    mgGridStatus s % 2 ^ 64 = s.holes.toNat ∧ mgGridStatus s / 2 ^ 64 % 4 = (runningGrade s).toNat ∧
    mgGridStatus s / 2 ^ 72 % 2 ^ 9 = ((List.finRange 256).filter fun c => clusterState (mittenEntry s c) == 1).length ∧
    mgGridStatus s / 2 ^ 81 % 2 ^ 9 = ((List.finRange 256).filter fun c => clusterState (mittenEntry s c) == 2).length

/-- A defect stays (R39): a core that comes up counts as defective every segment that fails its self-test and every one that its entry marks, a test that
passes clears no mark, and a map that would clear one is stored only with Camormet's signature. -/
def Obligations.DefectsStay : Prop :=
  (∀ (s : State) (c : CoreNo) (f : BitVec 5), comingUp s (fnCore c) = true → fnReady s (fnSram (coreTile c)) = true →
    inCoreMode s (coreTile c) = true → changingCore s c = false → resettingCore s c = false →
    ∃ u, exec (.coreReady c f) s = .next u ∧ ∀ p, p < 5 →
      (f.getLsbD p = true ∨ entryConsistent (tget mittenFull s.mitten c.val) = true ∧ (defectMask (mittenEntry s c)).testBit p = true) →
      (defectMask (mittenEntry u c)).testBit p = true) ∧
  (∀ (s : State) (c : CoreNo), coreCluster c ∈ (getTile s (coreTile c)).spareTests →
    ∃ u, exec (.spareSelftestResult c true) s = .next u ∧ u.mitten = s.mitten) ∧
  (∀ (s : State) (c : CoreNo) (m : MapChange), s.changes = [m] → m.core = c → m.step = 4 → m.segs = [] → s.weala.reqQueue = [] →
    ∃ u, exec (.substituteSelftestDone c true) s = .next u ∧ u.mitten = s.mitten) ∧
  (∀ (s : State) (src : ReqSource) (o : OfferedMap) (a : Auth), Arrives s (.persistMap src (some o) a) → clearsDefect s o.entries = true →
    o.camormetSigned = false →
    ∃ u, exec (.persistMap src (some o) a) s = .next u ∧ u.weala.reqResult ≠ resOk ∧ u.weala.mapA = s.weala.mapA ∧ u.weala.mapB = s.weala.mapB)

/-! Loss scale. -/

/-- LS_COMMIT (R76): what a commit needs; one that is accepted puts the shadows into force, clears the flag and CLEAN_COUNT; one that is refused changes
nothing but that its refusal is reported; one for a partition that is resetting waits for the reset's end (R420); a shadow that is written and not committed
leaves the running scale alone. LS_PAIR_INVALID sets the flag (R79). The rule of the final census (R77), with the pair in force valid: a fixed exponent
stays; a dynamic one drops by 1 on a step with a counted value, not below -32, and rises by 1 after GROWTH clean steps, not above MAX_EXP. -/
def Obligations.LossScaleFollowsItsRules : Prop :=
  (∀ l : LossScale, lsShadowsOk l = true ↔
    pairOk l.shadowExp = true ∧ pairOk l.shadowMax = true ∧ pairOk l.shadowGrowth = true ∧ pairOk l.shadowMode = true ∧
    -32 ≤ lsShadowExp l ∧ lsShadowExp l ≤ lsShadowMax l ∧ lsShadowMax l ≤ 64 ∧ 1 ≤ lsShadowGrowth l) ∧
  (∀ (s : State) (port : HostPort) (p : PartNo) (v : Word64), bar0Open s port false = true → resettingPart s p = true →
    exec (.lsCommit port p v) s = .next (setPart s p { getPart s p with lsHeld := (getPart s p).lsHeld ++ [v] })) ∧
  (∀ (s : State) (port : HostPort) (p : PartNo) (v : Word64), bar0Open s port false = true → resettingPart s p = false → pairOk v = true → pairVal v = 1 →
    lsShadowsOk (getPart s p).ls = true →
    ∃ t, exec (.lsCommit port p v) s = .next t ∧
      (getPart t p).ls = { (getPart s p).ls with
        maxExp := lsShadowMax (getPart s p).ls, growth := lsShadowGrowth (getPart s p).ls, dynamic := lsShadowDynamic (getPart s p).ls
        expNow := lsShadowExp (getPart s p).ls, clean := 0, invalid := false } ∧
      OnlyReports (setPart s p { getPart s p with ls := lsCommitted (getPart s p).ls }) t) ∧
  (∀ (s : State) (port : HostPort) (p : PartNo) (v : Word64), bar0Open s port false = true → resettingPart s p = false →
    (pairOk v && pairVal v == 1 && lsShadowsOk (getPart s p).ls) = false →
    (let t := raise s { code := 0x0021, part := some p, args := [p.val] }
     exec (.lsCommit port p v) s = .next t ∧ OnlyReports s t)) ∧
  (∀ (s : State) (p : PartNo) (k : Nat) (v : Word64),
    (let l := (getPart s p).ls
     (getPart (setReg s (.lsShadow p k) v) p).ls =
       { l with shadowExp := if k = 0 then v else l.shadowExp, shadowMax := if k = 1 then v else l.shadowMax
                shadowGrowth := if k = 2 then v else l.shadowGrowth, shadowMode := if k = 0 ∨ k = 1 ∨ k = 2 then l.shadowMode else v })) ∧
  (∀ (s : State) (p : PartNo), (getPart s p).ls.invalid = false →
    ∃ t, exec (.lsPairInvalid p) s = .next t ∧
      OnlyReports (setPart s p { getPart s p with ls := { (getPart s p).ls with invalid := true } }) t) ∧
  (∀ l : LossScale, l.invalid = false →
    (lsCensus l true).expPrev = l.expNow ∧ (lsCensus l false).expPrev = l.expNow ∧
    (l.dynamic = true → -32 < l.expNow → (lsCensus l true).expNow = l.expNow - 1 ∧ (lsCensus l true).clean = 0 ∧
      (lsCensus l true).halvings = min (l.halvings + 1) 65535) ∧
    (l.dynamic = true → l.expNow ≤ -32 → (lsCensus l true).expNow = l.expNow ∧ (lsCensus l true).clean = 0 ∧
      (lsCensus l true).floorHits = min (l.floorHits + 1) 65535) ∧
    (l.dynamic = true → l.clean + 1 = l.growth → (lsCensus l false).clean = 0 ∧
      (lsCensus l false).expNow = if l.expNow < l.maxExp then l.expNow + 1 else l.expNow) ∧
    (l.dynamic = true → l.clean + 1 ≠ l.growth → (lsCensus l false).clean = l.clean + 1 ∧ (lsCensus l false).expNow = l.expNow) ∧
    (l.dynamic = false → lsCensus l true = { l with expPrev := l.expNow, clean := 0 } ∧
      lsCensus l false = { l with expPrev := l.expNow, clean := min (l.clean + 1) 65535 }))

/-! Cores and their tasks. -/

/-- TASK_ADMIT, with a descriptor whose checks pass, an empty slot and its units free: the slot holds the task with its footprint and exponent, BLOCKED for
its step or as a gate and otherwise READY or at once RUNNING, the queue moves up, and nothing but the core changes. R85: at SLICE_EXPIRY another READY slot
gets the sequencer and the one that ran is READY; at MIN_RUN_EXPIRY a LATE one gives it up where SWITCH_EN allows; with no other slot READY the row only
notes the time. That the lowest EMPTY slot is taken, and where the cyclic order starts, is the model's choice (log 62). -/
def Obligations.SlotsAndSequencer : Prop :=
  (∀ (s : State) (c : CoreNo) (k : SlotNo) (t : Task) (rest : List Task), (getCore s c).queue = t :: rest →
     resettingCore s c = false → changingCore s c = false → clockStopped s c = false →
     (let gen := if (match t.op with | some op => op.usesMapGen | none => false) = true
         then genWhen (getPart s t.part) t.mapGen t.afterMark else .run
      (gen = .hold → coreAvailable s c = false) ∧
      admissionFailure (need (coreAvailable s c) stCore 3 ++ genFails gen ++ coreFails s c t) = none) →
     emptySlot (getCore s c) = some k → unitsHeld (getCore s c) + t.footprint ≤ coreUnits s c →
     ∃ u, exec (.taskAdmit c) s = .next u ∧
       (let next := stepWhen (getPart s t.part) t.step == .next
        let gate := t.op == some .wait || t.op == some .timed
        (getSlot u c k).task = some { admitMark s t with exp := if next then none else some (stepExp (getPart s t.part) t.step) } ∧
        (getSlot u c k).footprint = t.footprint ∧ (getSlot u c k).stepHeld = next ∧
        (if next || gate then (getSlot u c k).state = .blocked else (getSlot u c k).state = .ready ∨ (getSlot u c k).state = .running)) ∧
       (getCore u c).queue = rest ∧ (getCore u c).held = (getCore s c).held ∧ { u with cores := s.cores } = s ∧
       ∀ m, m ≠ c → getCore u m = getCore s m) ∧
  ((∀ (s : State) (c : CoreNo) (k : SlotNo), (getCore s c).current = some k → (getCore s c).lastRan = some k →
     (getSlot s c k).state = .running → ctlSlice (getCore s c) ≠ 0 → (∃ j, j ≠ k ∧ (getSlot s c j).state = .ready) →
     ∃ u j, exec (.sliceExpiry c) s = .next u ∧ j ≠ k ∧ (getSlot s c j).state = .ready ∧ (getCore u c).current = some j ∧
       getSlot u c j = { getSlot s c j with state := .running } ∧ getSlot u c k = { getSlot s c k with state := .ready } ∧
       (∀ i, i ≠ j → i ≠ k → getSlot u c i = getSlot s c i) ∧ { u with cores := s.cores } = s ∧ ∀ m, m ≠ c → getCore u m = getCore s m) ∧
   (∀ (s : State) (c : CoreNo) (k : SlotNo), (getCore s c).current = some k → (getCore s c).lastRan = some k →
     (getSlot s c k).state = .late → ctlSwitch (getCore s c) = true → (∃ j, j ≠ k ∧ (getSlot s c j).state = .ready) →
     ∃ u j, exec (.minRunExpiry c) s = .next u ∧ j ≠ k ∧ (getSlot s c j).state = .ready ∧ (getCore u c).current = some j ∧
       getSlot u c j = { getSlot s c j with state := .running } ∧ (∀ i, i ≠ j → getSlot u c i = getSlot s c i) ∧
       { u with cores := s.cores } = s ∧ ∀ m, m ≠ c → getCore u m = getCore s m) ∧
   (∀ (s : State) (c : CoreNo) (k : SlotNo), (getCore s c).current = some k → otherReady (getCore s c) k = false →
     (ctlSlice (getCore s c) ≠ 0 → exec (.sliceExpiry c) s = .next (setCore s c { getCore s c with sliceDone := true })) ∧
     exec (.minRunExpiry c) s = .next (setCore s c { getCore s c with minRun := true })))

/-- FETCH_TAG_COMPLETE (R92): the ranges of the tag's transfer have landed; with no other transfer waiting the tag is free, and a slot that waits for no
swap goes on. STORE_TAG_COMPLETE (R92, R94): what the tag stored stands, and with the last of a task that is over its outcome is decided. SWAP_COMPLETE (R88
to R90): the regions change roles and the task goes on; after the task's last instruction its output leaves in write requests. FETCH_FAILURE (R94) of a task
that is no collective's: the task ends with the status, its fetches are cancelled and what it has not requested is not stored; while stores are outstanding
the outcome waits for them, and else it is decided at once, so that the slot is free or keeps the record that could not be written. -/
def Obligations.TagsSwapsAndFailures : Prop :=
  ((∀ (s : State) (c : CoreNo) (k : SlotNo) (n : Nat) (f : FetchTag), awake s (coreTile c) = true →
     (getSlot s c k).fetchTags.find? (fun g => g.tag == n && g.left == 0) = some f →
     ∃ u, exec (.fetchTagComplete c k n) s = .next u ∧
       (getSlot u c k).landed = (getSlot s c k).landed ++ f.xfer.ranges ∧ (getSlot u c k).transfer = (getSlot s c k).transfer ∧
       (getSlot u c k).compute = (getSlot s c k).compute ∧ (getSlot u c k).ended = (getSlot s c k).ended ∧
       ((getSlot s c k).toFetch = [] → (getCore s c).fetchQueue = [] → u.packets = s.packets ∧
         (getSlot u c k).fetchTags = (getSlot s c k).fetchTags.filter (fun g => g.tag != n) ∧
         ((getSlot s c k).fetchTags.filter (fun g => g.tag != n) = [] → (getSlot s c k).swapPending = false → (getSlot s c k).ahead = false →
           (getSlot s c k).state = .late → (getSlot s c k).ended = false → (getSlot u c k).state = .ready ∨ (getSlot u c k).state = .running)) ∧
       { u with cores := s.cores, packets := s.packets } = s ∧ ∀ m, m ≠ c → getCore u m = getCore s m) ∧
   (∀ (s : State) (c : CoreNo) (k : SlotNo) (n : Nat) (x : StoreTag), awake s (coreTile c) = true →
     (getSlot s c k).storeTags.find? (fun y => y.tag == n && y.left == 0) = some x →
     ((getSlot s c k).ended = false → (getSlot s c k).outs = [] →
       ∃ u, exec (.storeTagComplete c k n) s = .next u ∧ (getSlot u c k).stored = (getSlot s c k).stored ++ x.parts ∧
         ((getCore s c).storeQueue = [] → u.packets = s.packets ∧ (getSlot u c k).storeTags = (getSlot s c k).storeTags.filter fun y => y.tag != n) ∧
         { u with cores := s.cores, packets := s.packets } = s ∧ ∀ m, m ≠ c → getCore u m = getCore s m) ∧
     (∀ t, (getSlot s c k).storeTags = [x] → (getSlot s c k).outs = [] → (getSlot s c k).adding = none → (∀ e ∈ (getCore s c).storeQueue, e.1 ≠ k) →
       (getSlot s c k).ended = true → (getSlot s c k).recordHeld = false → (getSlot s c k).task = some t →
       ∃ u, exec (.storeTagComplete c k n) s = .next u ∧ EndsAtOnce s u c k t (getSlot s c k).status (getSlot s c k).spoilt)) ∧
   (∀ (s : State) (c : CoreNo) (k : SlotNo), awake s (coreTile c) = true → clockStopped s c = false → swapDue (getCore s c) k = true →
     (let sl := getSlot s c k
      (sl.ended = false →
        ∃ u st, exec (.swapComplete c k) s = .next u ∧
          getSlot u c k = { sl with
            computeB := !sl.computeB, swapPending := false, ahead := false, compute := sl.transfer.foldl (fun t e => tput 0 t e.1 e.2) sl.compute
            transfer := [], got := sl.got ++ sl.landed, landed := [], state := st } ∧
          (st = .ready ∨ st = .running) ∧ { u with cores := s.cores } = s ∧ ∀ m, m ≠ c → getCore u m = getCore s m) ∧
      (∀ t p tag more, sl.ended = true → sl.task = some t → sl.outs = [.store p] → sl.adding = none → sl.storeTags = [] →
        (getCore s c).storeQueue = [] → freeTags (storeInUse (getCore s c)) = tag :: more → resettingCore s c = false →
        (∀ e ∈ p, rangeOk s t.ctx .write e.1 e.2.length = true) →
        ∃ u, exec (.swapComplete c k) s = .next u ∧ u.packets = s.packets ++ storePackets c t tag p ∧
          (getSlot u c k).storeTags = [{ tag := tag, parts := p.map fun e => (e.1, e.2.length), left := (storePackets c t tag p).length }] ∧
          (getSlot u c k).outs = [] ∧ (getSlot u c k).computeB = !sl.computeB ∧ (getCore u c).current ≠ some k ∧
          { u with cores := s.cores, packets := s.packets } = s ∧ ∀ m, m ≠ c → getCore u m = getCore s m)))) ∧
  (∀ (s : State) (c : CoreNo) (k : SlotNo) (t : Task) (st : BitVec 8), fetchesOver (getCore s c) k = false → (getSlot s c k).task = some t →
     (getSlot s c k).ended = false → isCollective t = false → (t.op = some .reduce → (getSlot s c k).started = false) →
     ((getSlot s c k).storeTags = [] → (∀ e ∈ (getCore s c).storeQueue, e.1 ≠ k) →
       ∃ u, exec (.fetchFailure c k st) s = .next u ∧ EndsAtOnce s u c k t st true) ∧
     ((getSlot s c k).storeTags ≠ [] →
       ∃ u, exec (.fetchFailure c k st) s = .next u ∧
         (getSlot u c k).ended = true ∧ (getSlot u c k).status = st ∧ (getSlot u c k).state = .late ∧ (getSlot u c k).fetchTags = [] ∧
         (getSlot u c k).toFetch = [] ∧ (getSlot u c k).outs = [] ∧ (getSlot u c k).storeTags = (getSlot s c k).storeTags ∧
         { u with cores := s.cores, packets := s.packets } = s ∧ ∀ m, m ≠ c → getCore u m = getCore s m))

/-- Every row that runs a task first asks for what it needs and has not got (R88 to R92): the slot's transfers are requested in order, a swap behind them
except for a COPY, and the slot is LATE; with the engine free a single transfer's read requests are in the mesh under the lowest free tag, and nothing but
that core and the mesh has changed. A GAUNTLET asks for its K-slices in order (R89). Where a transfer is cut into packets is the model's choice (log 63). -/
def Obligations.OperandsComeFirst : Prop :=
  (∀ (i : Instr) (s : State) (c : CoreNo) (k : SlotNo) (op : Op) (t : Task) (missing : List (Nat × Nat)), taskRow i = some (c, k, op) →
    runningTask s c k op = some t → op ≠ .gauntlet → t.bwd = bwdRow i t → (getSlot s c k).joined = false →
    (i = .dispatch c k → summaryWrong s c t = false) → (∀ r ∈ firstReads s c t, rangeOk s t.ctx .read r.1 r.2 = true) →
    (op = .combine → 8 * coT t * coK t ≠ 0 ∧ covered (startWork s c k t).got (coPlace t) (8 * coT t * coK t) = false) →
    missing = (firstReads s c t).filter (fun r => r.2 != 0 && !covered (startWork s c k t).got r.1 r.2) → missing ≠ [] →
    exec i s = .next (issueFetches s c k (missing.map fun r => { addr := r.1, len := r.2 }) (op != .copy)) ∧
    (∀ a n tag more, missing = [(a, n)] → n ≤ 2 ^ 22 → (getSlot s c k).fetchTags = [] → (getSlot s c k).toFetch = [] → (getCore s c).fetchQueue = [] →
      freeTags (fetchInUse (getCore s c)) = tag :: more →
      ∃ u, exec i s = .next u ∧ u.packets = s.packets ++ fetchPackets c t tag { addr := a, len := n } ∧
        getSlot u c k = { getSlot s c k with
          fetchTags := [{ tag := tag, xfer := { addr := a, len := n }, left := (fetchPackets c t tag { addr := a, len := n }).length }]
          swapPending := op != .copy, state := .late } ∧
        { u with cores := s.cores, packets := s.packets } = s ∧ ∀ m, m ≠ c → getCore u m = getCore s m)) ∧
  (∀ (s : State) (c : CoreNo) (k : SlotNo) (t : Task) (xs : List Xfer), runningTask s c k .gauntlet = some t → metaWaits s c k t = false →
    gAsrc t ≠ 2 → gM t ≠ 0 → hasStage t 5 = false → (getSlot s c k).status = stOk → (getSlot s c k).ahead = false →
    (gauntletSlices s c t (rowSource (startWork s c k t).view c t))[(getSlot s c k).slice]? = some xs →
    (∀ x ∈ xs, rangeOk s t.ctx .read x.addr x.extent = true) → t.dbuf = false ∨ (getSlot s c k).slice = 0 →
    exec (.gauntlet c k) s = .next (issueFetches (setSlot s c k { getSlot s c k with slice := (getSlot s c k).slice + 1 }) c k xs true))

/-- SPARSE_META_CHECK (R132, R133): with records that are well formed the slot's Gauntlet may issue, and only the header stays in its store; one whose
header is of another array ends the task without effect and counts a fault, and nothing is signalled. -/
def Obligations.SparseCheckPasses : Prop :=
  ∀ (s : State) (c : CoreNo) (k : SlotNo) (t : Task), runningTask s c k .gauntlet = some t → metaWaits s c k t = true →
    ((sparseCheck (startWork s c k t) (sparseA t)).halted = false →
      ∃ u, exec (.sparseMetaCheck c k) s = .next u ∧ (getSlot u c k).metaChecked = true ∧ (getSlot u c k).checking = false ∧
        (getSlot u c k).got = [(gMeta t, 32)] ∧ (getSlot u c k).state = (getSlot s c k).state ∧ (getSlot u c k).task = some t ∧
        { u with cores := s.cores } = s ∧ ∀ m, m ≠ c → getCore u m = getCore s m) ∧
    (Supplied s c k t (gMeta t) 32 → headerOk (sparseA t) (memNat (startWork s c k t).view (gMeta t) 32) = false → storesOut (getCore s c) k = false →
      ∃ u, exec (.sparseMetaCheck c k) s = .next u ∧ (getCore u c).sparseFaults = satInc (getCore s c).sparseFaults ∧
        EndsAtOnce s u c k t stSparseMeta (getSlot s c k).spoilt ∧
        ((getSlot s c k).spoilt = false → ∀ a, outsideRings s a → memByte u a = memByte s a))

/-- The tasks that work alone, with their operands in the compute region (R88, R94, R97, R194 to R197, R207 to R209): the slot keeps OK, and the output
waits to be swapped and stored; a task over no token ends at once. A GAUNTLET with its K-slices fetched and its stages' operands at hand likewise, with the
output of its last stage or what a stage that stores by itself has put out; one whose directory entry has no rows ends OK with nothing written (R210); one
whose output goes to a Palm keeps the rows, LATE, until the contribution's sequence comes due (R223, R225). A GAUNTLET of one vector stage, written out:
each row of A through the function, its loss scale applied, in D's format (R95, R98, R99). -/
def Obligations.TasksEndWithTheirStores : Prop :=
  (∀ (s : State) (c : CoreNo) (k : SlotNo) (t : Task) (v : State) (outs : List Out), v = (startWork s c k t).view → outs ≠ [] →
     (runningTask s c k .route = some t → t.bwd = false → (roBias t ≠ 0 → Supplied s c k t (roBias t) (4 * roE t)) →
       Supplied s c k t (roZ t) (4 * roT t * roE t) → outs = putOut [(roOut t, routeBytes v t)] →
       ∃ u, exec (.route c k) s = .next u ∧ EndsUnstored s u c k stOk 0 outs) ∧
     (runningTask s c k .route = some t → t.bwd = true → Supplied s c k t (roZ t) (4 * roT t * roE t) →
       Supplied s c k t (roOut t) (8 * roT t * roStride t) → Supplied s c k t (roDw t) (4 * roT t * roK t) →
       outs = putOut [(roDz t, routeBwdBytes v t)] →
       ∃ u, exec (.routeBwd c k) s = .next u ∧ EndsUnstored s u c k stOk 0 outs) ∧
     (runningTask s c k .dispatch = some t → t.bwd = true → Supplied s c k t (diPlace t) (8 * diT t * diK t) →
       (∀ i, i < diT t → ∀ a ∈ gatherPlaces t v i, Supplied s c k t a (diRow t)) →
       outs = (List.range (diT t)).flatMap (fun i => putOut [(diSrc t + i * diRow t, gatherRow t v i)]) →
       ∃ u, exec (.dispatchBwd c k) s = .next u ∧ EndsUnstored s u c k stOk 0 outs) ∧
     (runningTask s c k .combine = some t → CombineSupplied s c k t →
       (t.bwd = false → outs = (List.range (coT t)).flatMap (fun i => putOut [(coY t + i * coYrow t, combineRow t (coStride v t) v i)]) →
         ∃ u, exec (.combine c k) s = .next u ∧ EndsUnstored s u c k stOk 0 outs) ∧
       (t.bwd = true → outs = (List.range (coT t)).flatMap (fun i => (scatterStores t (coStride v t) v i).flatMap fun e => putOut [e]) →
         ∃ u, exec (.combineBwd c k) s = .next u ∧ EndsUnstored s u c k stOk 0 outs))) ∧
  (∀ (s : State) (c : CoreNo) (k : SlotNo) (t : Task), storesOut (getCore s c) k = false → rangeOk s t.ctx .read (diPlace t) 0 = true →
     (runningTask s c k .dispatch = some t → t.bwd = true → diT t = 0 →
       ∃ u, exec (.dispatchBwd c k) s = .next u ∧ EndsAtOnce s u c k t stOk (getSlot s c k).spoilt) ∧
     (∀ i, (i = .combine c k ∧ t.bwd = false ∨ i = .combineBwd c k ∧ t.bwd = true) → runningTask s c k .combine = some t → coT t = 0 →
       CombineSupplied s c k t → ∃ u, exec i s = .next u ∧ EndsAtOnce s u c k t stOk (getSlot s c k).spoilt)) ∧
  (∀ (s : State) (c : CoreNo) (k : SlotNo) (t : Task) (src : RowSource) (r : GRun) (g : Stage), runningTask s c k .gauntlet = some t →
     metaWaits s c k t = false → (readDirectory (startWork s c k t)).halted = false → src = rowSource (readDirectory (startWork s c k t)).view c t →
     (src.m = 0 → gPalm t = false → storesOut (getCore s c) k = false →
       ∃ u, exec (.gauntlet c k) s = .next u ∧ EndsAtOnce s u c k t stOk (getSlot s c k).spoilt) ∧
     (src.m ≠ 0 → stageOf t 5 = none ∨ (getSlot s c k).headerOut = true → (getSlot s c k).status = stOk → (getSlot s c k).ahead = false →
       (gauntletSlices s c t src).length ≤ (getSlot s c k).slice → r = runStages (startWork s c k t) c src → r.w.halted = false → lastStage t = some g →
       (g.kind = 5 ∨ g.kind = 6 → r.w.outs ≠ [] → ∃ u, exec (.gauntlet c k) s = .next u ∧ EndsUnstored s u c k stOk 0 r.w.outs) ∧
       (g.kind ≠ 5 → g.kind ≠ 6 →
         (gPalm t = false → (gauntletStores src r).outs ≠ [] →
           ∃ u, exec (.gauntlet c k) s = .next u ∧ EndsUnstored s u c k stOk 0 (gauntletStores src r).outs) ∧
         (gPalm t = true → r.w.outs = [] → ∃ u, exec (.gauntlet c k) s = .next u ∧ (getSlot u c k).outRows = r.rows ∧
           (getSlot u c k).outRow0 = src.first ∧ (getSlot u c k).started = true ∧ (getSlot u c k).state = .late ∧
           (getSlot u c k).ended = (getSlot s c k).ended ∧ besideWork u = besideWork s)))) ∧
  (∀ (s : State) (c : CoreNo) (k : SlotNo) (t : Task) (g : Stage), runningTask s c k .gauntlet = some t → gStages t = [g] → g.kind = 2 → g.func < 8 →
     gAsrc t = 0 → gPattern t = 0 → gPalm t = false → gM t ≠ 0 → (getSlot s c k).status = stOk → (getSlot s c k).ahead = false →
     (gauntletSlices s c t (rowSource (startWork s c k t).view c t)).length ≤ (getSlot s c k).slice →
     (let f := fmtD (gAfmt t)
      let v := (startWork s c k t).view
      let rows := (List.range (gM t)).map fun i =>
        let row := rowF32 f (rowCodes v f (gA t) (gLda t) i (inputWidth t)) (rowScales v f (gAscale t) (gLda t) i (inputWidth t))
        elementwiseRow s.weala.generation g.func row row
      let outs := putOut (rowStores (fmtD (gDfmt t)) t.saturate (gD t) (gLdd t) (lsRows g.ls (t.exp.getD 0) rows))
      BlockSupplied s c k t (rowBlock f (gA t) (gLda t) (gM t) 0 (inputWidth t)) →
      (f.isMx = true → BlockSupplied s c k t (scaleBlock (gAscale t) (gLda t) (gM t) 0 (inputWidth t))) → outs ≠ [] →
      ∃ u, exec (.gauntlet c k) s = .next u ∧ EndsUnstored s u c k stOk 0 outs))

/-- COPY moves its bytes unchanged (R318): with its source landed in the transfer region the task is over with OK, and the bytes from there leave in write
requests to the destination (R92), each cut at 4 KiB; nothing but that core and the mesh has changed. That the cut is at the multiples of 4 KiB is the
model's choice (log 63). -/
def Obligations.CopyMovesBytes : Prop :=
  ∀ (s : State) (c : CoreNo) (k : SlotNo) (t : Task) (tag : Nat) (more : List Nat), runningTask s c k .copy = some t →
    1 ≤ cpBytes t → cpDst t + cpBytes t ≤ 2 ^ 56 → rangeOk s t.ctx .read (cpSrc t) (cpBytes t) = true → covered (getSlot s c k).landed (cpSrc t) (cpBytes t) = true →
    (∀ a n, cpDst t ≤ a → a + n ≤ cpDst t + cpBytes t → rangeOk s t.ctx .write a n = true) → (getSlot s c k).adding = none →
    (getSlot s c k).storeTags = [] → (getCore s c).storeQueue = [] → freeTags (storeInUse (getCore s c)) = tag :: more →
    ∃ u, exec (.copy c k) s = .next u ∧ (getSlot u c k).ended = true ∧ (getSlot u c k).status = stOk ∧
      (getCore u c).current ≠ some k ∧ { u with cores := s.cores, packets := s.packets } = s ∧ (∀ m, m ≠ c → getCore u m = getCore s m) ∧
      (cpBytes t ≤ 2 ^ 22 →
        (let data := (List.range (cpBytes t)).map fun i => tget 0 (getSlot s c k).transfer (cpSrc t + i)
         u.packets = s.packets ++ storePackets c t tag [(cpDst t, data)] ∧
         (∀ p ∈ storePackets c t tag [(cpDst t, data)], p.typ = 1 ∧ p.payload.length ≤ 4096 ∧ cpDst t ≤ p.addr.toNat ∧
           ∀ i, i < p.payload.length → p.payload.getD i 0 = tget 0 (getSlot s c k).transfer (cpSrc t + (p.addr.toNat - cpDst t) + i))))

/-- A task of a collective with more than one member, its own operands at hand, opens it (R111, R198, R217): the collective is listed with its first member,
and the slot is LATE. -/
def Obligations.CollectiveOpens : Prop :=
  ∀ (s : State) (c : CoreNo) (k : SlotNo) (t : Task) (i : Instr) (op : Op), taskRow i = some (c, k, op) → runningTask s c k op = some t →
    (i = .attn c k ∧ t.bwd = false ∨ i = .attnBwd c k ∧ t.bwd = true ∨
      i = .dispatch c k ∧ t.bwd = false ∧ summaryWrong s c t = false ∨ i = .rotate c k) →
    (∀ r ∈ firstReads s c t, Supplied s c k t r.1 r.2) → (getSlot s c k).joined = false → isHole s (cornerTile (getPart s t.part)) = false →
    findColl s t = none → findEnded s t = none → (getPart s t.part).colls.length < 256 → 1 < (collCores s t).length →
    ∃ u, exec i s = .next u ∧
      (getPart u t.part).colls = (getPart s t.part).colls ++
        [{ opcode := BitVec.ofNat 8 t.opcode, key := collKey t, first := t, members := [(c, k, t)] }] ∧
      getSlot u c k = { getSlot s c k with state := .late, joined := true } ∧
      { u with cores := s.cores, parts := s.parts } = s ∧ (∀ m, m ≠ c → getCore u m = getCore s m) ∧ ∀ p, p ≠ t.part → getPart u p = getPart s p

/-- The rounds of ATTN (R112, R113) with a round still to come: the first by the row of the task itself, on the core's own block, which it passes on; the
later ones by ATTN_ROUND when the ring predecessor has passed its block on and a path brings it. The running softmax of the head has taken the block in and
the slot stands at the next round, the regions' roles changed with each block that came in. The last round of a head: its output and lse are put out, and
the next head begins, or after the last head the task is over with OK and its output waits to be swapped and stored. The rounds of a backward ATTN (R114):
the slot stands at the next round with its dQ so far, and the shard's dK and dV travel with its block; after the hop that brings them home dQ, dK and dV are
put out. The order of heads and sub-blocks and the formats of the backward operands are the model's reading (logs 20 and 68). -/
def Obligations.AttentionRounds : Prop :=
  (∀ (s : State) (c : CoreNo) (k : SlotNo) (t : Task) (x : Coll), runningTask s c k .attn = some t → findColl s t = some x → x.stage = 1 →
     (let sl := getSlot s c k
      let cores := collCores s t
      let R := cores.length
      let v := (startWork s c k t).view
      let j := (ringPos cores c + R - sl.round % R) % R
      let b := if sl.round = 0 then ownBlock v t sl.head j else tget [] x.blocks (sl.head * 256 + j)
      let rows := forwardRound s.weala.generation t
        ((headRows v t (fmtD (atQk t)) (atQaddr t) sl.head).zip (positions v t (ringPos cores c)))
        (blockKeys t b) (blockValues t b) (if sl.round = 0 then freshRows t else slotRows sl (atD t))
      (t.bwd = false → sl.round + 1 < R →
        (sl.round = 0 → sl.joined = true →
          ∃ u, exec (.attn c k) s = .next u ∧ getSlot u c k = { keepRows sl rows with round := 1 } ∧
            (∃ y, findColl u t = some y ∧ tget [] y.blocks (sl.head * 256 + j) = b) ∧ { u with cores := s.cores, parts := s.parts } = s) ∧
        (sl.round ≠ 0 → predecessorDone s x cores c sl.head sl.round = true →
          reachable s (coreTile (predecessor cores c)) (coreTile c) = true →
          exec (.attnRound c k) s = .next (setSlot s c k { keepRows sl rows with round := sl.round + 1, computeB := !sl.computeB }))) ∧
      (t.bwd = false → sl.round + 1 = R →
        ∀ i outs, (i = .attn c k ∧ sl.round = 0 ∧ sl.joined = true ∨
            i = .attnRound c k ∧ sl.round ≠ 0 ∧ predecessorDone s x cores c sl.head sl.round = true ∧
              reachable s (coreTile (predecessor cores c)) (coreTile c) = true) →
          outs = sl.outs ++ putOut (headStores t (atOaddr t) sl.head ((rows.map (softEnd s.weala.generation)).map (·.1)))
            ++ putOut [(atLse t + 4 * sl.head * atLen t, (rows.map (softEnd s.weala.generation)).flatMap fun e => bytesOf 4 e.2.toNat)] →
          outs ≠ [] → ∃ u, exec i s = .next u ∧ HeadOver s u c k t outs) ∧
      (t.bwd = true → sl.round = R → R ≠ 0 → predecessorDone s x cores c sl.head sl.round = true →
        ∀ outs, outs = sl.outs ++ putOut (headStores t (atDq t) sl.head (groupsOf (atD t) sl.acc.length sl.acc))
            ++ putOut (headStores t (atDk t) sl.head (travelGet x t sl.head (ringPos cores c)).1)
            ++ putOut (headStores t (atDv t) sl.head (travelGet x t sl.head (ringPos cores c)).2) →
          outs ≠ [] → ∃ u, exec (.attnRound c k) s = .next u ∧ HeadOver s u c k t outs) ∧
      (t.bwd = true → sl.round < R →
        (sl.round = 0 → sl.joined = true →
          ∃ u, exec (.attnBwd c k) s = .next u ∧ (getSlot u c k).round = 1 ∧ (getSlot u c k).head = sl.head ∧ (getSlot u c k).ended = sl.ended ∧
            { u with cores := s.cores, parts := s.parts } = s ∧ (∀ m, m ≠ c → getCore u m = getCore s m) ∧
            ∀ p, p ≠ t.part → getPart u p = getPart s p) ∧
        (sl.round ≠ 0 → predecessorDone s x cores c sl.head sl.round = true →
          reachable s (coreTile (predecessor cores c)) (coreTile c) = true →
          ∃ u, exec (.attnRound c k) s = .next u ∧ (getSlot u c k).round = sl.round + 1 ∧ (getSlot u c k).head = sl.head ∧
            (getSlot u c k).ended = sl.ended ∧ { u with cores := s.cores, parts := s.parts } = s ∧ ∀ m, m ≠ c → getCore u m = getCore s m))))

/-- The rounds of ROTATE (R215, R216) with a round still to come: the slot stands at the next round; without KSPLIT the round's slice of the product is put
out, with it the slot keeps the sum so far; with GRAD the shard's accumulator travels with it. The last round, or with GRAD the hop that brings the
accumulator home: what is left to put out is, and the task is over with OK. The arrays' layout is the model's reading (log 25). -/
def Obligations.RotateRounds : Prop :=
  ∀ (s : State) (c : CoreNo) (k : SlotNo) (t : Task) (x : Coll), runningTask s c k .rotate = some t → findColl s t = some x → x.stage = 1 →
    (let sl := getSlot s c k
     let cores := collCores s t
     let R := cores.length
     let v := (startWork s c k t).view
     let j := (ringPos cores c + R - sl.round) % R
     let shard := if sl.round = 0 then sliceCodes v (fmtD (rtWfmt t)) (cmemBase c + rtShard t) (rtN t) (rtK t) 0 (rtK t) else tget [] x.blocks j
     let y := rotateProduct v t sl R j shard
     let done := fun u : State =>
       (getSlot u c k).round = sl.round + 1 ∧ (getSlot u c k).acc = (if rtKsplit t then y.flatten else []) ∧
       (getSlot u c k).outs = sl.outs ++ (if rtKsplit t then [] else putOut (ySlices t R (j * rtN t) y)) ∧
       { u with cores := s.cores, parts := s.parts } = s ∧ (∀ m, m ≠ c → getCore u m = getCore s m) ∧
       (rtGrad t = false → sl.round ≠ 0 → u.parts = s.parts) ∧ ∀ p, p ≠ t.part → getPart u p = getPart s p
     (∀ i, (i = .rotate c k ∧ sl.round = 0 ∧ sl.joined = true ∨
         i = .rotateShardReceived c k ∧ sl.round ≠ 0 ∧ predecessorDone s x cores c sl.head sl.round = true ∧
           reachable s (coreTile (predecessor cores c)) (coreTile c) = true) →
       (sl.round + 1 < R → ∃ u, exec i s = .next u ∧ done u) ∧
       ∀ outs, outs = sl.outs ++ putOut (ySlices t R (if rtKsplit t then 0 else j * rtN t) y) → outs ≠ [] → sl.round + 1 = R → rtGrad t = false →
         ∃ u, exec i s = .next u ∧ MemberOver s u c k outs) ∧
     (sl.round = R → R ≠ 0 → predecessorDone s x cores c sl.head sl.round = true →
       ∀ outs, outs = sl.outs ++ putOut [(cmemBase c + rtGacc t, pairsToBytes (wordPairs (tget [] x.travel (ringPos cores c))))] → outs ≠ [] →
         ∃ u, exec (.rotateShardReceived c k) s = .next u ∧ MemberOver s u c k outs))

/-- The count phase of DISPATCH (R206, R220), with every check passed: the collective waits for its rows to land, and the partition's counts of dropped and
spilled assignments have grown by its own. DISPATCH_DIRECTORY_VALID, with every row for the participant landed and nothing of its own to store: the VALID
bit of its directory is on its way, by itself, and its task is over with OK. For which context a row is written is the model's reading (log 76). -/
def Obligations.DispatchPhases : Prop :=
  (∀ (s : State) (p : PartNo) (x : Coll) (key : Nat),
    (getPart s p).colls.find? (fun x => x.first.op == some .dispatch && x.key == key && x.stage == 1) = some x → x.first.part = p →
    resettingPart s p = false →
    lowestStatus (countReadFails s p x) = none → lowestStatus (countFails s p x) = none →
    ∃ r, exec (.dispatchCountPhase p key) s = .next r ∧ { x with stage := 2 } ∈ (getPart r p).colls ∧
      (getPart r p).dropped = satAdd (getPart s p).dropped (droppedCount (countInput s x) (countRows s p x)) ∧
      (getPart r p).spilled = satAdd (getPart s p).spilled (spilledCount (countInput s x) (countRows s p x)) ∧ besideWork r = besideWork s) ∧
  (∀ (s : State) (c : CoreNo) (k : SlotNo) (t : Task) (x : Coll) (tag : Nat) (more : List Nat), (getSlot s c k).task = some t →
    t.op = some .dispatch → findColl s t = some x → x.stage = 2 → (x.members.any fun m => m.1 == c && m.2.1 == k && memberRuns s m) = true →
    (x.members.all fun m => !memberRuns s m || (step3Over s m && !storingInto s c m)) = true →
    rangeOk s t.ctx .write (cmemBase c + diDirOff t + 6) 1 = true → (getSlot s c k).outs = [] → (getSlot s c k).adding = none →
    (getSlot s c k).storeTags = [] → (getCore s c).storeQueue = [] → freeTags (storeInUse (getCore s c)) = tag :: more → resettingCore s c = false →
    ∃ u, exec (.dispatchDirectoryValid c k) s = .next u ∧ (getSlot u c k).ended = true ∧ (getSlot u c k).status = stOk ∧
      u.packets = s.packets ++ storePackets c t tag [(cmemBase c + diDirOff t + 6, [1])] ∧
      (getSlot u c k).storeTags = [{ tag := tag, parts := [(cmemBase c + diDirOff t + 6, 1)], left := 1 }] ∧
      { u with cores := s.cores, packets := s.packets, parts := s.parts } = s ∧ ∀ m, m ≠ c → getCore u m = getCore s m)

/-! Palms. -/

/-- PALM_INIT (R221), accepted, begins: the Palm belongs to the context and refuses every operation until its zeros are written. PALM_INIT_DONE: every pair
is (+0, +0), the Palm is in service with NEXT_SEQ as PALM_INIT left it, and nothing else changes but records and reports. PALM_CONTRIBUTION (R224, R225) of
one row that comes due, over clean memory: the pairs are the old ones with the row added, NEXT_SEQ moves on, the task is over with OK. One that is early
waits; one whose sequence has passed, or whose Palm is broken, ends its task with no change to the Palm. -/
def Obligations.PalmsOpenAndTakeRows : Prop :=
  ((∀ (s : State) (c : CoreNo) (t : Task) (rest : List Task), (getCore s c).palmBusy = false → resettingCore s c = false →
     (getCore s c).palmQueue = t :: rest → admissionFailure (palmInitFails s c t) = none → stepWhen (getPart s t.part) t.step ≠ .next →
     exec (.palmInit c) s = .next (setPalm
       (setCore s c { getCore s c with palmBusy := true, palmQueue := admitMark s t :: rest }) c (piSlot t)
       { isOpen := true, owner := t.ctx, base := piBase t, elements := piElements t, nextSeq := 0, nonfinite := false, broken := true })) ∧
   (∀ (s : State) (c : CoreNo) (t : Task) (rest : List Task), (getCore s c).palmBusy = true → (getCore s c).palmQueue = t :: rest → t.sigMode = 0 →
     (8 * piElements t % 64 = 0 ∨ linePoison s ((cmemBase c + piBase t + 8 * piElements t) / 64) = false) →
     ∃ u, exec (.palmInitDone c) s = .next u ∧
       (getCore u c).palmBusy = false ∧ (getCore u c).palmQueue = rest ∧
       (∀ a, outsideRings s a → memByte u a =
         if cmemBase c + piBase t ≤ a ∧ a < cmemBase c + piBase t + 8 * piElements t then 0 else memByte s a) ∧
       besideRecords u = besideRecords (setPalm s c (piSlot t) { getPalm s c (piSlot t) with broken := false }))) ∧
  (∀ (s : State) (c : CoreNo) (k : SlotNo) (t : Task), (getSlot s c k).task = some t → t.op = some .gauntlet → gPalm t = true →
     (getSlot s c k).started = true → (getSlot s c k).ended = false → storesOut (getCore s c) k = false → resettingCore s c = false →
     (let p := getPalm s c (gPalmSlot t)
      let first := gPalmFirst t + (getSlot s c k).outRow0 * gLdd t
      ((p.isOpen = false ∨ p.owner ≠ t.ctx ∨ p.broken = true) →
         ∃ u, exec (.palmContribution c k) s = .next u ∧ EndsAtOnce s u c k t stPalm (getSlot s c k).spoilt) ∧
      (p.isOpen = true → p.owner = t.ctx → p.broken = false →
        (seqBefore (gPalmSeq t) p.nextSeq = true →
           ∃ u, exec (.palmContribution c k) s = .next u ∧ EndsAtOnce s u c k t stPalmSeq (getSlot s c k).spoilt) ∧
        (gPalmSeq t ≠ p.nextSeq → seqBefore (gPalmSeq t) p.nextSeq = false → exec (.palmContribution c k) s = .next s) ∧
        (∀ row : List F32, gPalmSeq t = p.nextSeq → (getSlot s c k).outRows = [row] → first + row.length ≤ p.elements → (getSlot s c k).spoilt = false →
           rangePoisoned s (cmemBase c + p.base + 8 * first) (8 * row.length) = false →
           ∃ u, exec (.palmContribution c k) s = .next u ∧ (getSlot u c k = {} ∨ ((getSlot u c k).ended = true ∧ (getSlot u c k).status = stOk)) ∧
             (getPalm u c (gPalmSlot t)).nextSeq = p.nextSeq + 1 ∧ (getPalm u c (gPalmSlot t)).broken = false ∧
             (t.sigMode = 0 → ∀ i x, row[i]? = some x →
               let a := cmemBase c + p.base + 8 * (first + i)
               let v := pairAdd ⟨BitVec.ofNat 32 (memNat s a 4), BitVec.ofNat 32 (memNat s (a + 4) 4)⟩ (Pair.ofF32 x)
               (∀ j, j < 8 → outsideRings s (a + j)) → memBytes u a 8 = bytesOf 8 (v.hi.toNat + v.lo.toNat * 2 ^ 32)) ∧
             (t.sigMode = 0 → ∀ a, outsideRings s a → (a < cmemBase c + p.base + 8 * first ∨ cmemBase c + p.base + 8 * (first + row.length) ≤ a) →
               memByte u a = memByte s a) ∧
             besideWork u = besideWork s))))

/-- REDUCE (R161, R225, R234): when its sequence comes due it sends its first chunks, at most 8, and waits for credits; a sequence that has passed ends it. -/
def Obligations.ReduceSends : Prop :=
  ∀ (s : State) (c : CoreNo) (k : SlotNo) (t : Task), runningTask s c k .reduce = some t → (getSlot s c k).started = false →
    (getPalm s c (rePalm t)).isOpen = true → (getPalm s c (rePalm t)).owner = t.ctx → (getPalm s c (rePalm t)).broken = false →
    ((getSlot s c k).sent = 0 → (getSlot s c k).outstanding = 0 → 1 ≤ reCount t → reSeq t = (getPalm s c (rePalm t)).nextSeq →
      ∃ u, exec (.reduce c k) s = .next u ∧
        u.packets = s.packets ++ (List.range (min 8 (reChunks t))).map (leafChunk s c k t) ∧
        getSlot u c k = { getSlot s c k with
          started := true, sent := min 8 (reChunks t), outstanding := min 8 (reChunks t), state := .late } ∧
        { u with cores := s.cores, packets := s.packets } = s ∧ ∀ m, m ≠ c → getCore u m = getCore s m) ∧
    (seqBefore (reSeq t) (getPalm s c (rePalm t)).nextSeq = true → storesOut (getCore s c) k = false →
      ∃ u, exec (.reduce c k) s = .next u ∧ EndsAtOnce s u c k t stPalmSeq (getSlot s c k).spoilt) ∧
    (reSeq t ≠ (getPalm s c (rePalm t)).nextSeq → seqBefore (reSeq t) (getPalm s c (rePalm t)).nextSeq = false →
      ∃ u, exec (.reduce c k) s = .next u ∧ getSlot u c k = { getSlot s c k with state := .late } ∧
        { u with cores := s.cores } = s ∧ ∀ m, m ≠ c → getCore u m = getCore s m)

/-! The fabric. -/

/-- TL_SPARSE_STAT's clear, LINK_REPLAY, ESCAPE_TABLE_LOAD and FB_COMMIT: the registers they change, and nothing else. LINK_DOWN (R140, R150, R151): after
16 failed replays in succession, or more than 1,024 in a second, the link is down, what was to cross it is in ESC, and the escape tables are worked out
anew. QUIET_TABLES_APPLIED (R155, R178): each partition's QUIET bit in force, and the frames of the links with it. Both are reported, and nothing else
changes. A frame has 32 slots, and each of the n partitions that share its link has floor 32 / n of them (R155). Which slots of a frame are whose is the
model's reading (log 70). -/
def Obligations.FabricRegistersAndLinks : Prop :=
  ((∀ (s : State) (port : HostPort) (c : CoreNo) (v : Word64), bar0Open s port false = true → tlAnswers s (coreTile c) = true →
     exec (.tlSparseClear port c v) s =
       .next (if v.getLsbD 0 then setCore s c { getCore s c with pruned := 0, sparseFaults := 0 } else s)) ∧
   (∀ (s : State) (n : TileNo) (d : Fin 4) (good : Bool), linkUsable s n d = true →
     ∃ u, exec (.linkReplay n d good) s = .next u ∧ { u with tiles := s.tiles } = s ∧
       (getLink u n d).replays = satInc (getLink s n d).replays ∧
       (getLink u n d).failedReplays = (if good then 0 else (getLink s n d).failedReplays + 1) ∧
       (getLink u n d).replayTimes = (getLink s n d).replayTimes.filter (fun t => decide ((now s - t).toNat < 2 ^ 32)) ++ [now s] ∧
       (getLink u n d).down = (getLink s n d).down ∧ ∀ m e, (m, e) ≠ (n, d) → getLink u m e = getLink s m e) ∧
   (∀ s : State, s.escapeLoading = true → exec .escapeTableLoad s = .next { s with
     escape := escapeTable s, escapeLoading := false, quietDue := s.quietDue || s.parts.any fun e => e.2.quietTables }) ∧
   (∀ (s : State) (port : HostPort) (v : Word64), bar0Open s port false = true → pairOk v = true → pairVal v = 1 →
     (∀ e ∈ s.parts, pairOk e.2.quietShadow = true) →
     exec (.fbCommit port v) s = .next { s with
       parts := tmap {} (fun _ x => { x with quiet := x.quietShadow.toNat.testBit 0 }) s.parts, quietDue := true })) ∧
  ((∀ (s : State) (n : TileNo) (d : Fin 4), (getLink s n d).down = false → 16 ≤ (getLink s n d).failedReplays ∨ 1024 < (getLink s n d).replayTimes.length →
     ∃ u, exec (.linkDown n d) s = .next u ∧
       (let far : Packet → Packet := match neighbour n d with | some m => escapeFrom m (opposite d) | none => id
        OnlyReports { setLink s n d { getLink s n d with down := true } with
          packets := s.packets.map fun p => far (escapeFrom n d p), escapeLoading := true } u)) ∧
   (∀ s : State, s.quietDue = true →
     ∃ u, exec .quietTablesApplied s = .next u ∧
       OnlyReports (setFrames { s with parts := tmap {} (fun _ x => { x with quietTables := x.quiet }) s.parts, quietDue := false }) u)) ∧
  ∀ users : List PartNo, users.Nodup → 1 ≤ users.length → users.length ≤ 32 →
    (frameOf users).length = 32 ∧ ∀ p ∈ users, (frameOf users).count (p.val + 1) = 32 / users.length

/-- PACKET_HOP (R143, R147, R149 to R151, R155): a malformed packet is discarded and counted. Of the others the first of its flow at its router goes on: one
that is not in ESC along its row first and then along its column, while that hop is not missing, in a slot of the frame that its partition may use and with
room in the buffer downstream; without either it waits. One whose hop is missing, or that is in ESC, waits in ESC while the tables load, then follows its
table's next hop, and is discarded, a request or chunk with an answer, where no legal path is left. The slots of a frame and the sizes of buffers are the
model's reading (log 70). -/
def Obligations.PacketsTakeDimensionOrder : Prop :=
  ∀ (s : State) (i : Nat) (slot : Fin 32) (corrected : Nat) (p : Packet), s.packets[i]? = some p →
    ((12 < p.typ.toNat ∨ 5 < p.cls.toNat ∨ p.dstUnit = 0xF ∨ p.srcUnit = 0xF) →
      exec (.packetHop ⟨i, slot, corrected⟩) s = .next (setTile { s with packets := s.packets.eraseIdx i } p.here
        { getTile s p.here with protocol := satInc (getTile s p.here).protocol })) ∧
    (badPacket p = false → firstOfFlow s i p = false → exec (.packetHop ⟨i, slot, corrected⟩) s = .next s) ∧
    (badPacket p = false → firstOfFlow s i p = true → p.here ≠ p.dstTile →
      ∃ d, dimOrder p.here p.dstTile = some d ∧
        (d.val = 0 ∨ d.val = 2 → p.here.val % 8 ≠ p.dstTile.val % 8) ∧
        (d.val = 1 ∨ d.val = 3 → p.here.val % 8 = p.dstTile.val % 8) ∧
        (∀ u : TileNo, p.cls ≠ 5 → neighbour p.here d = some u → hopUsable s p.here d = true →
          (slotAllows s (getLink s p.here d) p slot = true → bufferRoom s p d u = true →
            ∃ t, exec (.packetHop ⟨i, slot, corrected⟩) s = .next t ∧ Crosses s t i p d u false corrected) ∧
          (slotAllows s (getLink s p.here d) p slot = false ∨ bufferRoom s p d u = false → exec (.packetHop ⟨i, slot, corrected⟩) s = .next s)) ∧
        (∀ q : Packet, (p.cls = 5 ∧ q = p ∨ p.cls ≠ 5 ∧ hopUsable s p.here d = false ∧ q = { p with cls := 5, origClass := p.cls }) →
          (s.escapeLoading = true → exec (.packetHop ⟨i, slot, corrected⟩) s = .next { s with packets := s.packets.set i q }) ∧
          (s.escapeLoading = false → escapeNext s q.here q.dstTile q.descended = none →
            exec (.packetHop ⟨i, slot, corrected⟩) s = .next { s with packets := s.packets.eraseIdx i ++
              (if isRequest p || p.typ == 6 then [errTo q p.here 0xD 3] else []) }) ∧
          (∀ u e, s.escapeLoading = false → escapeNext s q.here q.dstTile q.descended = some u → directionTo q.here u = some e →
            slotAllows s (getLink s q.here e) q slot = true → bufferRoom s q e u = true →
            ∃ t, exec (.packetHop ⟨i, slot, corrected⟩) s = .next t ∧ Crosses s t i q e u (!hopUp (levels s) q.here u) corrected)))

/-- The destination router (R143, R147, R149, R153, R154, R267), at every row at which a packet arrives: one that has not come there, that is not the first
of its flow, or whose unit has no room, waits; one with a reserved type, class or unit is discarded and counted; one of a partition that does not own the
unit is refused with NOT_OWNER; one that a reset absorbs is answered ABSORBED, a chunk to its tree's root. When a controller has no room is the model's
reading (log 71). -/
def Obligations.RoutersRefuse : Prop :=
  ∀ (i : Instr) (s : State) (p : Packet), packetRow i = some p →
    (packetRoom i s p = false ∨ atHand s p = false → exec i s = .next s) ∧
    (packetRoom i s p = true → atHand s p = true →
      ((12 < p.typ.toNat ∨ 5 < p.cls.toNat ∨ p.dstUnit = 0xF ∨ p.srcUnit = 0xF) → exec i s = .next (setTile (taken s p) p.dstTile
        { getTile s p.dstTile with protocol := satInc (getTile s p.dstTile).protocol })) ∧
      (badPacket p = false → ownerOk s p = false →
        exec i s = .next (send (setTile (taken s p) p.dstTile { getTile s p.dstTile with notOwner := satInc (getTile s p.dstTile).notOwner })
          (if isRequest p || p.typ == 6 then [errTo p p.dstTile p.dstUnit 1] else []))) ∧
      (badPacket p = false → ownerOk s p = true → absorbs s p = true →
        exec i s = .next (send (setTile (taken s p) p.dstTile { getTile s p.dstTile with absorbed := satInc (getTile s p.dstTile).absorbed })
          (if p.typ == 6 then [errToRoot s p p.dstTile 2] else if isRequest p then [errTo p p.dstTile p.dstUnit 2] else []))))

/-- RD_REQ and WR_REQ at a serving unit that takes them, over clean lines: the answer carries the bytes asked for; a write stores its bytes and nothing
else; a host port may keep the translation (R260, R473). A refused one, and a read of a poisoned line, is answered by ERR_RSP with the status, and a read of
a fast-tier line that is corrected counts it. ADD_REQ and ADDL_REQ (R143, R262) on an aligned word: the answer is the old value; ADD_REQ leaves the sum,
wrapped to 64 bits; ADDL_REQ leaves it only while it stays within the bound. Nothing else changes. What a port keeps of a translation is the model's reading
(log 47). -/
def Obligations.ServesReadsWritesAndAdds : Prop :=
  ((∀ (s : State) (p : Packet) (e : Ecc), Delivered s p → controllerRoom s p = true →
     (∀ st, serveRefusal s p .read p.length.toNat = some st → exec (.rdReq p e) s = .next (send (taken s p) [errTo p p.dstTile p.dstUnit st])) ∧
     (∀ st, serveRefusal s p .write p.length.toNat = some st → exec (.wrReq p e) s = .next (send (taken s p) [errTo p p.dstTile p.dstUnit st]))) ∧
   (∀ (s : State) (p : Packet), Delivered s p → controllerRoom s p = true → serveRefusal s p .read p.length.toNat = none →
     (rangePoisoned s p.addr.toNat p.length.toNat = false →
       ∃ u, exec (.rdReq p .clean) s = .next u ∧ u.packets = (taken s p).packets ++ [readAnswer p (memBytes s p.addr.toNat p.length.toNat)] ∧
         { u with packets := s.packets, hports := s.hports } = s ∧
         ((∀ q, regionOf p.addr.toNat ≠ some (.host q) ∨ (getHp s q).atsEnabled = false) → u.hports = s.hports)) ∧
     (rangePoisoned s p.addr.toNat p.length.toNat = true →
       ∃ u, exec (.rdReq p .clean) s = .next u ∧ u.packets = (taken s p).packets ++ [errTo p p.dstTile p.dstUnit 6] ∧
         { u with packets := s.packets, xports := s.xports, hports := s.hports } = s) ∧
     (∀ k, regionOf p.addr.toNat = some (.stack k) → rangePoisoned s p.addr.toNat p.length.toNat = false → linePoison s (p.addr.toNat / 64) = false →
       exec (.rdReq p .corrected) s = .next (setStack
         { send (taken s p) [readAnswer p (memBytes s p.addr.toNat p.length.toNat)] with
           writeback := tput false s.writeback (p.addr.toNat / 64) true } k { getStack s k with ceCtrl := satInc (getStack s k).ceCtrl }))) ∧
   (∀ (s : State) (p : Packet), Delivered s p → controllerRoom s p = true → serveRefusal s p .write p.length.toNat = none →
     p.payload.length = p.length.toNat → rangePoisoned s p.addr.toNat p.length.toNat = false →
     ∃ u, exec (.wrReq p .clean) s = .next u ∧ u.packets = (taken s p).packets ++ [answer p 3 []] ∧
       (∀ a, memByte u a = if p.addr.toNat ≤ a ∧ a < p.addr.toNat + p.length.toNat then p.payload.getD (a - p.addr.toNat) 0 else memByte s a) ∧
       besideMemory { u with packets := s.packets, hports := s.hports } = besideMemory s)) ∧
  (∀ (s : State) (p : Packet), Delivered s p → controllerRoom s p = true → p.addr.toNat % 8 = 0 → (∀ h, regionOf p.addr.toNat ≠ some (.host h)) →
     serveRefusal s p .add 8 = none → rangePoisoned s p.addr.toNat 8 = false →
     (let a := p.addr.toNat
      let old := memNat s a 8
      let v := natOfBytes (p.payload.take 8)
      let bound := natOfBytes ((p.payload.drop 8).take 8)
      (∃ u, exec (.addReq p .clean) s = .next u ∧ u.packets = (taken s p).packets ++ [answer p 5 (memBytes s a 8)] ∧
         memNat u a 8 = (old + v) % 2 ^ 64 ∧ (∀ b, b < a ∨ a + 8 ≤ b → memByte u b = memByte s b) ∧
         besideMemory { u with packets := s.packets } = besideMemory s) ∧
      (∃ u, exec (.addlReq p .clean) s = .next u ∧ u.packets = (taken s p).packets ++ [answer p 5 (memBytes s a 8)] ∧
         memNat u a 8 = (if old + v ≤ bound then old + v else old) ∧ (∀ b, b < a ∨ a + 8 ≤ b → memByte u b = memByte s b) ∧
         besideMemory { u with packets := s.packets } = besideMemory s)))

/-- Responses at the requester (R92, R94, R108): RD_RSP's bytes enter its slot's transfer region and WR_ACK is one response fewer for its store tag; ADD_RSP
places the frame that waits for it, whose bytes and index entry are then stored; MG_RSP is only taken off the mesh; MG_REQ is answered by as many bytes as
it asked for; ERR_RSP ends the task that waits for the fetch. A chunk at a root joins its tree's buffer, the first takes a free one (R238); the credit for a
leaf's last chunk ends its REDUCE with OK and moves NEXT_SEQ on (R225, R234); a mesh copy of a broadcast is written at the slot's place and counted as
delivered (R165, R171). How TAGs are numbered and the bytes that answer MG_REQ are the model's choice (log 13). -/
def Obligations.ResponsesAndCopiesLand : Prop :=
  (∀ (s : State) (p : Packet), Delivered s p →
     (p.tag.toNat < 192 → exec (.addRsp p) s = .next (taken s p)) ∧ exec (.mgRsp p) s = .next (taken s p) ∧
     (∃ u x, exec (.mgReq p) s = .next u ∧ u.packets = (taken s p).packets ++ [x] ∧ x.typ = 0x0A ∧ x.cls = 4 ∧ x.dstTile = p.srcTile ∧
       x.dstUnit = p.srcUnit ∧ x.payload.length = p.length.toNat ∧ { u with packets := s.packets, freeCtr := s.freeCtr } = s) ∧
     (∀ c k, unitCore p.dstTile p.dstUnit = some c →
       (∀ f, slotOfFetch (getCore s c) p.tag.toNat = some k → (getSlot s c k).fetchTags.find? (fun g => g.tag == p.tag.toNat) = some f →
         exec (.rdRsp p) s = .next (setSlot (taken s p) c k { getSlot s c k with
           transfer := landBytes (getSlot s c k).transfer f.xfer p.offset.toNat p.payload
           fetchTags := (getSlot s c k).fetchTags.map fun g => if g.tag == p.tag.toNat then { g with left := g.left - 1 } else g })) ∧
       (slotOfStore (getCore s c) (p.tag.toNat - 128) = some k →
         exec (.wrAck p) s = .next (setSlot (taken s p) c k { getSlot s c k with
           storeTags := (getSlot s c k).storeTags.map fun x => if x.tag == p.tag.toNat - 128 then { x with left := x.left - 1 } else x })) ∧
       (∀ t f old a b more, p.tag = 192 + BitVec.ofNat 8 k.val → (getSlot s c k).task = some t → (getSlot s c k).adding = some f →
         old = natOfBytes (p.payload.take 8) → old + f.units ≤ f.limit → (getSlot s c k).outs = [] → (getSlot s c k).outsReady = true →
         (getSlot s c k).storeTags = [] → (getCore s c).storeQueue = [] → freeTags (storeInUse (getCore s c)) = a :: b :: more →
         resettingCore s c = false → 1 ≤ f.bytes.length → f.bytes.length ≤ 2 ^ 22 →
         rangeOk s t.ctx .write (f.data + old * 2048) f.bytes.length = true → rangeOk s t.ctx .write f.entryAt 16 = true →
         ∃ u, exec (.addRsp p) s = .next u ∧
           u.packets = (taken s p).packets ++ storePackets c t a [(f.data + old * 2048, f.bytes)] ++
             storePackets c t b [(f.entryAt, bytesOf 16 (indexEntry old f.units f.enc f.fmt f.count (crc32c f.bytes)))] ∧
           (getSlot u c k).adding = none ∧ (getSlot u c k).outs = [] ∧ u.liners = tput 0 s.liners f.entryAt (f.data + 1) ∧
           { u with cores := s.cores, packets := s.packets, liners := s.liners } = s ∧ ∀ m, m ≠ c → getCore u m = getCore s m) ∧
       (∀ t, p.tag.toNat < 64 → slotOfFetch (getCore s c) p.tag.toNat = some k → (getSlot s c k).task = some t → (getSlot s c k).ended = false →
         isCollective t = false → (t.op = some .reduce → (getSlot s c k).started = false) →
         ∃ u, exec (.errRsp p) s = .next u ∧
           (storesOut (getCore s c) k = false → EndsAtOnce (taken s p) u c k t (ofFabric p.status.toNat) true) ∧
           ((getSlot s c k).storeTags ≠ [] →
             (getSlot u c k).ended = true ∧ (getSlot u c k).status = ofFabric p.status.toNat ∧ (getSlot u c k).state = .late ∧
             (getSlot u c k).fetchTags = [] ∧ (getSlot u c k).outs = [] ∧ (getSlot u c k).storeTags = (getSlot s c k).storeTags ∧
             { u with cores := s.cores, packets := s.packets } = s ∧ ∀ m, m ≠ c → getCore u m = getCore s m)))) ∧
  ((∀ (s : State) (p : Packet) (n : CuffNo), Delivered s p → chunkRoom s p = true → p.dstUnit ≠ 0xC → rootOf p = some n →
     (getCuff s n).discarded.contains p.tree = false →
     (∀ b, (getCuff s n).roots.find? (fun b => b.tree == p.tree) = some b → exec (.redData p) s = .next (setCuff (taken s p) n
       { getCuff s n with roots := (getCuff s n).roots.map fun x => if x.tree == p.tree then { x with chunks := b.chunks ++ [p] } else x })) ∧
     ((getCuff s n).roots.find? (fun b => b.tree == p.tree) = none → (getCuff s n).roots.length < 32 →
       exec (.redData p) s = .next (setCuff (taken s p) n
         { getCuff s n with roots := (getCuff s n).roots ++ [{ tree := p.tree, chunks := [p] }] }))) ∧
   (∀ (s : State) (p : Packet) (c : CoreNo) (t : Task), Delivered s p → unitCore p.dstTile p.dstUnit = some c →
     (let k : SlotNo := Fin.ofNat 4 (p.tag.toNat - 64)
      (getSlot s c k).task = some t → t.op = some .reduce → (getSlot s c k).started = true → (getSlot s c k).ended = false →
      resettingCore s c = false → (getSlot s c k).sent = reChunks t → storesOut (getCore s c) k = false →
      (1 < (getSlot s c k).outstanding → ∃ u, exec (.redCredit p) s = .next u ∧
        getSlot u c k = { getSlot s c k with outstanding := (getSlot s c k).outstanding - 1 } ∧
        { u with cores := s.cores } = taken s p ∧ ∀ m, m ≠ c → getCore u m = getCore s m) ∧
      ((getSlot s c k).outstanding = 1 → ∃ u, exec (.redCredit p) s = .next u ∧
        EndsAtOnce (palmEnd (taken s p) c (rePalm t) false) u c k t stOk (getSlot s c k).spoilt))) ∧
   (∀ (s : State) (p : Packet) (c : CoreNo) (off : Nat) (r : StreamRun), Delivered s p →
     (groupSlots (getPart s (Fin.ofNat 64 p.partition.toNat)).map p.tree.toNat).filter (fun sl => coreTile sl.1 == p.dstTile) = [(c, off)] →
     resettingCore s c = false → cmemMapped s p.dstTile (Fin.ofNat 4 (coreCluster c)) = true →
     (getTile s p.srcTile).station.running = some r → p.payload.length < r.remaining →
     rangePoisoned s (cmemBase c + off + p.offset.toNat) p.payload.length = false →
     ∃ u, exec (.bcastData p) s = .next u ∧
       (∀ a, memByte u a = if cmemBase c + off + p.offset.toNat ≤ a ∧ a < cmemBase c + off + p.offset.toNat + p.payload.length
         then p.payload.getD (a - (cmemBase c + off + p.offset.toNat)) 0 else memByte s a) ∧
       (getTile u p.srcTile).station.running = some { r with remaining := r.remaining - p.payload.length } ∧
       (∀ n, n ≠ p.srcTile → getTile u n = getTile s n) ∧
       besideMemory { u with tiles := s.tiles, packets := s.packets } = besideMemory s))

/-- RED_DATA at a reduction node (R157, R159, R161): a chunk whose partner has not come is kept, and so is a pair while the node's window at the parent is
used up; else, operand a first, the sums go on to the parent and then a credit to each child; a node that passes sends each chunk on as it is. RED_CREDIT:
the window opens by one, and the pair that waits goes on. RED_TIMEOUT and a stopped node (R162): what is held is discarded and counted, the root is told,
and later chunks are counted. -/
def Obligations.ReductionNodes : Prop :=
  (∀ (s : State) (p : Packet) (k : Nat), Delivered s p → chunkRoom s p = true → p.dstUnit = 0xC →
    (let m := (getPart s (Fin.ofNat 64 p.partition.toNat)).map
     let v := nodeEntry m p.node.toNat
     let x := getNode s p.dstTile k
     nodeSlotAt m p.dstTile p.node.toNat = some k →
     (x.stopped = true →
        exec (.redData p) s = .next (setTile (taken s p) p.dstTile
          { getTile s p.dstTile with redDiscard := satAdd (getTile s p.dstTile).redDiscard 1 })) ∧
     (x.stopped = false → ndPass v = false →
        (p.role = false → x.b = [] ∨ 8 ≤ x.outstanding → exec (.redData p) s = .next (setNode (taken s p) p.dstTile k { x with a := x.a ++ [p] })) ∧
        (p.role = true → x.a = [] ∨ 8 ≤ x.outstanding → exec (.redData p) s = .next (setNode (taken s p) p.dstTile k { x with b := x.b ++ [p] })) ∧
        (∀ q, p.role = false → x.a = [] → x.b = [q] → p.offset = q.offset → p.length = q.length → x.outstanding < 8 →
          ∃ u out, exec (.redData p) s = .next u ∧ u.packets = (taken s p).packets ++ [out, nodeCredit p, nodeCredit q] ∧
            out.payload = pairsBytes (addChunks p.payload q.payload (p.length.toNat / 8)) ∧ out.typ = 6 ∧ out.offset = p.offset ∧
            (out.dstTile, out.dstUnit, out.node, out.role) = nodeTarget m p.tree v ∧ out.last = (p.last && q.last) ∧
            getNode u p.dstTile k = { x with a := [], b := [], outstanding := x.outstanding + 1 } ∧
            { u with packets := s.packets, tiles := s.tiles } = s)) ∧
     (x.stopped = false → ndPass v = true → p.role = false → x.a = [] → x.b = [] → x.outstanding < 8 →
        ∃ u out, exec (.redData p) s = .next u ∧ u.packets = (taken s p).packets ++ [out, nodeCredit p] ∧
          out.payload = p.payload ∧ out.typ = 6 ∧ out.offset = p.offset ∧ out.last = p.last ∧
          (out.dstTile, out.dstUnit, out.node, out.role) = nodeTarget m p.tree v ∧
          getNode u p.dstTile k = { x with outstanding := x.outstanding + 1 } ∧ { u with packets := s.packets, tiles := s.tiles } = s))) ∧
  (∀ (s : State) (n : TileNo) (k : Fin 16) (x : Packet) (r : List Packet), (getNode s n k.val).stopped = false →
    ((getNode s n k.val).a = x :: r ∧ (getNode s n k.val).b = [] ∨ (getNode s n k.val).a = [] ∧ (getNode s n k.val).b = x :: r) →
    exec (.redTimeout n k) s = .next (setNode (setTile (send s [errToRoot s x n 5]) n
      { getTile s n with redDiscard := satAdd (getTile s n).redDiscard (r.length + 1) }) n k.val { stopped := true })) ∧
  (∀ (s : State) (p : Packet), Delivered s p → p.dstUnit = 0xC →
    (let x := getNode s p.dstTile p.tag.toNat
     let m := (getPart s (Fin.ofNat 64 p.partition.toNat)).map
     x.stopped = false →
     (x.a = [] → exec (.redCredit p) s = .next (setNode (taken s p) p.dstTile p.tag.toNat { x with outstanding := x.outstanding - 1 })) ∧
     (∀ v y q, x.a = [y] → x.b = [q] → y.offset = q.offset → y.length = q.length → x.outstanding = 8 →
       resettingPart s (Fin.ofNat 64 p.partition.toNat) = false → nodeInSlot m p.dstTile p.tag.toNat = some v → ndPass (nodeEntry m v) = false →
       ∃ u out, exec (.redCredit p) s = .next u ∧ u.packets = (taken s p).packets ++ [out, nodeCredit y, nodeCredit q] ∧
         out.payload = pairsBytes (addChunks y.payload q.payload (y.length.toNat / 8)) ∧
         (out.dstTile, out.dstUnit, out.node, out.role) = nodeTarget m y.tree (nodeEntry m v) ∧
         getNode u p.dstTile p.tag.toNat = { x with a := [], b := [] } ∧ { u with packets := s.packets, tiles := s.tiles } = s)))

/-! Phases, steps and the Brim. -/

/-- PHASE (R183, R192) that is the only one: with its map readable, well formed and its half of the area writable, the map is copied there, the drain mark
is out and the phase stands at step 4; a MAP_GEN out of turn ends it with no change but its record. PHASE_DRAINED before the not-before time: step 5.
NOT_BEFORE_REACHED: the new map and generation are in force, the halves change places, the time is noted, the marks and the node slots are cleared and
nothing is held for the switch any more; a unit lost meanwhile leaves the old map in force. STEP_CLOSE (R229) for the running step with none pending: the
close mark is out. CENSUS_FINAL with every task of the step done: the loss scale follows R77, CUR moves on, the counts start afresh, and with nothing to be
sent the census record of R231 stands at its address. -/
def Obligations.PhasesAndSteps : Prop :=
  ((∀ (s v : State) (p : PartNo) (t : Task), (getPart s p).phases = [] → resettingPart s p = false →
     (getPart s p).coord.find? (fun t => t.op == some .phase) = some t → admissionFailure (phaseFails s t) = none →
     stepWhen (getPart s p) t.step ≠ .next →
     v = setPart s p { getPart s p with coord := (getPart s p).coord.filter fun u => !sameTask u t } →
     (phaseGenOk (getPart s p) t.mapGen = false → ∃ u, exec (.phase p) s = .next u ∧ besideRecords u = besideRecords v) ∧
     (∀ m, phaseGenOk (getPart s p) t.mapGen = true → mapAreaUsable v p (getPart s p).mapArea = true → readMap v p t = some m → mapChecks v p m = true →
       serveStatus v (cornerTile (getPart s p)) false (pendingHalf (getPart s p)) m.length = none →
       rangePoisoned s (pendingHalf (getPart s p)) m.length = false →
       ∃ u, exec (.phase p) s = .next u ∧
         getPart u p = { getPart v p with phases := [{ task := t, step := 4, map := m }], drainMark := true } ∧
         (∀ q, q ≠ p → getPart u q = getPart s q) ∧
         (∀ a, memByte u a = if pendingHalf (getPart s p) ≤ a ∧ a < pendingHalf (getPart s p) + m.length
           then m.getD (a - pendingHalf (getPart s p)) 0 else memByte s a) ∧
         besideMemory { u with parts := s.parts } = besideMemory s)) ∧
   (∀ (s : State) (p : PartNo) (h : PendingPhase) (r : List PendingPhase), (getPart s p).phases = h :: r → resettingPart s p = false →
     (h.step = 4 → oldGenerationDone s p = true → (now s).toNat < phNotBefore h.task →
       exec (.phaseDrained p) s = .next (setPart s p { getPart s p with phases := { h with step := 5 } :: r })) ∧
     (h.step = 5 → phNotBefore h.task ≤ (now s).toNat → h.lost = false → checkCores s p h.map = true → checkTrees s p h.map = true →
       ∃ u, exec (.notBeforeReached (.phase p)) s = .next u ∧ (getPart u p).phases = r ∧ (getPart u p).map = h.map ∧
         (getPart u p).gen = (if (getPart s p).gen = 0 then BitVec.ofNat 32 h.task.mapGen else (getPart s p).gen + 1) ∧
         (getPart u p).secondHalf = !(getPart s p).secondHalf ∧ (getPart u p).phaseTime = now s ∧ (getPart u p).phaseQuality = quality s ∧
         (getPart u p).drainMark = false ∧ (∀ n ∈ partTiles s p, (getTile u n).nodes = []) ∧
         (∀ c, ∀ t ∈ (getCore u c).held, t.part ≠ p) ∧ besideWork u = besideWork s) ∧
     (h.step = 5 → phNotBefore h.task ≤ (now s).toNat → h.lost = true →
       ∃ u, exec (.notBeforeReached (.phase p)) s = .next u ∧ (getPart u p).phases = r ∧ (getPart u p).map = (getPart s p).map ∧
         (getPart u p).gen = (getPart s p).gen ∧ (getPart u p).drainMark = false ∧ besideWork u = besideWork s))) ∧
  ((∀ (s : State) (p : PartNo) (t : Task), resettingPart s p = false → (getPart s p).coord.find? (fun t => t.op == some .stepClose) = some t →
     (admissionFailure (stepCloseFails s t) = none →
       exec (.stepClose p) s = .next (setPart s p { getPart s p with
         coord := (getPart s p).coord.filter (fun u => !sameTask u t), closing := some t })) ∧
     (∀ st d, admissionFailure (stepCloseFails s t) = some (st, d) → ∃ u, exec (.stepClose p) s = .next u ∧
       besideRecords u = besideRecords (setPart s p { getPart s p with coord := (getPart s p).coord.filter fun u => !sameTask u t }))) ∧
   (∀ (s : State) (p : PartNo) (t : Task), (getPart s p).closing = some t → stepDone s p = true → resettingPart s p = false →
     ∃ u, exec (.censusFinal p) s = .next u ∧
       (let x := getPart s p
        let ls := lsCensus x.ls (decide (0 < x.census.values))
        (getPart u p).ls = ls ∧ (getPart u p).cur = x.cur + 1 ∧ (getPart u p).closing = none ∧ (getPart u p).census = {} ∧
        (getPart u p).lastNonfinite = decide (0 < x.census.values) ∧ besideWork u = besideWork s ∧
        ((∀ e ∈ s.rings, e.2.sendQueue = []) → (∀ e ∈ s.cores, ∀ f ∈ e.2.slots, f.2.stepHeld = false) → t.sigMode = 0 → scAddr t ≠ 0 →
          transferStatus s (cornerTile x) t.ctx .write (scAddr t) 32 = none → rangePoisoned s (scAddr t) 32 = false →
          ∀ i, i < 32 → outsideRings s (scAddr t + i) → memByte u (scAddr t + i) = (bytesOf 32 (censusRecord s x ls.expNow)).getD i 0))))

/-- STREAM (R191, R211, R213): accepted it joins its station's queue, before its switch the held list. STREAM_START: the station reads its source, in
ascending addresses, by read requests of up to 4 KiB, at most 16 outstanding. RD_RSP with the last bytes of a broadcast, none of whose destinations is the
station's own tile or lies beyond an open segment next to it: the burst of R164 sets off on each way of R165, mesh copies go to the tiles that the Brim does
not reach (R171), and the station waits for the deliveries. BRIM_BURST_HOP: with the far station's buffer free the burst stands there, or in several
directions, and nothing but deliveries and records follows from it; of two that start towards each other the one from the higher tile waits, and goes next
(R167). Where reads are cut is the model's choice (log 63), how buffers and turns are counted its reading (log 77). -/
def Obligations.StreamsAndBursts : Prop :=
  (∀ (s : State) (n : TileNo) (t : Task) (rest : List Task), (getTile s n).station.inbox = t :: rest →
    (let x := getTile s n
     let gen := genWhen (getPart s t.part) t.mapGen t.afterMark
     (gen = .hold → x.station.held.length < 16 → exec (.stream n) s = .next (setTile s n
       { x with station := { x.station with inbox := rest, held := x.station.held ++ [t] } })) ∧
     (gen ≠ .hold → admissionFailure (genFails gen ++ streamFails s n t) = none → stepWhen (getPart s t.part) t.step ≠ .next →
       x.station.queue.length < 64 → exec (.stream n) s = .next (setTile s n
         { x with station := { x.station with inbox := rest, queue := x.station.queue ++ [admitMark s t] } })))) ∧
  (∀ (s v : State) (n : TileNo) (t : Task) (rest : List Task) (g : Nat), (getTile s n).station.running = none →
    (getTile s n).station.queue = t :: rest → resettingPart s t.part = false →
    v = setTile s n { getTile s n with station := { (getTile s n).station with queue := rest } } →
    streamGroup v n t = .ok g → admissionFailure (streamRanges v t g) = none → 1 ≤ stBytes t →
    ∃ u run, exec (.streamStart n) s = .next u ∧
      (let reads := ((packetCuts (stSrc t) (stBytes t)).take 16).zipIdx
       u.packets = s.packets ++ reads.map (fun e => unitRequest n 0xE t 0x00 (BitVec.ofNat 8 e.2) e.1.1 e.1.2 (e.1.1 - stSrc t)
         (e.1.1 - stSrc t + e.1.2 == stBytes t) []) ∧
       run.reads = reads.map (fun e => { tag := e.2, offset := e.1.1 - stSrc t, len := e.1.2 }) ∧
       run.asked = (reads.map fun e => e.1.2).sum) ∧
      (getTile u n).station.running = some run ∧ run.task = t ∧ run.group = g ∧ run.status = stOk ∧ run.sent = 0 ∧ run.buffer = [] ∧
      run.remaining = stBytes t * (groupSlots (getPart s t.part).map g).length ∧
      (getTile u n).station.queue = rest ∧ (∀ m, m ≠ n → getTile u m = getTile s m) ∧ { u with tiles := s.tiles, packets := s.packets } = s) ∧
  (∀ (s : State) (p : Packet) (n : TileNo) (r : StreamRun) (x : StationRead), Delivered s p → p.dstUnit = 0xE → n = p.dstTile →
    (getTile s n).station.running = some r → r.reads = [x] → x.data = none → x.tag = p.tag.toNat → r.stopped = false → r.remaining ≠ 0 →
    resettingPart s r.task.part = false → r.asked = stBytes r.task → r.sent < stBytes r.task → stBytes r.task - r.sent ≤ 16384 →
    (r.buffer ++ p.payload).length = stBytes r.task - r.sent →
    (let dests := groupTiles (getPart s r.task.part).map r.group
     let ways := burstWays s r.task.part dests n none
     dests.contains n = false → (∀ d ∈ ways, (segment s r.task.part n d).isSome = true) →
     ∃ u, exec (.rdRsp p) s = .next u ∧
       (let b : Burst := { srcTile := n, partition := r.task.part, group := BitVec.ofNat 12 r.group, seq := BitVec.ofNat 32 (r.sent / 16384), last := true
                           poison := r.poison || p.poison, offset := stDoff r.task + r.sent, data := r.buffer ++ p.payload, here := n, heading := 0
                           copied := dests.filter fun m => !brimReaches s n m }
        u.bursts = s.bursts ++ ways.map (fun d => { b with heading := d }) ∧
        u.packets = (taken s p).packets ++ (dests.filter fun m => !brimReaches s n m).flatMap (bcastPackets b)) ∧
       (getTile u n).station.running = some { r with reads := [], buffer := [], poison := false, sent := stBytes r.task } ∧
       (∀ m, m ≠ n → getTile u m = getTile s m) ∧ { u with tiles := s.tiles, bursts := s.bursts, packets := s.packets } = s)) ∧
  (∀ (s : State) (i : Nat) (b : Burst) (n : TileNo), s.bursts[i]? = some b → segment s b.partition b.here b.heading = some n →
    (∀ x ∈ s.bursts.take i, ¬ (x.here = b.here ∧ x.heading = b.heading ∧ x.srcTile = b.srcTile ∧ x.group = b.group)) →
    (∀ x ∈ s.bursts, ¬ (x.here = n ∧ x.via = some b.heading)) →
    ((∀ x ∈ s.bursts, ¬ (x.here = n ∧ x.heading = opposite b.heading ∧ x.srcTile ≠ b.srcTile)) →
     (let ways := burstWays s b.partition (groupTiles (getPart s b.partition).map b.group.toNat) n (some b.heading)
      (∀ d ∈ ways, (segment s b.partition n d).isSome = true) →
      ∃ u, exec (.brimBurstHop i) s = .next u ∧
        besideRecords u = besideRecords { s with
          bursts := s.bursts.eraseIdx i ++ ways.map (fun d => { b with here := n, via := some b.heading, lost := false, heading := d }) })) ∧
    (b.lost = false → (∀ x ∈ facing s n b, x.lost = false) → (∃ x ∈ facing s n b, x.srcTile.val < b.srcTile.val) →
      exec (.brimBurstHop i) s = .next { s with bursts := s.bursts.set i { b with lost := true } }))

/-! Cuffs and their memory. -/

/-- UPDATE under APPLY and under PARK, PROMOTE and DRAIN (R237, R238, R286 to R288): the first arrival of the kind, with every check passed and room, is
queued at each Cuff it touches, an UPDATE with the exponent of its step; refused it leaves only its record. CUFF_UPDATE_START: it becomes active.
ROOT_BUFFER_TIMEOUT (R238): chunks that no UPDATE has come for are discarded, which is reported, and the tree is remembered; an active UPDATE that waits for
a chunk is stopped (log 22). -/
def Obligations.CuffsAdmitAndTimeOut : Prop :=
  ((∀ (i : Instr) (s : State) (n : CuffNo) (t : Task) (rest : List Task) (fails : List Fail), (getCuff s n).inbox = t :: rest →
     ((i = .updateApply n ∧ t.op = some .update ∧ uPark t = false ∧ fails = updateFails s n t) ∨
      (i = .updatePark n ∧ uPark t = true ∧ fails = updateFails s n t) ∨
      (i = .promote n ∧ t.op = some .promote ∧ fails = moveFails s n t) ∨
      (i = .drain n ∧ t.op = some .drain ∧ fails = moveFails s n t)) →
     (let gen := if t.op = some .update then genWhen (getPart s t.part) t.mapGen t.afterMark else .run
      let overlaps := (opCuffs n t).any fun m => overlapsAt s m (rangesAt (opRanges n t) m)
      let all := genFails gen ++ fails ++ need (!overlaps) stOverlap 48
      gen ≠ .hold →
      (admissionFailure all = none → stepWhen (getPart s t.part) t.step ≠ .next → (∀ m ∈ opCuffs n t, (getCuff s m).queue.length < 16) →
        exec i s = .next (enqueueOp (setCuff s n { getCuff s n with inbox := rest }) n
          { admitMark s t with exp := some (if t.op = some .update then stepExp (getPart s t.part) t.step else 0) })) ∧
      (∀ st d, admissionFailure all = some (st, d) → ∃ u, exec i s = .next u ∧ besideRecords u = besideRecords s))) ∧
   (∀ (s : State) (n : CuffNo) (o : CuffOp) (rest : List CuffOp), (getCuff s n).queue = o :: rest → (getCuff s n).active.length < 4 →
     resettingPart s o.task.part = false →
     (o.guest = true ∨
       ((o.task.op = some .update → (getCuff s n).discarded.contains (BitVec.ofNat 16 (uTree o.task)) = false) ∧
         regionMaps s (cuffRegion n) (uBase o.task) ((if uPark o.task then 8 else 16) * uRecords o.task) = true)) →
     exec (.cuffUpdateStart n) s = .next (setCuff s n { getCuff s n with queue := rest, active := (getCuff s n).active ++ [o] }))) ∧
  ((∀ (s : State) (n : CuffNo) (tree : BitVec 16), (∃ b ∈ (getCuff s n).roots, b.tree = tree) → treeMatched (getCuff s n) tree = false →
     ∃ u, exec (.rootBufferTimeout n tree) s = .next u ∧ OnlyReports (setCuff s n { getCuff s n with
       roots := (getCuff s n).roots.filter fun b => b.tree != tree
       discarded := if (getCuff s n).discarded.contains tree then (getCuff s n).discarded else (getCuff s n).discarded ++ [tree] }) u) ∧
   (∀ (s : State) (n : CuffNo) (o : CuffOp), (getCuff s n).roots = [] → (getCuff s n).active = [o] → o.guest = false → o.recordHeld = false →
     o.task.op = some .update →
     ∃ u, exec (.rootBufferTimeout n (BitVec.ofNat 16 (uTree o.task))) s = .next u ∧ (getCuff u n).aborts = satInc (getCuff s n).aborts ∧
       (∀ x ∈ (getCuff u n).active, x.recordHeld = true) ∧ besideRecords u = besideRecords s))

/-- CUFF_CHUNK (R239, R242 to R244, R248, R252) for a chunk of one pair, not the last, at the front of its tree's buffer, at a Cuff with one active UPDATE
without a working copy or export: APPLY writes the record that the rule gives from the pair's hi, PARK adds the pair to its entry, each with the step's
exponent removed, the operation stands at the next record and the child has its credit; a chunk out of place ends the UPDATE, with no credit. Which UPDATE
of a tree takes its chunks is the model's reading (log 73). -/
def Obligations.CuffTakesChunk : Prop :=
  ∀ (s : State) (n : CuffNo) (lat : BitVec 16) (o : CuffOp) (c : Packet) (rest : List Packet) (pr : Pair), (getCuff s n).active = [o] → o.guest = false →
    o.recordHeld = false → o.task.op = some .update → uWcopy o.task = false → uExport o.task = false → resettingPart s o.task.part = false →
    (getCuff s n).roots = [{ tree := BitVec.ofNat 16 (uTree o.task), chunks := c :: rest }] → c.typ ≠ 0x0B →
    c.payload = pairsBytes [pr] → c.last = false → o.done + 1 < uRecords o.task →
    (c.offset.toNat = 8 * o.done → c.poison = false →
      (let w := if uPark o.task then 8 else 16
       let a := uBase o.task + w * o.done
       let e := o.task.exp.getD 0
       let out := if uPark o.task then
           let old : Pair := ⟨BitVec.ofNat 32 (memNat s a 4), BitVec.ofNat 32 (memNat s (a + 4) 4)⟩
           let v := pairAdd old ⟨f32Scale pr.hi (-e), f32Scale pr.lo (-e)⟩
           v.hi.toNat + v.lo.toNat * 2 ^ 32
         else recordNat (applyRecord o.task e pr.hi (recordOf (memNat s a 16)))
       a % w = 0 → linePoison s (a / 64) = false →
       ∃ u x, exec (.cuffChunk n ⟨.clean, lat⟩) s = .next u ∧ (getCuff u n).active = [x] ∧ x.done = o.done + 1 ∧ x.task = o.task ∧ x.lastWrite = now s ∧
         (getCuff u n).latNs = (if 32 ≤ n.val then lat else (getCuff s n).latNs) ∧
         u.packets = s.packets ++ [rootCredit n c] ∧
         (getCuff u n).records = (getCuff s n).records + (if uPark o.task then 0 else 1) ∧
         memNat u a w = out ∧ (∀ b, b < a ∨ a + w ≤ b → memByte u b = memByte s b) ∧
         besideMemory { u with cuffs := s.cuffs, packets := s.packets } = besideMemory s)) ∧
    (c.offset.toNat ≠ 8 * o.done →
      ∃ u, exec (.cuffChunk n ⟨.clean, lat⟩) s = .next u ∧ (getCuff u n).aborts = satInc (getCuff s n).aborts ∧
        (∀ x ∈ (getCuff u n).active, x.recordHeld = true) ∧ besideRecords u = besideRecords s)

/-- Rows of the fast tier's controllers and the expansion ports that change one register each (R270, R274, R284, R285, R296, R509). FB_MAP_AREA (R218) with
no map in force, and with one, whose bytes then stand in the first half of the new area; FB_MOE_CLEAR (R220). A write that FB_MAP_AREA does not take is only
reported. -/
def Obligations.MapAndTierRegisters : Prop :=
  ((∀ (s : State) (l : Nat), exec (.correctedWriteback l) s = .next { s with writeback := tput false s.writeback l false }) ∧
   (∀ (s : State) (k : StackNo), stackWorks s k = true →
     exec (.refresh k) s = .next (setStack s k { getStack s k with forcedSlots := (getStack s k).forcedSlots + 1 })) ∧
   (∀ (s : State) (port : HostPort) (k : StackNo), (getHp s port).linkUp = true →
     exec (.hcLoadRead port k) s = .next (setStack s k { getStack s k with peak := 0 })) ∧
   (∀ (s : State) (p : PortNo), (getXp s p).withdrawn = false →
     ((getXp s p).linkUp = true → exec (.xpLinkRecovery p) s = .next (setXp s p { getXp s p with linkUp := false, recovering := true })) ∧
     ((getXp s p).recovering = true → exec (.xpLinkReturnL0 p) s = .next (setXp s p { getXp s p with
       linkUp := true, recovering := false, recoveries := satInc (getXp s p).recoveries }))) ∧
   (∀ (s : State) (p : PortNo), (getXp s p).mboxBusy = true →
     exec (.mboxTimeout p) s = .next (setXp s p { getXp s p with mboxBusy := false, mboxTimeout := true }) ∧
     ∀ rc out, ∃ u, exec (.mboxComplete p rc out) s = .next u ∧ { u with xports := s.xports } = s ∧ (getXp u p).mboxBusy = false ∧
       (getXp u p).mboxReturn = rc ∧ (getXp u p).mboxTruncated = decide (4096 < out.length) ∧ (getXp u p).mboxOutLength = min 4096 out.length ∧
       (∀ i, i < min 4096 out.length → tget 0 (getXp u p).mboxPayload i = out.getD i 0) ∧ ∀ q, q ≠ p → getXp u q = getXp s q) ∧
   (∀ (s : State) (port : HostPort) (p : PortNo) (v : Word64), bar0Open s port false = true → v.getLsbD 63 = true → (getXp s p).mboxBusy = false →
     ∃ u, exec (.mboxGo port p v) s = .next u ∧ { u with xports := s.xports } = s ∧
       (getXp u p).mboxCmd = (v.extractLsb' 0 29).setWidth 64 ∧
       (getXp u p).mboxRefused = (portMapped s p && mboxForbidden (bits v.toNat 0 16)) ∧
       ((getXp u p).mboxRefused = false → (getXp u p).mboxNoLink = !(getXp s p).linkUp ∧ (getXp u p).mboxBusy = (getXp s p).linkUp) ∧
       ∀ q, q ≠ p → getXp u q = getXp s q)) ∧
  ((∀ (s : State) (port : HostPort) (p : PartNo) (v : Word64), bar0Open s port false = true →
     exec (.fbMoeClear port p v) s =
       .next (if v.toNat.testBit 0 then setPart s p { getPart s p with dropped := 0, spilled := 0 } else s)) ∧
   (∀ (s : State) (port : HostPort) (p : PartNo) (v : Word64), bar0Open s port false = true →
     (let a : BitVec 15 := v.extractLsb' 0 15
      let x := getPart s p
      (pairOk v = false ∨ (∃ h ∈ x.phases, h.step ≠ 1) ∨ (mapAreaValid a = true ∧ mapAreaUsable s p a = false) →
        ∃ u, exec (.fbMapAreaWrite port p v) s = .next u ∧ OnlyReports s u) ∧
      (pairOk v = true → (∀ h ∈ x.phases, h.step = 1) →
        (mapAreaValid a = false ∨ mapAreaUsable s p a = true ∧ x.gen = 0 →
          exec (.fbMapAreaWrite port p v) s = .next (setPart s p { x with mapArea := a, secondHalf := false })) ∧
        (mapAreaValid a = true → mapAreaUsable s p a = true → x.gen ≠ 0 → rangePoisoned s (mapAreaBase a) x.map.length = false →
          ∃ u, exec (.fbMapAreaWrite port p v) s = .next u ∧
            (∀ b, memByte u b = if mapAreaBase a ≤ b ∧ b < mapAreaBase a + x.map.length then x.map.getD (b - mapAreaBase a) 0 else memByte s b) ∧
            besideMemory u = besideMemory (setPart s p { x with mapArea := a, secondHalf := false }))))))

/-- Checking and losing memory (R270, R273, R275, R278, R279, R284, R294, R296 to R298): a pass begins with its first line, if scrubbing is enabled, and
takes the period then set; a clean line moves the scrub position on by one, in a stack and in a bank; a window's load is shown, its peak kept, and BUSY
follows the threshold; a recalibration that fails is counted and one that works begins the count afresh, and the third failure in succession, a controller's
fault, HC_WITHDRAW and a lost expansion link withdraw the unit. -/
def Obligations.ScrubLoadAndWithdrawal : Prop :=
  (∀ (s : State) (k : StackNo), stackWorks s k = true →
    ((getStack s k).position ≠ 0 ∨ (getStack s k).passBegun = true → (getStack s k).passEnable = true → (getStack s k).position.toNat + 1 < 603979776 →
      exec (.scrubLine k .clean) s = .next (setStack s k { getStack s k with position := (getStack s k).position + 1 })) ∧
    ((getStack s k).position = 0 → (getStack s k).passBegun = false → (getStack s k).scrubEnable = true →
      exec (.scrubLine k .clean) s = .next (setStack s k { getStack s k with
        position := 1, passEnable := true, passPeriodH := (getStack s k).periodH, passBegun := true })) ∧
    ((getStack s k).position = 0 → (getStack s k).passBegun = false → (getStack s k).scrubEnable = false →
      exec (.scrubLine k .clean) s = .next s)) ∧
  (∀ (s : State) (c : CoreNo) (b : Fin 16), cmemMapped s (coreTile c) (Fin.ofNat 4 (coreCluster c)) = true →
    ∃ u, exec (.cmemScrubLine c b .clean) s = .next u ∧ { u with tiles := s.tiles } = s ∧ (∀ n, n ≠ coreTile c → getTile u n = getTile s n) ∧
      tget 0 (getTile u (coreTile c)).cmemPos (coreCluster c * 16 + b.val) =
        (let pos := tget 0 (getTile s (coreTile c)).cmemPos (coreCluster c * 16 + b.val)
         if 262144 ≤ pos + 1 then 0 else pos + 1)) ∧
  (∀ (s : State) (k : StackNo) (util : Byte), ∃ u, exec (.hcLoadWindow k util) s = .next u ∧ (getStack u k).util = util ∧
    (getStack u k).peak = (if (getStack s k).peak.toNat < util.toNat then util else (getStack s k).peak) ∧
    (getStack u k).busy = decide ((getStack s k).busyThresh.toNat ≤ util.toNat) ∧ OnlyReports (setStack s k (getStack u k)) u) ∧
  (∀ (s : State) (k : StackNo) (pc : Fin 32) (ok : Bool), stackWorks s k = true →
    (let n := if ok then 0 else tget 0 (getStack s k).recalFails pc.val + 1
     (n < 3 → exec (.phyRecalibration k pc ok) s = .next (setStack s k { getStack s k with recalFails := tput 0 (getStack s k).recalFails pc.val n })) ∧
     (3 ≤ n → ∃ u, exec (.phyRecalibration k pc ok) s = .next u ∧ (getStack u k).withdrawn = true ∧ (getStack u k).cause = 2 ∧ besideLoss u = besideLoss s))) ∧
  (∀ (s : State) (k : StackNo), (getStack s k).withdrawn = false →
    (∃ u, exec (.ctrlFault (.stack k)) s = .next u ∧ (getStack u k).withdrawn = true ∧ (getStack u k).cause = 3 ∧ fnState u (fnStack k) = 5 ∧ besideLoss u = besideLoss s) ∧
    ∀ (port : HostPort) (v : Word64), bar0Open s port false = true → pairOk v = true → pairVal v = 1 →
      ∃ u, exec (.hcWithdraw port k v) s = .next u ∧ (getStack u k).withdrawn = true ∧ (getStack u k).cause = 6 ∧ fnState u (fnStack k) = 5 ∧ besideLoss u = besideLoss s) ∧
  (∀ (s : State) (p : PortNo), (getXp s p).withdrawn = false →
    (∃ u, exec (.ctrlFault (.port p)) s = .next u ∧ (getXp u p).withdrawn = true ∧ (getXp u p).linkUp = false ∧ (getXp u p).cause = 3 ∧ besideLoss u = besideLoss s) ∧
    ((getXp s p).linkUp = true ∨ (getXp s p).recovering = true →
      ∃ u, exec (.xpLinkLost p) s = .next u ∧ (getXp u p).withdrawn = true ∧ (getXp u p).linkUp = false ∧ (getXp u p).cause = 7 ∧
        fnState u (fnPort p) = 5 ∧ besideLoss u = besideLoss s))

/-! Rings. -/

/-- RG_RING_COMMIT (R303 to R305, R489): the three rows are one register write. On a disabled ring an entry that R304 accepts puts the ring in service,
empty; on an enabled one only the fields of R304 may change; ENABLE 0 takes it out of service. Anything else is only reported. DOORBELL (R306 to R308): one
in the window moves a SUBMIT ring's tail, or an EVENT or EXPORT ring's head, and nothing else; any other is counted for its context and reported. -/
def Obligations.RingCommitsAndDoorbells : Prop :=
  (∀ (i : Instr) (s : State) (port : HostPort) (v : Word64), (i = .ringCreate port v ∨ i = .ringChange port v ∨ i = .ringDisable port v) →
     bar0Open s port false = true →
     (let n := s.setup.ringSel.toNat
      let r := getRing s n
      let e := s.setup.ringShadow
      (pairOk v = false ∨ pairVal v ≠ n → ∃ u, exec i s = .next u ∧ OnlyReports s u) ∧
      (pairOk v = true → pairVal v = n → r.enabled = false → e.toNat.testBit 135 = true →
        (ringCreateOk s n e = true → exec i s = .next (setRing s n { entry := e, state := .active, sendQueue := r.sendQueue, open_ := r.open_
                                                                     gateStarted := r.gateStarted, gateOut := r.gateOut })) ∧
        (ringCreateOk s n e = false → ∃ u, exec i s = .next u ∧ OnlyReports s u)) ∧
      (pairOk v = true → pairVal v = n → r.enabled = true →
        ((e ^^^ r.entry) &&& ~~~ringChangeMask ≠ 0 → ∃ u, exec i s = .next u ∧ OnlyReports s u) ∧
        ((e ^^^ r.entry) &&& ~~~ringChangeMask = 0 →
          (e.toNat.testBit 135 = true → (r.kind ≠ 0 ∨ e.toNat.testBit 192 = false) → exec i s = .next (setRing s n { r with entry := e })) ∧
          (e.toNat.testBit 135 = false → r.waiting = [] → (r.kind = 1 → otherRing s n (fun o => o.kind == 0 && o.link == n) = false) →
            exec i s = .next (setRing s n { r with entry := e, state := .disabled, holdoff := false, holdoffDue := false, waiting := [] })))))) ∧
  (∀ (s : State) (port : HostPort) (ctx : CtxNo) (slot : BitVec 9) (size : Nat) (v : Word64), (getHp s port).linkUp = true →
     (∀ n, ringOfSlot s ctx slot.toNat = some n → size = 8 → (getRing s n).home = port → pairOk v = true →
       doorbellInWindow (getRing s n) (v.extractLsb' 0 32) = true → (getRing s n).kind ≠ 1 →
       exec (.doorbell port ctx slot size v) s = .next (setRing s n
         (if (getRing s n).kind = 0 then { getRing s n with tail := v.extractLsb' 0 32 } else { getRing s n with head := v.extractLsb' 0 32 }))) ∧
     (ringOfSlot s ctx slot.toNat = none ∨ size ≠ 8 ∨ pairOk v = false ∨
       (∃ n, ringOfSlot s ctx slot.toNat = some n ∧
         ((getRing s n).home ≠ port ∨ doorbellInWindow (getRing s n) (v.extractLsb' 0 32) = false)) →
       ∃ u, exec (.doorbell port ctx slot size v) s = .next u ∧
         OnlyReports (setCtx s ctx { getCtx s ctx with rejects := satInc (getCtx s ctx).rejects }) u))

/-- RING_READ and FENCE_RELEASE (R310, R312, R313): a one-entry descriptor at the head, with nothing queued before it, is read and reaches the core it
names; the head moves on and is due at HEAD_WB. A queued one whose fence is open reaches its core too. HEAD_WRITEBACK (R311): the pair of the head stands at
HEAD_WB. -/
def Obligations.RingsReadAndSend : Prop :=
  (∀ (s : State) (n : RingNo) (t : Task), ringReads s (getRing s n.toNat) = true → (getRing s n.toNat).sendQueue = [] → (getRing s n.toNat).open_ = [] →
    (getRing s n.toNat).gateOut = none → (getRing s n.toNat).count = 1 →
    ringAccess s (getRing s n.toNat) .read ((getRing s n.toNat).slotAddr (getRing s n.toNat).head) 64 = none →
    bits (memNat s ((getRing s n.toNat).slotAddr (getRing s n.toNat).head) 64) 8 2 = 0 →
    t = { ring := n, index := (getRing s n.toNat).head, ctx := (getRing s n.toNat).ctx, part := (getCtx s (getRing s n.toNat).ctx).part
          raw := BitVec.ofNat 2048 (memNat s ((getRing s n.toNat).slotAddr (getRing s n.toNat).head) 64), serial := s.taskCtr } →
    ringUnitFails s t = [] → t.tkind = 1 → targetHeld s t = false → reachable s (hostTile (getRing s n.toNat).home) (targetTile s t) = true →
    t.op ≠ some .palmInit →
    ∃ u, exec (.ringRead n) s = .next u ∧
      (let c : CoreNo := Fin.ofNat 256 t.tindex
       (getCore u c).queue = (getCore s c).queue ++ [{ t with afterMark := (getPart s t.part).drainMark }] ∧ ∀ m, m ≠ c → getCore u m = getCore s m) ∧
      (getRing u n.toNat).head = (getRing s n.toNat).head + 1 ∧ (getRing u n.toNat).tail = (getRing s n.toNat).tail ∧
      (getRing u n.toNat).headDue = ((getRing s n.toNat).headDue || (getRing s n.toNat).headWb != 0) ∧
      (getRing u n.toNat).open_ = [(getRing s n.toNat).head] ∧ (getRing u n.toNat).sendQueue = [] ∧
      { u with cores := s.cores, rings := s.rings, ringTurn := s.ringTurn, taskCtr := s.taskCtr } = s ∧ ∀ m, m ≠ n.toNat → getRing u m = getRing s m) ∧
  (∀ (s : State) (n : RingNo) (t : Task), (getRing s n.toNat).sendQueue = [t] → homeStands s (getRing s n.toNat) = true → fenceWaits (getRing s n.toNat) t = false →
    gateHolds (getRing s n.toNat) = false → targetHeld s t = false → ringUnitFails s t = [] → t.tkind = 1 → t.op ≠ some .palmInit →
    reachable s (hostTile (getRing s n.toNat).home) (targetTile s t) = true →
    ∃ u, exec (.fenceRelease n) s = .next u ∧
      (let c : CoreNo := Fin.ofNat 256 t.tindex
       (getCore u c).queue = (getCore s c).queue ++ [{ t with afterMark := (getPart s t.part).drainMark }] ∧ ∀ m, m ≠ c → getCore u m = getCore s m) ∧
      (getRing u n.toNat).sendQueue = [] ∧ (getRing u n.toNat).open_ = (getRing s n.toNat).open_ ∧
      { u with cores := s.cores, rings := s.rings, ringTurn := s.ringTurn } = s ∧ ∀ m, m ≠ n.toNat → getRing u m = getRing s m) ∧
  (∀ (s : State) (n : RingNo), (getRing s n.toNat).headDue = true → (getRing s n.toNat).headWb ≠ 0 → (getRing s n.toNat).state = .active →
    ringAccess s (getRing s n.toNat) .write (getRing s n.toNat).headWb 8 = none → ringAccess s (getRing s n.toNat) .read (getRing s n.toNat).headWb 8 = none →
    rangePoisoned s (getRing s n.toNat).headWb 8 = false →
    ∃ u, exec (.headWriteback n) s = .next u ∧ getRing u n.toNat = { getRing s n.toNat with headDue := false } ∧
      (∀ m, m ≠ n.toNat → getRing u m = getRing s m) ∧
      memNat u (getRing s n.toNat).headWb 8 = (mkPair (getRing s n.toNat).head).toNat ∧
      (∀ a, a < (getRing s n.toNat).headWb ∨ (getRing s n.toNat).headWb + 8 ≤ a → memByte u a = memByte s a) ∧
      besideMemory { u with rings := s.rings } = besideMemory s)

/-- NOP and SIGNAL (R318, R325, R329): the descriptor that stands alone in its ring is over with OK; SIGNAL's tally has its value added, wrapped to 64 bits;
a NOP's completion record stands at its COMPLETE ring's tail, which moves on, as does the context's sequence. -/
def Obligations.RingUnitRuns : Prop :=
  (∀ (s : State) (n : RingNo) (t : Task), ringFront s n.toNat .signal = some t → (getRing s n.toNat).sendQueue = [t] →
    admissionFailure (emptyBody t ++ headerFails s t) = none → stepWhen (getPart s t.part) t.step ≠ .next → t.sigMode = 1 ∨ t.sigMode = 2 →
    tallyOk t.sigAddr = true → transferStatus s (hostTile (getRing s t.ring.toNat).home) t.ctx .add t.sigAddr 8 = none →
    rangePoisoned s t.sigAddr 8 = false →
    ∃ u, exec (.signal n) s = .next u ∧ (getRing u n.toNat).sendQueue = [] ∧ besideRecords u = besideRecords s ∧
      ((∀ i, i < 8 → outsideRings s (t.sigAddr + i)) → memNat u t.sigAddr 8 = (memNat s t.sigAddr 8 + t.sigValue.toNat) % 2 ^ 64) ∧
      ∀ a, outsideRings s a → a < t.sigAddr ∨ t.sigAddr + 8 ≤ a → memByte u a = memByte s a) ∧
  (∀ (s : State) (n : RingNo) (t : Task) (r : Ring), ringFront s n.toNat .nop = some t → (getRing s n.toNat).sendQueue = [t] →
    admissionFailure (emptyBody t ++ headerFails s t) = none → stepWhen (getPart s t.part) t.step ≠ .next → t.sigMode = 0 → t.ring = n →
    (getRing s n.toNat).link ≠ n.toNat → r = getRing s (getRing s n.toNat).link → r.enabled = true → r.state = .active → r.waiting = [] →
    r.count < r.size → ringAccess s r .write (r.slotAddr r.tail) 32 = none → rangePoisoned s (r.slotAddr r.tail) 32 = false →
    ∃ u, exec (.nop n) s = .next u ∧ (getRing u n.toNat).sendQueue = [] ∧
      memBytes u (r.slotAddr r.tail) 32 = bytesOf 32 (completionRecord
        { task := t, status := stOk, detail := 0, time := now s, quality := quality s, census := t.census } (r.pass r.tail) (getCtx s r.ctx).seq) ∧
      (∀ a, a < r.slotAddr r.tail ∨ r.slotAddr r.tail + 32 ≤ a → memByte u a = memByte s a) ∧
      (getRing u (getRing s n.toNat).link).tail = r.tail + 1 ∧ (getCtx u r.ctx).seq = (getCtx s r.ctx).seq + 1 ∧
      besideRecords u = besideRecords s)

/-- WAIT and TIMED (R329, R330): a gate whose condition does not hold has started, and nothing else changes. WAIT_POLL and NOT_BEFORE_REACHED: a started
gate whose condition now holds is over with OK, in its ring and in its slot. -/
def Obligations.Gates : Prop :=
  (∀ (s : State) (n : RingNo) (t : Task) (op : Op) (i : Instr), ringFront s n.toNat op = some t →
    (i = .wait (.ring n) ∧ op = .wait ∧ admissionFailure (waitFails s t) = none ∨
      i = .timed (.ring n) ∧ op = .timed ∧ admissionFailure (timedFails s t) = none) →
    (getRing s n.toNat).gateStarted = false → stepWhen (getPart s t.part) t.step ≠ .next →
    gateResult s (hostTile (getRing s n.toNat).home) t = none →
    exec i s = .next (setRing s n.toNat { getRing s n.toNat with gateStarted := true })) ∧
  (∀ (s : State) (c : CoreNo) (k : SlotNo) (t : Task) (op : Op) (i : Instr), coreGate s c k op false = some t →
    (i = .wait (.core c k) ∧ op = .wait ∨ i = .timed (.core c k) ∧ op = .timed) → gateResult s (coreTile c) t = none →
    exec i s = .next (setSlot s c k { getSlot s c k with gateStarted := true })) ∧
  (∀ (s : State) (n : RingNo) (t : Task) (op : Op) (i : Instr), ringFront s n.toNat op = some t → (getRing s n.toNat).sendQueue = [t] →
    (i = .waitPoll (.ring n) ∧ op = .wait ∨ i = .notBeforeReached (.gate (.ring n)) ∧ op = .timed) → (getRing s n.toNat).gateStarted = true →
    gateResult s (hostTile (getRing s n.toNat).home) t = some stOk →
    ∃ u, exec i s = .next u ∧ (getRing u n.toNat).sendQueue = [] ∧ (getRing u n.toNat).gateStarted = false ∧ besideRecords u = besideRecords s) ∧
  (∀ (s : State) (c : CoreNo) (k : SlotNo) (t : Task) (op : Op) (i : Instr), coreGate s c k op true = some t → storesOut (getCore s c) k = false →
    (getRing s t.ring.toNat).sendQueue = [] → (i = .waitPoll (.core c k) ∧ op = .wait ∨ i = .notBeforeReached (.gate (.core c k)) ∧ op = .timed) →
    gateResult s (coreTile c) t = some stOk →
    ∃ u, exec i s = .next u ∧ EndsAtOnce s u c k t stOk (getSlot s c k).spoilt)

/-- WAIT_TIMEOUT_EXPIRY (R331): a WAIT alone in its ring whose tally is still short, an entry of a core's held list whose switch has not come, a slot held
for its step, and a pending STEP_CLOSE end, with no effect but the record. HOLDOFF_EXPIRY (R335): records written during a holdoff make one message, and
begin a new one; one for a masked vector stays pending. RG_PLATFORM_EVENT (R339). -/
def Obligations.TimeoutsAndInterrupts : Prop :=
  (∀ (s : State) (n : RingNo) (t : Task), ringFront s n.toNat .wait = some t → (getRing s n.toNat).sendQueue = [t] → (getRing s n.toNat).gateStarted = true →
    (getRing s n.toNat).gateStop = false → waitResult s (hostTile (getRing s n.toNat).home) t = none →
    ∃ u, exec (.waitTimeoutExpiry (.ring n)) s = .next u ∧ (getRing u n.toNat).sendQueue = [] ∧ besideRecords u = besideRecords s) ∧
  (∀ (s : State) (c : CoreNo) (i : Nat) (t : Task), (getCore s c).held[i]? = some t → genWaits s t = true →
    ∃ u, exec (.waitTimeoutExpiry (.coreHeld c i)) s = .next u ∧ (getCore u c).held = (getCore s c).held.eraseIdx i ∧
      besideRecords u = besideRecords s) ∧
  (∀ (s : State) (c : CoreNo) (k : SlotNo) (t : Task), (getSlot s c k).task = some t → (getSlot s c k).ended = false → (getSlot s c k).stepHeld = true →
    stepWaits s t = true → storesOut (getCore s c) k = false → (getSlot s c k).started = false → t.op ≠ some .wait → t.op ≠ some .timed →
    ∃ u, exec (.waitTimeoutExpiry (.slot c k)) s = .next u ∧ EndsAtOnce s u c k t stTimeout (getSlot s c k).spoilt) ∧
  (∀ (s : State) (p : PartNo) (t : Task), (getPart s p).closing = some t → stepDone s p = false →
    ∃ u, exec (.waitTimeoutExpiry (.stepClose p)) s = .next u ∧ besideRecords u = besideRecords (setPart s p { getPart s p with closing := none })) ∧
  (∀ (s : State) (n : RingNo), (getRing s n.toNat).holdoff = true →
    ((getRing s n.toNat).holdoffDue = false →
      exec (.holdoffExpiry n) s = .next (setRing s n.toNat { getRing s n.toNat with holdoff := false, holdoffDue := false })) ∧
    ((getRing s n.toNat).holdoffDue = true → (getRing s n.toNat).msixEn = true → (getHp s (getRing s n.toNat).msixPort).linkUp = true →
      (getHp s (getRing s n.toNat).msixPort).msixOn = true →
      ((getHp s (getRing s n.toNat).msixPort).msixMasked.contains (getRing s n.toNat).msixVec = true →
        s.msixPending.contains ((getRing s n.toNat).msixPort, (getRing s n.toNat).msixVec) = false →
        ∃ u, exec (.holdoffExpiry n) s = .next u ∧ u.msixPending = s.msixPending ++ [((getRing s n.toNat).msixPort, (getRing s n.toNat).msixVec)] ∧
          getRing u n.toNat = { getRing s n.toNat with holdoff := false, holdoffDue := false } ∧
          { u with rings := s.rings, msixPending := s.msixPending } = s ∧ ∀ m, m ≠ n.toNat → getRing u m = getRing s m) ∧
      ((getHp s (getRing s n.toNat).msixPort).msixMasked.contains (getRing s n.toNat).msixVec = false →
      ∃ u, exec (.holdoffExpiry n) s = .next u ∧ u.msix = ((getRing s n.toNat).msixPort, (getRing s n.toNat).msixVec) :: s.msix ∧
        getRing u n.toNat = { getRing s n.toNat with holdoff := decide (0 < (getRing s n.toNat).holdoffUs), holdoffDue := false } ∧
        { u with rings := s.rings, msix := s.msix } = s ∧ ∀ m, m ≠ n.toNat → getRing u m = getRing s m))) ∧
  (∀ (s : State) (port : HostPort) (v : Word64), bar0Open s port false = true →
    (pairOk v = false → ∃ u, exec (.platformEventSet port v) s = .next u ∧ OnlyReports s u) ∧
    (pairOk v = true → exec (.platformEventSet port v) s =
      .next (if (pairVal v).testBit 20 && !((getRing s (bits (pairVal v) 0 20)).enabled && (getRing s (bits (pairVal v) 0 20)).kind == 2) then s
        else { s with setup := { s.setup with platformEvent := BitVec.ofNat 21 (pairVal v) } })))

/-! Partitions, contexts, pages and resets. -/

/-- PT_PART_COMMIT (R342, R343, R489): the three rows are one register write; an entry that R342 accepts waits for its units to drain, any other is only
reported. OWNERSHIP_SWITCH waits while a unit holds something of its old owner; then stacks that pass over are zeroed first; with none the entry is in
force, and a partition that it creates starts as R342 says. STACK_HANDOVER_ZERO_DONE: the stack's data is zero and it is READY again. -/
def Obligations.PartitionCommits : Prop :=
  (∀ (i : Instr) (s : State) (port : HostPort) (v : Word64),
    (i = .partitionCreate port v ∨ i = .partitionChange port v ∨ i = .partitionRemove port v) → bar0Open s port false = true →
    (let p : PartNo := Fin.ofNat 64 s.setup.partSel.toNat
     (pairOk v = true → pairVal v = p.val → partCommitOk s p (effEntry s p) s.setup.partShadow = true →
       exec i s = .next { s with owning := s.owning ++ [{ part := p, entry := s.setup.partShadow, switched := false }] }) ∧
     (pairOk v = false ∨ pairVal v ≠ p.val ∨ partCommitOk s p (effEntry s p) s.setup.partShadow = false →
       ∃ u, exec i s = .next u ∧ OnlyReports s u))) ∧
  (∀ (s : State) (p : PartNo) (o : Ownership), s.owning = [o] → o.part = p → o.switched = false → s.resets = [] →
    (unitsDrained s o = false → exec (.ownershipSwitch p) s = .next s) ∧
    (unitsDrained s o = true → passingStacks s o = [] → stacksZeroed s o.entry = true →
      ∃ u, exec (.ownershipSwitch p) s = .next u ∧ u.owning = [] ∧ (getPart u p).entry = o.entry ∧
        (peValid o.entry = true → peValid (getPart s p).entry = false →
          (getPart u p).cur = peStartStep o.entry ∧ (getPart u p).ls = {} ∧ (getPart u p).gen = 0 ∧ (getPart u p).map = [] ∧
          (getPart u p).quiet = false ∧ (getPart u p).exportRing = 0 ∧ (getPart u p).exportSeq = 0) ∧
        (peValid o.entry = false ∨ peValid (getPart s p).entry = true → getPart u p = { getPart s p with entry := o.entry }) ∧
        { u with parts := s.parts, owning := s.owning, quietDue := s.quietDue } = s ∧ ∀ q, q ≠ p → getPart u q = getPart s q) ∧
    (unitsDrained s o = true → passingStacks s o ≠ [] →
      ∃ u, exec (.ownershipSwitch p) s = .next u ∧ u.owning = [{ o with switched := true }] ∧
        (∀ k ∈ passingStacks s o, (getStack u k).zeroing = true ∧ fnState u (fnStack k) = 1) ∧
        { u with hbm := s.hbm, fns := s.fns, owning := s.owning } = s)) ∧
  (∀ (s : State) (k : StackNo), (getStack s k).zeroing = true → (getStack s k).withdrawn = false → s.owning = [] →
    ∃ u, exec (.stackHandoverZeroDone k) s = .next u ∧ getStack u k = { getStack s k with zeroing := false } ∧ fnReady u (fnStack k) = true ∧
      (∀ a, memByte u a = if stackBase k ≤ a ∧ a < stackBase k + stackMapped then 0 else memByte s a) ∧
      besideMemory { u with hbm := s.hbm, fns := s.fns } = besideMemory s)

/-- PT_CTX_COMMIT and PT_PAGE_COMMIT (R345, R347, R349, R350, R489): each group of rows is one register write. A binding or an unbinding that is accepted
takes effect at once with the entries written for it; an allocation waits for its zeros, after which every page of the run is zero and the context's; a
freed run is nobody's. What is not accepted is only reported. -/
def Obligations.ContextsAndPages : Prop :=
  (∀ (i : Instr) (s : State) (port : HostPort) (v : Word64),
    (i = .contextBind port v ∨ i = .contextUnbind port v ∨ i = .contextMove port v ∨ i = .contextEntriesChange port v) → bar0Open s port false = true →
    (let c := s.setup.ctxSel
     let old := getCtx s c
     let new : Context := { binding := s.setup.ctxShadow.extractLsb' 0 8, ranges := s.setup.rangeShadow }
     let moved := old.bound && new.bound && old.part != new.part
     (pairOk v = false ∨ pairVal v ≠ c.toNat ∨ (moved = true ∧ ctxHasRing s c = true) ∨
       (old.bound = true ∧ new.bound = false ∧ (ctxHasRing s c = true ∨ ctxHasPage s c = true)) ∨
       (getPart s new.part).valid = false ∨ bits s.setup.ctxShadow.toNat 8 56 ≠ 0 ∨ (∃ e ∈ s.setup.rangeShadow, rangeEntryOk s new.part e.2 = false) →
       ∃ u, exec i s = .next u ∧ OnlyReports s u) ∧
     (pairOk v = true → pairVal v = c.toNat → bits s.setup.ctxShadow.toNat 8 56 = 0 → (getPart s new.part).valid = true →
       (∀ e ∈ s.setup.rangeShadow, rangeEntryOk s new.part e.2 = true) →
       (new.bound = false → (old.bound = true → ctxHasRing s c = false ∧ ctxHasPage s c = false) →
         exec i s = .next (setCtx s c { old with binding := new.binding, ranges := s.setup.rangeShadow })) ∧
       (new.bound = true → (moved = true → ctxHasRing s c = false) →
         exec i s = .next (setCtx s c { binding := new.binding, ranges := s.setup.rangeShadow
                                        rejects := if !old.bound || moved then 0 else old.rejects
                                        seq := if !old.bound || moved then 0 else old.seq }))))) ∧
  (∀ (i : Instr) (s : State) (port : HostPort) (v : Word64), (i = .pageAllocate port v ∨ i = .pageFree port v) → bar0Open s port false = true →
    (let q := s.setup.pageSel.toNat
     let w := s.setup.pageShadow
     let c : CtxNo := w.extractLsb' 0 16
     let n := bits w.toNat 17 10 + 1
     (pairOk v = false ∨ pairVal v ≠ q ∨ 1024 < q % 1024 + n → ∃ u, exec i s = .next u ∧ OnlyReports s u) ∧
     (pairOk v = true → pairVal v = q → q % 1024 + n ≤ 1024 →
       (w.toNat.testBit 16 = true → (∀ i, i < n → pageAllocOk s c (q + i) = true) → exec i s = .next { s with pageRuns := s.pageRuns ++ [(q, n, c)] }) ∧
       (w.toNat.testBit 16 = false → (∀ i, i < n → pageInPalm s (q + i) = false ∧ pageInMapArea s (q + i) = false) →
         exec i s = .next { s with pages := s.pages.filter fun e => !(decide (q ≤ e.1 ∧ e.1 < q + n)) })))) ∧
  (∀ (s : State) (q : BitVec 16) (n : Nat) (c : CtxNo), s.pageRuns.find? (fun r => r.1 == q.toNat) = some (q.toNat, n, c) →
    ∃ u, exec (.pageZeroDone q) s = .next u ∧ (∀ i, i < n → tget 0 u.pages (q.toNat + i) = c.toNat + 1) ∧
      (∀ i, i < q.toNat ∨ q.toNat + n ≤ i → tget 0 u.pages i = tget 0 s.pages i) ∧
      (∀ a, memByte u a = if pageBase q.toNat ≤ a ∧ a < pageBase q.toNat + n * 2 ^ 20 then 0 else memByte s a) ∧
      u.pageRuns = s.pageRuns.filter (fun r => r != (q.toNat, n, c)) ∧
      besideMemory { u with pages := s.pages, pageRuns := s.pageRuns } = besideMemory s)

/-- PT_RESET (R357, R360, R364): the four rows are one register write. One inside a running reset, or of a core under replacement, is merged; one of a core
or cluster on a tile without power is over at once; any other of an existing target, not immediate, begins: its units are marked, READY cores of it are
RUNNING, MOD_READY falls with the module's. RESET_DRAIN_END: the drain is shown, clearing follows. RESET_CLEAR_DONE (R356 to R360) of a core or cluster with
nothing queued in the rings: the core holds nothing but its registers, the reset is over and counted with those inside it. RESET_DRAIN_END of a module
reset: no unit holds anything, no setting of a register block stands; the running map, the holes and the time base stay (R40, R367). The step at which a
merged reset stands and what a module reset leaves are the model's reading (log 39). -/
def Obligations.ResetsDrainAndClear : Prop :=
  ((∀ (i : Instr) (s : State) (port : HostPort) (v : Word64),
     (i = .coreReset port v ∨ i = .clusterReset port v ∨ i = .partitionReset port v ∨ i = .moduleReset port v) → bar0Open s port false = true →
     (let level : Fin 4 := Fin.ofNat 4 (bits (pairVal v) 8 2)
      let target : Byte := BitVec.ofNat 8 (pairVal v)
      (pairOk v = false ∨ resetTargetOk s level target = false → ∃ u, exec i s = .next u ∧ OnlyReports s u) ∧
      (pairOk v = true → resetTargetOk s level target = true →
        ((∃ r ∈ s.resets, resetInside s level target r.level r.target = true) ∨ replacing s level target = true →
          exec i s = .next { s with setup := { s.setup with reset := mkPair (BitVec.ofNat 32 (pairVal v % 2 ^ 11)), merged := satInc s.setup.merged } }) ∧
        ((∀ r ∈ s.resets, resetInside s level target r.level r.target = false) → replacing s level target = false → powerHeld s level target = true →
          (∀ r ∈ s.resets, resetInside s r.level r.target level target = false) → (∀ e ∈ s.rings, e.2.sendQueue = []) →
          ∃ u, exec i s = .next u ∧ u.resets = s.resets ∧ u.setup.resetCount = satAdd s.setup.resetCount 1 ∧ u.setup.drain = 0 ∧
            (let c : CoreNo := Fin.ofNat 256 target.toNat
             getCore u c = { ctl := (getCore s c).ctl, pruned := (getCore s c).pruned, sparseFaults := (getCore s c).sparseFaults }) ∧
            { besideWork u with fns := s.fns, setup := s.setup } = besideWork s) ∧
        ((∀ r ∈ s.resets, resetInside s level target r.level r.target = false) → replacing s level target = false → powerHeld s level target = false →
          (pairVal v).testBit 10 = false → (level = 3 ∨ ∀ x ∈ s.resets, resetInside s x.level x.target level target = true → x.step = 1) →
          ∃ u r, exec i s = .next u ∧ r.level = level ∧ r.target = target ∧ r.step = 1 ∧ r.immediate = false ∧
            r.inner = ((s.resets.filter fun x => resetInside s x.level x.target level target).map fun x => 1 + x.inner).sum ∧
            u.resets = (s.resets.filter fun x => !resetInside s x.level x.target level target) ++ [r] ∧
            u.setup = { s.setup with reset := mkPair (BitVec.ofNat 32 (pairVal v % 2 ^ 11)), resetLevel := BitVec.ofNat 2 level.val, resetTarget := target } ∧
            (∀ c ∈ resetCores s level target, fnReady s (fnCore c) = true → fnState u (fnCore c) = 1) ∧
            u.pw = (if level = 3 then { s.pw with modReady := false } else s.pw) ∧
            { besideWork u with fns := s.fns, resets := s.resets, setup := s.setup, pw := s.pw } = besideWork s)))) ∧
   (∀ (s : State) (level : Fin 4) (target : Byte) (d : BitVec 16) (r : Reset), r.level ≠ 3 →
     s.resets.find? (fun r => r.level == level && r.target == target && decide (r.step < 4)) = some r →
     exec (.resetDrainEnd level target d) s = .next { s with
       resets := s.resets.map (fun x => if x == r then { r with step := 5 } else x)
       setup := { s.setup with abandoned := outstandingTraffic s r, drain := d } })) ∧
  ((∀ (s : State) (level : Fin 4) (target : Byte) (r : Reset), level.val ≤ 1 → (∀ e ∈ s.rings, e.2.sendQueue = []) →
     s.resets.find? (fun r => r.level == level && r.target == target && r.step == 5) = some r →
     (getTile s (coreTile (Fin.ofNat 256 target.toNat))).thermal = false →
     ∃ u, exec (.resetClearDone level target) s = .next u ∧
       (let c : CoreNo := Fin.ofNat 256 target.toNat
        getCore u c = { ctl := (getCore s c).ctl, pruned := (getCore s c).pruned, sparseFaults := (getCore s c).sparseFaults } ∧
        (fnState s (fnCore c) = 1 → corePresent s c = true → changingCore s c = false → inCoreMode s (coreTile c) = true → fnReady u (fnCore c) = true)) ∧
       u.resets = s.resets.erase r ∧ u.setup = { s.setup with resetCount := satAdd s.setup.resetCount (1 + r.inner) } ∧
       { besideWork u with fns := s.fns, resets := s.resets, setup := s.setup } = besideWork s) ∧
   (∀ (s : State) (target : Byte) (d : BitVec 16) (r : Reset), r.level = 3 →
     s.resets.find? (fun r => r.level == 3 && r.target == target && decide (r.step < 4)) = some r →
     ∃ u, exec (.resetDrainEnd 3 target d) s = .next u ∧ u.cores = [] ∧ u.palms = [] ∧ u.parts = [] ∧ u.cuffs = [] ∧ u.rings = [] ∧ u.ctxs = [] ∧
       u.pages = [] ∧ u.packets = [] ∧ u.bursts = [] ∧ u.owning = [] ∧ u.resets = [] ∧ u.setup.drain = d ∧
       (s.changes = [] → (∀ n, (getTile s n).failedSegs = 0) → u.mitten = s.mitten) ∧ u.holes = s.holes ∧ u.tb = s.tb))

/-! Time. -/

/-- The references (R372 to R378), while CK_TB runs: losing the PPS or the 10 MHz of a reference that has been seen makes it LOST, and where it was selected
and the other is not GOOD holdover begins under a new epoch; an interval whose cycles are out of 10 MHz does the same. The first edge only begins an
interval. The eighth consistent edge on a board that has never locked makes the reference GOOD and selects it: the fraction steps to the edge, under a new
epoch. A window compares the two references. What the first edge does, and that a reference once seen is lost from ABSENT too, is the model's reading (log
42). -/
def Obligations.ReferencesAreJudged : Prop :=
  ∀ (s : State) (i : Fin 2), s.tb.running = true →
    (let x : Ref := tget {} s.tb.refs i.val
     let y : Ref := tget {} s.tb.refs (1 - i).val
     (∀ row, (row = .refPpsTimeout i ∨ row = .refFreqLoss i ∨ ∃ n ph, row = .refPpsEdge i n ph ∧ (n < 9999999 ∨ 10000001 < n)) →
        (x.seen = true ∨ x.state ≠ refAbsent ∧ ∀ n ph, row ≠ .refPpsEdge i n ph) → x.state ≠ refLost →
        (∃ u, exec row s = .next u ∧ (tget {} u.tb.refs i.val).state = refLost ∧ OnlyReports { s with tb := u.tb } u ∧
          (sourceRef s.tb.source = some i → y.state ≠ refGood →
            u.tb.source = .holdover ∧ u.tb.epoch = s.tb.epoch + 1 ∧ u.tb.holdStart = s.tb.now ∧ u.tb.now = s.tb.now ∧ u.tb.slewing = false))) ∧
     (∀ n ph, x.seen = false → ∃ u, exec (.refPpsEdge i n ph) s = .next u ∧ OnlyReports { s with tb := u.tb } u ∧
        u.tb = { s.tb with refs := tput {} s.tb.refs i.val { x with phaseNs := wrapPhase ph, seen := true } }) ∧
     (∀ n, 9999999 ≤ n → n ≤ 10000001 → x.seen = true → s.tb.armed = none → (x.state = refAbsent ∨ x.state = refLost) →
        (x.consistent + 1 < 8 → ∃ u, exec (.refPpsEdge i n 0) s = .next u ∧ OnlyReports { s with tb := u.tb } u ∧
          (tget {} u.tb.refs i.val).consistent = x.consistent + 1 ∧ (tget {} u.tb.refs i.val).state = x.state ∧ u.tb.now = s.tb.now ∧
          u.tb.source = s.tb.source) ∧
        (7 ≤ x.consistent → s.tb.everLocked = false → s.tb.timeSet = false → s.tb.source = .free → y.state ≠ refGood → s.tb.slewing = false →
          ∃ u, exec (.refPpsEdge i n 0) s = .next u ∧ OnlyReports { s with tb := u.tb } u ∧ (tget {} u.tb.refs i.val).state = refGood ∧
            u.tb.source = refSource i ∧ u.tb.epoch = s.tb.epoch + 1 ∧ u.tb.now = s.tb.now >>> 32 <<< 32 ∧ u.tb.everLocked = true)) ∧
     (∀ fA fB o : Int, i = 0 → x.state = refGood → y.state = refGood → x.lossInWindow = false → y.lossInWindow = false →
        s.tb.source = .refA → s.tb.prefer = false → s.tb.slewing = false → s.tb.learnedWindows = [] → x.outWindows = 0 → y.outWindows = 0 →
        ∃ u, exec (.toleranceWindowEnd fA fB o) s = .next u ∧ OnlyReports { s with tb := u.tb } u ∧ u.tb.source = .refA ∧
          (tget {} u.tb.refs 0).state = refGood ∧ (tget {} u.tb.refs 1).state = refGood ∧
          (tget {} u.tb.refs 0).outWindows = (if (fA - fB).natAbs ≤ s.tb.tolPpb.toNat * 10 then 0 else 1) ∧
          (tget {} u.tb.refs 1).outWindows = (if (fA - fB).natAbs ≤ s.tb.tolPpb.toNat * 10 then 0 else 1) ∧
          u.tb.learnedWindows = (if (fA - fB).natAbs ≤ s.tb.tolPpb.toNat * 10 then [o - fA] else [])))

/-- Slews, holdover and time sets (R369, R377, R378, R380, R392 to R394, R477). -/
def Obligations.SlewsHoldoverAndSets : Prop :=
  (∀ s : State, s.tb.running = true → s.tb.slewing = true →
    (∀ c : Fin 2, sourceRef s.tb.source = some c → (tget {} s.tb.refs c.val : Ref).state = refGood → c = (if s.tb.prefer then 1 else 0) →
      ∃ u, exec .slewDone s = .next u ∧ u.tb = { s.tb with slewing := false, errNs := 0, lockedSince := s.tb.now } ∧
        OnlyReports { s with tb := u.tb } u) ∧
    ∃ u, exec .slewHoldFine s = .next u ∧ u.tb = { s.tb with fine := true } ∧ OnlyReports { s with tb := u.tb } u) ∧
  (∀ s : State, s.tb.running = true → s.tb.source = .holdover → s.tb.fine = true →
    (1000 ≤ holdoverError s.tb → ∃ u, exec .holdoverDegrade s = .next u ∧ u.tb = { s.tb with fine := false } ∧ OnlyReports { s with tb := u.tb } u) ∧
    (holdoverError s.tb < 1000 → exec .holdoverDegrade s = .next s)) ∧
  (∀ s : State, s.tb.running = true → s.tb.now.toNat % 2 ^ 32 = 0 →
    ((s.tb.armed = none ∨ (sourceRef s.tb.source).isSome = true) →
      exec .thefaWholeSecond s = .next { s with tb := { s.tb with ppsPulses := s.tb.ppsPulses + 1 } }) ∧
    (∀ secs, s.tb.armed = some secs → s.tb.source = .free → s.tb.refs = [] →
      ∃ u, exec .thefaWholeSecond s = .next u ∧ u.tb.now.toNat = secs.toNat * 2 ^ 32 ∧ u.tb.timeSet = true ∧ u.tb.epoch = s.tb.epoch + 1 ∧
        u.tb.armed = none ∧ u.tb.ppsPulses = s.tb.ppsPulses + 1 ∧ besideWork u = besideWork { s with tb := u.tb })) ∧
  (∀ (s : State) (port : HostPort) (v : Word64), bar0Open s port false = true →
    (pairOk v = true → exec (.tbSet port v) s = .next { s with tb := { s.tb with armed := some (v.extractLsb' 0 32) } }) ∧
    (pairOk v = false → ∃ u, exec (.tbSet port v) s = .next u ∧ OnlyReports s u) ∧
    (pairOk v = false ∨ bits (pairVal v) 4 10 < 5 ∨ 1000 < bits (pairVal v) 4 10 → ∃ u, exec (.tbCtlWrite port v) s = .next u ∧ OnlyReports s u) ∧
    (pairOk v = true → 5 ≤ bits (pairVal v) 4 10 → bits (pairVal v) 4 10 ≤ 1000 → s.tb.refs = [] → sourceRef s.tb.source = none →
      exec (.tbCtlWrite port v) s = .next { s with tb := { s.tb with
        prefer := (pairVal v).testBit 0, revert := (pairVal v).testBit 1, tolPpb := BitVec.ofNat 10 (bits (pairVal v) 4 10)
        stayOther := s.tb.stayOther && (pairVal v).testBit 0 == s.tb.prefer } })) ∧
  (∀ (s : State) (port : HostPort), (getHp s port).linkUp = true →
    exec (.tbNowLowRead port) s = .next (setHp s port { getHp s port with latch := some (offTbNow, s.tb.now.extractLsb' 32 32) })) ∧
  (∀ (s : State) (port : HostPort) (p : PartNo) (v : Word64), bar0Open s port false = true →
    (let r := getRing s (pairVal v % 2 ^ 20)
     let names := r.enabled && r.kind == 3 && (getCtx s r.ctx).bound && (getCtx s r.ctx).part == p
     (pairOk v = true → ((pairVal v).testBit 20 = false ∨ names = true) →
       exec (.exportRingSet port p v) s = .next (setPart s p { getPart s p with exportRing := BitVec.ofNat 21 (pairVal v) })) ∧
     (pairOk v = false ∨ ((pairVal v).testBit 20 = true ∧ names = false) → ∃ u, exec (.exportRingSet port p v) s = .next u ∧ OnlyReports s u)))

/-- R367: no row but those of the time base itself, MAIN_POWER_START and those with which main power may go changes anything of the time base. R414: no row
burns a fuse but the six requests and those with which a request that waits is answered, and no row clears one. -/
def Obligations.TimeAndFusesAreGuarded : Prop :=
  (∀ (i : Instr) (s t : State), actsOnTime i = false → exec i s = .next t → t.tb = s.tb) ∧
  (∀ (i : Instr) (s t : State), actsOnFuses i = false → exec i s = .next t → t.weala.fuses = s.weala.fuses) ∧
  (∀ (i : Instr) (s t : State), exec i s = .next t → ∃ l, t.weala.fuses = s.weala.fuses ++ l)

/-! Start-up, requests and management. -/

/-- Start-up (R367, R397, R398, R402, R407): Weala, with a freshly made flash whose slot A runs, asks for coolant; MAIN_POWER_START with its conditions
starts CK_TB from 0 and the fabric under the stored map; FABRIC_READY, with no hole, starts each tile's functions. -/
def Obligations.PowerComesUp : Prop :=
  (∀ s : State, s.weala.running = false → ∃ u, exec .wealaStart s = .next u ∧ u.weala.running = true ∧ u.pw.aux = true ∧ fnReady u fnWeala = true ∧
    u.weala.fuses = s.weala.fuses ∧
    (s.weala.records = [] → s.weala.fuses = [] → imageRuns s.weala.imageA 2 = true → s.pw.stage = .off → s.pw.needPwrEnCycle = false →
      s.pw.coolantOk = false → u.weala.recovery = false ∧ u.weala.generation = 2 ∧ u.pw.stage = .waitCoolant ∧ u.pw.pumpReq = true)) ∧
  (∀ s : State, s.pw.stage = .waitMain → s.pw.pwrEn = true → s.pw.coolantOk = true → s.weala.running = true →
    ∃ u, exec .mainPowerStart s = .next u ∧ u.pw.stage = .main ∧ u.tb = { running := true, prefer := settingValue s 4 == 1 } ∧
      u.mitten = loadedMap s.weala ∧ u.holes = mapHoles (loadedMap s.weala) ∧ fnState u fnFabric = 1 ∧
      u.pw.limit = BitVec.ofNat 9 (settingValue s 3) ∧ (∀ n : TileNo, getTile u n = { ramping := tileDomains n }) ∧
      { besideWork u with fns := s.fns, tb := s.tb, mitten := s.mitten, holes := s.holes, pw := s.pw } = besideWork s) ∧
  (∀ s : State, s.pw.stage = .main → fnState s fnFabric = 1 → s.holes = 0 →
    ∃ u, exec .fabricReady s = .next u ∧ fnReady u fnFabric = true ∧ u.escapeLoading = false ∧
      (∀ n : TileNo, poweredIn (getTile s n) = true → fnState u (fnSram n) = 1) ∧
      (∀ k : StackNo, poweredIn (getTile s (stackTile k)) = true → fnState u (fnStack k) = 1) ∧
      (∀ p : PortNo, poweredIn (getTile s (portTile p)) = true → fnState u (fnPort p) = 1 ∧ (getXp u p).perstReleased = true) ∧
      (∀ p : HostPort, poweredIn (getTile s (hostTile p)) = true → fnState u (fnHost p) = 1))

/-- Each function comes up by itself (R38, R272, R278, R281, R398, R399, R401, R474): with zeros in its memory an SRAM and a stack are READY, a training
that fails is counted, a controller waits for its host and lets MOD_READY rise, a link and a port are READY with what they found, a core is assembled from
the entry that its self-test leaves; a host-port or SRAM function that does not answer is FAILED. The configuration that HOST_LINK_UP carries is the model's
choice (log 72). -/
def Obligations.FunctionsComeUp : Prop :=
  (∀ (s : State) (n : TileNo), comingUp s (fnSram n) = true →
    ∃ u, exec (.tileSramReady n 0) s = .next u ∧ fnReady u (fnSram n) = true ∧ (∀ c ∈ tileCores n, fnState u (fnCore c) = 1) ∧
      (∀ a, outsideRings s a → memByte u a = if cmemBase (coreAt n 0) ≤ a ∧ a < cmemBase (coreAt n 0) + 2 ^ 30 then 0 else memByte s a) ∧
      { besideWork u with fns := s.fns } = besideWork s) ∧
  (∀ (s : State) (k : StackNo), comingUp s (fnStack k) = true → (getStack s k).withdrawn = false → (getStack s k).zeroing = false →
    (∃ u, exec (.stackTrainResult k true) s = .next u ∧ fnReady u (fnStack k) = true ∧
      (∀ a, outsideRings s a → memByte u a = if stackBase k ≤ a ∧ a < stackBase k + 2 ^ 36 then 0 else memByte s a) ∧
      { besideWork u with fns := s.fns } = besideWork s) ∧
    ((getStack s k).attempts < 2 →
      exec (.stackTrainResult k false) s = .next (setStack s k { getStack s k with attempts := (getStack s k).attempts + 1 })) ∧
    (2 ≤ (getStack s k).attempts → ∃ u, exec (.stackTrainResult k false) s = .next u ∧ (getStack u k).withdrawn = true ∧
      (getStack u k).cause = 1 ∧ fnState u (fnStack k) = 4)) ∧
  (∀ (s : State) (p : HostPort) (sris : Bool), comingUp s (fnHost p) = true →
    ∃ u, exec (.hostPortWaiting p sris) s = .next u ∧ u.pw = { s.pw with modReady := s.weala.running } ∧ (getHp u p) = { getHp s p with sris := sris } ∧
      fnState u (fnHost p) = (if (getHp s p).perstReleased then 1 else 2) ∧ ∀ q, q ≠ p → getHp u q = getHp s q) ∧
  (∀ (s : State) (p : HostPort) (w v : BitVec 3) (cfg : HostConfig), (getHp s p).linkUp = false → (getHp s p).perstReleased = true →
    (comingUp s (fnHost p) = true ∨ fnReady s (fnHost p) = true) →
    ∃ u, exec (.hostLinkUp p w v cfg) s = .next u ∧ fnReady u (fnHost p) = true ∧
      getHp u p = { getHp s p with linkUp := true, width := w, speed := v, flit := cfg.flit, recovering := false, atsEnabled := cfg.ats
                                   ats := if cfg.ats then (getHp s p).ats else [], msixOn := cfg.msix, msixMasked := cfg.masked } ∧
      (∀ q, q ≠ p → getHp u q = getHp s q) ∧ { besideWork u with fns := s.fns, hports := s.hports } = besideWork s) ∧
  (∀ (s : State) (p : HostPort) (w v : BitVec 3) (cfg : HostConfig), (getHp s p).linkUp = true →
    ∃ u, exec (.hostLinkUp p w v cfg) s = .next u ∧
      getHp u p = { getHp s p with atsEnabled := cfg.ats, ats := if cfg.ats then (getHp s p).ats else [], msixOn := cfg.msix, msixMasked := cfg.masked } ∧
      (∀ e, e ∈ u.msixPending ↔ e ∈ s.msixPending ∧ (cfg.msix = true → e.1 = p → cfg.masked.contains e.2 = true)) ∧
      (cfg.msix = true → ∀ e ∈ s.msixPending, e.1 = p → cfg.masked.contains e.2 = false → e ∈ u.msix) ∧
      (∀ q, q ≠ p → getHp u q = getHp s q) ∧ { u with hports := s.hports, msix := s.msix, msixPending := s.msixPending } = s) ∧
  (∀ (s : State) (p : PortNo) (cap : Nat) (w v : BitVec 3), comingUp s (fnPort p) = true → (getXp s p).withdrawn = false → linkSupported w v = true →
    ∃ u, exec (.xpReady p (.mapped cap w v)) s = .next u ∧ fnReady u (fnPort p) = true ∧ getXp u p = { getXp s p with
        linkUp := true, width := w, speed := v, degraded := !(w == 4 && v == 6), capacity := min cap 262144 } ∧
      { besideWork u with fns := s.fns, xports := s.xports } = besideWork s) ∧
  (∀ (s : State) (c : CoreNo) (f : BitVec 5), comingUp s (fnCore c) = true → fnReady s (fnSram (coreTile c)) = true →
    inCoreMode s (coreTile c) = true → changingCore s c = false → resettingCore s c = false →
    ∃ u, exec (.coreReady c f) s = .next u ∧ mittenEntry u c = formedEntry s c f ∧
      (corePresent u c = true → fnReady u (fnCore c) = true ∧ getCore u c = getCore s c) ∧ (corePresent u c = false → fnState u (fnCore c) = 5) ∧
      ∀ m, m ≠ c → getCore u m = getCore s m) ∧
  (∀ (s : State) (f : Fin 367), s.pw.stage = .main → (1 ≤ f.val ∧ f.val < 66 ∨ 106 ≤ f.val ∧ f.val < 110) → fnState s f.val ≤ 1 →
    ∃ u, exec (.functionTimeout f) s = .next u ∧ fnState u f.val = 4 ∧ { besideReports u with fns := s.fns } = besideReports s)

/-- SET_SETTING and PERSIST_MAP (R39, R403, R412 to R415, R425): what is asked without authority, or out of range, or beyond the changes left is refused
with no setting changed; otherwise the setting has the value, and a limited one has its entry in the ledger; the running map, persisted, is the stored one.
A request that would write a flash that cannot be written fails and leaves it as it was (R416). WRITE_IMAGE, COMMIT_IMAGE, READ_AREA and READ_LEDGER (R407,
R413, R425), with authority: the bytes written stand in the slot, unsigned; a signed image has its header; an area's bytes stand in the request buffer; the
rest of Weala's flash is as it was. -/
def Obligations.RequestsAreServed : Prop :=
  ((∀ (s : State) (i : Instr) (src : ReqSource), reqSource i = some src → Arrives s i → authorised s i = false →
     ∃ u, exec i s = .next u ∧ u.weala.reqResult = resAuth ∧ u.weala.reqToken = srcToken src ∧ u.weala.settings = s.weala.settings ∧
       u.weala.fuses = s.weala.fuses ∧ u.weala.mapA = s.weala.mapA ∧ u.weala.mapB = s.weala.mapB ∧ u.weala.imageA = s.weala.imageA ∧
       u.weala.imageB = s.weala.imageB ∧ besideWork { u with weala := s.weala } = besideWork s) ∧
   (∀ (s : State) (src : ReqSource) (id : BitVec 16) (v : BitVec 256) (a : Auth), Arrives s (.setSetting src id v a) →
     authorised s (.setSetting src id v a) = true →
     ∃ u, exec (.setSetting src id v a) s = .next u ∧ u.weala.reqToken = srcToken src ∧ besideWork { u with weala := s.weala } = besideWork s ∧
       (if settingOk id.toNat v = false then u.weala.reqResult = resArgument ∧ u.weala.settings = s.weala.settings ∧ u.weala.fuses = s.weala.fuses
        else if settingValue s id.toNat = v.toNat then u.weala.reqResult = resUnchanged ∧ u.weala.settings = s.weala.settings ∧ u.weala.fuses = s.weala.fuses
        else if (changesAllowed id.toNat).isSome = true ∧ changesLeft s.weala id.toNat = 0 then
          u.weala.reqResult = resExhausted ∧ u.weala.settings = s.weala.settings ∧ u.weala.fuses = s.weala.fuses
        else if a.flashOk = false then u.weala.reqResult = resFlash ∧ u.weala.settings = s.weala.settings ∧ u.weala.fuses = s.weala.fuses
        else u.weala.reqResult = resOk ∧ settingValue u id.toNat = v.toNat ∧ (∀ n, n ≠ id.toNat → settingValue u n = settingValue s n) ∧
          u.weala.fuses = s.weala.fuses ++ (if (changesAllowed id.toNat).isSome then
            [{ id := id, index := changesMade s.weala id.toNat + 1, time := now s, quality := quality s, epoch := s.tb.epoch, value := v }] else []))) ∧
   (∀ (s : State) (src : ReqSource) (m : Option OfferedMap) (a : Auth), Arrives s (.persistMap src m a) → authorised s (.persistMap src m a) = true →
     ∃ u, exec (.persistMap src m a) s = .next u ∧ u.weala.reqToken = srcToken src ∧
       (changesLeft s.weala 2 = 0 → u.weala.reqResult = resExhausted ∧ u.weala.mapA = s.weala.mapA ∧ u.weala.mapB = s.weala.mapB) ∧
       (changesLeft s.weala 2 ≠ 0 → m = none → runningPersists s = false → u.weala.reqResult = resArgument ∧ flashPart u.weala = flashPart s.weala) ∧
       (changesLeft s.weala 2 ≠ 0 → m = none → runningPersists s = true → a.flashOk = true → u.weala.reqResult = resOk ∧ changesMade u.weala 2 = changesMade s.weala 2 + 1 ∧
         ∃ x, storedMap u.weala = some x ∧ x.entries = s.mitten ∧ x.grade = runningGrade s) ∧
       (∀ o, changesLeft s.weala 2 ≠ 0 → m = some o → clearsDefect s o.entries = true → o.camormetSigned = false → u.weala.reqResult ≠ resOk ∧
         u.weala.mapA = s.weala.mapA ∧ u.weala.mapB = s.weala.mapB))) ∧
  ((∀ (s : State) (i : Instr) (src : ReqSource), reqSource i = some src → Arrives s i → authorised s i = true → (reqAuth i).flashOk = false → reqOp i ≤ 4 →
     ∃ u, exec i s = .next u ∧ u.weala.reqResult ≠ resOk ∧ u.weala.reqToken = srcToken src ∧ flashPart u.weala = flashPart s.weala) ∧
   (∀ (s : State) (src : ReqSource) (b : Bool) (off : Nat) (d : List Byte) (a : Auth), Arrives s (.writeImage src b off d a) →
     authorised s (.writeImage src b off d a) = true → a.flashOk = true →
     ∃ u, exec (.writeImage src b off d a) s = .next u ∧ u.weala.settings = s.weala.settings ∧ u.weala.fuses = s.weala.fuses ∧
       getImage u.weala (!b) = getImage s.weala (!b) ∧
       (if slotFree s b = true ∧ d.length ≤ 3840 ∧ off + d.length ≤ 2 ^ 24 then
          u.weala.reqResult = resOk ∧ (getImage u.weala b).signed = false ∧ (∀ i, i < d.length → tget 0 (getImage u.weala b).data (off + i) = d.getD i 0) ∧
          ∀ i, i < off ∨ off + d.length ≤ i → tget 0 (getImage u.weala b).data i = tget 0 (getImage s.weala b).data i
        else u.weala.reqResult = resArgument ∧ getImage u.weala b = getImage s.weala b)) ∧
   (∀ (s : State) (src : ReqSource) (b : Bool) (ver : Nat) (gens : BitVec 2) (signed : Bool) (a : Auth), Arrives s (.commitImage src b ver gens signed a) →
     authorised s (.commitImage src b ver gens signed a) = true → a.flashOk = true → slotFree s b = true →
     ∃ u, exec (.commitImage src b ver gens signed a) s = .next u ∧ getImage u.weala (!b) = getImage s.weala (!b) ∧
       (if signed then u.weala.reqResult = resOk ∧ getImage u.weala b = { getImage s.weala b with version := ver, gens := gens, signed := true }
        else u.weala.reqResult = resSignature ∧ getImage u.weala b = getImage s.weala b)) ∧
   (∀ (s : State) (port : HostPort) (v : Word64) (x : FlashArea) (off n : Nat) (a : Auth), Arrives s (.readArea (.bar0 port v) x off n a) →
     authorised s (.readArea (.bar0 port v) x off n a) = true → n ≤ 3840 → off + n ≤ areaSize x →
     ∃ u, exec (.readArea (.bar0 port v) x off n a) s = .next u ∧ u.weala.reqResult = resOk ∧ flashPart u.weala = flashPart s.weala ∧
       ∀ i b, i < n → areaByte s.weala x (off + i) = some b → tget 0 u.weala.reqBuf (256 + i) = b) ∧
   (∀ (s : State) (src : ReqSource) (a : Auth), Arrives s (.readLedger src a) → authorised s (.readLedger src a) = true →
     ∃ u, exec (.readLedger src a) s = .next u ∧ u.weala.reqResult = resOk ∧ u.weala.reqToken = srcToken src ∧ flashPart u.weala = flashPart s.weala))

/-- The management endpoint (R478 to R480), on a binding that carries messages: MCTP control and PLDM each answer with what the module holds, and nothing
else changes. The answers' fields that are not the spec's are marked in the log. -/
def Obligations.ManagementAnswers : Prop :=
  ∀ (s : State) (b : Binding), bindingUp s b = true →
    exec (.getEndpointId b) s = .next (reply s b (.endpointId (tget 0 s.weala.eids (bindingIndex b)))) ∧
    exec (.getEndpointUuid b) s = .next (reply s b (.uuid Config.uuid)) ∧
    exec (.getMessageTypeSupport b) s = .next (reply s b (.types messageTypes)) ∧
    exec (.gettid b) s = .next (reply s b (.tid s.weala.tid)) ∧
    exec (.getpldmtypes b) s = .next (reply s b (.types [0, 2])) ∧
    exec (.getpdrrepositoryinfo b) s = .next (reply s b (.pdrInfo 71)) ∧
    (∀ e : Byte, e ≠ 0 → e ≠ 0xFF →
      exec (.setEndpointId b e) s = .next (reply { s with weala := { s.weala with eids := tput 0 s.weala.eids (bindingIndex b) e } } b (.endpointIdSet e)) ∧
      exec (.settid b e) s = .next (reply { s with weala := { s.weala with tid := e } } b .done)) ∧
    (∀ e : Byte, exec (.seteventreceiver b e) s = .next (reply { s with weala := { s.weala with receiver := some (b, e) } } b .done)) ∧
    (∀ t : Byte, (messageTypes.contains t = true → ∃ v, exec (.getMctpVersionSupport b t) s = .next (reply { s with freeCtr := s.freeCtr + 1 } b (.versions [v]))) ∧
      (messageTypes.contains t = false → exec (.getMctpVersionSupport b t) s = .next (reply s b .error))) ∧
    (∀ t : Byte, (t = 0 ∨ t = 2 → exec (.getpldmcommands b t) s = .next (reply s b (.commands (pldmCommands t.toNat))) ∧
        ∃ v, exec (.getpldmversion b t) s = .next (reply { s with freeCtr := s.freeCtr + 1 } b (.versions [v]))) ∧
      (t ≠ 0 → t ≠ 2 → exec (.getpldmcommands b t) s = .next (reply s b .error) ∧ exec (.getpldmversion b t) s = .next (reply s b .error))) ∧
    (∀ n : Nat, (n ≤ 71 → exec (.getpdr b n) s = .next (reply s b (.pdr (max 1 n) (max 1 n)))) ∧ (71 < n → exec (.getpdr b n) s = .next (reply s b .error)) ∧
      (∀ v, numericSensor s n = some v → exec (.getsensorreading b n) s = .next (reply s b (.reading n v))) ∧
      (numericSensor s n = none → exec (.getsensorreading b n) s = .next (reply s b .error)) ∧
      (69 ≤ n → n ≤ 71 → exec (.getstatesensorreadings b n) s = .next (reply s b (.stateReading n (stateSensor s n))))) ∧
    (b = .smbus → exec .mctpMessageRead s = .next { s with weala := { s.weala with smbOut := s.weala.smbOut.drop 1 } }) ∧
    exec .smbusClockLowTimeout s = .next s

/-! Power and heat. -/

/-- Throttling, sensors and the Visor (R428, R429, R432, R433, R437 to R439, R447 to R450, R457, R487). -/
def Obligations.HeatAndVisor : Prop :=
  (∀ (s : State) (vA vB iA iB : BitVec 16) (p : BitVec 32),
    (let l := effectiveLimit s vA vB
     let pw := { s.pw with vA := vA, vB := vB, iA := iA, iB := iB, power := p }
     let fast := allTiles.filter fun t => throttled s t && decide (16 < (getTile s t).freq)
     (s.pw.stage ≠ .main → exec (.throttleTick vA vB iA iB p) s = .next { s with pw := pw }) ∧
     (s.pw.stage = .main → s.pw.coolantLost = false → 115 * l < 100 * p.toNat → fast ≠ [] →
       ∃ u, exec (.throttleTick vA vB iA iB p) s = .next u ∧ (∀ t ∈ fast, (getTile u t).ceil = (getTile s t).freq - 1 ∧ (getTile u t).throttled = true) ∧
         (∀ t, t ∉ fast → getTile u t = getTile s t) ∧ u.pw = { pw with limitNow := BitVec.ofNat 32 l, ticksSinceLower := 0 }) ∧
     (s.pw.stage = .main → s.pw.coolantLost = false → p.toNat ≤ l → 97 * l ≤ 100 * p.toNat →
       (∀ t ∈ fast, (getTile s t).temp < (s.pw.throttleC.toNat * 4 : Int)) →
       exec (.throttleTick vA vB iA iB p) s = .next { s with pw := { pw with limitNow := BitVec.ofNat 32 l, ticksSinceLower := s.pw.ticksSinceLower + 1 } }))) ∧
  (∀ (s : State) (n : TileNo), throttled s n = true →
    (let goal := min (getTile s n).target.toNat (getTile s n).ceil
     exec (.freqStep n) s = .next (if (getTile s n).freq < goal then setTile s n { getTile s n with freq := (getTile s n).freq + 1 }
       else if goal < (getTile s n).freq then setTile s n { getTile s n with freq := (getTile s n).freq - 1 } else s))) ∧
  (∀ (s : State) (n : TileNo) (v : Int), s.pw.stage = .main → isHole s n = false → (getTile s n).sensorsFailed = 0 → (getTile s n).napForGood = false →
    (getTile s n).power = .run → (getTile s n).thermal = false → -80 ≤ v → v ≤ 560 →
    ∃ u, exec (.sensorSample n (List.replicate 16 v)) s = .next u ∧
      (if 460 ≤ v then u.pw.stage = .off ∧ u.tb = {} ∧ u.cores = []
       else (getTile u n).temp = v ∧ (getTile u n).sensorsFailed = 0 ∧ (∀ m, m ≠ n → getTile u m = getTile s m) ∧
         besideReports { u with tiles := s.tiles } = besideReports s ∧
         (if 420 ≤ v then (getTile u n).power = .nap ∧ (getTile u n).thermal = true else (getTile u n).power = .run))) ∧
  (∀ (s : State) (n : TileNo), (getTile s n).power = .nap → (getTile s n).thermal = true → (getTile s n).napForGood = false → (getTile s n).temp < 400 →
    ∃ u, exec (.thermalNapEnd n) s = .next u ∧
      OnlyReports (setTile s n (getTile u n)) u ∧ getTile u n = { getTile s n with thermal := false, ceil := 16, freq := 16, power := .run }) ∧
  (∀ (s : State) (v : VisorSample) (n : TileNo), s.pw.stage = .main → n = Fin.ofNat 64 (v.index / 4) → (tileDomains n).getLsbD (v.index % 4) = true →
    ((tget {} (getTile s n).visorPtr (v.index % 4)).wr - (tget {} (getTile s n).visorPtr (v.index % 4)).rd).toNat < 1024 →
    ∃ u, exec (.visorInterval [v]) s = .next u ∧
      (let p : VisorPtr := tget {} (getTile s n).visorPtr (v.index % 4)
       tget {} (getTile u n).visorPtr (v.index % 4) = { p with wr := p.wr + 1 } ∧
       tget 0 (getTile u n).visorHist ((v.index % 4) * 1024 + p.wr.toNat % 1024) = visorEntry s v ∧
       tget 0 (getTile u n).visorLast (v.index % 4) = visorEntry s v ∧
       ((tget vminEmpty s.pw.vmin v.index).toNat % 2 ^ 16 ≤ v.vmin.toNat → u.pw = s.pw) ∧
       (v.vmin.toNat < (tget vminEmpty s.pw.vmin v.index).toNat % 2 ^ 16 → (tget vminEmpty u.pw.vmin v.index).toNat % 2 ^ 16 = v.vmin.toNat) ∧
       { u with tiles := s.tiles, pw := s.pw } = s ∧ ∀ m, m ≠ n → getTile u m = getTile s m)) ∧
  (∀ (s : State) (port : HostPort) (i : Fin 256), (getHp s port).linkUp = true → (tileDomains (Fin.ofNat 64 (i.val / 4))).getLsbD (i.val % 4) = true →
    exec (.pwVminRead port i) s = .next { s with pw := { s.pw with
      vmin := tput vminEmpty s.pw.vmin i.val vminEmpty, vminRead := tput 0 s.pw.vminRead i.val ((tget vminEmpty s.pw.vmin i.val).extractLsb' 64 64) } }) ∧
  (∀ (s : State) (port : HostPort) (v : Word64), bar0Open s port true = true →
    (let w := pairVal v % 512
     (pairOk v = true → 100 ≤ w → w ≤ 300 → w ≤ settingValue s 3 → exec (.pwLimitWrite port v) s = .next { s with pw := { s.pw with limit := BitVec.ofNat 9 w } }) ∧
     (pairOk v = false ∨ w < 100 ∨ 300 < w ∨ settingValue s 3 < w → ∃ u, exec (.pwLimitWrite port v) s = .next u ∧ OnlyReports s u)))

/-- TL_PW_REQ (R443 to R446, R454, R462, R464): the four rows are one register write. With no objection a tile in RUN naps, or begins its entry into DOZE or
OFF, and one in DOZE or OFF begins to wake; with one it stays, the objectors are counted and the refusal is reported; during an entry or a wake the request
is held. AUTO_NAP_ENTRY and CLOCK_WAKE (R176, R443, R444). -/
def Obligations.PowerRequests : Prop :=
  (∀ (i : Instr) (s : State) (port : HostPort) (n : TileNo) (v : Word64),
    (i = .runRequest port n v ∨ i = .napRequest port n v ∨ i = .dozeRequest port n v ∨ i = .offRequest port n v) →
    bar0Open s port false = true → isHole s n = false →
    (let x := getTile s n
     let k := pairVal v % 8
     let y := { x with autoNap := (pairVal v).testBit 3, reqState := BitVec.ofNat 3 k }
     (pairOk v = false ∨ k = 1 ∨ 5 ≤ k → ∃ u, exec i s = .next u ∧ OnlyReports s u) ∧
     (∀ goal, pairOk v = true → goalOf k = some goal → (goal = .doze → x.retCompl = ~~~x.retWord) →
       (x.power = .entering ∨ x.power = .waking → exec i s = .next (setTile s n { x with heldReq := some v })) ∧
       (objections s n goal = 0 →
         (x.power = .run → goal = .nap → ∃ u, exec i s = .next u ∧ OnlyReports (setTile s n (getTile u n)) u ∧ getTile u n = { y with power := .nap }) ∧
         (x.power = .run → goal = .doze ∨ goal = .off → ∃ u, exec i s = .next u ∧ { u with tiles := s.tiles, escapeLoading := s.escapeLoading } = s ∧
           u.escapeLoading = true ∧ (∀ m, m ≠ n → getTile u m = getTile s m) ∧
           getTile u n = { y with power := .entering, goal := goal, fromState := .run, retained := if goal = .doze then x.retWord else 0 }) ∧
         (x.power = .doze ∨ x.power = .off → goal = .run ∨ goal = .nap → ∃ u, exec i s = .next u ∧ { u with tiles := s.tiles } = s ∧
           (∀ m, m ≠ n → getTile u m = getTile s m) ∧
           getTile u n = { y with power := .waking, goal := goal, fromState := x.power, ramping := tileDomains n &&& ~~~x.faulted, domainsUp := 0 })) ∧
       (objections s n goal ≠ 0 → x.power = .run ∨ x.power = .nap →
         ∃ u, exec i s = .next u ∧ (getTile u n).power = x.power ∧ OnlyReports (setTile s n (getTile u n)) u ∧
           ∀ j, j < 16 → (objections s n goal).testBit j = true → tget 0 (getTile u n).refuse j = satInc (tget 0 x.refuse j))))) ∧
  (∀ (s : State) (n : TileNo), (getTile s n).autoNap = true → (getTile s n).power = .run → isHole s n = false →
    (∀ c ∈ tileCores n, (getCore s c).slots = []) → objections s n .nap = 0 →
    ∃ u, exec (.autoNapEntry n) s = .next u ∧ OnlyReports (setTile s n { getTile s n with power := .nap }) u) ∧
  (∀ (s : State) (n : TileNo), (getTile s n).power = .nap → (getTile s n).thermal = false →
    ∃ u, exec (.clockWake n) s = .next u ∧ OnlyReports (setTile s n { getTile s n with power := .run }) u)

/-- Going down and waking (R442, R445, R446, R454, R459): with the tables loaded and the router empty a tile that is entering reaches its goal, its Clasps
latch and its functions are ABSENT; packets that do not leave bring it back, refused; a wake ramps, its Clasps are let go, and it completes in its goal.
What a tile keeps over its power is the model's reading (log 75). -/
def Obligations.TilesGoDownAndWake : Prop :=
  (∀ (s : State) (n : TileNo), (getTile s n).power = .entering → s.escapeLoading = false → (getTile s n).heldReq = none →
    (holdsPackets s n = false →
      ∃ u, exec (.powerDownDone n) s = .next u ∧ (getTile u n).power = (getTile s n).goal ∧
        (getTile u n).clasped = (getTile s n).clasped ||| tileDomains n ∧
        (getTile u n).domainsUp = (if (getTile s n).goal = .doze then (getTile s n).domainsUp &&& 2 else 0) ∧
        (∀ f ∈ [fnSram n] ++ (tileCores n).map fnCore ++ (tileStacks n).map fnStack, fnState u f = 5) ∧
        { besideWork u with fns := s.fns, xports := s.xports, hports := s.hports } = besideWork s) ∧
    (holdsPackets s n = true →
      ∃ u, exec (.fabricUndrainedTimeout n) s = .next u ∧ (getTile u n).power = (if (getTile s n).thermal then .nap else .run) ∧
        tget 0 (getTile u n).refuse 4 = satInc (tget 0 (getTile s n).refuse 4) ∧ u.escapeLoading = true ∧
        OnlyReports { setTile s n (getTile u n) with escapeLoading := true } u)) ∧
  (∀ (s : State) (n : TileNo), (getTile s n).power = .waking → (getTile s n).ramping ≠ 0 → (getTile s n).rampHeld = 0 →
    ∃ u, exec (.wakeRampDone n) s = .next u ∧ (getTile u n).power = .claspHeld ∧ (getTile u n).domainsUp = (getTile s n).ramping ∧
      (getTile u n).ramping = 0 ∧ (getTile u n).nodes = [] ∧ (getTile u n).station = {} ∧ (∀ d, getLink u n d = { down := (getLink s n d).down, frame := (getLink s n d).frame }) ∧
      (∀ c ∈ tileCores n, getCore u c = {}) ∧ (∀ c, c ∉ tileCores n → getCore u c = getCore s c) ∧
      (∀ k ∈ tileStacks n, getStack u k = { withdrawn := (getStack s k).withdrawn, cause := (getStack s k).cause }) ∧
      (∀ m, m ≠ n → getTile u m = getTile s m) ∧
      { u with cores := s.cores, tiles := s.tiles, hbm := s.hbm, cuffs := s.cuffs, xports := s.xports, hports := s.hports, ringTurn := s.ringTurn } = s) ∧
  (∀ (s : State) (port : HostPort) (v : Word64), bar0Open s port true = true → pairOk v = true →
    (let n : TileNo := Fin.ofNat 64 (pairVal v)
     let d : BitVec 4 := BitVec.ofNat 4 (pairVal v / 64)
     let x := getTile s n
     let left := x.clasped &&& ~~~(d &&& ~~~x.claspFault)
     (d &&& ~~~x.domainsUp = 0 → exec (.claspRelease port v) s = .next (setTile s n { x with
       clasped := left, power := if x.power == .claspHeld && left &&& ~~~x.claspFault == 0 then .waking else x.power })) ∧
     (d &&& ~~~x.domainsUp ≠ 0 → ∃ u, exec (.claspRelease port v) s = .next u ∧ OnlyReports s u))) ∧
  (∀ (s : State) (n : TileNo) (f : BitVec 20) (bad : BitVec 64), (getTile s n).power = .waking → (getTile s n).ramping = 0 →
    (getTile s n).clasped &&& ~~~(getTile s n).claspFault = 0 → (getTile s n).napForGood = false → (getTile s n).heldReq = none →
    ∃ u, exec (.wakeComplete n f bad) s = .next u ∧ (getTile u n).power = (getTile s n).goal ∧
      (getTile u n).freq = min (getTile s n).target.toNat (getTile s n).ceil ∧ u.escapeLoading = true ∧ fnReady u (fnSram n) = true ∧
      (∀ c ∈ tileCores n, if corePresent u c then fnReady u (fnCore c) = true else fnState u (fnCore c) = 5) ∧
      (∀ a i, i < 64 → (getTile s n).retained.getLsbD i = false → outsideRings s a →
        cmemBase (coreAt n 0) + i / 16 * 2 ^ 28 + i % 16 * 2 ^ 24 ≤ a → a < cmemBase (coreAt n 0) + i / 16 * 2 ^ 28 + i % 16 * 2 ^ 24 + 2 ^ 24 →
        memByte u a = 0))

/-- Domains and the bus (R427, R429, R431, R434 to R436): a domain that faults is off, its Clasps latched for good, and without VDDL the tile is a hole; a
phase, a sense point or a first aborted ramp less only leaves its mark; droops and lost pairs are reported. -/
def Obligations.DomainsAndBus : Prop :=
  (∀ (i : Instr) (s : State) (n : TileNo) (k : Fin 4), (i = .domainOvercurrent n k ∨ i = .softStartTimeout n k ∧ (getTile s n).ramping.getLsbD k.val = true) →
    domainLive s n k = true →
    ∃ u, exec i s = .next u ∧ (k.val = 0 → isHole u n = true) ∧
      (k.val ≠ 0 → (getTile u n).faulted = (getTile s n).faulted ||| domainBit k ∧ (getTile u n).claspFault = (getTile s n).claspFault ||| domainBit k ∧
        (getTile u n).domainsUp = (getTile s n).domainsUp &&& ~~~(domainBit k) ∧ u.holes = s.holes) ∧
      (k.val = 1 → ∀ c ∈ tileCores n, clusterState (mittenEntry u c) = 2 ∧ bankFail (mittenEntry u c) = true) ∧
      (k.val = 2 → ∀ st ∈ tileStacks n, (getStack u st).withdrawn = true)) ∧
  (∀ (s : State) (n : TileNo), domainLive s n 0 = true → (getTile s n).phases.toNat = 15 ∨ (getTile s n).phases.toNat = 16 →
    ∃ u, exec (.vddlPhaseLoss n) s = .next u ∧ (getTile u n).phases = (getTile s n).phases - 1 ∧ (getTile u n).ceil ≤ 36 ∧
      { u with tiles := s.tiles } = s ∧ ∀ m, m ≠ n → getTile u m = getTile s m) ∧
  (∀ (s : State) (n : TileNo), domainLive s n 0 = true → (getTile s n).phases.toNat = 14 → ∃ u, exec (.vddlPhaseLoss n) s = .next u ∧ isHole u n = true) ∧
  (∀ (s : State) (n : TileNo) (k : Fin 4), domainLive s n k = true → tget 0 (getTile s n).senseLost k.val + 1 < (if k = 0 then 4 else 2) →
    exec (.senseLineOpen n k) s =
      .next (setTile s n { getTile s n with senseLost := tput 0 (getTile s n).senseLost k.val (tget 0 (getTile s n).senseLost k.val + 1) })) ∧
  (∀ (s : State) (n : TileNo) (k : Fin 4), (getTile s n).rampHeld.getLsbD k.val = true →
    ((getTile s n).power ≠ .waking → (getTile s n).rampRetried = 0 → exec (.rampAbort n k) s = .next (setTile s n { getTile s n with
      rampHeld := (getTile s n).rampHeld &&& ~~~(domainBit k), rampRetried := (getTile s n).rampRetried ||| domainBit k })) ∧
    ((getTile s n).power = .waking → (getTile s n).heldReq = none → ∃ u, exec (.rampAbort n k) s = .next u ∧ (getTile u n).power = (getTile s n).fromState ∧
      (getTile u n).ramping = 0 ∧ tget 0 (getTile u n).refuse 12 = satInc (tget 0 (getTile s n).refuse 12) ∧ OnlyReports (setTile s n (getTile u n)) u)) ∧
  (∀ (s : State) (vA vB : BitVec 16), s.pw.stage = .main →
    (s.pw.drooped = false → busVolts vA vB < s.pw.busMin.toNat * 10 → ∃ u, exec (.busDroop vA vB) s = .next u ∧ OnlyReports { s with
      pw := { s.pw with vA := vA, vB := vB, drooped := true }, tiles := tmap {} (fun _ x => { x with rampHeld := x.ramping }) s.tiles } u) ∧
    (s.pw.drooped = true → s.pw.busMin.toNat * 10 + 50 ≤ busVolts vA vB → ∃ u, exec (.rampResume vA vB) s = .next u ∧ OnlyReports { s with
      pw := { s.pw with vA := vA, vB := vB, drooped := false }, tiles := tmap {} (fun _ x => { x with rampHeld := 0 }) s.tiles } u)) ∧
  (∀ (s : State) (v : BitVec 16), s.pw.stage = .main →
    (v.toNat < 4400 → 4400 ≤ s.pw.vB.toNat → s.pw.lostA = false →
      ∃ u, exec (.busPairLost .A v) s = .next u ∧ OnlyReports { s with pw := { s.pw with vA := v, lostA := true } } u) ∧
    (v.toNat < 4400 → 4400 ≤ s.pw.vA.toNat → s.pw.lostB = false →
      ∃ u, exec (.busPairLost .B v) s = .next u ∧ OnlyReports { s with pw := { s.pw with vB := v, lostB := true } } u) ∧
    (4400 ≤ v.toNat → s.pw.lostA = true →
      ∃ u, exec (.busPairRecovered .A v) s = .next u ∧ OnlyReports { s with pw := { s.pw with vA := v, lostA := false } } u) ∧
    (4400 ≤ v.toNat → s.pw.lostB = true →
      ∃ u, exec (.busPairRecovered .B v) s = .next u ∧ OnlyReports { s with pw := { s.pw with vB := v, lostB := false } } u))

/-- Main power and its interlocks (R397, R452, R453, R471, R472): each cause of a shutdown switches main power off, with it the time base and every unit,
and asks for a new PWR_EN; losing Weala takes all but flash, fuses and the platform's pins; coolant and PWR_EN move start-up and the clamp. -/
def Obligations.MainPowerAndInterlocks : Prop :=
  (∀ (i : Instr) (s : State), s.pw.stage = .main → s.weala.reqQueue = [] →
    (i = .undervoltageShutdown ∨ i = .overvoltageShutdown ∨ i = .coolantTimeout ∧ s.pw.coolantLost = true ∨ i = .pwrEnDeassert ∧ s.pw.pwrEn = true) →
    ∃ u, exec i s = .next u ∧ u.pw.stage = .off ∧ u.pw.modReady = false ∧ u.pw.shelfEn = false ∧ u.pw.needPwrEnCycle = true ∧ u.pw.pumpReq = s.pw.pumpReq ∧
      u.tb = {} ∧ u.cores = [] ∧ u.parts = [] ∧ u.rings = [] ∧ u.packets = [] ∧ u.mitten = [] ∧ u.weala.fuses = s.weala.fuses ∧
      u.weala.settings = s.weala.settings ∧ (∀ a, memByte u a = if 2 ^ 53 ≤ a then memByte u a else 0)) ∧
  (∀ (i : Instr) (s : State), (i = .auxLoss ∨ i = .watchdogExpiry ∧ s.weala.running = true) →
    ∃ u, exec i s = .next u ∧ u.weala.running = false ∧ u.pw.stage = .off ∧ u.fns = [] ∧ u.weala.fuses = s.weala.fuses ∧ u.weala.records = s.weala.records ∧
      (s.pw.stage = .main → u.tb = {} ∧ u.cores = [] ∧ u.parts = [] ∧ u.rings = []) ∧ (i = .auxLoss → u.pw.aux = false)) ∧
  (∀ s : State,
    ((s.pw.stage = .main → s.pw.coolantLost = true → ∃ u, exec .coolantOkAssert s = .next u ∧
        OnlyReports { s with pw := { s.pw with coolantOk := true, coolantLost := false } } u) ∧
     (s.pw.stage = .waitCoolant → ∃ u, exec .coolantOkAssert s = .next u ∧
        u.pw = { s.pw with coolantOk := true, coolantLost := false, stage := .waitMain, shelfEn := true } ∧ besideReports { u with pw := s.pw } = besideReports s)) ∧
    (s.pw.coolantOk = true →
      (s.pw.stage = .main → ∃ u, exec .coolantLoss s = .next u ∧ u.pw = { s.pw with coolantOk := false, coolantLost := true } ∧
        (∀ n, getTile u n = { getTile s n with ceil := 16 }) ∧ besideReports { u with pw := s.pw, tiles := s.tiles } = besideReports s) ∧
      (s.pw.stage = .waitMain → ∃ u, exec .coolantLoss s = .next u ∧ u.pw = { s.pw with coolantOk := false, stage := .waitCoolant, shelfEn := false } ∧
        besideReports { u with pw := s.pw } = besideReports s)) ∧
    (s.pw.pwrEn = false → s.pw.stage = .off → s.weala.running = true → s.weala.recovery = false → s.pw.coolantOk = false →
      exec .pwrEnAssert s = .next { s with pw := { s.pw with pwrEn := true, needPwrEnCycle := false, stage := .waitCoolant, pumpReq := true, pumpHold := false } }) ∧
    (s.pw.pumpHold = true → exec .pumpHoldExpiry s = .next { s with pw := { s.pw with pumpHold := false, pumpReq := false } }))
end

