-- ==== Sys2Proof/Laws/Tables.lean ====
section
/-!
SUPPORT. The tables: what entry reads after a write, and the canonical form, which every operation on a table keeps.
-/
namespace Sys2Proof.Machine
open Sys2Proof

variable {α : Type}

/-- The canonical form of a table: indices rising, no entry at the default. -/
def Canonical (d : α) (t : Tbl α) : Prop := t.Pairwise (fun a b => a.1 < b.1) ∧ ∀ e ∈ t, e.2 ≠ d

@[simp] theorem tget_nil (d : α) (k : Nat) : tget d [] k = d := rfl

/-- Dropping entries by their index leaves the others. -/
theorem tget_filter (d : α) (p : Nat → Bool) (t : Tbl α) (k : Nat) :
    tget d (t.filter fun e => p e.1) k = if p k then tget d t k else d := by
  induction t with
  | nil => simp
  | cons e r ih =>
    obtain ⟨j, w⟩ := e
    by_cases hj : p j
    · simp only [List.filter_cons, hj, if_true, tget]
      by_cases hk : j = k
      · subst hk; simp [hj]
      · simp [hk, ih]
    · simp only [List.filter_cons, hj, tget]
      by_cases hk : j = k
      · subst hk; simp [ih, hj]
      · simp [hk, ih]

theorem canonical_nil (d : α) : Canonical d ([] : Tbl α) := by simp [Canonical]

theorem tget_of_mem (d : α) {t : Tbl α} (h : t.Pairwise fun a b => a.1 < b.1) {e : Nat × α} (he : e ∈ t) : tget d t e.1 = e.2 := by
  induction t with
  | nil => simp at he
  | cons x r ih =>
    obtain ⟨hx, hr⟩ := List.pairwise_cons.mp h
    rcases List.mem_cons.mp he with rfl | he'
    · simp [tget]
    · have := hx e he'
      simp only [tget, if_neg (Nat.ne_of_lt this)]
      exact ih hr he'

section
variable [DecidableEq α]

@[simp] theorem tget_tput_same (d : α) (t : Tbl α) (k : Nat) (v : α) : tget d (tput d t k v) k = v := by
  induction t with
  | nil => by_cases h : v = d <;> simp [tput, tget, h]
  | cons e r ih =>
    obtain ⟨j, w⟩ := e
    by_cases h1 : k < j
    · by_cases h2 : v = d
      · subst h2; simp [tput, tget, h1, Nat.ne_of_gt h1, ih]
      · simp [tput, tget, h1, h2]
    · by_cases h3 : k = j
      · by_cases h2 : v = d
        · subst h2; simp [tput, h3]; rw [← h3]; exact ih
        · simp [tput, tget, h3, h2]
      · simp [tput, tget, h1, h3, Ne.symm h3, ih]

theorem tget_tput_other (d : α) (t : Tbl α) {j k : Nat} (v : α) (h : j ≠ k) : tget d (tput d t k v) j = tget d t j := by
  induction t with
  | nil => by_cases h2 : v = d <;> simp [tput, tget, h2, Ne.symm h]
  | cons e r ih =>
    obtain ⟨i, w⟩ := e
    by_cases h1 : k < i
    · by_cases h2 : v = d
      · subst h2; simp [tput, tget, h1, ih]
      · simp [tput, tget, h1, h2, Ne.symm h]
    · by_cases h3 : k = i
      · subst h3
        by_cases h2 : v = d
        · subst h2; simp [tput, tget, Ne.symm h, ih]
        · simp [tput, tget, h2, Ne.symm h]
      · simp [tput, tget, h1, h3, ih]

theorem tget_tput (d : α) (t : Tbl α) (j k : Nat) (v : α) : tget d (tput d t k v) j = if j = k then v else tget d t j := by
  by_cases h : j = k
  · subst h; simp
  · simp [h, tget_tput_other d t v h]

/-- Mapping a table whose default maps to itself maps every entry. -/
theorem tget_tmap (d : α) (f : Nat → α → α) (t : Tbl α) (k : Nat) (h : f k d = d) : tget d (tmap d f t) k = f k (tget d t k) := by
  induction t with
  | nil => simp [tmap, h]
  | cons e r ih =>
    obtain ⟨j, w⟩ := e
    simp only [tmap, tget_tput, tget]
    by_cases hk : k = j
    · subst hk; simp
    · simp [hk, Ne.symm hk, ih]

/-! The canonical form. -/

theorem tput_keys (d : α) (t : Tbl α) (k : Nat) (v : α) : ∀ e ∈ tput d t k v, e.1 = k ∨ e ∈ t := by
  induction t with
  | nil => intro e he; by_cases h : v = d <;> simp [tput, h] at he; exact .inl (by simp [he])
  | cons x r ih =>
    obtain ⟨j, w⟩ := x
    intro e he
    by_cases h1 : k < j <;> by_cases h2 : v = d <;> by_cases h3 : k = j <;> simp_all [tput] <;> grind

theorem tput_canonical (d : α) (t : Tbl α) (k : Nat) (v : α) (h : Canonical d t) : Canonical d (tput d t k v) := by
  induction t with
  | nil => by_cases h2 : v = d <;> simp [tput, Canonical, h2]
  | cons x r ih =>
    obtain ⟨j, w⟩ := x
    obtain ⟨hp, hd⟩ := h
    obtain ⟨hj, hr⟩ := List.pairwise_cons.mp hp
    have hw : w ≠ d := hd (j, w) (List.mem_cons_self ..)
    have hrd : ∀ e ∈ r, e.2 ≠ d := fun e he => hd e (List.mem_cons_of_mem _ he)
    have ih := ih ⟨hr, hrd⟩
    have keep (hk : v = d ∨ j < k) : Canonical d ((j, w) :: tput d r k v) := by
      refine ⟨List.pairwise_cons.mpr ⟨fun e he => ?_, ih.1⟩, List.forall_mem_cons.mpr ⟨hw, ih.2⟩⟩
      rcases tput_keys d r k v e he with hek | hm
      · have hg := tget_of_mem d ih.1 he
        rw [hek, tget_tput_same] at hg
        have := ih.2 e he
        rcases hk with rfl | hk
        · exact absurd hg.symm this
        · simpa [hek] using hk
      · exact hj e hm
    by_cases h2 : v = d
    · have keep := keep (.inl h2)
      subst h2
      by_cases h3 : k = j
      · subst h3; simpa [tput] using ih
      · by_cases h1 : k < j <;> simpa [tput, h1, h3] using keep
    · by_cases h1 : k < j
      · simp only [tput, h1, h2, if_true, if_false]
        refine ⟨List.pairwise_cons.mpr ⟨List.forall_mem_cons.mpr ⟨h1, fun e he => Nat.lt_trans h1 (hj e he)⟩, hp⟩,
          List.forall_mem_cons.mpr ⟨h2, hd⟩⟩
      · by_cases h3 : k = j
        · subst h3
          simp only [tput, h2, if_true, Nat.lt_irrefl, if_false]
          exact ⟨List.pairwise_cons.mpr ⟨hj, hr⟩, List.forall_mem_cons.mpr ⟨h2, hrd⟩⟩
        · simp only [tput, h1, h3, if_false]; exact keep (.inr (by omega))

theorem tmap_canonical (d : α) (f : Nat → α → α) (t : Tbl α) : Canonical d (tmap d f t) := by
  induction t with
  | nil => exact canonical_nil d
  | cons e r ih => exact tput_canonical d _ _ _ ih

end

theorem filter_canonical (d : α) (p : Nat × α → Bool) (t : Tbl α) (h : Canonical d t) : Canonical d (t.filter p) :=
  ⟨h.1.filter _, fun e he => h.2 e (List.mem_filter.mp he).1⟩

end Sys2Proof.Machine
end

