-- ==== Sys2Proof/Laws/State.lean ====
section
/-!
SUPPORT. State: what each update leaves of each field, and what a unit reads as after it is set.
-/
namespace Sys2Proof.Machine
open Sys2Proof

/-! One field after one update. -/

@[simp] theorem setCore_pending (s : State) (c : CoreNo) (v : Core) : (setCore s c v).pending = s.pending := rfl
@[simp] theorem setCore_freeCtr (s : State) (c : CoreNo) (v : Core) : (setCore s c v).freeCtr = s.freeCtr := rfl
@[simp] theorem setCore_mem (s : State) (c : CoreNo) (v : Core) : (setCore s c v).mem = s.mem := rfl
@[simp] theorem setCore_poison (s : State) (c : CoreNo) (v : Core) : (setCore s c v).poison = s.poison := rfl
@[simp] theorem setCore_writeback (s : State) (c : CoreNo) (v : Core) : (setCore s c v).writeback = s.writeback := rfl
@[simp] theorem setCore_pages (s : State) (c : CoreNo) (v : Core) : (setCore s c v).pages = s.pages := rfl
@[simp] theorem setCore_pageRuns (s : State) (c : CoreNo) (v : Core) : (setCore s c v).pageRuns = s.pageRuns := rfl
@[simp] theorem setCore_palms (s : State) (c : CoreNo) (v : Core) : (setCore s c v).palms = s.palms := rfl
@[simp] theorem setCore_parts (s : State) (c : CoreNo) (v : Core) : (setCore s c v).parts = s.parts := rfl
@[simp] theorem setCore_cuffs (s : State) (c : CoreNo) (v : Core) : (setCore s c v).cuffs = s.cuffs := rfl
@[simp] theorem setCore_rings (s : State) (c : CoreNo) (v : Core) : (setCore s c v).rings = s.rings := rfl
@[simp] theorem setCore_ctxs (s : State) (c : CoreNo) (v : Core) : (setCore s c v).ctxs = s.ctxs := rfl
@[simp] theorem setCore_hbm (s : State) (c : CoreNo) (v : Core) : (setCore s c v).hbm = s.hbm := rfl
@[simp] theorem setCore_xports (s : State) (c : CoreNo) (v : Core) : (setCore s c v).xports = s.xports := rfl
@[simp] theorem setCore_hports (s : State) (c : CoreNo) (v : Core) : (setCore s c v).hports = s.hports := rfl
@[simp] theorem setCore_tiles (s : State) (c : CoreNo) (v : Core) : (setCore s c v).tiles = s.tiles := rfl
@[simp] theorem setCore_packets (s : State) (c : CoreNo) (v : Core) : (setCore s c v).packets = s.packets := rfl
@[simp] theorem setCore_bursts (s : State) (c : CoreNo) (v : Core) : (setCore s c v).bursts = s.bursts := rfl
@[simp] theorem setCore_escape (s : State) (c : CoreNo) (v : Core) : (setCore s c v).escape = s.escape := rfl
@[simp] theorem setCore_escapeLoading (s : State) (c : CoreNo) (v : Core) : (setCore s c v).escapeLoading = s.escapeLoading := rfl
@[simp] theorem setCore_quietDue (s : State) (c : CoreNo) (v : Core) : (setCore s c v).quietDue = s.quietDue := rfl
@[simp] theorem setCore_mitten (s : State) (c : CoreNo) (v : Core) : (setCore s c v).mitten = s.mitten := rfl
@[simp] theorem setCore_holes (s : State) (c : CoreNo) (v : Core) : (setCore s c v).holes = s.holes := rfl
@[simp] theorem setCore_gradeStored (s : State) (c : CoreNo) (v : Core) : (setCore s c v).gradeStored = s.gradeStored := rfl
@[simp] theorem setCore_changes (s : State) (c : CoreNo) (v : Core) : (setCore s c v).changes = s.changes := rfl
@[simp] theorem setCore_resets (s : State) (c : CoreNo) (v : Core) : (setCore s c v).resets = s.resets := rfl
@[simp] theorem setCore_owning (s : State) (c : CoreNo) (v : Core) : (setCore s c v).owning = s.owning := rfl
@[simp] theorem setCore_setup (s : State) (c : CoreNo) (v : Core) : (setCore s c v).setup = s.setup := rfl
@[simp] theorem setCore_fns (s : State) (c : CoreNo) (v : Core) : (setCore s c v).fns = s.fns := rfl
@[simp] theorem setCore_tb (s : State) (c : CoreNo) (v : Core) : (setCore s c v).tb = s.tb := rfl
@[simp] theorem setCore_weala (s : State) (c : CoreNo) (v : Core) : (setCore s c v).weala = s.weala := rfl
@[simp] theorem setCore_pw (s : State) (c : CoreNo) (v : Core) : (setCore s c v).pw = s.pw := rfl
@[simp] theorem setCore_msix (s : State) (c : CoreNo) (v : Core) : (setCore s c v).msix = s.msix := rfl
@[simp] theorem setCore_liners (s : State) (c : CoreNo) (v : Core) : (setCore s c v).liners = s.liners := rfl
@[simp] theorem setCore_taskCtr (s : State) (c : CoreNo) (v : Core) : (setCore s c v).taskCtr = s.taskCtr := rfl
@[simp] theorem setCore_msixPending (s : State) (c : CoreNo) (v : Core) : (setCore s c v).msixPending = s.msixPending := rfl
@[simp] theorem setCore_ringTurn (s : State) (c : CoreNo) (v : Core) : (setCore s c v).ringTurn = s.ringTurn := rfl

@[simp] theorem setPart_pending (s : State) (p : PartNo) (v : Partition) : (setPart s p v).pending = s.pending := rfl
@[simp] theorem setPart_freeCtr (s : State) (p : PartNo) (v : Partition) : (setPart s p v).freeCtr = s.freeCtr := rfl
@[simp] theorem setPart_mem (s : State) (p : PartNo) (v : Partition) : (setPart s p v).mem = s.mem := rfl
@[simp] theorem setPart_poison (s : State) (p : PartNo) (v : Partition) : (setPart s p v).poison = s.poison := rfl
@[simp] theorem setPart_writeback (s : State) (p : PartNo) (v : Partition) : (setPart s p v).writeback = s.writeback := rfl
@[simp] theorem setPart_pages (s : State) (p : PartNo) (v : Partition) : (setPart s p v).pages = s.pages := rfl
@[simp] theorem setPart_pageRuns (s : State) (p : PartNo) (v : Partition) : (setPart s p v).pageRuns = s.pageRuns := rfl
@[simp] theorem setPart_cores (s : State) (p : PartNo) (v : Partition) : (setPart s p v).cores = s.cores := rfl
@[simp] theorem setPart_palms (s : State) (p : PartNo) (v : Partition) : (setPart s p v).palms = s.palms := rfl
@[simp] theorem setPart_cuffs (s : State) (p : PartNo) (v : Partition) : (setPart s p v).cuffs = s.cuffs := rfl
@[simp] theorem setPart_rings (s : State) (p : PartNo) (v : Partition) : (setPart s p v).rings = s.rings := rfl
@[simp] theorem setPart_ctxs (s : State) (p : PartNo) (v : Partition) : (setPart s p v).ctxs = s.ctxs := rfl
@[simp] theorem setPart_hbm (s : State) (p : PartNo) (v : Partition) : (setPart s p v).hbm = s.hbm := rfl
@[simp] theorem setPart_xports (s : State) (p : PartNo) (v : Partition) : (setPart s p v).xports = s.xports := rfl
@[simp] theorem setPart_hports (s : State) (p : PartNo) (v : Partition) : (setPart s p v).hports = s.hports := rfl
@[simp] theorem setPart_tiles (s : State) (p : PartNo) (v : Partition) : (setPart s p v).tiles = s.tiles := rfl
@[simp] theorem setPart_packets (s : State) (p : PartNo) (v : Partition) : (setPart s p v).packets = s.packets := rfl
@[simp] theorem setPart_bursts (s : State) (p : PartNo) (v : Partition) : (setPart s p v).bursts = s.bursts := rfl
@[simp] theorem setPart_escape (s : State) (p : PartNo) (v : Partition) : (setPart s p v).escape = s.escape := rfl
@[simp] theorem setPart_escapeLoading (s : State) (p : PartNo) (v : Partition) : (setPart s p v).escapeLoading = s.escapeLoading := rfl
@[simp] theorem setPart_quietDue (s : State) (p : PartNo) (v : Partition) : (setPart s p v).quietDue = s.quietDue := rfl
@[simp] theorem setPart_mitten (s : State) (p : PartNo) (v : Partition) : (setPart s p v).mitten = s.mitten := rfl
@[simp] theorem setPart_holes (s : State) (p : PartNo) (v : Partition) : (setPart s p v).holes = s.holes := rfl
@[simp] theorem setPart_gradeStored (s : State) (p : PartNo) (v : Partition) : (setPart s p v).gradeStored = s.gradeStored := rfl
@[simp] theorem setPart_changes (s : State) (p : PartNo) (v : Partition) : (setPart s p v).changes = s.changes := rfl
@[simp] theorem setPart_resets (s : State) (p : PartNo) (v : Partition) : (setPart s p v).resets = s.resets := rfl
@[simp] theorem setPart_owning (s : State) (p : PartNo) (v : Partition) : (setPart s p v).owning = s.owning := rfl
@[simp] theorem setPart_setup (s : State) (p : PartNo) (v : Partition) : (setPart s p v).setup = s.setup := rfl
@[simp] theorem setPart_fns (s : State) (p : PartNo) (v : Partition) : (setPart s p v).fns = s.fns := rfl
@[simp] theorem setPart_tb (s : State) (p : PartNo) (v : Partition) : (setPart s p v).tb = s.tb := rfl
@[simp] theorem setPart_weala (s : State) (p : PartNo) (v : Partition) : (setPart s p v).weala = s.weala := rfl
@[simp] theorem setPart_pw (s : State) (p : PartNo) (v : Partition) : (setPart s p v).pw = s.pw := rfl
@[simp] theorem setPart_msix (s : State) (p : PartNo) (v : Partition) : (setPart s p v).msix = s.msix := rfl
@[simp] theorem setPart_liners (s : State) (p : PartNo) (v : Partition) : (setPart s p v).liners = s.liners := rfl
@[simp] theorem setPart_taskCtr (s : State) (p : PartNo) (v : Partition) : (setPart s p v).taskCtr = s.taskCtr := rfl
@[simp] theorem setPart_msixPending (s : State) (p : PartNo) (v : Partition) : (setPart s p v).msixPending = s.msixPending := rfl
@[simp] theorem setPart_ringTurn (s : State) (p : PartNo) (v : Partition) : (setPart s p v).ringTurn = s.ringTurn := rfl

@[simp] theorem setCuff_pending (s : State) (n : CuffNo) (v : Cuff) : (setCuff s n v).pending = s.pending := rfl
@[simp] theorem setCuff_freeCtr (s : State) (n : CuffNo) (v : Cuff) : (setCuff s n v).freeCtr = s.freeCtr := rfl
@[simp] theorem setCuff_mem (s : State) (n : CuffNo) (v : Cuff) : (setCuff s n v).mem = s.mem := rfl
@[simp] theorem setCuff_poison (s : State) (n : CuffNo) (v : Cuff) : (setCuff s n v).poison = s.poison := rfl
@[simp] theorem setCuff_writeback (s : State) (n : CuffNo) (v : Cuff) : (setCuff s n v).writeback = s.writeback := rfl
@[simp] theorem setCuff_pages (s : State) (n : CuffNo) (v : Cuff) : (setCuff s n v).pages = s.pages := rfl
@[simp] theorem setCuff_pageRuns (s : State) (n : CuffNo) (v : Cuff) : (setCuff s n v).pageRuns = s.pageRuns := rfl
@[simp] theorem setCuff_cores (s : State) (n : CuffNo) (v : Cuff) : (setCuff s n v).cores = s.cores := rfl
@[simp] theorem setCuff_palms (s : State) (n : CuffNo) (v : Cuff) : (setCuff s n v).palms = s.palms := rfl
@[simp] theorem setCuff_parts (s : State) (n : CuffNo) (v : Cuff) : (setCuff s n v).parts = s.parts := rfl
@[simp] theorem setCuff_rings (s : State) (n : CuffNo) (v : Cuff) : (setCuff s n v).rings = s.rings := rfl
@[simp] theorem setCuff_ctxs (s : State) (n : CuffNo) (v : Cuff) : (setCuff s n v).ctxs = s.ctxs := rfl
@[simp] theorem setCuff_hbm (s : State) (n : CuffNo) (v : Cuff) : (setCuff s n v).hbm = s.hbm := rfl
@[simp] theorem setCuff_xports (s : State) (n : CuffNo) (v : Cuff) : (setCuff s n v).xports = s.xports := rfl
@[simp] theorem setCuff_hports (s : State) (n : CuffNo) (v : Cuff) : (setCuff s n v).hports = s.hports := rfl
@[simp] theorem setCuff_tiles (s : State) (n : CuffNo) (v : Cuff) : (setCuff s n v).tiles = s.tiles := rfl
@[simp] theorem setCuff_packets (s : State) (n : CuffNo) (v : Cuff) : (setCuff s n v).packets = s.packets := rfl
@[simp] theorem setCuff_bursts (s : State) (n : CuffNo) (v : Cuff) : (setCuff s n v).bursts = s.bursts := rfl
@[simp] theorem setCuff_escape (s : State) (n : CuffNo) (v : Cuff) : (setCuff s n v).escape = s.escape := rfl
@[simp] theorem setCuff_escapeLoading (s : State) (n : CuffNo) (v : Cuff) : (setCuff s n v).escapeLoading = s.escapeLoading := rfl
@[simp] theorem setCuff_quietDue (s : State) (n : CuffNo) (v : Cuff) : (setCuff s n v).quietDue = s.quietDue := rfl
@[simp] theorem setCuff_mitten (s : State) (n : CuffNo) (v : Cuff) : (setCuff s n v).mitten = s.mitten := rfl
@[simp] theorem setCuff_holes (s : State) (n : CuffNo) (v : Cuff) : (setCuff s n v).holes = s.holes := rfl
@[simp] theorem setCuff_gradeStored (s : State) (n : CuffNo) (v : Cuff) : (setCuff s n v).gradeStored = s.gradeStored := rfl
@[simp] theorem setCuff_changes (s : State) (n : CuffNo) (v : Cuff) : (setCuff s n v).changes = s.changes := rfl
@[simp] theorem setCuff_resets (s : State) (n : CuffNo) (v : Cuff) : (setCuff s n v).resets = s.resets := rfl
@[simp] theorem setCuff_owning (s : State) (n : CuffNo) (v : Cuff) : (setCuff s n v).owning = s.owning := rfl
@[simp] theorem setCuff_setup (s : State) (n : CuffNo) (v : Cuff) : (setCuff s n v).setup = s.setup := rfl
@[simp] theorem setCuff_fns (s : State) (n : CuffNo) (v : Cuff) : (setCuff s n v).fns = s.fns := rfl
@[simp] theorem setCuff_tb (s : State) (n : CuffNo) (v : Cuff) : (setCuff s n v).tb = s.tb := rfl
@[simp] theorem setCuff_weala (s : State) (n : CuffNo) (v : Cuff) : (setCuff s n v).weala = s.weala := rfl
@[simp] theorem setCuff_pw (s : State) (n : CuffNo) (v : Cuff) : (setCuff s n v).pw = s.pw := rfl
@[simp] theorem setCuff_msix (s : State) (n : CuffNo) (v : Cuff) : (setCuff s n v).msix = s.msix := rfl
@[simp] theorem setCuff_liners (s : State) (n : CuffNo) (v : Cuff) : (setCuff s n v).liners = s.liners := rfl
@[simp] theorem setCuff_taskCtr (s : State) (n : CuffNo) (v : Cuff) : (setCuff s n v).taskCtr = s.taskCtr := rfl
@[simp] theorem setCuff_msixPending (s : State) (n : CuffNo) (v : Cuff) : (setCuff s n v).msixPending = s.msixPending := rfl
@[simp] theorem setCuff_ringTurn (s : State) (n : CuffNo) (v : Cuff) : (setCuff s n v).ringTurn = s.ringTurn := rfl

@[simp] theorem setRing_pending (s : State) (r : Nat) (v : Ring) : (setRing s r v).pending = s.pending := rfl
@[simp] theorem setRing_freeCtr (s : State) (r : Nat) (v : Ring) : (setRing s r v).freeCtr = s.freeCtr := rfl
@[simp] theorem setRing_mem (s : State) (r : Nat) (v : Ring) : (setRing s r v).mem = s.mem := rfl
@[simp] theorem setRing_poison (s : State) (r : Nat) (v : Ring) : (setRing s r v).poison = s.poison := rfl
@[simp] theorem setRing_writeback (s : State) (r : Nat) (v : Ring) : (setRing s r v).writeback = s.writeback := rfl
@[simp] theorem setRing_pages (s : State) (r : Nat) (v : Ring) : (setRing s r v).pages = s.pages := rfl
@[simp] theorem setRing_pageRuns (s : State) (r : Nat) (v : Ring) : (setRing s r v).pageRuns = s.pageRuns := rfl
@[simp] theorem setRing_cores (s : State) (r : Nat) (v : Ring) : (setRing s r v).cores = s.cores := rfl
@[simp] theorem setRing_palms (s : State) (r : Nat) (v : Ring) : (setRing s r v).palms = s.palms := rfl
@[simp] theorem setRing_parts (s : State) (r : Nat) (v : Ring) : (setRing s r v).parts = s.parts := rfl
@[simp] theorem setRing_cuffs (s : State) (r : Nat) (v : Ring) : (setRing s r v).cuffs = s.cuffs := rfl
@[simp] theorem setRing_ctxs (s : State) (r : Nat) (v : Ring) : (setRing s r v).ctxs = s.ctxs := rfl
@[simp] theorem setRing_hbm (s : State) (r : Nat) (v : Ring) : (setRing s r v).hbm = s.hbm := rfl
@[simp] theorem setRing_xports (s : State) (r : Nat) (v : Ring) : (setRing s r v).xports = s.xports := rfl
@[simp] theorem setRing_hports (s : State) (r : Nat) (v : Ring) : (setRing s r v).hports = s.hports := rfl
@[simp] theorem setRing_tiles (s : State) (r : Nat) (v : Ring) : (setRing s r v).tiles = s.tiles := rfl
@[simp] theorem setRing_packets (s : State) (r : Nat) (v : Ring) : (setRing s r v).packets = s.packets := rfl
@[simp] theorem setRing_bursts (s : State) (r : Nat) (v : Ring) : (setRing s r v).bursts = s.bursts := rfl
@[simp] theorem setRing_escape (s : State) (r : Nat) (v : Ring) : (setRing s r v).escape = s.escape := rfl
@[simp] theorem setRing_escapeLoading (s : State) (r : Nat) (v : Ring) : (setRing s r v).escapeLoading = s.escapeLoading := rfl
@[simp] theorem setRing_quietDue (s : State) (r : Nat) (v : Ring) : (setRing s r v).quietDue = s.quietDue := rfl
@[simp] theorem setRing_mitten (s : State) (r : Nat) (v : Ring) : (setRing s r v).mitten = s.mitten := rfl
@[simp] theorem setRing_holes (s : State) (r : Nat) (v : Ring) : (setRing s r v).holes = s.holes := rfl
@[simp] theorem setRing_gradeStored (s : State) (r : Nat) (v : Ring) : (setRing s r v).gradeStored = s.gradeStored := rfl
@[simp] theorem setRing_changes (s : State) (r : Nat) (v : Ring) : (setRing s r v).changes = s.changes := rfl
@[simp] theorem setRing_resets (s : State) (r : Nat) (v : Ring) : (setRing s r v).resets = s.resets := rfl
@[simp] theorem setRing_owning (s : State) (r : Nat) (v : Ring) : (setRing s r v).owning = s.owning := rfl
@[simp] theorem setRing_setup (s : State) (r : Nat) (v : Ring) : (setRing s r v).setup = s.setup := rfl
@[simp] theorem setRing_fns (s : State) (r : Nat) (v : Ring) : (setRing s r v).fns = s.fns := rfl
@[simp] theorem setRing_tb (s : State) (r : Nat) (v : Ring) : (setRing s r v).tb = s.tb := rfl
@[simp] theorem setRing_weala (s : State) (r : Nat) (v : Ring) : (setRing s r v).weala = s.weala := rfl
@[simp] theorem setRing_pw (s : State) (r : Nat) (v : Ring) : (setRing s r v).pw = s.pw := rfl
@[simp] theorem setRing_msix (s : State) (r : Nat) (v : Ring) : (setRing s r v).msix = s.msix := rfl
@[simp] theorem setRing_liners (s : State) (r : Nat) (v : Ring) : (setRing s r v).liners = s.liners := rfl
@[simp] theorem setRing_taskCtr (s : State) (r : Nat) (v : Ring) : (setRing s r v).taskCtr = s.taskCtr := rfl
@[simp] theorem setRing_msixPending (s : State) (r : Nat) (v : Ring) : (setRing s r v).msixPending = s.msixPending := rfl
@[simp] theorem setRing_ringTurn (s : State) (r : Nat) (v : Ring) : (setRing s r v).ringTurn = s.ringTurn := rfl

@[simp] theorem setCtx_pending (s : State) (c : CtxNo) (v : Context) : (setCtx s c v).pending = s.pending := rfl
@[simp] theorem setCtx_freeCtr (s : State) (c : CtxNo) (v : Context) : (setCtx s c v).freeCtr = s.freeCtr := rfl
@[simp] theorem setCtx_mem (s : State) (c : CtxNo) (v : Context) : (setCtx s c v).mem = s.mem := rfl
@[simp] theorem setCtx_poison (s : State) (c : CtxNo) (v : Context) : (setCtx s c v).poison = s.poison := rfl
@[simp] theorem setCtx_writeback (s : State) (c : CtxNo) (v : Context) : (setCtx s c v).writeback = s.writeback := rfl
@[simp] theorem setCtx_pages (s : State) (c : CtxNo) (v : Context) : (setCtx s c v).pages = s.pages := rfl
@[simp] theorem setCtx_pageRuns (s : State) (c : CtxNo) (v : Context) : (setCtx s c v).pageRuns = s.pageRuns := rfl
@[simp] theorem setCtx_cores (s : State) (c : CtxNo) (v : Context) : (setCtx s c v).cores = s.cores := rfl
@[simp] theorem setCtx_palms (s : State) (c : CtxNo) (v : Context) : (setCtx s c v).palms = s.palms := rfl
@[simp] theorem setCtx_parts (s : State) (c : CtxNo) (v : Context) : (setCtx s c v).parts = s.parts := rfl
@[simp] theorem setCtx_cuffs (s : State) (c : CtxNo) (v : Context) : (setCtx s c v).cuffs = s.cuffs := rfl
@[simp] theorem setCtx_rings (s : State) (c : CtxNo) (v : Context) : (setCtx s c v).rings = s.rings := rfl
@[simp] theorem setCtx_hbm (s : State) (c : CtxNo) (v : Context) : (setCtx s c v).hbm = s.hbm := rfl
@[simp] theorem setCtx_xports (s : State) (c : CtxNo) (v : Context) : (setCtx s c v).xports = s.xports := rfl
@[simp] theorem setCtx_hports (s : State) (c : CtxNo) (v : Context) : (setCtx s c v).hports = s.hports := rfl
@[simp] theorem setCtx_tiles (s : State) (c : CtxNo) (v : Context) : (setCtx s c v).tiles = s.tiles := rfl
@[simp] theorem setCtx_packets (s : State) (c : CtxNo) (v : Context) : (setCtx s c v).packets = s.packets := rfl
@[simp] theorem setCtx_bursts (s : State) (c : CtxNo) (v : Context) : (setCtx s c v).bursts = s.bursts := rfl
@[simp] theorem setCtx_escape (s : State) (c : CtxNo) (v : Context) : (setCtx s c v).escape = s.escape := rfl
@[simp] theorem setCtx_escapeLoading (s : State) (c : CtxNo) (v : Context) : (setCtx s c v).escapeLoading = s.escapeLoading := rfl
@[simp] theorem setCtx_quietDue (s : State) (c : CtxNo) (v : Context) : (setCtx s c v).quietDue = s.quietDue := rfl
@[simp] theorem setCtx_mitten (s : State) (c : CtxNo) (v : Context) : (setCtx s c v).mitten = s.mitten := rfl
@[simp] theorem setCtx_holes (s : State) (c : CtxNo) (v : Context) : (setCtx s c v).holes = s.holes := rfl
@[simp] theorem setCtx_gradeStored (s : State) (c : CtxNo) (v : Context) : (setCtx s c v).gradeStored = s.gradeStored := rfl
@[simp] theorem setCtx_changes (s : State) (c : CtxNo) (v : Context) : (setCtx s c v).changes = s.changes := rfl
@[simp] theorem setCtx_resets (s : State) (c : CtxNo) (v : Context) : (setCtx s c v).resets = s.resets := rfl
@[simp] theorem setCtx_owning (s : State) (c : CtxNo) (v : Context) : (setCtx s c v).owning = s.owning := rfl
@[simp] theorem setCtx_setup (s : State) (c : CtxNo) (v : Context) : (setCtx s c v).setup = s.setup := rfl
@[simp] theorem setCtx_fns (s : State) (c : CtxNo) (v : Context) : (setCtx s c v).fns = s.fns := rfl
@[simp] theorem setCtx_tb (s : State) (c : CtxNo) (v : Context) : (setCtx s c v).tb = s.tb := rfl
@[simp] theorem setCtx_weala (s : State) (c : CtxNo) (v : Context) : (setCtx s c v).weala = s.weala := rfl
@[simp] theorem setCtx_pw (s : State) (c : CtxNo) (v : Context) : (setCtx s c v).pw = s.pw := rfl
@[simp] theorem setCtx_msix (s : State) (c : CtxNo) (v : Context) : (setCtx s c v).msix = s.msix := rfl
@[simp] theorem setCtx_liners (s : State) (c : CtxNo) (v : Context) : (setCtx s c v).liners = s.liners := rfl
@[simp] theorem setCtx_taskCtr (s : State) (c : CtxNo) (v : Context) : (setCtx s c v).taskCtr = s.taskCtr := rfl
@[simp] theorem setCtx_msixPending (s : State) (c : CtxNo) (v : Context) : (setCtx s c v).msixPending = s.msixPending := rfl
@[simp] theorem setCtx_ringTurn (s : State) (c : CtxNo) (v : Context) : (setCtx s c v).ringTurn = s.ringTurn := rfl

@[simp] theorem setStack_pending (s : State) (k : StackNo) (v : Stack) : (setStack s k v).pending = s.pending := rfl
@[simp] theorem setStack_freeCtr (s : State) (k : StackNo) (v : Stack) : (setStack s k v).freeCtr = s.freeCtr := rfl
@[simp] theorem setStack_mem (s : State) (k : StackNo) (v : Stack) : (setStack s k v).mem = s.mem := rfl
@[simp] theorem setStack_poison (s : State) (k : StackNo) (v : Stack) : (setStack s k v).poison = s.poison := rfl
@[simp] theorem setStack_writeback (s : State) (k : StackNo) (v : Stack) : (setStack s k v).writeback = s.writeback := rfl
@[simp] theorem setStack_pages (s : State) (k : StackNo) (v : Stack) : (setStack s k v).pages = s.pages := rfl
@[simp] theorem setStack_pageRuns (s : State) (k : StackNo) (v : Stack) : (setStack s k v).pageRuns = s.pageRuns := rfl
@[simp] theorem setStack_cores (s : State) (k : StackNo) (v : Stack) : (setStack s k v).cores = s.cores := rfl
@[simp] theorem setStack_palms (s : State) (k : StackNo) (v : Stack) : (setStack s k v).palms = s.palms := rfl
@[simp] theorem setStack_parts (s : State) (k : StackNo) (v : Stack) : (setStack s k v).parts = s.parts := rfl
@[simp] theorem setStack_cuffs (s : State) (k : StackNo) (v : Stack) : (setStack s k v).cuffs = s.cuffs := rfl
@[simp] theorem setStack_rings (s : State) (k : StackNo) (v : Stack) : (setStack s k v).rings = s.rings := rfl
@[simp] theorem setStack_ctxs (s : State) (k : StackNo) (v : Stack) : (setStack s k v).ctxs = s.ctxs := rfl
@[simp] theorem setStack_xports (s : State) (k : StackNo) (v : Stack) : (setStack s k v).xports = s.xports := rfl
@[simp] theorem setStack_hports (s : State) (k : StackNo) (v : Stack) : (setStack s k v).hports = s.hports := rfl
@[simp] theorem setStack_tiles (s : State) (k : StackNo) (v : Stack) : (setStack s k v).tiles = s.tiles := rfl
@[simp] theorem setStack_packets (s : State) (k : StackNo) (v : Stack) : (setStack s k v).packets = s.packets := rfl
@[simp] theorem setStack_bursts (s : State) (k : StackNo) (v : Stack) : (setStack s k v).bursts = s.bursts := rfl
@[simp] theorem setStack_escape (s : State) (k : StackNo) (v : Stack) : (setStack s k v).escape = s.escape := rfl
@[simp] theorem setStack_escapeLoading (s : State) (k : StackNo) (v : Stack) : (setStack s k v).escapeLoading = s.escapeLoading := rfl
@[simp] theorem setStack_quietDue (s : State) (k : StackNo) (v : Stack) : (setStack s k v).quietDue = s.quietDue := rfl
@[simp] theorem setStack_mitten (s : State) (k : StackNo) (v : Stack) : (setStack s k v).mitten = s.mitten := rfl
@[simp] theorem setStack_holes (s : State) (k : StackNo) (v : Stack) : (setStack s k v).holes = s.holes := rfl
@[simp] theorem setStack_gradeStored (s : State) (k : StackNo) (v : Stack) : (setStack s k v).gradeStored = s.gradeStored := rfl
@[simp] theorem setStack_changes (s : State) (k : StackNo) (v : Stack) : (setStack s k v).changes = s.changes := rfl
@[simp] theorem setStack_resets (s : State) (k : StackNo) (v : Stack) : (setStack s k v).resets = s.resets := rfl
@[simp] theorem setStack_owning (s : State) (k : StackNo) (v : Stack) : (setStack s k v).owning = s.owning := rfl
@[simp] theorem setStack_setup (s : State) (k : StackNo) (v : Stack) : (setStack s k v).setup = s.setup := rfl
@[simp] theorem setStack_fns (s : State) (k : StackNo) (v : Stack) : (setStack s k v).fns = s.fns := rfl
@[simp] theorem setStack_tb (s : State) (k : StackNo) (v : Stack) : (setStack s k v).tb = s.tb := rfl
@[simp] theorem setStack_weala (s : State) (k : StackNo) (v : Stack) : (setStack s k v).weala = s.weala := rfl
@[simp] theorem setStack_pw (s : State) (k : StackNo) (v : Stack) : (setStack s k v).pw = s.pw := rfl
@[simp] theorem setStack_msix (s : State) (k : StackNo) (v : Stack) : (setStack s k v).msix = s.msix := rfl
@[simp] theorem setStack_liners (s : State) (k : StackNo) (v : Stack) : (setStack s k v).liners = s.liners := rfl
@[simp] theorem setStack_taskCtr (s : State) (k : StackNo) (v : Stack) : (setStack s k v).taskCtr = s.taskCtr := rfl
@[simp] theorem setStack_msixPending (s : State) (k : StackNo) (v : Stack) : (setStack s k v).msixPending = s.msixPending := rfl
@[simp] theorem setStack_ringTurn (s : State) (k : StackNo) (v : Stack) : (setStack s k v).ringTurn = s.ringTurn := rfl

@[simp] theorem setXp_pending (s : State) (p : PortNo) (v : XPort) : (setXp s p v).pending = s.pending := rfl
@[simp] theorem setXp_freeCtr (s : State) (p : PortNo) (v : XPort) : (setXp s p v).freeCtr = s.freeCtr := rfl
@[simp] theorem setXp_mem (s : State) (p : PortNo) (v : XPort) : (setXp s p v).mem = s.mem := rfl
@[simp] theorem setXp_poison (s : State) (p : PortNo) (v : XPort) : (setXp s p v).poison = s.poison := rfl
@[simp] theorem setXp_writeback (s : State) (p : PortNo) (v : XPort) : (setXp s p v).writeback = s.writeback := rfl
@[simp] theorem setXp_pages (s : State) (p : PortNo) (v : XPort) : (setXp s p v).pages = s.pages := rfl
@[simp] theorem setXp_pageRuns (s : State) (p : PortNo) (v : XPort) : (setXp s p v).pageRuns = s.pageRuns := rfl
@[simp] theorem setXp_cores (s : State) (p : PortNo) (v : XPort) : (setXp s p v).cores = s.cores := rfl
@[simp] theorem setXp_palms (s : State) (p : PortNo) (v : XPort) : (setXp s p v).palms = s.palms := rfl
@[simp] theorem setXp_parts (s : State) (p : PortNo) (v : XPort) : (setXp s p v).parts = s.parts := rfl
@[simp] theorem setXp_cuffs (s : State) (p : PortNo) (v : XPort) : (setXp s p v).cuffs = s.cuffs := rfl
@[simp] theorem setXp_rings (s : State) (p : PortNo) (v : XPort) : (setXp s p v).rings = s.rings := rfl
@[simp] theorem setXp_ctxs (s : State) (p : PortNo) (v : XPort) : (setXp s p v).ctxs = s.ctxs := rfl
@[simp] theorem setXp_hbm (s : State) (p : PortNo) (v : XPort) : (setXp s p v).hbm = s.hbm := rfl
@[simp] theorem setXp_hports (s : State) (p : PortNo) (v : XPort) : (setXp s p v).hports = s.hports := rfl
@[simp] theorem setXp_tiles (s : State) (p : PortNo) (v : XPort) : (setXp s p v).tiles = s.tiles := rfl
@[simp] theorem setXp_packets (s : State) (p : PortNo) (v : XPort) : (setXp s p v).packets = s.packets := rfl
@[simp] theorem setXp_bursts (s : State) (p : PortNo) (v : XPort) : (setXp s p v).bursts = s.bursts := rfl
@[simp] theorem setXp_escape (s : State) (p : PortNo) (v : XPort) : (setXp s p v).escape = s.escape := rfl
@[simp] theorem setXp_escapeLoading (s : State) (p : PortNo) (v : XPort) : (setXp s p v).escapeLoading = s.escapeLoading := rfl
@[simp] theorem setXp_quietDue (s : State) (p : PortNo) (v : XPort) : (setXp s p v).quietDue = s.quietDue := rfl
@[simp] theorem setXp_mitten (s : State) (p : PortNo) (v : XPort) : (setXp s p v).mitten = s.mitten := rfl
@[simp] theorem setXp_holes (s : State) (p : PortNo) (v : XPort) : (setXp s p v).holes = s.holes := rfl
@[simp] theorem setXp_gradeStored (s : State) (p : PortNo) (v : XPort) : (setXp s p v).gradeStored = s.gradeStored := rfl
@[simp] theorem setXp_changes (s : State) (p : PortNo) (v : XPort) : (setXp s p v).changes = s.changes := rfl
@[simp] theorem setXp_resets (s : State) (p : PortNo) (v : XPort) : (setXp s p v).resets = s.resets := rfl
@[simp] theorem setXp_owning (s : State) (p : PortNo) (v : XPort) : (setXp s p v).owning = s.owning := rfl
@[simp] theorem setXp_setup (s : State) (p : PortNo) (v : XPort) : (setXp s p v).setup = s.setup := rfl
@[simp] theorem setXp_fns (s : State) (p : PortNo) (v : XPort) : (setXp s p v).fns = s.fns := rfl
@[simp] theorem setXp_tb (s : State) (p : PortNo) (v : XPort) : (setXp s p v).tb = s.tb := rfl
@[simp] theorem setXp_weala (s : State) (p : PortNo) (v : XPort) : (setXp s p v).weala = s.weala := rfl
@[simp] theorem setXp_pw (s : State) (p : PortNo) (v : XPort) : (setXp s p v).pw = s.pw := rfl
@[simp] theorem setXp_msix (s : State) (p : PortNo) (v : XPort) : (setXp s p v).msix = s.msix := rfl
@[simp] theorem setXp_liners (s : State) (p : PortNo) (v : XPort) : (setXp s p v).liners = s.liners := rfl
@[simp] theorem setXp_taskCtr (s : State) (p : PortNo) (v : XPort) : (setXp s p v).taskCtr = s.taskCtr := rfl
@[simp] theorem setXp_msixPending (s : State) (p : PortNo) (v : XPort) : (setXp s p v).msixPending = s.msixPending := rfl
@[simp] theorem setXp_ringTurn (s : State) (p : PortNo) (v : XPort) : (setXp s p v).ringTurn = s.ringTurn := rfl

@[simp] theorem setHp_pending (s : State) (p : HostPort) (v : HPort) : (setHp s p v).pending = s.pending := rfl
@[simp] theorem setHp_freeCtr (s : State) (p : HostPort) (v : HPort) : (setHp s p v).freeCtr = s.freeCtr := rfl
@[simp] theorem setHp_mem (s : State) (p : HostPort) (v : HPort) : (setHp s p v).mem = s.mem := rfl
@[simp] theorem setHp_poison (s : State) (p : HostPort) (v : HPort) : (setHp s p v).poison = s.poison := rfl
@[simp] theorem setHp_writeback (s : State) (p : HostPort) (v : HPort) : (setHp s p v).writeback = s.writeback := rfl
@[simp] theorem setHp_pages (s : State) (p : HostPort) (v : HPort) : (setHp s p v).pages = s.pages := rfl
@[simp] theorem setHp_pageRuns (s : State) (p : HostPort) (v : HPort) : (setHp s p v).pageRuns = s.pageRuns := rfl
@[simp] theorem setHp_cores (s : State) (p : HostPort) (v : HPort) : (setHp s p v).cores = s.cores := rfl
@[simp] theorem setHp_palms (s : State) (p : HostPort) (v : HPort) : (setHp s p v).palms = s.palms := rfl
@[simp] theorem setHp_parts (s : State) (p : HostPort) (v : HPort) : (setHp s p v).parts = s.parts := rfl
@[simp] theorem setHp_cuffs (s : State) (p : HostPort) (v : HPort) : (setHp s p v).cuffs = s.cuffs := rfl
@[simp] theorem setHp_rings (s : State) (p : HostPort) (v : HPort) : (setHp s p v).rings = s.rings := rfl
@[simp] theorem setHp_ctxs (s : State) (p : HostPort) (v : HPort) : (setHp s p v).ctxs = s.ctxs := rfl
@[simp] theorem setHp_hbm (s : State) (p : HostPort) (v : HPort) : (setHp s p v).hbm = s.hbm := rfl
@[simp] theorem setHp_xports (s : State) (p : HostPort) (v : HPort) : (setHp s p v).xports = s.xports := rfl
@[simp] theorem setHp_tiles (s : State) (p : HostPort) (v : HPort) : (setHp s p v).tiles = s.tiles := rfl
@[simp] theorem setHp_packets (s : State) (p : HostPort) (v : HPort) : (setHp s p v).packets = s.packets := rfl
@[simp] theorem setHp_bursts (s : State) (p : HostPort) (v : HPort) : (setHp s p v).bursts = s.bursts := rfl
@[simp] theorem setHp_escape (s : State) (p : HostPort) (v : HPort) : (setHp s p v).escape = s.escape := rfl
@[simp] theorem setHp_escapeLoading (s : State) (p : HostPort) (v : HPort) : (setHp s p v).escapeLoading = s.escapeLoading := rfl
@[simp] theorem setHp_quietDue (s : State) (p : HostPort) (v : HPort) : (setHp s p v).quietDue = s.quietDue := rfl
@[simp] theorem setHp_mitten (s : State) (p : HostPort) (v : HPort) : (setHp s p v).mitten = s.mitten := rfl
@[simp] theorem setHp_holes (s : State) (p : HostPort) (v : HPort) : (setHp s p v).holes = s.holes := rfl
@[simp] theorem setHp_gradeStored (s : State) (p : HostPort) (v : HPort) : (setHp s p v).gradeStored = s.gradeStored := rfl
@[simp] theorem setHp_changes (s : State) (p : HostPort) (v : HPort) : (setHp s p v).changes = s.changes := rfl
@[simp] theorem setHp_resets (s : State) (p : HostPort) (v : HPort) : (setHp s p v).resets = s.resets := rfl
@[simp] theorem setHp_owning (s : State) (p : HostPort) (v : HPort) : (setHp s p v).owning = s.owning := rfl
@[simp] theorem setHp_setup (s : State) (p : HostPort) (v : HPort) : (setHp s p v).setup = s.setup := rfl
@[simp] theorem setHp_fns (s : State) (p : HostPort) (v : HPort) : (setHp s p v).fns = s.fns := rfl
@[simp] theorem setHp_tb (s : State) (p : HostPort) (v : HPort) : (setHp s p v).tb = s.tb := rfl
@[simp] theorem setHp_weala (s : State) (p : HostPort) (v : HPort) : (setHp s p v).weala = s.weala := rfl
@[simp] theorem setHp_pw (s : State) (p : HostPort) (v : HPort) : (setHp s p v).pw = s.pw := rfl
@[simp] theorem setHp_msix (s : State) (p : HostPort) (v : HPort) : (setHp s p v).msix = s.msix := rfl
@[simp] theorem setHp_liners (s : State) (p : HostPort) (v : HPort) : (setHp s p v).liners = s.liners := rfl
@[simp] theorem setHp_taskCtr (s : State) (p : HostPort) (v : HPort) : (setHp s p v).taskCtr = s.taskCtr := rfl
@[simp] theorem setHp_msixPending (s : State) (p : HostPort) (v : HPort) : (setHp s p v).msixPending = s.msixPending := rfl
@[simp] theorem setHp_ringTurn (s : State) (p : HostPort) (v : HPort) : (setHp s p v).ringTurn = s.ringTurn := rfl

@[simp] theorem setTile_pending (s : State) (t : TileNo) (v : Tile) : (setTile s t v).pending = s.pending := rfl
@[simp] theorem setTile_freeCtr (s : State) (t : TileNo) (v : Tile) : (setTile s t v).freeCtr = s.freeCtr := rfl
@[simp] theorem setTile_mem (s : State) (t : TileNo) (v : Tile) : (setTile s t v).mem = s.mem := rfl
@[simp] theorem setTile_poison (s : State) (t : TileNo) (v : Tile) : (setTile s t v).poison = s.poison := rfl
@[simp] theorem setTile_writeback (s : State) (t : TileNo) (v : Tile) : (setTile s t v).writeback = s.writeback := rfl
@[simp] theorem setTile_pages (s : State) (t : TileNo) (v : Tile) : (setTile s t v).pages = s.pages := rfl
@[simp] theorem setTile_pageRuns (s : State) (t : TileNo) (v : Tile) : (setTile s t v).pageRuns = s.pageRuns := rfl
@[simp] theorem setTile_cores (s : State) (t : TileNo) (v : Tile) : (setTile s t v).cores = s.cores := rfl
@[simp] theorem setTile_palms (s : State) (t : TileNo) (v : Tile) : (setTile s t v).palms = s.palms := rfl
@[simp] theorem setTile_parts (s : State) (t : TileNo) (v : Tile) : (setTile s t v).parts = s.parts := rfl
@[simp] theorem setTile_cuffs (s : State) (t : TileNo) (v : Tile) : (setTile s t v).cuffs = s.cuffs := rfl
@[simp] theorem setTile_rings (s : State) (t : TileNo) (v : Tile) : (setTile s t v).rings = s.rings := rfl
@[simp] theorem setTile_ctxs (s : State) (t : TileNo) (v : Tile) : (setTile s t v).ctxs = s.ctxs := rfl
@[simp] theorem setTile_hbm (s : State) (t : TileNo) (v : Tile) : (setTile s t v).hbm = s.hbm := rfl
@[simp] theorem setTile_xports (s : State) (t : TileNo) (v : Tile) : (setTile s t v).xports = s.xports := rfl
@[simp] theorem setTile_hports (s : State) (t : TileNo) (v : Tile) : (setTile s t v).hports = s.hports := rfl
@[simp] theorem setTile_packets (s : State) (t : TileNo) (v : Tile) : (setTile s t v).packets = s.packets := rfl
@[simp] theorem setTile_bursts (s : State) (t : TileNo) (v : Tile) : (setTile s t v).bursts = s.bursts := rfl
@[simp] theorem setTile_escape (s : State) (t : TileNo) (v : Tile) : (setTile s t v).escape = s.escape := rfl
@[simp] theorem setTile_escapeLoading (s : State) (t : TileNo) (v : Tile) : (setTile s t v).escapeLoading = s.escapeLoading := rfl
@[simp] theorem setTile_quietDue (s : State) (t : TileNo) (v : Tile) : (setTile s t v).quietDue = s.quietDue := rfl
@[simp] theorem setTile_mitten (s : State) (t : TileNo) (v : Tile) : (setTile s t v).mitten = s.mitten := rfl
@[simp] theorem setTile_holes (s : State) (t : TileNo) (v : Tile) : (setTile s t v).holes = s.holes := rfl
@[simp] theorem setTile_gradeStored (s : State) (t : TileNo) (v : Tile) : (setTile s t v).gradeStored = s.gradeStored := rfl
@[simp] theorem setTile_changes (s : State) (t : TileNo) (v : Tile) : (setTile s t v).changes = s.changes := rfl
@[simp] theorem setTile_resets (s : State) (t : TileNo) (v : Tile) : (setTile s t v).resets = s.resets := rfl
@[simp] theorem setTile_owning (s : State) (t : TileNo) (v : Tile) : (setTile s t v).owning = s.owning := rfl
@[simp] theorem setTile_setup (s : State) (t : TileNo) (v : Tile) : (setTile s t v).setup = s.setup := rfl
@[simp] theorem setTile_fns (s : State) (t : TileNo) (v : Tile) : (setTile s t v).fns = s.fns := rfl
@[simp] theorem setTile_tb (s : State) (t : TileNo) (v : Tile) : (setTile s t v).tb = s.tb := rfl
@[simp] theorem setTile_weala (s : State) (t : TileNo) (v : Tile) : (setTile s t v).weala = s.weala := rfl
@[simp] theorem setTile_pw (s : State) (t : TileNo) (v : Tile) : (setTile s t v).pw = s.pw := rfl
@[simp] theorem setTile_msix (s : State) (t : TileNo) (v : Tile) : (setTile s t v).msix = s.msix := rfl
@[simp] theorem setTile_liners (s : State) (t : TileNo) (v : Tile) : (setTile s t v).liners = s.liners := rfl
@[simp] theorem setTile_taskCtr (s : State) (t : TileNo) (v : Tile) : (setTile s t v).taskCtr = s.taskCtr := rfl
@[simp] theorem setTile_msixPending (s : State) (t : TileNo) (v : Tile) : (setTile s t v).msixPending = s.msixPending := rfl
@[simp] theorem setTile_ringTurn (s : State) (t : TileNo) (v : Tile) : (setTile s t v).ringTurn = s.ringTurn := rfl

@[simp] theorem setPalm_pending (s : State) (c : CoreNo) (k : Nat) (v : Palm) : (setPalm s c k v).pending = s.pending := rfl
@[simp] theorem setPalm_freeCtr (s : State) (c : CoreNo) (k : Nat) (v : Palm) : (setPalm s c k v).freeCtr = s.freeCtr := rfl
@[simp] theorem setPalm_mem (s : State) (c : CoreNo) (k : Nat) (v : Palm) : (setPalm s c k v).mem = s.mem := rfl
@[simp] theorem setPalm_poison (s : State) (c : CoreNo) (k : Nat) (v : Palm) : (setPalm s c k v).poison = s.poison := rfl
@[simp] theorem setPalm_writeback (s : State) (c : CoreNo) (k : Nat) (v : Palm) : (setPalm s c k v).writeback = s.writeback := rfl
@[simp] theorem setPalm_pages (s : State) (c : CoreNo) (k : Nat) (v : Palm) : (setPalm s c k v).pages = s.pages := rfl
@[simp] theorem setPalm_pageRuns (s : State) (c : CoreNo) (k : Nat) (v : Palm) : (setPalm s c k v).pageRuns = s.pageRuns := rfl
@[simp] theorem setPalm_cores (s : State) (c : CoreNo) (k : Nat) (v : Palm) : (setPalm s c k v).cores = s.cores := rfl
@[simp] theorem setPalm_parts (s : State) (c : CoreNo) (k : Nat) (v : Palm) : (setPalm s c k v).parts = s.parts := rfl
@[simp] theorem setPalm_cuffs (s : State) (c : CoreNo) (k : Nat) (v : Palm) : (setPalm s c k v).cuffs = s.cuffs := rfl
@[simp] theorem setPalm_rings (s : State) (c : CoreNo) (k : Nat) (v : Palm) : (setPalm s c k v).rings = s.rings := rfl
@[simp] theorem setPalm_ctxs (s : State) (c : CoreNo) (k : Nat) (v : Palm) : (setPalm s c k v).ctxs = s.ctxs := rfl
@[simp] theorem setPalm_hbm (s : State) (c : CoreNo) (k : Nat) (v : Palm) : (setPalm s c k v).hbm = s.hbm := rfl
@[simp] theorem setPalm_xports (s : State) (c : CoreNo) (k : Nat) (v : Palm) : (setPalm s c k v).xports = s.xports := rfl
@[simp] theorem setPalm_hports (s : State) (c : CoreNo) (k : Nat) (v : Palm) : (setPalm s c k v).hports = s.hports := rfl
@[simp] theorem setPalm_tiles (s : State) (c : CoreNo) (k : Nat) (v : Palm) : (setPalm s c k v).tiles = s.tiles := rfl
@[simp] theorem setPalm_packets (s : State) (c : CoreNo) (k : Nat) (v : Palm) : (setPalm s c k v).packets = s.packets := rfl
@[simp] theorem setPalm_bursts (s : State) (c : CoreNo) (k : Nat) (v : Palm) : (setPalm s c k v).bursts = s.bursts := rfl
@[simp] theorem setPalm_escape (s : State) (c : CoreNo) (k : Nat) (v : Palm) : (setPalm s c k v).escape = s.escape := rfl
@[simp] theorem setPalm_escapeLoading (s : State) (c : CoreNo) (k : Nat) (v : Palm) : (setPalm s c k v).escapeLoading = s.escapeLoading := rfl
@[simp] theorem setPalm_quietDue (s : State) (c : CoreNo) (k : Nat) (v : Palm) : (setPalm s c k v).quietDue = s.quietDue := rfl
@[simp] theorem setPalm_mitten (s : State) (c : CoreNo) (k : Nat) (v : Palm) : (setPalm s c k v).mitten = s.mitten := rfl
@[simp] theorem setPalm_holes (s : State) (c : CoreNo) (k : Nat) (v : Palm) : (setPalm s c k v).holes = s.holes := rfl
@[simp] theorem setPalm_gradeStored (s : State) (c : CoreNo) (k : Nat) (v : Palm) : (setPalm s c k v).gradeStored = s.gradeStored := rfl
@[simp] theorem setPalm_changes (s : State) (c : CoreNo) (k : Nat) (v : Palm) : (setPalm s c k v).changes = s.changes := rfl
@[simp] theorem setPalm_resets (s : State) (c : CoreNo) (k : Nat) (v : Palm) : (setPalm s c k v).resets = s.resets := rfl
@[simp] theorem setPalm_owning (s : State) (c : CoreNo) (k : Nat) (v : Palm) : (setPalm s c k v).owning = s.owning := rfl
@[simp] theorem setPalm_setup (s : State) (c : CoreNo) (k : Nat) (v : Palm) : (setPalm s c k v).setup = s.setup := rfl
@[simp] theorem setPalm_fns (s : State) (c : CoreNo) (k : Nat) (v : Palm) : (setPalm s c k v).fns = s.fns := rfl
@[simp] theorem setPalm_tb (s : State) (c : CoreNo) (k : Nat) (v : Palm) : (setPalm s c k v).tb = s.tb := rfl
@[simp] theorem setPalm_weala (s : State) (c : CoreNo) (k : Nat) (v : Palm) : (setPalm s c k v).weala = s.weala := rfl
@[simp] theorem setPalm_pw (s : State) (c : CoreNo) (k : Nat) (v : Palm) : (setPalm s c k v).pw = s.pw := rfl
@[simp] theorem setPalm_msix (s : State) (c : CoreNo) (k : Nat) (v : Palm) : (setPalm s c k v).msix = s.msix := rfl
@[simp] theorem setPalm_liners (s : State) (c : CoreNo) (k : Nat) (v : Palm) : (setPalm s c k v).liners = s.liners := rfl
@[simp] theorem setPalm_taskCtr (s : State) (c : CoreNo) (k : Nat) (v : Palm) : (setPalm s c k v).taskCtr = s.taskCtr := rfl
@[simp] theorem setPalm_msixPending (s : State) (c : CoreNo) (k : Nat) (v : Palm) : (setPalm s c k v).msixPending = s.msixPending := rfl
@[simp] theorem setPalm_ringTurn (s : State) (c : CoreNo) (k : Nat) (v : Palm) : (setPalm s c k v).ringTurn = s.ringTurn := rfl

@[simp] theorem setMitten_pending (s : State) (c : CoreNo) (e : BitVec 32) : (setMitten s c e).pending = s.pending := rfl
@[simp] theorem setMitten_freeCtr (s : State) (c : CoreNo) (e : BitVec 32) : (setMitten s c e).freeCtr = s.freeCtr := rfl
@[simp] theorem setMitten_mem (s : State) (c : CoreNo) (e : BitVec 32) : (setMitten s c e).mem = s.mem := rfl
@[simp] theorem setMitten_poison (s : State) (c : CoreNo) (e : BitVec 32) : (setMitten s c e).poison = s.poison := rfl
@[simp] theorem setMitten_writeback (s : State) (c : CoreNo) (e : BitVec 32) : (setMitten s c e).writeback = s.writeback := rfl
@[simp] theorem setMitten_pages (s : State) (c : CoreNo) (e : BitVec 32) : (setMitten s c e).pages = s.pages := rfl
@[simp] theorem setMitten_pageRuns (s : State) (c : CoreNo) (e : BitVec 32) : (setMitten s c e).pageRuns = s.pageRuns := rfl
@[simp] theorem setMitten_cores (s : State) (c : CoreNo) (e : BitVec 32) : (setMitten s c e).cores = s.cores := rfl
@[simp] theorem setMitten_palms (s : State) (c : CoreNo) (e : BitVec 32) : (setMitten s c e).palms = s.palms := rfl
@[simp] theorem setMitten_parts (s : State) (c : CoreNo) (e : BitVec 32) : (setMitten s c e).parts = s.parts := rfl
@[simp] theorem setMitten_cuffs (s : State) (c : CoreNo) (e : BitVec 32) : (setMitten s c e).cuffs = s.cuffs := rfl
@[simp] theorem setMitten_rings (s : State) (c : CoreNo) (e : BitVec 32) : (setMitten s c e).rings = s.rings := rfl
@[simp] theorem setMitten_ctxs (s : State) (c : CoreNo) (e : BitVec 32) : (setMitten s c e).ctxs = s.ctxs := rfl
@[simp] theorem setMitten_hbm (s : State) (c : CoreNo) (e : BitVec 32) : (setMitten s c e).hbm = s.hbm := rfl
@[simp] theorem setMitten_xports (s : State) (c : CoreNo) (e : BitVec 32) : (setMitten s c e).xports = s.xports := rfl
@[simp] theorem setMitten_hports (s : State) (c : CoreNo) (e : BitVec 32) : (setMitten s c e).hports = s.hports := rfl
@[simp] theorem setMitten_tiles (s : State) (c : CoreNo) (e : BitVec 32) : (setMitten s c e).tiles = s.tiles := rfl
@[simp] theorem setMitten_packets (s : State) (c : CoreNo) (e : BitVec 32) : (setMitten s c e).packets = s.packets := rfl
@[simp] theorem setMitten_bursts (s : State) (c : CoreNo) (e : BitVec 32) : (setMitten s c e).bursts = s.bursts := rfl
@[simp] theorem setMitten_escape (s : State) (c : CoreNo) (e : BitVec 32) : (setMitten s c e).escape = s.escape := rfl
@[simp] theorem setMitten_escapeLoading (s : State) (c : CoreNo) (e : BitVec 32) : (setMitten s c e).escapeLoading = s.escapeLoading := rfl
@[simp] theorem setMitten_quietDue (s : State) (c : CoreNo) (e : BitVec 32) : (setMitten s c e).quietDue = s.quietDue := rfl
@[simp] theorem setMitten_holes (s : State) (c : CoreNo) (e : BitVec 32) : (setMitten s c e).holes = s.holes := rfl
@[simp] theorem setMitten_gradeStored (s : State) (c : CoreNo) (e : BitVec 32) : (setMitten s c e).gradeStored = s.gradeStored := rfl
@[simp] theorem setMitten_changes (s : State) (c : CoreNo) (e : BitVec 32) : (setMitten s c e).changes = s.changes := rfl
@[simp] theorem setMitten_resets (s : State) (c : CoreNo) (e : BitVec 32) : (setMitten s c e).resets = s.resets := rfl
@[simp] theorem setMitten_owning (s : State) (c : CoreNo) (e : BitVec 32) : (setMitten s c e).owning = s.owning := rfl
@[simp] theorem setMitten_setup (s : State) (c : CoreNo) (e : BitVec 32) : (setMitten s c e).setup = s.setup := rfl
@[simp] theorem setMitten_fns (s : State) (c : CoreNo) (e : BitVec 32) : (setMitten s c e).fns = s.fns := rfl
@[simp] theorem setMitten_tb (s : State) (c : CoreNo) (e : BitVec 32) : (setMitten s c e).tb = s.tb := rfl
@[simp] theorem setMitten_weala (s : State) (c : CoreNo) (e : BitVec 32) : (setMitten s c e).weala = s.weala := rfl
@[simp] theorem setMitten_pw (s : State) (c : CoreNo) (e : BitVec 32) : (setMitten s c e).pw = s.pw := rfl
@[simp] theorem setMitten_msix (s : State) (c : CoreNo) (e : BitVec 32) : (setMitten s c e).msix = s.msix := rfl
@[simp] theorem setMitten_liners (s : State) (c : CoreNo) (e : BitVec 32) : (setMitten s c e).liners = s.liners := rfl
@[simp] theorem setMitten_taskCtr (s : State) (c : CoreNo) (e : BitVec 32) : (setMitten s c e).taskCtr = s.taskCtr := rfl
@[simp] theorem setMitten_msixPending (s : State) (c : CoreNo) (e : BitVec 32) : (setMitten s c e).msixPending = s.msixPending := rfl
@[simp] theorem setMitten_ringTurn (s : State) (c : CoreNo) (e : BitVec 32) : (setMitten s c e).ringTurn = s.ringTurn := rfl

@[simp] theorem setPoison_pending (s : State) (l : Nat) (b : Bool) : (setPoison s l b).pending = s.pending := rfl
@[simp] theorem setPoison_freeCtr (s : State) (l : Nat) (b : Bool) : (setPoison s l b).freeCtr = s.freeCtr := rfl
@[simp] theorem setPoison_mem (s : State) (l : Nat) (b : Bool) : (setPoison s l b).mem = s.mem := rfl
@[simp] theorem setPoison_writeback (s : State) (l : Nat) (b : Bool) : (setPoison s l b).writeback = s.writeback := rfl
@[simp] theorem setPoison_pages (s : State) (l : Nat) (b : Bool) : (setPoison s l b).pages = s.pages := rfl
@[simp] theorem setPoison_pageRuns (s : State) (l : Nat) (b : Bool) : (setPoison s l b).pageRuns = s.pageRuns := rfl
@[simp] theorem setPoison_cores (s : State) (l : Nat) (b : Bool) : (setPoison s l b).cores = s.cores := rfl
@[simp] theorem setPoison_palms (s : State) (l : Nat) (b : Bool) : (setPoison s l b).palms = s.palms := rfl
@[simp] theorem setPoison_parts (s : State) (l : Nat) (b : Bool) : (setPoison s l b).parts = s.parts := rfl
@[simp] theorem setPoison_cuffs (s : State) (l : Nat) (b : Bool) : (setPoison s l b).cuffs = s.cuffs := rfl
@[simp] theorem setPoison_rings (s : State) (l : Nat) (b : Bool) : (setPoison s l b).rings = s.rings := rfl
@[simp] theorem setPoison_ctxs (s : State) (l : Nat) (b : Bool) : (setPoison s l b).ctxs = s.ctxs := rfl
@[simp] theorem setPoison_hbm (s : State) (l : Nat) (b : Bool) : (setPoison s l b).hbm = s.hbm := rfl
@[simp] theorem setPoison_xports (s : State) (l : Nat) (b : Bool) : (setPoison s l b).xports = s.xports := rfl
@[simp] theorem setPoison_hports (s : State) (l : Nat) (b : Bool) : (setPoison s l b).hports = s.hports := rfl
@[simp] theorem setPoison_tiles (s : State) (l : Nat) (b : Bool) : (setPoison s l b).tiles = s.tiles := rfl
@[simp] theorem setPoison_packets (s : State) (l : Nat) (b : Bool) : (setPoison s l b).packets = s.packets := rfl
@[simp] theorem setPoison_bursts (s : State) (l : Nat) (b : Bool) : (setPoison s l b).bursts = s.bursts := rfl
@[simp] theorem setPoison_escape (s : State) (l : Nat) (b : Bool) : (setPoison s l b).escape = s.escape := rfl
@[simp] theorem setPoison_escapeLoading (s : State) (l : Nat) (b : Bool) : (setPoison s l b).escapeLoading = s.escapeLoading := rfl
@[simp] theorem setPoison_quietDue (s : State) (l : Nat) (b : Bool) : (setPoison s l b).quietDue = s.quietDue := rfl
@[simp] theorem setPoison_mitten (s : State) (l : Nat) (b : Bool) : (setPoison s l b).mitten = s.mitten := rfl
@[simp] theorem setPoison_holes (s : State) (l : Nat) (b : Bool) : (setPoison s l b).holes = s.holes := rfl
@[simp] theorem setPoison_gradeStored (s : State) (l : Nat) (b : Bool) : (setPoison s l b).gradeStored = s.gradeStored := rfl
@[simp] theorem setPoison_changes (s : State) (l : Nat) (b : Bool) : (setPoison s l b).changes = s.changes := rfl
@[simp] theorem setPoison_resets (s : State) (l : Nat) (b : Bool) : (setPoison s l b).resets = s.resets := rfl
@[simp] theorem setPoison_owning (s : State) (l : Nat) (b : Bool) : (setPoison s l b).owning = s.owning := rfl
@[simp] theorem setPoison_setup (s : State) (l : Nat) (b : Bool) : (setPoison s l b).setup = s.setup := rfl
@[simp] theorem setPoison_fns (s : State) (l : Nat) (b : Bool) : (setPoison s l b).fns = s.fns := rfl
@[simp] theorem setPoison_tb (s : State) (l : Nat) (b : Bool) : (setPoison s l b).tb = s.tb := rfl
@[simp] theorem setPoison_weala (s : State) (l : Nat) (b : Bool) : (setPoison s l b).weala = s.weala := rfl
@[simp] theorem setPoison_pw (s : State) (l : Nat) (b : Bool) : (setPoison s l b).pw = s.pw := rfl
@[simp] theorem setPoison_msix (s : State) (l : Nat) (b : Bool) : (setPoison s l b).msix = s.msix := rfl
@[simp] theorem setPoison_liners (s : State) (l : Nat) (b : Bool) : (setPoison s l b).liners = s.liners := rfl
@[simp] theorem setPoison_taskCtr (s : State) (l : Nat) (b : Bool) : (setPoison s l b).taskCtr = s.taskCtr := rfl
@[simp] theorem setPoison_msixPending (s : State) (l : Nat) (b : Bool) : (setPoison s l b).msixPending = s.msixPending := rfl
@[simp] theorem setPoison_ringTurn (s : State) (l : Nat) (b : Bool) : (setPoison s l b).ringTurn = s.ringTurn := rfl

@[simp] theorem setSlot_pending (s : State) (c : CoreNo) (k : SlotNo) (v : Slot) : (setSlot s c k v).pending = s.pending := rfl
@[simp] theorem setSlot_freeCtr (s : State) (c : CoreNo) (k : SlotNo) (v : Slot) : (setSlot s c k v).freeCtr = s.freeCtr := rfl
@[simp] theorem setSlot_mem (s : State) (c : CoreNo) (k : SlotNo) (v : Slot) : (setSlot s c k v).mem = s.mem := rfl
@[simp] theorem setSlot_poison (s : State) (c : CoreNo) (k : SlotNo) (v : Slot) : (setSlot s c k v).poison = s.poison := rfl
@[simp] theorem setSlot_writeback (s : State) (c : CoreNo) (k : SlotNo) (v : Slot) : (setSlot s c k v).writeback = s.writeback := rfl
@[simp] theorem setSlot_pages (s : State) (c : CoreNo) (k : SlotNo) (v : Slot) : (setSlot s c k v).pages = s.pages := rfl
@[simp] theorem setSlot_pageRuns (s : State) (c : CoreNo) (k : SlotNo) (v : Slot) : (setSlot s c k v).pageRuns = s.pageRuns := rfl
@[simp] theorem setSlot_palms (s : State) (c : CoreNo) (k : SlotNo) (v : Slot) : (setSlot s c k v).palms = s.palms := rfl
@[simp] theorem setSlot_parts (s : State) (c : CoreNo) (k : SlotNo) (v : Slot) : (setSlot s c k v).parts = s.parts := rfl
@[simp] theorem setSlot_cuffs (s : State) (c : CoreNo) (k : SlotNo) (v : Slot) : (setSlot s c k v).cuffs = s.cuffs := rfl
@[simp] theorem setSlot_rings (s : State) (c : CoreNo) (k : SlotNo) (v : Slot) : (setSlot s c k v).rings = s.rings := rfl
@[simp] theorem setSlot_ctxs (s : State) (c : CoreNo) (k : SlotNo) (v : Slot) : (setSlot s c k v).ctxs = s.ctxs := rfl
@[simp] theorem setSlot_hbm (s : State) (c : CoreNo) (k : SlotNo) (v : Slot) : (setSlot s c k v).hbm = s.hbm := rfl
@[simp] theorem setSlot_xports (s : State) (c : CoreNo) (k : SlotNo) (v : Slot) : (setSlot s c k v).xports = s.xports := rfl
@[simp] theorem setSlot_hports (s : State) (c : CoreNo) (k : SlotNo) (v : Slot) : (setSlot s c k v).hports = s.hports := rfl
@[simp] theorem setSlot_tiles (s : State) (c : CoreNo) (k : SlotNo) (v : Slot) : (setSlot s c k v).tiles = s.tiles := rfl
@[simp] theorem setSlot_packets (s : State) (c : CoreNo) (k : SlotNo) (v : Slot) : (setSlot s c k v).packets = s.packets := rfl
@[simp] theorem setSlot_bursts (s : State) (c : CoreNo) (k : SlotNo) (v : Slot) : (setSlot s c k v).bursts = s.bursts := rfl
@[simp] theorem setSlot_escape (s : State) (c : CoreNo) (k : SlotNo) (v : Slot) : (setSlot s c k v).escape = s.escape := rfl
@[simp] theorem setSlot_escapeLoading (s : State) (c : CoreNo) (k : SlotNo) (v : Slot) : (setSlot s c k v).escapeLoading = s.escapeLoading := rfl
@[simp] theorem setSlot_quietDue (s : State) (c : CoreNo) (k : SlotNo) (v : Slot) : (setSlot s c k v).quietDue = s.quietDue := rfl
@[simp] theorem setSlot_mitten (s : State) (c : CoreNo) (k : SlotNo) (v : Slot) : (setSlot s c k v).mitten = s.mitten := rfl
@[simp] theorem setSlot_holes (s : State) (c : CoreNo) (k : SlotNo) (v : Slot) : (setSlot s c k v).holes = s.holes := rfl
@[simp] theorem setSlot_gradeStored (s : State) (c : CoreNo) (k : SlotNo) (v : Slot) : (setSlot s c k v).gradeStored = s.gradeStored := rfl
@[simp] theorem setSlot_changes (s : State) (c : CoreNo) (k : SlotNo) (v : Slot) : (setSlot s c k v).changes = s.changes := rfl
@[simp] theorem setSlot_resets (s : State) (c : CoreNo) (k : SlotNo) (v : Slot) : (setSlot s c k v).resets = s.resets := rfl
@[simp] theorem setSlot_owning (s : State) (c : CoreNo) (k : SlotNo) (v : Slot) : (setSlot s c k v).owning = s.owning := rfl
@[simp] theorem setSlot_setup (s : State) (c : CoreNo) (k : SlotNo) (v : Slot) : (setSlot s c k v).setup = s.setup := rfl
@[simp] theorem setSlot_fns (s : State) (c : CoreNo) (k : SlotNo) (v : Slot) : (setSlot s c k v).fns = s.fns := rfl
@[simp] theorem setSlot_tb (s : State) (c : CoreNo) (k : SlotNo) (v : Slot) : (setSlot s c k v).tb = s.tb := rfl
@[simp] theorem setSlot_weala (s : State) (c : CoreNo) (k : SlotNo) (v : Slot) : (setSlot s c k v).weala = s.weala := rfl
@[simp] theorem setSlot_pw (s : State) (c : CoreNo) (k : SlotNo) (v : Slot) : (setSlot s c k v).pw = s.pw := rfl
@[simp] theorem setSlot_msix (s : State) (c : CoreNo) (k : SlotNo) (v : Slot) : (setSlot s c k v).msix = s.msix := rfl
@[simp] theorem setSlot_liners (s : State) (c : CoreNo) (k : SlotNo) (v : Slot) : (setSlot s c k v).liners = s.liners := rfl
@[simp] theorem setSlot_taskCtr (s : State) (c : CoreNo) (k : SlotNo) (v : Slot) : (setSlot s c k v).taskCtr = s.taskCtr := rfl
@[simp] theorem setSlot_msixPending (s : State) (c : CoreNo) (k : SlotNo) (v : Slot) : (setSlot s c k v).msixPending = s.msixPending := rfl
@[simp] theorem setSlot_ringTurn (s : State) (c : CoreNo) (k : SlotNo) (v : Slot) : (setSlot s c k v).ringTurn = s.ringTurn := rfl

@[simp] theorem sendOn_pending (s : State) (b : Binding) (l : List MgmtMsg) : (sendOn s b l).pending = s.pending := rfl
@[simp] theorem sendOn_freeCtr (s : State) (b : Binding) (l : List MgmtMsg) : (sendOn s b l).freeCtr = s.freeCtr := rfl
@[simp] theorem sendOn_mem (s : State) (b : Binding) (l : List MgmtMsg) : (sendOn s b l).mem = s.mem := rfl
@[simp] theorem sendOn_poison (s : State) (b : Binding) (l : List MgmtMsg) : (sendOn s b l).poison = s.poison := rfl
@[simp] theorem sendOn_writeback (s : State) (b : Binding) (l : List MgmtMsg) : (sendOn s b l).writeback = s.writeback := rfl
@[simp] theorem sendOn_pages (s : State) (b : Binding) (l : List MgmtMsg) : (sendOn s b l).pages = s.pages := rfl
@[simp] theorem sendOn_pageRuns (s : State) (b : Binding) (l : List MgmtMsg) : (sendOn s b l).pageRuns = s.pageRuns := rfl
@[simp] theorem sendOn_cores (s : State) (b : Binding) (l : List MgmtMsg) : (sendOn s b l).cores = s.cores := rfl
@[simp] theorem sendOn_palms (s : State) (b : Binding) (l : List MgmtMsg) : (sendOn s b l).palms = s.palms := rfl
@[simp] theorem sendOn_parts (s : State) (b : Binding) (l : List MgmtMsg) : (sendOn s b l).parts = s.parts := rfl
@[simp] theorem sendOn_cuffs (s : State) (b : Binding) (l : List MgmtMsg) : (sendOn s b l).cuffs = s.cuffs := rfl
@[simp] theorem sendOn_rings (s : State) (b : Binding) (l : List MgmtMsg) : (sendOn s b l).rings = s.rings := rfl
@[simp] theorem sendOn_ctxs (s : State) (b : Binding) (l : List MgmtMsg) : (sendOn s b l).ctxs = s.ctxs := rfl
@[simp] theorem sendOn_hbm (s : State) (b : Binding) (l : List MgmtMsg) : (sendOn s b l).hbm = s.hbm := rfl
@[simp] theorem sendOn_xports (s : State) (b : Binding) (l : List MgmtMsg) : (sendOn s b l).xports = s.xports := rfl
@[simp] theorem sendOn_hports (s : State) (b : Binding) (l : List MgmtMsg) : (sendOn s b l).hports = s.hports := rfl
@[simp] theorem sendOn_tiles (s : State) (b : Binding) (l : List MgmtMsg) : (sendOn s b l).tiles = s.tiles := rfl
@[simp] theorem sendOn_packets (s : State) (b : Binding) (l : List MgmtMsg) : (sendOn s b l).packets = s.packets := rfl
@[simp] theorem sendOn_bursts (s : State) (b : Binding) (l : List MgmtMsg) : (sendOn s b l).bursts = s.bursts := rfl
@[simp] theorem sendOn_escape (s : State) (b : Binding) (l : List MgmtMsg) : (sendOn s b l).escape = s.escape := rfl
@[simp] theorem sendOn_escapeLoading (s : State) (b : Binding) (l : List MgmtMsg) : (sendOn s b l).escapeLoading = s.escapeLoading := rfl
@[simp] theorem sendOn_quietDue (s : State) (b : Binding) (l : List MgmtMsg) : (sendOn s b l).quietDue = s.quietDue := rfl
@[simp] theorem sendOn_mitten (s : State) (b : Binding) (l : List MgmtMsg) : (sendOn s b l).mitten = s.mitten := rfl
@[simp] theorem sendOn_holes (s : State) (b : Binding) (l : List MgmtMsg) : (sendOn s b l).holes = s.holes := rfl
@[simp] theorem sendOn_gradeStored (s : State) (b : Binding) (l : List MgmtMsg) : (sendOn s b l).gradeStored = s.gradeStored := rfl
@[simp] theorem sendOn_changes (s : State) (b : Binding) (l : List MgmtMsg) : (sendOn s b l).changes = s.changes := rfl
@[simp] theorem sendOn_resets (s : State) (b : Binding) (l : List MgmtMsg) : (sendOn s b l).resets = s.resets := rfl
@[simp] theorem sendOn_owning (s : State) (b : Binding) (l : List MgmtMsg) : (sendOn s b l).owning = s.owning := rfl
@[simp] theorem sendOn_setup (s : State) (b : Binding) (l : List MgmtMsg) : (sendOn s b l).setup = s.setup := rfl
@[simp] theorem sendOn_fns (s : State) (b : Binding) (l : List MgmtMsg) : (sendOn s b l).fns = s.fns := rfl
@[simp] theorem sendOn_tb (s : State) (b : Binding) (l : List MgmtMsg) : (sendOn s b l).tb = s.tb := rfl
@[simp] theorem sendOn_pw (s : State) (b : Binding) (l : List MgmtMsg) : (sendOn s b l).pw = s.pw := rfl
@[simp] theorem sendOn_msix (s : State) (b : Binding) (l : List MgmtMsg) : (sendOn s b l).msix = s.msix := rfl
@[simp] theorem sendOn_liners (s : State) (b : Binding) (l : List MgmtMsg) : (sendOn s b l).liners = s.liners := rfl
@[simp] theorem sendOn_taskCtr (s : State) (b : Binding) (l : List MgmtMsg) : (sendOn s b l).taskCtr = s.taskCtr := rfl
@[simp] theorem sendOn_msixPending (s : State) (b : Binding) (l : List MgmtMsg) : (sendOn s b l).msixPending = s.msixPending := rfl
@[simp] theorem sendOn_ringTurn (s : State) (b : Binding) (l : List MgmtMsg) : (sendOn s b l).ringTurn = s.ringTurn := rfl

@[simp] theorem announce_pending (s t : State) : (announce s t).pending = t.pending := rfl
@[simp] theorem announce_freeCtr (s t : State) : (announce s t).freeCtr = t.freeCtr := rfl
@[simp] theorem announce_mem (s t : State) : (announce s t).mem = t.mem := rfl
@[simp] theorem announce_poison (s t : State) : (announce s t).poison = t.poison := rfl
@[simp] theorem announce_writeback (s t : State) : (announce s t).writeback = t.writeback := rfl
@[simp] theorem announce_pages (s t : State) : (announce s t).pages = t.pages := rfl
@[simp] theorem announce_pageRuns (s t : State) : (announce s t).pageRuns = t.pageRuns := rfl
@[simp] theorem announce_cores (s t : State) : (announce s t).cores = t.cores := rfl
@[simp] theorem announce_palms (s t : State) : (announce s t).palms = t.palms := rfl
@[simp] theorem announce_parts (s t : State) : (announce s t).parts = t.parts := rfl
@[simp] theorem announce_cuffs (s t : State) : (announce s t).cuffs = t.cuffs := rfl
@[simp] theorem announce_rings (s t : State) : (announce s t).rings = t.rings := rfl
@[simp] theorem announce_ctxs (s t : State) : (announce s t).ctxs = t.ctxs := rfl
@[simp] theorem announce_hbm (s t : State) : (announce s t).hbm = t.hbm := rfl
@[simp] theorem announce_xports (s t : State) : (announce s t).xports = t.xports := rfl
@[simp] theorem announce_hports (s t : State) : (announce s t).hports = t.hports := rfl
@[simp] theorem announce_tiles (s t : State) : (announce s t).tiles = t.tiles := rfl
@[simp] theorem announce_packets (s t : State) : (announce s t).packets = t.packets := rfl
@[simp] theorem announce_bursts (s t : State) : (announce s t).bursts = t.bursts := rfl
@[simp] theorem announce_escape (s t : State) : (announce s t).escape = t.escape := rfl
@[simp] theorem announce_escapeLoading (s t : State) : (announce s t).escapeLoading = t.escapeLoading := rfl
@[simp] theorem announce_quietDue (s t : State) : (announce s t).quietDue = t.quietDue := rfl
@[simp] theorem announce_mitten (s t : State) : (announce s t).mitten = t.mitten := rfl
@[simp] theorem announce_holes (s t : State) : (announce s t).holes = t.holes := rfl
@[simp] theorem announce_gradeStored (s t : State) : (announce s t).gradeStored = t.gradeStored := rfl
@[simp] theorem announce_changes (s t : State) : (announce s t).changes = t.changes := rfl
@[simp] theorem announce_resets (s t : State) : (announce s t).resets = t.resets := rfl
@[simp] theorem announce_owning (s t : State) : (announce s t).owning = t.owning := rfl
@[simp] theorem announce_setup (s t : State) : (announce s t).setup = t.setup := rfl
@[simp] theorem announce_fns (s t : State) : (announce s t).fns = t.fns := rfl
@[simp] theorem announce_tb (s t : State) : (announce s t).tb = t.tb := rfl
@[simp] theorem announce_pw (s t : State) : (announce s t).pw = t.pw := rfl
@[simp] theorem announce_msix (s t : State) : (announce s t).msix = t.msix := rfl
@[simp] theorem announce_liners (s t : State) : (announce s t).liners = t.liners := rfl
@[simp] theorem announce_taskCtr (s t : State) : (announce s t).taskCtr = t.taskCtr := rfl
@[simp] theorem announce_msixPending (s t : State) : (announce s t).msixPending = t.msixPending := rfl
@[simp] theorem announce_ringTurn (s t : State) : (announce s t).ringTurn = t.ringTurn := rfl

/-! Weala after messages leave: only the messages themselves. -/

@[simp] theorem announce_weala_running (s t : State) : (announce s t).weala.running = t.weala.running := rfl
@[simp] theorem announce_weala_recovery (s t : State) : (announce s t).weala.recovery = t.weala.recovery := rfl
@[simp] theorem announce_weala_stopCause (s t : State) : (announce s t).weala.stopCause = t.weala.stopCause := rfl
@[simp] theorem announce_weala_bootB (s t : State) : (announce s t).weala.bootB = t.weala.bootB := rfl
@[simp] theorem announce_weala_imageA (s t : State) : (announce s t).weala.imageA = t.weala.imageA := rfl
@[simp] theorem announce_weala_imageB (s t : State) : (announce s t).weala.imageB = t.weala.imageB := rfl
@[simp] theorem announce_weala_records (s t : State) : (announce s t).weala.records = t.weala.records := rfl
@[simp] theorem announce_weala_recordSeq (s t : State) : (announce s t).weala.recordSeq = t.weala.recordSeq := rfl
@[simp] theorem announce_weala_activeBank (s t : State) : (announce s t).weala.activeBank = t.weala.activeBank := rfl
@[simp] theorem announce_weala_mapA (s t : State) : (announce s t).weala.mapA = t.weala.mapA := rfl
@[simp] theorem announce_weala_mapB (s t : State) : (announce s t).weala.mapB = t.weala.mapB := rfl
@[simp] theorem announce_weala_mirror (s t : State) : (announce s t).weala.mirror = t.weala.mirror := rfl
@[simp] theorem announce_weala_fuses (s t : State) : (announce s t).weala.fuses = t.weala.fuses := rfl
@[simp] theorem announce_weala_audit (s t : State) : (announce s t).weala.audit = t.weala.audit := rfl
@[simp] theorem announce_weala_auditSeq (s t : State) : (announce s t).weala.auditSeq = t.weala.auditSeq := rfl
@[simp] theorem announce_weala_settings (s t : State) : (announce s t).weala.settings = t.weala.settings := rfl
@[simp] theorem announce_weala_level (s t : State) : (announce s t).weala.level = t.weala.level := rfl
@[simp] theorem announce_weala_generation (s t : State) : (announce s t).weala.generation = t.weala.generation := rfl
@[simp] theorem announce_weala_reqBuf (s t : State) : (announce s t).weala.reqBuf = t.weala.reqBuf := rfl
@[simp] theorem announce_weala_reqCmd (s t : State) : (announce s t).weala.reqCmd = t.weala.reqCmd := rfl
@[simp] theorem announce_weala_reqResult (s t : State) : (announce s t).weala.reqResult = t.weala.reqResult := rfl
@[simp] theorem announce_weala_reqToken (s t : State) : (announce s t).weala.reqToken = t.weala.reqToken := rfl
@[simp] theorem announce_weala_reqQueue (s t : State) : (announce s t).weala.reqQueue = t.weala.reqQueue := rfl
@[simp] theorem announce_weala_evLog (s t : State) : (announce s t).weala.evLog = t.weala.evLog := rfl
@[simp] theorem announce_weala_evWr (s t : State) : (announce s t).weala.evWr = t.weala.evWr := rfl
@[simp] theorem announce_weala_evRd (s t : State) : (announce s t).weala.evRd = t.weala.evRd := rfl
@[simp] theorem announce_weala_evLost (s t : State) : (announce s t).weala.evLost = t.weala.evLost := rfl
@[simp] theorem announce_weala_eids (s t : State) : (announce s t).weala.eids = t.weala.eids := rfl
@[simp] theorem announce_weala_tid (s t : State) : (announce s t).weala.tid = t.weala.tid := rfl
@[simp] theorem announce_weala_receiver (s t : State) : (announce s t).weala.receiver = t.weala.receiver := rfl

/-! What a unit reads as after it is set. -/

@[simp] theorem getCore_same (s : State) (c : CoreNo) (v : Core) : getCore (setCore s c v) c = v := tget_tput_same ..
theorem getCore_other (s : State) {c d : CoreNo} (v : Core) (h : d ≠ c) : getCore (setCore s c v) d = getCore s d :=
  tget_tput_other _ _ _ (fun e => h (Fin.ext e))
theorem getCore_of (s t : State) (c : CoreNo) (h : t.cores = s.cores) : getCore t c = getCore s c := by simp [getCore, h]
@[simp] theorem getPart_same (s : State) (c : PartNo) (v : Partition) : getPart (setPart s c v) c = v := tget_tput_same ..
theorem getPart_other (s : State) {c d : PartNo} (v : Partition) (h : d ≠ c) : getPart (setPart s c v) d = getPart s d :=
  tget_tput_other _ _ _ (fun e => h (Fin.ext e))
theorem getPart_of (s t : State) (c : PartNo) (h : t.parts = s.parts) : getPart t c = getPart s c := by simp [getPart, h]
@[simp] theorem getCuff_same (s : State) (c : CuffNo) (v : Cuff) : getCuff (setCuff s c v) c = v := tget_tput_same ..
theorem getCuff_other (s : State) {c d : CuffNo} (v : Cuff) (h : d ≠ c) : getCuff (setCuff s c v) d = getCuff s d :=
  tget_tput_other _ _ _ (fun e => h (Fin.ext e))
theorem getCuff_of (s t : State) (c : CuffNo) (h : t.cuffs = s.cuffs) : getCuff t c = getCuff s c := by simp [getCuff, h]
@[simp] theorem getRing_same (s : State) (c : Nat) (v : Ring) : getRing (setRing s c v) c = v := tget_tput_same ..
theorem getRing_other (s : State) {c d : Nat} (v : Ring) (h : d ≠ c) : getRing (setRing s c v) d = getRing s d :=
  tget_tput_other _ _ _ (h)
theorem getRing_of (s t : State) (c : Nat) (h : t.rings = s.rings) : getRing t c = getRing s c := by simp [getRing, h]
@[simp] theorem getCtx_same (s : State) (c : CtxNo) (v : Context) : getCtx (setCtx s c v) c = v := tget_tput_same ..
theorem getCtx_other (s : State) {c d : CtxNo} (v : Context) (h : d ≠ c) : getCtx (setCtx s c v) d = getCtx s d :=
  tget_tput_other _ _ _ (fun e => h (BitVec.eq_of_toNat_eq e))
theorem getCtx_of (s t : State) (c : CtxNo) (h : t.ctxs = s.ctxs) : getCtx t c = getCtx s c := by simp [getCtx, h]
@[simp] theorem getStack_same (s : State) (c : StackNo) (v : Stack) : getStack (setStack s c v) c = v := tget_tput_same ..
theorem getStack_other (s : State) {c d : StackNo} (v : Stack) (h : d ≠ c) : getStack (setStack s c v) d = getStack s d :=
  tget_tput_other _ _ _ (fun e => h (Fin.ext e))
theorem getStack_of (s t : State) (c : StackNo) (h : t.hbm = s.hbm) : getStack t c = getStack s c := by simp [getStack, h]
@[simp] theorem getXp_same (s : State) (c : PortNo) (v : XPort) : getXp (setXp s c v) c = v := tget_tput_same ..
theorem getXp_other (s : State) {c d : PortNo} (v : XPort) (h : d ≠ c) : getXp (setXp s c v) d = getXp s d :=
  tget_tput_other _ _ _ (fun e => h (Fin.ext e))
theorem getXp_of (s t : State) (c : PortNo) (h : t.xports = s.xports) : getXp t c = getXp s c := by simp [getXp, h]
@[simp] theorem getHp_same (s : State) (c : HostPort) (v : HPort) : getHp (setHp s c v) c = v := tget_tput_same ..
theorem getHp_other (s : State) {c d : HostPort} (v : HPort) (h : d ≠ c) : getHp (setHp s c v) d = getHp s d :=
  tget_tput_other _ _ _ (fun e => h (Fin.ext e))
theorem getHp_of (s t : State) (c : HostPort) (h : t.hports = s.hports) : getHp t c = getHp s c := by simp [getHp, h]
@[simp] theorem getTile_same (s : State) (c : TileNo) (v : Tile) : getTile (setTile s c v) c = v := tget_tput_same ..
theorem getTile_other (s : State) {c d : TileNo} (v : Tile) (h : d ≠ c) : getTile (setTile s c v) d = getTile s d :=
  tget_tput_other _ _ _ (fun e => h (Fin.ext e))
theorem getTile_of (s t : State) (c : TileNo) (h : t.tiles = s.tiles) : getTile t c = getTile s c := by simp [getTile, h]
@[simp] theorem getSlot_same (s : State) (c : CoreNo) (k : SlotNo) (v : Slot) : getSlot (setSlot s c k v) c k = v := by
  simp [getSlot, setSlot]
theorem getSlot_of (s t : State) (c : CoreNo) (k : SlotNo) (h : t.cores = s.cores) : getSlot t c k = getSlot s c k := by
  simp [getSlot, getCore, h]

end Sys2Proof.Machine
end

