-- ==== Sys2Proof/Laws/Memory.lean ====
section
/-!
SUPPORT. Memory: what each operation on it stores, what it leaves, and that it keeps the canonical form.
-/
namespace Sys2Proof.Machine
open Sys2Proof

/-! Bytes. -/

/-- Storing bytes changes memory alone. -/
theorem putBytes_rest (s : State) (a : Nat) (bs : List Byte) : putBytes s a bs = { s with mem := (putBytes s a bs).mem } := by
  induction bs generalizing s a with
  | nil => rfl
  | cons b r ih => rw [putBytes, ih]

theorem memByte_putBytes (s : State) (a : Nat) (bs : List Byte) (x : Nat) :
    memByte (putBytes s a bs) x = if a ≤ x ∧ x < a + bs.length then bs.getD (x - a) 0 else memByte s x := by
  induction bs generalizing s a with
  | nil => simp [putBytes]
  | cons b r ih =>
    rw [putBytes, ih]
    simp only [memByte, tget_tput, List.length_cons]
    by_cases h : a + 1 ≤ x ∧ x < a + 1 + r.length
    · rw [if_pos h, if_pos (by omega)]
      obtain ⟨n, rfl⟩ : ∃ n, x = a + (n + 1) := ⟨x - a - 1, by omega⟩
      simp [show a + (n + 1) - (a + 1) = n by omega]
    · rw [if_neg h]
      by_cases hx : x = a
      · subst hx; simp
      · rw [if_neg hx, if_neg (by omega)]

theorem putBytes_wf (s : State) (a : Nat) (bs : List Byte) (h : Memory.wf s.mem) : Memory.wf (putBytes s a bs).mem := by
  induction bs generalizing s a with
  | nil => exact h
  | cons b r ih => exact ih _ _ (tput_canonical 0 _ _ _ h)

/-- Writing zeros changes memory and its markers alone. -/
theorem memByte_zeroRange (s : State) (a n x : Nat) : memByte (zeroRange s a n) x = if x < a ∨ a + n ≤ x then memByte s x else 0 := by
  have := tget_filter (0 : Byte) (fun k => decide (k < a ∨ a + n ≤ k)) s.mem x
  simpa [memByte, zeroRange] using this

theorem zeroRange_wf (s : State) (a n : Nat) (h : Memory.wf s.mem) : Memory.wf (zeroRange s a n).mem := filter_canonical 0 _ _ h

theorem freeBytes_succ (s : State) (a n : Nat) :
    freeBytes s a (n + 1) = freeBytes { s with freeCtr := s.freeCtr + 1, mem := tput 0 s.mem a (Config.freeByte s.freeCtr) } (a + 1) n := rfl

/-- Giving bytes free values changes those bytes and the free counter alone. -/
theorem freeBytes_rest (s : State) (a n : Nat) :
    freeBytes s a n = { s with mem := (freeBytes s a n).mem, freeCtr := (freeBytes s a n).freeCtr } := by
  induction n generalizing s a with
  | zero => rfl
  | succ n ih => rw [freeBytes_succ, ih]

theorem memByte_freeBytes_outside (s : State) (a n x : Nat) (h : x < a ∨ a + n ≤ x) : memByte (freeBytes s a n) x = memByte s x := by
  induction n generalizing s a with
  | zero => rfl
  | succ n ih =>
    rw [freeBytes_succ, ih _ _ (by omega)]
    exact tget_tput_other _ _ _ (by omega)

theorem freeBytes_wf (s : State) (a n : Nat) (h : Memory.wf s.mem) : Memory.wf (freeBytes s a n).mem := by
  induction n generalizing s a with
  | zero => exact h
  | succ n ih => exact ih _ _ (tput_canonical 0 _ _ _ h)

/-! Lines and writes. -/

theorem besideMemory_putBytes (s : State) (a : Nat) (bs : List Byte) : besideMemory (putBytes s a bs) = besideMemory s := by
  rw [putBytes_rest]; rfl

theorem besideMemory_freeBytes (s : State) (a n : Nat) : besideMemory (freeBytes s a n) = besideMemory s := by
  rw [freeBytes_rest]; rfl

/-- t differs from s at most in bytes of line l and in markers, and keeps the canonical form. -/
def LineOnly (l : Nat) (s t : State) : Prop :=
  besideMemory t = besideMemory s ∧ (∀ x, x / 64 ≠ l → memByte t x = memByte s x) ∧ (Memory.wf s.mem → Memory.wf t.mem)

theorem LineOnly.trans {l : Nat} {s t u : State} (h : LineOnly l s t) (k : LineOnly l t u) : LineOnly l s u :=
  ⟨k.1.trans h.1, fun x hx => (k.2.1 x hx).trans (h.2.1 x hx), fun w => k.2.2 (h.2.2 w)⟩

theorem lineOnly_putBytes (l : Nat) (s : State) (a : Nat) (bs : List Byte) (h : bs = [] ∨ (l * 64 ≤ a ∧ a + bs.length ≤ l * 64 + 64)) :
    LineOnly l s (putBytes s a bs) := by
  refine ⟨besideMemory_putBytes .., fun x hx => ?_, putBytes_wf _ _ _⟩
  rw [memByte_putBytes, if_neg]
  rcases h with rfl | h
  · simp
  · omega

theorem lineOnly_freeBytes (l : Nat) (s : State) : LineOnly l s (freeBytes s (l * 64) 64) :=
  ⟨besideMemory_freeBytes .., fun x hx => memByte_freeBytes_outside _ _ _ _ (by omega), freeBytes_wf _ _ _⟩

theorem lineOnly_setPoison (l k : Nat) (b : Bool) (s : State) : LineOnly l s (setPoison s k b) := ⟨rfl, fun _ _ => rfl, id⟩

/-- Writing a line's part: what it leaves beside memory, outside the line, and of the canonical form. -/
theorem writeLine_spec (s : State) (l a : Nat) (bs : List Byte) : LineOnly l s (writeLine s l a bs).1 := by
  have part : ∀ p : List Byte, p = (bs.drop (max a (l * 64) - a)).take (min (a + bs.length) (l * 64 + 64) - max a (l * 64)) →
      p = [] ∨ (l * 64 ≤ max a (l * 64) ∧ max a (l * 64) + p.length ≤ l * 64 + 64) := by
    rintro p rfl
    by_cases h : max a (l * 64) < min (a + bs.length) (l * 64 + 64)
    · right; simp only [List.length_take, List.length_drop]; omega
    · left; rw [show min (a + bs.length) (l * 64 + 64) - max a (l * 64) = 0 by omega]; simp
  have start : LineOnly l s { s with writeback := tput false s.writeback l false } := ⟨rfl, fun _ _ => rfl, id⟩
  simp only [writeLine]
  split
  · exact start.trans (lineOnly_putBytes l _ _ _ (part _ rfl))
  · split
    · exact start.trans ((lineOnly_setPoison ..).trans (lineOnly_putBytes l _ _ _ (part _ rfl)))
    · split
      · have free : LineOnly l s (freshBool { s with writeback := tput false s.writeback l false }).2 := ⟨rfl, fun _ _ => rfl, id⟩
        dsimp only
        refine LineOnly.trans ?_ (lineOnly_putBytes l _ _ _ (part _ rfl))
        split
        · exact free
        · exact free.trans ((lineOnly_freeBytes ..).trans (lineOnly_setPoison ..))
      · exact ⟨rfl, fun _ _ => rfl, id⟩

/-- A fold over lines that each keep a property keeps it. -/
theorem foldl_keeps {α β : Type} (P : β → Prop) (f : β → α → β) (l : List α) (b : β) (hb : P b) (h : ∀ b x, x ∈ l → P b → P (f b x)) :
    P (l.foldl f b) := by
  induction l generalizing b with
  | nil => exact hb
  | cons x r ih => exact ih _ (h _ _ (List.mem_cons_self ..) hb) fun b y hy => h b y (List.mem_cons_of_mem _ hy)

/-- A write: nothing beside memory, no byte of another line, and the canonical form stays. -/
theorem writeMem_spec (s : State) (a : Nat) (bs : List Byte) :
    besideMemory (writeMem s a bs).1 = besideMemory s
      ∧ (∀ x, x / 64 < a / 64 ∨ (a + bs.length - 1) / 64 < x / 64 → memByte (writeMem s a bs).1 x = memByte s x)
      ∧ (Memory.wf s.mem → Memory.wf (writeMem s a bs).1.mem) := by
  unfold writeMem
  split
  · exact ⟨rfl, fun _ _ => rfl, id⟩
  · rename_i hne
    have hlen : 0 < bs.length := List.length_pos_iff.mpr hne
    dsimp only
    refine foldl_keeps
      (fun r : State × Bool => besideMemory r.1 = besideMemory s
        ∧ (∀ x, x / 64 < a / 64 ∨ (a + bs.length - 1) / 64 < x / 64 → memByte r.1 x = memByte s x) ∧ (Memory.wf s.mem → Memory.wf r.1.mem))
      _ _ (s, true) ⟨rfl, fun _ _ => rfl, id⟩ ?_
    intro r i hi hr
    have hi := List.mem_range.mp hi
    have h := writeLine_spec r.1 (a / 64 + i) a bs
    exact ⟨h.1.trans hr.1, fun x hx => (h.2.1 x (by omega)).trans (hr.2.1 x hx), fun w => h.2.2 (hr.2.2 w)⟩

/-- No line of a range is poisoned, told line by line. -/
theorem rangePoisoned_false {s : State} {a n : Nat} (hn : 0 < n) (h : rangePoisoned s a n = false) {l : Nat} (h1 : a / 64 ≤ l)
    (h2 : l ≤ (a + n - 1) / 64) : l ∉ s.poison.map (·.1) := by
  simp only [rangePoisoned, Nat.ne_of_gt hn, if_false, List.any_eq_false, decide_eq_true_eq, not_and, Nat.not_le] at h
  rw [List.mem_map]
  rintro ⟨e, he, rfl⟩
  have := h e he h1
  omega

theorem tget_of_not_mem {α : Type} (d : α) (t : Tbl α) (k : Nat) (h : k ∉ t.map (·.1)) : tget d t k = d := by
  induction t with
  | nil => rfl
  | cons e r ih => simp at h; simp [tget, Ne.symm h.1]; exact ih (by simpa using h.2)

/-- A line without a marker takes its part of a write. -/
theorem writeLine_clean (s : State) (l a : Nat) (bs : List Byte) (h : linePoison s l = false) :
    (writeLine s l a bs).2 = true ∧ (writeLine s l a bs).1.poison = s.poison
      ∧ ∀ x, memByte (writeLine s l a bs).1 x = if a ≤ x ∧ x < a + bs.length ∧ x / 64 = l then bs.getD (x - a) 0 else memByte s x := by
  simp only [writeLine, h, Bool.not_false, if_true]
  refine ⟨trivial, by rw [putBytes_rest], fun x => ?_⟩
  rw [memByte_putBytes]
  simp only [List.length_take, List.length_drop]
  by_cases hx : a ≤ x ∧ x < a + bs.length ∧ x / 64 = l
  · rw [if_pos hx, if_pos (by omega)]
    simp only [List.getD_eq_getElem?_getD]
    rw [List.getElem?_take_of_lt (by omega), List.getElem?_drop]
    congr 2
    omega
  · rw [if_neg hx, if_neg (by omega)]
    rfl

/-- A write over lines without markers stores its bytes, all of them and nothing else, and reports no failure. -/
theorem writeMem_clean (s : State) (a : Nat) (bs : List Byte) (h : rangePoisoned s a bs.length = false) :
    (writeMem s a bs).2 = true ∧ (writeMem s a bs).1.poison = s.poison
      ∧ ∀ x, memByte (writeMem s a bs).1 x = if a ≤ x ∧ x < a + bs.length then bs.getD (x - a) 0 else memByte s x := by
  unfold writeMem
  split
  · rename_i he; subst he; simp
  · rename_i hne
    have hlen : 0 < bs.length := List.length_pos_iff.mpr hne
    dsimp only
    have key : ∀ n, n ≤ (a + bs.length - 1) / 64 - a / 64 + 1 →
        let r := (List.range n).foldl (fun (acc : State × Bool) i => let r := writeLine acc.1 (a / 64 + i) a bs; (r.1, acc.2 && r.2)) (s, true)
        r.2 = true ∧ r.1.poison = s.poison
          ∧ ∀ x, memByte r.1 x = if a ≤ x ∧ x < a + bs.length ∧ x / 64 < a / 64 + n then bs.getD (x - a) 0 else memByte s x := by
      intro n
      induction n with
      | zero => intro _; refine ⟨rfl, rfl, fun x => ?_⟩; rw [if_neg (by omega)]; rfl
      | succ n ih =>
        intro hn
        obtain ⟨h1, h2, h3⟩ := ih (by omega)
        rw [List.range_succ, List.foldl_append]
        simp only [List.foldl_cons, List.foldl_nil]
        generalize (List.range n).foldl _ _ = r at h1 h2 h3 ⊢
        have hp : linePoison r.1 (a / 64 + n) = false := by
          rw [linePoison, h2]
          exact tget_of_not_mem _ _ _ (rangePoisoned_false hlen h (by omega) (by omega))
        obtain ⟨w1, w2, w3⟩ := writeLine_clean r.1 (a / 64 + n) a bs hp
        refine ⟨by simp [h1, w1], w2.trans h2, fun x => ?_⟩
        rw [w3, h3]
        by_cases hx : a ≤ x ∧ x < a + bs.length ∧ x / 64 = a / 64 + n
        · rw [if_pos hx, if_pos (by omega)]
        · rw [if_neg hx]
          by_cases hy : a ≤ x ∧ x < a + bs.length ∧ x / 64 < a / 64 + n
          · rw [if_pos hy, if_pos (by omega)]
          · rw [if_neg hy, if_neg (by omega)]
    obtain ⟨h1, h2, h3⟩ := key _ (Nat.le_refl _)
    refine ⟨h1, h2, fun x => ?_⟩
    rw [h3]
    by_cases hx : a ≤ x ∧ x < a + bs.length
    · rw [if_pos hx, if_pos (by omega)]
    · rw [if_neg hx, if_neg (by omega)]

theorem besideMemory_writeMem (s : State) (a : Nat) (bs : List Byte) : besideMemory (writeMem s a bs).1 = besideMemory s := (writeMem_spec s a bs).1
theorem besideMemory_storeMem (s : State) (a : Nat) (bs : List Byte) : besideMemory (storeMem s a bs) = besideMemory s := (writeMem_spec s a bs).1
theorem besideMemory_zeroRange (s : State) (a n : Nat) : besideMemory (zeroRange s a n) = besideMemory s := rfl

/-- Reset memory has the canonical form. -/
theorem reset_memory_wf : Memory.wf State.reset.mem := by decide

end Sys2Proof.Machine
end

