-- ==== Sys2Proof/Laws/Reports.lean ====
section
/-!
SUPPORT. Events (R333, R335, R510): what raising them changes, and all that it leaves alone.
-/
namespace Sys2Proof.Machine
open Sys2Proof

/-! `OnlyReports` is a preorder. -/

theorem OnlyReports.refl (s : State) : OnlyReports s s := ⟨rfl, rfl, fun _ => rfl, fun _ _ => rfl⟩

/-- What a ring's buffer holds depends on its entry alone. -/
theorem inRingBuffer_of {r q : Ring} (h : ringBesideReports r = ringBesideReports q) (a : Nat) : inRingBuffer r a ↔ inRingBuffer q a := by
  have he : r.entry = q.entry := (congrArg Ring.entry h :)
  simp [inRingBuffer, Ring.enabled, Ring.base, Ring.size, Ring.log2, Ring.kind, he]

theorem OnlyReports.outside {s t : State} (h : OnlyReports s t) {a : Nat} (ha : outsideRings s a) : outsideRings t a :=
  fun n hn => ha n ((inRingBuffer_of (h.rings n) a).mp hn)

theorem OnlyReports.trans {s t u : State} (h : OnlyReports s t) (k : OnlyReports t u) : OnlyReports s u :=
  ⟨k.rest.trans h.rest, k.weala.trans h.weala, fun n => (k.rings n).trans (h.rings n),
    fun a ha => (k.memory a (h.outside ha)).trans (h.memory a ha)⟩

/-! Each operation. -/

/-- A change of a ring's tail, state, fault, event number and holdoff. -/
theorem onlyReports_setRing (s : State) (n : Nat) (r : Ring) (h : ringBesideReports r = ringBesideReports (getRing s n)) :
    OnlyReports s (setRing s n r) := by
  refine ⟨rfl, rfl, fun m => ?_, fun _ _ => rfl⟩
  by_cases hm : m = n
  · subst hm; rw [getRing_same]; exact h
  · rw [getRing_other s r hm]

theorem onlyReports_raiseMsix (s : State) (n : Nat) : OnlyReports s (raiseMsix s n) := by
  unfold raiseMsix
  dsimp only
  split
  · exact .refl s
  · split
    · exact onlyReports_setRing _ _ _ rfl
    · split
      · exact .refl s
      · split
        · split
          · exact .refl s
          · exact ⟨rfl, rfl, fun _ => rfl, fun _ _ => rfl⟩
        have h : OnlyReports s { s with msix := ((getRing s n).msixPort, (getRing s n).msixVec) :: s.msix } :=
          ⟨rfl, rfl, fun _ => rfl, fun _ _ => rfl⟩
        exact h.trans (onlyReports_setRing _ _ _ (by rfl))

theorem onlyReports_logEvent (s : State) (ev : Event) : OnlyReports s (logEvent s ev) := by
  unfold logEvent
  split
  · exact .refl s
  · exact ⟨rfl, rfl, fun _ => rfl, fun _ _ => rfl⟩

theorem onlyReports_sendOn (s : State) (b : Binding) (l : List MgmtMsg) : OnlyReports s (sendOn s b l) := ⟨rfl, rfl, fun _ => rfl, fun _ _ => rfl⟩

theorem onlyReports_freshWord (s : State) : OnlyReports s (freshWord s).2 := ⟨rfl, rfl, fun _ => rfl, fun _ _ => rfl⟩

/-- A write beside memory changes none of what a report leaves. -/
theorem besideReports_of_memory {s t : State} (h : besideMemory t = besideMemory s) : besideReports t = besideReports s :=
  (congrArg besideReports h :)

theorem rings_of_memory {s t : State} (h : besideMemory t = besideMemory s) : t.rings = s.rings := (congrArg (fun x : State => x.rings) h :)
theorem weala_of_memory {s t : State} (h : besideMemory t = besideMemory s) : t.weala = s.weala := (congrArg (fun x : State => x.weala) h :)

/-- A write of an entry into a ring's own buffer is a report. -/
theorem onlyReports_entry (s : State) (n : Nat) (i : BitVec 32) (bs : List Byte) (he : (getRing s n).enabled = true) (hb : bs ≠ [])
    (hl : bs.length ≤ ringEntryBytes (getRing s n).kind) : OnlyReports s (writeMem s ((getRing s n).slotAddr i) bs).1 := by
  have w := writeMem_spec s ((getRing s n).slotAddr i) bs
  refine ⟨besideReports_of_memory w.1, by rw [weala_of_memory w.1], fun m => by rw [getRing_of _ _ m (rings_of_memory w.1)], fun a ha => ?_⟩
  apply w.2.1
  have hout := ha n
  simp only [inRingBuffer, he, true_and, not_and, Nat.not_le] at hout
  have hpos : 0 < bs.length := List.length_pos_iff.mpr hb
  have hsize : i.toNat % (getRing s n).size < (getRing s n).size := Nat.mod_lt _ (Nat.two_pow_pos _)
  unfold Ring.slotAddr
  generalize i.toNat % (getRing s n).size = k at hsize
  generalize (getRing s n).size = z at *
  generalize ringEntryBytes (getRing s n).kind = e at *
  have hk : k * e + e ≤ z * e := by rw [← Nat.succ_mul]; exact Nat.mul_le_mul_right _ hsize
  by_cases h1 : (getRing s n).base / 64 ≤ a / 64
  · right; have := hout h1; omega
  · left; omega

theorem bytesOf_length (n v : Nat) : (bytesOf n v).length = n := by
  induction n generalizing v with
  | zero => rfl
  | succ n ih => simp [bytesOf, ih]

theorem onlyReports_putEvent (s : State) (ev : Event) (n : Nat) (he : (getRing s n).enabled = true) (hk : (getRing s n).kind = 2) :
    OnlyReports s (putEvent s ev n).1 := by
  unfold putEvent
  dsimp only
  split
  · exact onlyReports_setRing _ _ _ rfl
  · split
    · exact onlyReports_setRing _ _ _ rfl
    · have w := onlyReports_entry s n (getRing s n).tail
        (bytesOf 64 (eventRecord s ev ((getRing s n).pass (getRing s n).tail) (getRing s n).eventSeq)) he
        (by intro h; have := congrArg List.length h; rw [bytesOf_length] at this; simp at this)
        (by rw [bytesOf_length, hk]; exact Nat.le_refl _)
      have k := getRing_of _ _ n (rings_of_memory (writeMem_spec s ((getRing s n).slotAddr (getRing s n).tail)
        (bytesOf 64 (eventRecord s ev ((getRing s n).pass (getRing s n).tail) (getRing s n).eventSeq))).1)
      split
      · exact w.trans ((onlyReports_setRing _ _ _ (by rw [k]; rfl)).trans (onlyReports_raiseMsix ..))
      · exact w.trans (onlyReports_setRing _ _ _ (by rw [k]; rfl))

/-- Delivering an event only reports (R333). -/
theorem onlyReports_deliver (fuel : Nat) (s : State) (ev : Event) : OnlyReports s (deliver fuel s ev) := by
  have log (s : State) (ev : Event) : OnlyReports s (if ev.platform then logEvent s ev else s) := by
    split
    · exact onlyReports_logEvent ..
    · exact .refl s
  induction fuel generalizing s ev with
  | zero => exact log s ev
  | succ fuel ih =>
    unfold deliver
    refine foldl_keeps (OnlyReports s) _ _ _ (log s ev) fun t e _ h => ?_
    dsimp only
    split
    · rename_i hf
      simp only [eventFor, Bool.and_eq_true, beq_iff_eq] at hf
      have p := onlyReports_putEvent t ev e.1 hf.1.1 hf.1.2
      split
      · exact h.trans p
      · exact h.trans (p.trans (ih ..))
    · exact h

/-- Raising an event only reports: everything beside memory, the rings and Weala's log stands, and memory changes in rings' buffers alone. -/
theorem onlyReports_raise (s : State) (ev : Event) : OnlyReports s (raise s ev) := by
  unfold raise
  dsimp only
  split
  · exact (onlyReports_deliver ..).trans (onlyReports_sendOn ..)
  · exact onlyReports_deliver ..

theorem onlyReports_setupRefused (s : State) (o : Nat) : OnlyReports s (setupRefused s o) := by
  unfold setupRefused
  exact (onlyReports_freshWord s).trans (onlyReports_raise ..)

theorem onlyReports_announce (s t : State) : OnlyReports t (announce s t) := onlyReports_sendOn ..

/-! The same as equations, for rewriting. -/

@[simp] theorem besideReports_raise (s : State) (ev : Event) : besideReports (raise s ev) = besideReports s := (onlyReports_raise s ev).rest
@[simp] theorem besideReports_setupRefused (s : State) (o : Nat) : besideReports (setupRefused s o) = besideReports s :=
  (onlyReports_setupRefused s o).rest

@[simp] theorem raise_pending (s : State) (ev : Event) : (raise s ev).pending = s.pending := (congrArg (fun x : State => x.pending) (besideReports_raise s ev) :)
@[simp] theorem raise_pages (s : State) (ev : Event) : (raise s ev).pages = s.pages := (congrArg (fun x : State => x.pages) (besideReports_raise s ev) :)
@[simp] theorem raise_pageRuns (s : State) (ev : Event) : (raise s ev).pageRuns = s.pageRuns := (congrArg (fun x : State => x.pageRuns) (besideReports_raise s ev) :)
@[simp] theorem raise_cores (s : State) (ev : Event) : (raise s ev).cores = s.cores := (congrArg (fun x : State => x.cores) (besideReports_raise s ev) :)
@[simp] theorem raise_palms (s : State) (ev : Event) : (raise s ev).palms = s.palms := (congrArg (fun x : State => x.palms) (besideReports_raise s ev) :)
@[simp] theorem raise_parts (s : State) (ev : Event) : (raise s ev).parts = s.parts := (congrArg (fun x : State => x.parts) (besideReports_raise s ev) :)
@[simp] theorem raise_cuffs (s : State) (ev : Event) : (raise s ev).cuffs = s.cuffs := (congrArg (fun x : State => x.cuffs) (besideReports_raise s ev) :)
@[simp] theorem raise_ctxs (s : State) (ev : Event) : (raise s ev).ctxs = s.ctxs := (congrArg (fun x : State => x.ctxs) (besideReports_raise s ev) :)
@[simp] theorem raise_hbm (s : State) (ev : Event) : (raise s ev).hbm = s.hbm := (congrArg (fun x : State => x.hbm) (besideReports_raise s ev) :)
@[simp] theorem raise_xports (s : State) (ev : Event) : (raise s ev).xports = s.xports := (congrArg (fun x : State => x.xports) (besideReports_raise s ev) :)
@[simp] theorem raise_hports (s : State) (ev : Event) : (raise s ev).hports = s.hports := (congrArg (fun x : State => x.hports) (besideReports_raise s ev) :)
@[simp] theorem raise_tiles (s : State) (ev : Event) : (raise s ev).tiles = s.tiles := (congrArg (fun x : State => x.tiles) (besideReports_raise s ev) :)
@[simp] theorem raise_packets (s : State) (ev : Event) : (raise s ev).packets = s.packets := (congrArg (fun x : State => x.packets) (besideReports_raise s ev) :)
@[simp] theorem raise_bursts (s : State) (ev : Event) : (raise s ev).bursts = s.bursts := (congrArg (fun x : State => x.bursts) (besideReports_raise s ev) :)
@[simp] theorem raise_escape (s : State) (ev : Event) : (raise s ev).escape = s.escape := (congrArg (fun x : State => x.escape) (besideReports_raise s ev) :)
@[simp] theorem raise_escapeLoading (s : State) (ev : Event) : (raise s ev).escapeLoading = s.escapeLoading := (congrArg (fun x : State => x.escapeLoading) (besideReports_raise s ev) :)
@[simp] theorem raise_quietDue (s : State) (ev : Event) : (raise s ev).quietDue = s.quietDue := (congrArg (fun x : State => x.quietDue) (besideReports_raise s ev) :)
@[simp] theorem raise_mitten (s : State) (ev : Event) : (raise s ev).mitten = s.mitten := (congrArg (fun x : State => x.mitten) (besideReports_raise s ev) :)
@[simp] theorem raise_holes (s : State) (ev : Event) : (raise s ev).holes = s.holes := (congrArg (fun x : State => x.holes) (besideReports_raise s ev) :)
@[simp] theorem raise_gradeStored (s : State) (ev : Event) : (raise s ev).gradeStored = s.gradeStored := (congrArg (fun x : State => x.gradeStored) (besideReports_raise s ev) :)
@[simp] theorem raise_changes (s : State) (ev : Event) : (raise s ev).changes = s.changes := (congrArg (fun x : State => x.changes) (besideReports_raise s ev) :)
@[simp] theorem raise_resets (s : State) (ev : Event) : (raise s ev).resets = s.resets := (congrArg (fun x : State => x.resets) (besideReports_raise s ev) :)
@[simp] theorem raise_owning (s : State) (ev : Event) : (raise s ev).owning = s.owning := (congrArg (fun x : State => x.owning) (besideReports_raise s ev) :)
@[simp] theorem raise_setup (s : State) (ev : Event) : (raise s ev).setup = s.setup := (congrArg (fun x : State => x.setup) (besideReports_raise s ev) :)
@[simp] theorem raise_fns (s : State) (ev : Event) : (raise s ev).fns = s.fns := (congrArg (fun x : State => x.fns) (besideReports_raise s ev) :)
@[simp] theorem raise_tb (s : State) (ev : Event) : (raise s ev).tb = s.tb := (congrArg (fun x : State => x.tb) (besideReports_raise s ev) :)
@[simp] theorem raise_pw (s : State) (ev : Event) : (raise s ev).pw = s.pw := (congrArg (fun x : State => x.pw) (besideReports_raise s ev) :)

@[simp] theorem setupRefused_pending (s : State) (o : Nat) : (setupRefused s o).pending = s.pending := (congrArg (fun x : State => x.pending) (besideReports_setupRefused s o) :)
@[simp] theorem setupRefused_pages (s : State) (o : Nat) : (setupRefused s o).pages = s.pages := (congrArg (fun x : State => x.pages) (besideReports_setupRefused s o) :)
@[simp] theorem setupRefused_pageRuns (s : State) (o : Nat) : (setupRefused s o).pageRuns = s.pageRuns := (congrArg (fun x : State => x.pageRuns) (besideReports_setupRefused s o) :)
@[simp] theorem setupRefused_cores (s : State) (o : Nat) : (setupRefused s o).cores = s.cores := (congrArg (fun x : State => x.cores) (besideReports_setupRefused s o) :)
@[simp] theorem setupRefused_palms (s : State) (o : Nat) : (setupRefused s o).palms = s.palms := (congrArg (fun x : State => x.palms) (besideReports_setupRefused s o) :)
@[simp] theorem setupRefused_parts (s : State) (o : Nat) : (setupRefused s o).parts = s.parts := (congrArg (fun x : State => x.parts) (besideReports_setupRefused s o) :)
@[simp] theorem setupRefused_cuffs (s : State) (o : Nat) : (setupRefused s o).cuffs = s.cuffs := (congrArg (fun x : State => x.cuffs) (besideReports_setupRefused s o) :)
@[simp] theorem setupRefused_ctxs (s : State) (o : Nat) : (setupRefused s o).ctxs = s.ctxs := (congrArg (fun x : State => x.ctxs) (besideReports_setupRefused s o) :)
@[simp] theorem setupRefused_hbm (s : State) (o : Nat) : (setupRefused s o).hbm = s.hbm := (congrArg (fun x : State => x.hbm) (besideReports_setupRefused s o) :)
@[simp] theorem setupRefused_xports (s : State) (o : Nat) : (setupRefused s o).xports = s.xports := (congrArg (fun x : State => x.xports) (besideReports_setupRefused s o) :)
@[simp] theorem setupRefused_hports (s : State) (o : Nat) : (setupRefused s o).hports = s.hports := (congrArg (fun x : State => x.hports) (besideReports_setupRefused s o) :)
@[simp] theorem setupRefused_tiles (s : State) (o : Nat) : (setupRefused s o).tiles = s.tiles := (congrArg (fun x : State => x.tiles) (besideReports_setupRefused s o) :)
@[simp] theorem setupRefused_packets (s : State) (o : Nat) : (setupRefused s o).packets = s.packets := (congrArg (fun x : State => x.packets) (besideReports_setupRefused s o) :)
@[simp] theorem setupRefused_bursts (s : State) (o : Nat) : (setupRefused s o).bursts = s.bursts := (congrArg (fun x : State => x.bursts) (besideReports_setupRefused s o) :)
@[simp] theorem setupRefused_escape (s : State) (o : Nat) : (setupRefused s o).escape = s.escape := (congrArg (fun x : State => x.escape) (besideReports_setupRefused s o) :)
@[simp] theorem setupRefused_escapeLoading (s : State) (o : Nat) : (setupRefused s o).escapeLoading = s.escapeLoading := (congrArg (fun x : State => x.escapeLoading) (besideReports_setupRefused s o) :)
@[simp] theorem setupRefused_quietDue (s : State) (o : Nat) : (setupRefused s o).quietDue = s.quietDue := (congrArg (fun x : State => x.quietDue) (besideReports_setupRefused s o) :)
@[simp] theorem setupRefused_mitten (s : State) (o : Nat) : (setupRefused s o).mitten = s.mitten := (congrArg (fun x : State => x.mitten) (besideReports_setupRefused s o) :)
@[simp] theorem setupRefused_holes (s : State) (o : Nat) : (setupRefused s o).holes = s.holes := (congrArg (fun x : State => x.holes) (besideReports_setupRefused s o) :)
@[simp] theorem setupRefused_gradeStored (s : State) (o : Nat) : (setupRefused s o).gradeStored = s.gradeStored := (congrArg (fun x : State => x.gradeStored) (besideReports_setupRefused s o) :)
@[simp] theorem setupRefused_changes (s : State) (o : Nat) : (setupRefused s o).changes = s.changes := (congrArg (fun x : State => x.changes) (besideReports_setupRefused s o) :)
@[simp] theorem setupRefused_resets (s : State) (o : Nat) : (setupRefused s o).resets = s.resets := (congrArg (fun x : State => x.resets) (besideReports_setupRefused s o) :)
@[simp] theorem setupRefused_owning (s : State) (o : Nat) : (setupRefused s o).owning = s.owning := (congrArg (fun x : State => x.owning) (besideReports_setupRefused s o) :)
@[simp] theorem setupRefused_setup (s : State) (o : Nat) : (setupRefused s o).setup = s.setup := (congrArg (fun x : State => x.setup) (besideReports_setupRefused s o) :)
@[simp] theorem setupRefused_fns (s : State) (o : Nat) : (setupRefused s o).fns = s.fns := (congrArg (fun x : State => x.fns) (besideReports_setupRefused s o) :)
@[simp] theorem setupRefused_tb (s : State) (o : Nat) : (setupRefused s o).tb = s.tb := (congrArg (fun x : State => x.tb) (besideReports_setupRefused s o) :)
@[simp] theorem setupRefused_pw (s : State) (o : Nat) : (setupRefused s o).pw = s.pw := (congrArg (fun x : State => x.pw) (besideReports_setupRefused s o) :)

@[simp] theorem raise_weala_running (s : State) (ev : Event) : (raise s ev).weala.running = s.weala.running :=
  (congrArg (fun x : Weala => x.running) (onlyReports_raise s ev).weala :)
@[simp] theorem raise_weala_recovery (s : State) (ev : Event) : (raise s ev).weala.recovery = s.weala.recovery :=
  (congrArg (fun x : Weala => x.recovery) (onlyReports_raise s ev).weala :)
@[simp] theorem raise_weala_stopCause (s : State) (ev : Event) : (raise s ev).weala.stopCause = s.weala.stopCause :=
  (congrArg (fun x : Weala => x.stopCause) (onlyReports_raise s ev).weala :)
@[simp] theorem raise_weala_bootB (s : State) (ev : Event) : (raise s ev).weala.bootB = s.weala.bootB :=
  (congrArg (fun x : Weala => x.bootB) (onlyReports_raise s ev).weala :)
@[simp] theorem raise_weala_imageA (s : State) (ev : Event) : (raise s ev).weala.imageA = s.weala.imageA :=
  (congrArg (fun x : Weala => x.imageA) (onlyReports_raise s ev).weala :)
@[simp] theorem raise_weala_imageB (s : State) (ev : Event) : (raise s ev).weala.imageB = s.weala.imageB :=
  (congrArg (fun x : Weala => x.imageB) (onlyReports_raise s ev).weala :)
@[simp] theorem raise_weala_records (s : State) (ev : Event) : (raise s ev).weala.records = s.weala.records :=
  (congrArg (fun x : Weala => x.records) (onlyReports_raise s ev).weala :)
@[simp] theorem raise_weala_recordSeq (s : State) (ev : Event) : (raise s ev).weala.recordSeq = s.weala.recordSeq :=
  (congrArg (fun x : Weala => x.recordSeq) (onlyReports_raise s ev).weala :)
@[simp] theorem raise_weala_activeBank (s : State) (ev : Event) : (raise s ev).weala.activeBank = s.weala.activeBank :=
  (congrArg (fun x : Weala => x.activeBank) (onlyReports_raise s ev).weala :)
@[simp] theorem raise_weala_mapA (s : State) (ev : Event) : (raise s ev).weala.mapA = s.weala.mapA :=
  (congrArg (fun x : Weala => x.mapA) (onlyReports_raise s ev).weala :)
@[simp] theorem raise_weala_mapB (s : State) (ev : Event) : (raise s ev).weala.mapB = s.weala.mapB :=
  (congrArg (fun x : Weala => x.mapB) (onlyReports_raise s ev).weala :)
@[simp] theorem raise_weala_mirror (s : State) (ev : Event) : (raise s ev).weala.mirror = s.weala.mirror :=
  (congrArg (fun x : Weala => x.mirror) (onlyReports_raise s ev).weala :)
@[simp] theorem raise_weala_fuses (s : State) (ev : Event) : (raise s ev).weala.fuses = s.weala.fuses :=
  (congrArg (fun x : Weala => x.fuses) (onlyReports_raise s ev).weala :)
@[simp] theorem raise_weala_audit (s : State) (ev : Event) : (raise s ev).weala.audit = s.weala.audit :=
  (congrArg (fun x : Weala => x.audit) (onlyReports_raise s ev).weala :)
@[simp] theorem raise_weala_auditSeq (s : State) (ev : Event) : (raise s ev).weala.auditSeq = s.weala.auditSeq :=
  (congrArg (fun x : Weala => x.auditSeq) (onlyReports_raise s ev).weala :)
@[simp] theorem raise_weala_settings (s : State) (ev : Event) : (raise s ev).weala.settings = s.weala.settings :=
  (congrArg (fun x : Weala => x.settings) (onlyReports_raise s ev).weala :)
@[simp] theorem raise_weala_level (s : State) (ev : Event) : (raise s ev).weala.level = s.weala.level :=
  (congrArg (fun x : Weala => x.level) (onlyReports_raise s ev).weala :)
@[simp] theorem raise_weala_generation (s : State) (ev : Event) : (raise s ev).weala.generation = s.weala.generation :=
  (congrArg (fun x : Weala => x.generation) (onlyReports_raise s ev).weala :)
@[simp] theorem raise_weala_reqBuf (s : State) (ev : Event) : (raise s ev).weala.reqBuf = s.weala.reqBuf :=
  (congrArg (fun x : Weala => x.reqBuf) (onlyReports_raise s ev).weala :)
@[simp] theorem raise_weala_reqCmd (s : State) (ev : Event) : (raise s ev).weala.reqCmd = s.weala.reqCmd :=
  (congrArg (fun x : Weala => x.reqCmd) (onlyReports_raise s ev).weala :)
@[simp] theorem raise_weala_reqResult (s : State) (ev : Event) : (raise s ev).weala.reqResult = s.weala.reqResult :=
  (congrArg (fun x : Weala => x.reqResult) (onlyReports_raise s ev).weala :)
@[simp] theorem raise_weala_reqToken (s : State) (ev : Event) : (raise s ev).weala.reqToken = s.weala.reqToken :=
  (congrArg (fun x : Weala => x.reqToken) (onlyReports_raise s ev).weala :)
@[simp] theorem raise_weala_reqQueue (s : State) (ev : Event) : (raise s ev).weala.reqQueue = s.weala.reqQueue :=
  (congrArg (fun x : Weala => x.reqQueue) (onlyReports_raise s ev).weala :)
@[simp] theorem raise_weala_evRd (s : State) (ev : Event) : (raise s ev).weala.evRd = s.weala.evRd :=
  (congrArg (fun x : Weala => x.evRd) (onlyReports_raise s ev).weala :)
@[simp] theorem raise_weala_eids (s : State) (ev : Event) : (raise s ev).weala.eids = s.weala.eids :=
  (congrArg (fun x : Weala => x.eids) (onlyReports_raise s ev).weala :)
@[simp] theorem raise_weala_tid (s : State) (ev : Event) : (raise s ev).weala.tid = s.weala.tid :=
  (congrArg (fun x : Weala => x.tid) (onlyReports_raise s ev).weala :)
@[simp] theorem raise_weala_receiver (s : State) (ev : Event) : (raise s ev).weala.receiver = s.weala.receiver :=
  (congrArg (fun x : Weala => x.receiver) (onlyReports_raise s ev).weala :)

/-- No messages wait to be announced where power, functions and time stand: the state is what it was. -/
theorem announce_of_same (s t : State) (h1 : t.pw = s.pw) (h2 : t.fns = s.fns) (h3 : t.tb = s.tb) : announce s t = t := by
  have e : ∀ n, stateSensor s n = stateSensor t n := by
    intro n; unfold stateSensor fnReady fnState getFn quality; rw [h1, h2, h3]
  have f : ([69, 70, 71].filter fun n => stateSensor s n != stateSensor t n) = [] := by simp [e]
  unfold announce
  rw [f]
  unfold sendOn forReceiver
  cases t.weala.receiver with
  | none => cases h : receiverBinding t <;> simp [onSmb, onVdm]
  | some r => cases h : receiverBinding t <;> simp [onSmb, onVdm]

/-- The common end of a row that leaves power, functions and time: the effect is the next state. -/
theorem finish_of_same (s t : State) (h1 : t.pw = s.pw) (h2 : t.fns = s.fns) (h3 : t.tb = s.tb) (h4 : t.pending = s.pending)
    (h5 : t.weala.fuses = s.weala.fuses) : finish s t = .next t := by
  unfold finish
  rw [← h3, ← h4, ← h5, announce_of_same]
  · exact h1
  · exact h2
  · exact h3

end Sys2Proof.Machine
end

