-- ==== Sys2Proof/Laws/Work.lean ====
section
/-!
SUPPORT. What unit work leaves alone: every shared operation on descriptors, records, gates, collectives and requests keeps `besideWork`.
-/
namespace Sys2Proof.Machine
open Sys2Proof

theorem besideWork_of_reports {s t : State} (h : OnlyReports s t) : besideWork t = besideWork s := by
  have b : besideWork { besideReports t with weala := t.weala } = besideWork { besideReports s with weala := s.weala } := by
    rw [h.rest]; unfold besideWork; dsimp only; rw [h.weala]
  exact b
theorem besideWork_of_memory {s t : State} (h : besideMemory t = besideMemory s) : besideWork t = besideWork s := (congrArg besideWork h :)

/-- A fold of steps that each leave it leaves it. -/
theorem besideWork_foldl {α : Type} (f : State → α → State) (l : List α) (s : State) (h : ∀ s x, besideWork (f s x) = besideWork s) :
    besideWork (l.foldl f s) = besideWork s :=
  foldl_keeps (fun t => besideWork t = besideWork s) f l s rfl fun t x _ ht => (h t x).trans ht

/-! Setters. -/

@[simp] theorem besideWork_setCore (s : State) (c : CoreNo) (v : Core) : besideWork (setCore s c v) = besideWork s := rfl
@[simp] theorem besideWork_setSlot (s : State) (c : CoreNo) (k : SlotNo) (v : Slot) : besideWork (setSlot s c k v) = besideWork s := rfl
@[simp] theorem besideWork_setPart (s : State) (p : PartNo) (v : Partition) : besideWork (setPart s p v) = besideWork s := rfl
@[simp] theorem besideWork_setCuff (s : State) (n : CuffNo) (v : Cuff) : besideWork (setCuff s n v) = besideWork s := rfl
@[simp] theorem besideWork_setRing (s : State) (n : Nat) (v : Ring) : besideWork (setRing s n v) = besideWork s := rfl
@[simp] theorem besideWork_setCtx (s : State) (c : CtxNo) (v : Context) : besideWork (setCtx s c v) = besideWork s := rfl
@[simp] theorem besideWork_setTile (s : State) (t : TileNo) (v : Tile) : besideWork (setTile s t v) = besideWork s := rfl
@[simp] theorem besideWork_setPalm (s : State) (c : CoreNo) (k : Nat) (v : Palm) : besideWork (setPalm s c k v) = besideWork s := rfl
@[simp] theorem besideWork_setPoison (s : State) (l : Nat) (b : Bool) : besideWork (setPoison s l b) = besideWork s := rfl
@[simp] theorem besideWork_sendOn (s : State) (b : Binding) (l : List MgmtMsg) : besideWork (sendOn s b l) = besideWork s := rfl
@[simp] theorem besideWork_announce (s t : State) : besideWork (announce s t) = besideWork t := rfl

/-! Memory and reports. -/

@[simp] theorem besideWork_writeMem (s : State) (a : Nat) (bs : List Byte) : besideWork (writeMem s a bs).1 = besideWork s :=
  besideWork_of_memory (besideMemory_writeMem s a bs)
@[simp] theorem besideWork_storeMem (s : State) (a : Nat) (bs : List Byte) : besideWork (storeMem s a bs) = besideWork s :=
  besideWork_of_memory (besideMemory_storeMem s a bs)
@[simp] theorem besideWork_zeroRange (s : State) (a n : Nat) : besideWork (zeroRange s a n) = besideWork s := rfl
@[simp] theorem besideWork_freeBytes (s : State) (a n : Nat) : besideWork (freeBytes s a n) = besideWork s :=
  besideWork_of_memory (besideMemory_freeBytes s a n)
@[simp] theorem besideWork_raise (s : State) (ev : Event) : besideWork (raise s ev) = besideWork s := besideWork_of_reports (onlyReports_raise s ev)
@[simp] theorem besideWork_setupRefused (s : State) (o : Nat) : besideWork (setupRefused s o) = besideWork s :=
  besideWork_of_reports (onlyReports_setupRefused s o)
@[simp] theorem besideWork_raiseMsix (s : State) (n : Nat) : besideWork (raiseMsix s n) = besideWork s := besideWork_of_reports (onlyReports_raiseMsix s n)

@[simp] theorem besideWork_addWord (s : State) (a : Nat) (v : Word64) : besideWork (addWord s a v).1 = besideWork s := by
  unfold addWord; split <;> simp

@[simp] theorem besideWork_writeFor (s : State) (t : TileNo) (c : CtxNo) (a : Nat) (bs : List Byte) : besideWork (writeFor s t c a bs).1 = besideWork s := by
  unfold writeFor; split <;> simp

/-! Records (R325, R326, R328). -/

@[simp] theorem besideWork_faultRing (s : State) (n : Nat) (st : BitVec 8) : besideWork (faultRing s n st) = besideWork s := by
  unfold faultRing; dsimp only; rw [besideWork_raise]; split <;> rfl

@[simp] theorem besideWork_releaseHolder (s : State) (t : Task) : besideWork (releaseHolder s t) = besideWork s := rfl

@[simp] theorem besideWork_writeOutcome (s : State) (o : Outcome) : besideWork (writeOutcome s o).1 = besideWork s := by
  unfold writeOutcome
  dsimp only
  split
  · simp
  · split
    · rfl
    · split
      · simp
      · split
        · simp
        · simp only [besideWork_releaseHolder]
          split <;> simp

@[simp] theorem besideWork_drainWaiting (s : State) (r n : Nat) : besideWork (drainWaiting s r n) = besideWork s := by
  induction n generalizing s with
  | zero => rfl
  | succ n ih => unfold drainWaiting; split <;> [rfl; skip]; dsimp only; split <;> simp [ih]

@[simp] theorem besideWork_headerSignal (s : State) (t : Task) (st : BitVec 8) : besideWork (headerSignal s t st).1 = besideWork s := by
  unfold headerSignal
  split
  · rfl
  · dsimp only
    split
    · rfl
    · split <;> simp

@[simp] theorem besideWork_outcome (s : State) (t : Task) (st : BitVec 8) (d : BitVec 16) (c : Bool) (w : Word64) (q : BitVec 4) :
    besideWork (outcome s t st d c w q).1 = besideWork s := by
  unfold outcome
  dsimp only
  generalize (if (headerSignal s t st).2 = true then d else 0xFFFF) = d'
  split
  · exact besideWork_headerSignal ..
  · split
    · exact (besideWork_writeOutcome ..).trans (besideWork_headerSignal ..)
    · exact (besideWork_writeOutcome ..).trans (besideWork_headerSignal ..)

@[simp] theorem besideWork_complete (s : State) (t : Task) (st : BitVec 8) : besideWork (complete s t st) = besideWork s := by simp [complete]
@[simp] theorem besideWork_rejectTask (s : State) (t : Task) (st : BitVec 8) (d : BitVec 16) : besideWork (rejectTask s t st d) = besideWork s := by
  simp [rejectTask]

/-! Slots (R83 to R94). -/

@[simp] theorem besideWork_judgeCore (s : State) (c : CoreNo) : besideWork (judgeCore s c) = besideWork s := rfl

@[simp] theorem besideWork_spoilRange (kept : List (Nat × Nat)) (a n : Nat) (s : State) : besideWork (spoilRange kept a n s) = besideWork s := by
  induction n generalizing s with
  | zero => rfl
  | succ n ih => unfold spoilRange; dsimp only; split <;> simp [ih]

@[simp] theorem besideWork_spoilDest (s : State) (sl : Slot) : besideWork (spoilDest s sl) = besideWork s := by
  unfold spoilDest
  split
  · rfl
  · exact besideWork_foldl _ _ _ fun s r => by split <;> [split; skip] <;> simp

@[simp] theorem besideWork_recordSlot (s : State) (c : CoreNo) (k : SlotNo) (t : Task) (sl : Slot) : besideWork (recordSlot s c k t sl) = besideWork s := by
  unfold recordSlot; dsimp only; split <;> simp

@[simp] theorem besideWork_endSlot (s : State) (c : CoreNo) (k : SlotNo) (st : BitVec 8) (d : BitVec 16) : besideWork (endSlot s c k st d) = besideWork s := by
  unfold endSlot
  dsimp only
  split
  · rfl
  · split <;> simp

@[simp] theorem besideWork_grantFetches (n : CoreNo) (fuel : Nat) (s : State) : besideWork (grantFetches n fuel s) = besideWork s := by
  induction fuel generalizing s with
  | zero => rfl
  | succ fuel ih =>
    unfold grantFetches
    dsimp only
    split
    · split
      · rw [ih]; rfl
      · split
        · rfl
        · rw [ih]; rfl
    · rfl

@[simp] theorem besideWork_requestFetches (s : State) (n : CoreNo) (k : SlotNo) : besideWork (requestFetches s n k) = besideWork s := by
  unfold requestFetches; dsimp only; rw [besideWork_grantFetches]; rfl

@[simp] theorem besideWork_issueFetches (s : State) (n : CoreNo) (k : SlotNo) (xs : List Xfer) (b : Bool) :
    besideWork (issueFetches s n k xs b) = besideWork s := by
  simp [issueFetches]

@[simp] theorem besideWork_prefetch (s : State) (n : CoreNo) (k : SlotNo) (xs : List Xfer) : besideWork (prefetch s n k xs) = besideWork s := by
  simp [prefetch]

@[simp] theorem besideWork_landData (s : State) (n : CoreNo) (k : SlotNo) (tag off : Nat) (l : List Byte) :
    besideWork (landData s n k tag off l) = besideWork s := by
  unfold landData; dsimp only; split <;> rfl

@[simp] theorem besideWork_dropData (s : State) (n : CoreNo) (tag : Nat) : besideWork (dropData s n tag) = besideWork s := by
  simp [dropData]

@[simp] theorem besideWork_fetchLanded (s : State) (n : CoreNo) (k : SlotNo) (tag : Nat) : besideWork (fetchLanded s n k tag) = besideWork s := by
  unfold fetchLanded
  dsimp only
  split
  · rfl
  · split <;> simp

@[simp] theorem besideWork_grantStores (n : CoreNo) (fuel : Nat) (s : State) : besideWork (grantStores n fuel s) = besideWork s := by
  induction fuel generalizing s with
  | zero => rfl
  | succ fuel ih =>
    unfold grantStores
    dsimp only
    split
    · split
      · rw [ih]; rfl
      · split
        · rfl
        · rw [ih]; rfl
    · rfl

@[simp] theorem besideWork_send (s : State) (l : List Packet) : besideWork (send s l) = besideWork s := rfl

@[simp] theorem besideWork_requestStores (n : CoreNo) (k : SlotNo) (fuel : Nat) (s : State) : besideWork (requestStores n k fuel s) = besideWork s := by
  induction fuel generalizing s with
  | zero => rfl
  | succ fuel ih =>
    unfold requestStores
    dsimp only
    split
    · split
      · rfl
      · split
        · rw [ih]; simp
        · rfl
    · split <;> simp
    · split
      · rfl
      · split
        · rw [ih]; simp
        · rfl
    · split
      · rw [ih]; simp
      · rfl
    · rfl

@[simp] theorem besideWork_drainSlot (s : State) (n : CoreNo) (k : SlotNo) : besideWork (drainSlot s n k) = besideWork s := by
  unfold drainSlot; dsimp only; split <;> simp

@[simp] theorem besideWork_settleSlot (s : State) (n : CoreNo) (k : SlotNo) : besideWork (settleSlot s n k) = besideWork s := by
  unfold settleSlot; dsimp only; split <;> simp

@[simp] theorem besideWork_palmEnd (s : State) (c : CoreNo) (n : Nat) (b : Bool) : besideWork (palmEnd s c n b) = besideWork s := rfl

@[simp] theorem besideWork_cutReduce (s : State) (n : CoreNo) (k : SlotNo) (st : BitVec 8) : besideWork (cutReduce s n k st) = besideWork s := by
  unfold cutReduce; dsimp only; split <;> [split; skip] <;> simp

@[simp] theorem besideWork_failSlot (s : State) (n : CoreNo) (k : SlotNo) (st : BitVec 8) : besideWork (failSlot s n k st) = besideWork s := by
  unfold failSlot; dsimp only; split <;> simp

@[simp] theorem besideWork_transferFails (s : State) (n : CoreNo) (k : SlotNo) (st : BitVec 8) :
    besideWork (transferFails s n k st) = besideWork s := by
  unfold transferFails; dsimp only; split <;> simp [checkFails]

@[simp] theorem besideWork_storeAcked (s : State) (n : CoreNo) (k : SlotNo) (tag : Nat) : besideWork (storeAcked s n k tag) = besideWork s := rfl

@[simp] theorem besideWork_storeDone (s : State) (n : CoreNo) (k : SlotNo) (tag : Nat) : besideWork (storeDone s n k tag) = besideWork s := by
  unfold storeDone; dsimp only; split <;> simp

@[simp] theorem besideWork_swapDone (s : State) (n : CoreNo) (k : SlotNo) : besideWork (swapDone s n k) = besideWork s := by
  unfold swapDone; dsimp only; split <;> simp

@[simp] theorem besideWork_endTask (s : State) (n : CoreNo) (k : SlotNo) (st : BitVec 8) (d : BitVec 16) (l : List Out) (b : Bool) :
    besideWork (endTask s n k st d l b) = besideWork s := by
  unfold endTask; dsimp only; split <;> [skip; split] <;> simp

/-! Gates and rings. -/

@[simp] theorem besideWork_popSend (s : State) (n : Nat) : besideWork (popSend s n) = besideWork s := rfl

@[simp] theorem besideWork_deliverTask (s : State) (t : Task) : besideWork (deliverTask s t) = besideWork s := by
  unfold deliverTask; dsimp only; split <;> [split; skip; skip; skip] <;> rfl

@[simp] theorem besideWork_skipTasks (s : State) (l : List Task) : besideWork (skipTasks s l) = besideWork s :=
  besideWork_foldl _ _ _ fun s t => besideWork_complete s t stSkipped

@[simp] theorem besideWork_skipUnread (s : State) (r n : Nat) : besideWork (skipUnread s r n) = besideWork s := by
  induction n generalizing s with
  | zero => rfl
  | succ n ih =>
    unfold skipUnread
    dsimp only
    split
    · rfl
    · split
      · rfl
      · simp
      · rw [ih, besideWork_complete]; rfl

@[simp] theorem besideWork_ringSkip (s : State) (r : Nat) (g : Task) (st : BitVec 8) : besideWork (ringSkip s r g st) = besideWork s := by
  unfold ringSkip; dsimp only; split <;> simp

@[simp] theorem besideWork_gateFailed (s : State) (r : Nat) (t : Task) (st : BitVec 8) : besideWork (gateFailed s r t st) = besideWork s := by
  unfold gateFailed; split <;> simp

theorem besideWork_sendOne (s t : State) (r : Nat) (h : sendOne s r = some t) : besideWork t = besideWork s := by
  unfold sendOne at h
  dsimp only at h
  split at h
  · cases h
  · split at h
    · cases h
    · split at h
      · cases h; simp
      · split at h
        · cases h
        · split at h
          · cases h; simp
          · split at h <;> cases h <;> simp

@[simp] theorem besideWork_takeTurn (s : State) (p : HostPort) (r : Nat) : besideWork (takeTurn s p r) = besideWork s := rfl

@[simp] theorem besideWork_pump (s : State) (r n : Nat) : besideWork (pump s r n) = besideWork s := by
  induction n generalizing s with
  | zero => rfl
  | succ n ih =>
    unfold pump
    split
    · rfl
    · rename_i h; rw [ih, besideWork_sendOne _ _ _ h]

@[simp] theorem besideWork_pumpRing (s : State) (r : Nat) : besideWork (pumpRing s r) = besideWork s := by
  unfold pumpRing; dsimp only; rw [besideWork_pump]; split <;> simp

@[simp] theorem besideWork_ringTurns (p : HostPort) (n : Nat) (s : State) : besideWork (ringTurns p n s) = besideWork s := by
  induction n generalizing s with
  | zero => rfl
  | succ n ih =>
    unfold ringTurns
    split
    · rfl
    · rw [ih, besideWork_takeTurn]
      rename_i rn _
      cases h : sendOne s rn with
      | none => rfl
      | some t => exact besideWork_sendOne _ _ _ h

@[simp] theorem besideWork_pumpAll (s : State) : besideWork (pumpAll s) = besideWork s := besideWork_foldl _ _ _ fun s p => besideWork_ringTurns p _ s

@[simp] theorem besideWork_endRingGate (s : State) (r : Nat) (t : Task) (st : BitVec 8) (d : BitVec 16) :
    besideWork (endRingGate s r t st d) = besideWork s := by
  unfold endRingGate; dsimp only; rw [besideWork_pumpRing]; split <;> simp

@[simp] theorem besideWork_endCoreGate (s : State) (c : CoreNo) (k : SlotNo) (t : Task) (st : BitVec 8) :
    besideWork (endCoreGate s c k t st) = besideWork s := by
  unfold endCoreGate; dsimp only; rw [besideWork_pumpRing]; split <;> simp

@[simp] theorem besideWork_gateSkips (s : State) (t : Task) (st : BitVec 8) : besideWork (gateSkips s t st) = besideWork s := by
  unfold gateSkips; split <;> simp

/-! Collectives (R198, R215). -/

@[simp] theorem besideWork_setColl (s : State) (t : Task) (x : Coll) : besideWork (setColl s t x) = besideWork s := rfl
@[simp] theorem besideWork_dropColl (s : State) (t : Task) : besideWork (dropColl s t) = besideWork s := rfl
@[simp] theorem besideWork_slotWait (s : State) (c : CoreNo) (k : SlotNo) : besideWork (slotWait s c k) = besideWork s := rfl
@[simp] theorem besideWork_slotWake (s : State) (c : CoreNo) (k : SlotNo) : besideWork (slotWake s c k) = besideWork s := by
  unfold slotWake; dsimp only; split <;> rfl

@[simp] theorem besideWork_endColl (s : State) (t : Task) (x : Coll) (st : BitVec 8) : besideWork (endColl s t x st) = besideWork s :=
  (besideWork_foldl _ _ _ fun s m => by split <;> simp).trans rfl

@[simp] theorem besideWork_settleColl (s : State) (t : Task) (x : Coll) : besideWork (settleColl s t x) = besideWork s := by
  unfold settleColl
  split
  · dsimp only
    split
    · rfl
    · exact (besideWork_foldl _ _ _ fun s m => by simp).trans rfl
  · rfl

@[simp] theorem besideWork_dropEnded (s : State) (t : Task) : besideWork (dropEnded s t) = besideWork s := rfl
@[simp] theorem besideWork_endForAll (s : State) (t : Task) (l : List CoreNo) (st : BitVec 8) : besideWork (endForAll s t l st) = besideWork s := by
  unfold endForAll; dsimp only; split <;> rfl

@[simp] theorem besideWork_breakColl (s : State) (c : CoreNo) (k : SlotNo) (t : Task) (st : BitVec 8) :
    besideWork (breakColl s c k t st) = besideWork s := by
  unfold breakColl; dsimp only; split <;> simp

@[simp] theorem besideWork_openColl (s : State) (c : CoreNo) (k : SlotNo) (t : Task) : besideWork (openColl s c k t) = besideWork s := by
  unfold openColl; dsimp only; split <;> simp

@[simp] theorem besideWork_joinColl (s : State) (c : CoreNo) (k : SlotNo) (t : Task) : besideWork (joinColl s c k t) = besideWork s := by
  unfold joinColl
  split
  · simp
  · split
    · dsimp only; split <;> simp
    · split <;> simp
    · simp

@[simp] theorem besideWork_leaveColl (s : State) (t : Task) : besideWork (leaveColl s t) = besideWork s := by
  unfold leaveColl; split <;> [rfl; split] <;> simp

@[simp] theorem besideWork_collFail (s : State) (t : Task) (st : BitVec 8) : besideWork (collFail s t st) = besideWork s := by
  unfold collFail; split <;> simp

@[simp] theorem besideWork_taskFails (s : State) (c : CoreNo) (k : SlotNo) (st : BitVec 8) : besideWork (taskFails s c k st) = besideWork s := by
  unfold taskFails
  split
  · rfl
  · dsimp only
    split
    · simp
    · split
      · split <;> [skip; split] <;> simp
      · split <;> simp

@[simp] theorem besideWork_storeFails (s : State) (c : CoreNo) (k : SlotNo) (st : BitVec 8) : besideWork (storeFails s c k st) = besideWork s := by
  simp [storeFails]

/-! The end of a unit's work (R42, R193, R356). -/

@[simp] theorem besideWork_abandonStores (s : State) (c : CoreNo) (k : SlotNo) (st : BitVec 8) :
    besideWork (abandonStores s c k st) = besideWork s :=
  (besideWork_foldl _ _ _ fun s x => by simp).trans rfl

@[simp] theorem besideWork_leaveByReset (c : CoreNo) (s : State) (x : Coll) : besideWork (leaveByReset c s x) = besideWork s := by
  unfold leaveByReset
  dsimp only
  split
  · rfl
  · split
    · rfl
    · split <;> [skip; split] <;> simp

@[simp] theorem besideWork_stopSlot (s : State) (c : CoreNo) (k : SlotNo) (st : BitVec 8) : besideWork (stopSlot s c k st) = besideWork s := by
  unfold stopSlot; dsimp only; split <;> [rfl; split] <;> simp

@[simp] theorem besideWork_endCore (s : State) (c : CoreNo) (st : BitVec 8) : besideWork (endCore s c st) = besideWork s := by
  unfold endCore
  dsimp only
  rw [besideWork_foldl _ _ _ fun s t => by simp, besideWork_setCore, besideWork_foldl _ _ _ fun s t => by simp,
    besideWork_foldl _ _ _ fun s t => by simp]

@[simp] theorem besideWork_endStation (s : State) (t : TileNo) (st : BitVec 8) : besideWork (endStation s t st) = besideWork s := by
  unfold endStation; dsimp only; rw [besideWork_foldl _ _ _ fun s t => by simp]; rfl

/-! Broadcasts (R165, R213). -/

@[simp] theorem besideWork_setRun (s : State) (t : TileNo) (r : StreamRun) : besideWork (setRun s t r) = besideWork s := rfl

@[simp] theorem besideWork_endStream (s : State) (t : TileNo) : besideWork (endStream s t) = besideWork s := by
  unfold endStream
  split
  · rfl
  · split
    · rfl
    · dsimp only; split <;> simp

@[simp] theorem besideWork_streamDone (s : State) (t : TileNo) (n : Nat) (st : BitVec 8) : besideWork (streamDone s t n st) = besideWork s := by
  unfold streamDone; split <;> simp

@[simp] theorem besideWork_deliverCopy (s : State) (src : TileNo) (p : PartNo) (g : Nat) (tile : TileNo) (o : Nat) (d : List Byte) :
    besideWork (deliverCopy s src p g tile o d) = besideWork s :=
  besideWork_foldl _ _ _ fun s x => by
    split
    · rw [besideWork_streamDone]; rfl
    · split <;> simp

@[simp] theorem besideWork_launch (s : State) (b : Burst) (l : List (Fin 4)) (d : List TileNo) : besideWork (launch s b l d) = besideWork s :=
  besideWork_foldl _ _ _ fun s x => by split <;> rfl

@[simp] theorem besideWork_sendBurst (s : State) (b : Burst) (d : List TileNo) : besideWork (sendBurst s b d) = besideWork s := by
  unfold sendBurst; dsimp only; split <;> simp [meshCopies]

@[simp] theorem besideWork_askReads (t : TileNo) (n : Nat) (s : State) : besideWork (askReads t n s) = besideWork s := by
  induction n generalizing s with
  | zero => rfl
  | succ n ih =>
    unfold askReads
    split
    · rfl
    · dsimp only
      split
      · rfl
      · split
        · rfl
        · rw [ih]; rfl

@[simp] theorem besideWork_cutBursts (t : TileNo) (n : Nat) (s : State) : besideWork (cutBursts t n s) = besideWork s := by
  induction n generalizing s with
  | zero => rfl
  | succ n ih =>
    unfold cutBursts
    split
    · rfl
    · dsimp only
      split
      · rfl
      · rw [ih, besideWork_sendBurst]; rfl

@[simp] theorem besideWork_stationGo (s : State) (t : TileNo) : besideWork (stationGo s t) = besideWork s := by
  unfold stationGo; split <;> simp

/-! The work of tasks (R92, R94, R228). -/

@[simp] theorem besideWork_countCensus (s : State) (c : CoreNo) (k : SlotNo) (f : CensusFrom) (n : Nat) : besideWork (countCensus s c k f n) = besideWork s := by
  unfold countCensus
  dsimp only
  split
  · rfl
  · rfl
  · split
    · split <;> split <;> simp
    · simp

@[simp] theorem besideWork_finishWork (s : State) (w : Work) (c : CoreNo) (k : SlotNo) (f : CensusFrom) (h : besideWork w.s = besideWork s) :
    besideWork (finishWork s w c k f) = besideWork s := by
  unfold finishWork
  dsimp only
  split
  · split <;> simp [h]
  · simp [h]

theorem besideWork_runTask (s : State) (n : CoreNo) (k : SlotNo) (op : Op) (work : State → Task → State)
    (h : ∀ s t, besideWork (work s t) = besideWork s) : besideWork (runTask s n k op work) = besideWork s := by
  unfold runTask
  split
  · rfl
  · exact h ..

/-! Requests (R413, R416). -/

@[simp] theorem besideWork_answerReq (s : State) (op : Nat) (src : ReqSource) (res : Byte) (d : List Byte) :
    besideWork (answerReq s op src res d) = besideWork s := by
  unfold answerReq
  dsimp only
  split
  · rw [besideWork_raise]
    cases src <;> rfl
  · cases src <;> rfl

end Sys2Proof.Machine
end

