-- ==== Sys2Proof/Laws/Fuses.lean ====
section
/-!
SUPPORT. Which work leaves the fuses alone, and that the rest keeps the ledger within its bounds (R412, R414).
-/
namespace Sys2Proof.Machine
open Sys2Proof

theorem fuses_of_work {s t : State} (h : besideWork t = besideWork s) : t.weala.fuses = s.weala.fuses := (congrArg (fun x : State => x.weala.fuses) h :)
theorem fuses_of_memory {s t : State} (h : besideMemory t = besideMemory s) : t.weala.fuses = s.weala.fuses := fuses_of_work (besideWork_of_memory h)

theorem fuses_foldl {α : Type} (f : State → α → State) (l : List α) (s : State) (h : ∀ s x, (f s x).weala.fuses = s.weala.fuses) :
    (l.foldl f s).weala.fuses = s.weala.fuses :=
  foldl_keeps (fun t => t.weala.fuses = s.weala.fuses) f l s rfl fun t x _ ht => (h t x).trans ht

theorem fuses_setFn (s : State) (f st : Nat) : (setFn s f st).weala.fuses = s.weala.fuses := by unfold setFn; split <;> rfl

theorem fuses_settleModule (s : State) : (settleModule s).weala.fuses = s.weala.fuses := by
  unfold settleModule
  split
  · rfl
  · split
    · rfl
    · simp [fuses_setFn]

theorem fuses_failFn (s : State) (f st c : Nat) : (failFn s f st c).weala.fuses = s.weala.fuses := by
  unfold failFn
  split
  · rfl
  · dsimp only
    rw [fuses_settleModule]
    split <;> simp [fuses_setFn]

theorem fuses_unitsLost (s : State) (w : Option PartNo) : (unitsLost s w).weala.fuses = s.weala.fuses := by
  unfold unitsLost
  split
  · rfl
  · dsimp only; split <;> [rfl; (rw [raise_weala_fuses]; rfl)]

theorem fuses_writeMitten (s : State) (c : CoreNo) (e : BitVec 32) : (writeMitten s c e).weala.fuses = s.weala.fuses := by
  unfold writeMitten; dsimp only; split <;> [rfl; (rw [raise_weala_fuses]; rfl)]

@[simp] theorem besideWork_clearMarks (s : State) (p : PartNo) : besideWork (clearMarks s p) = besideWork s := rfl
@[simp] theorem besideWork_withdrawClose (s : State) (p : PartNo) : besideWork (withdrawClose s p) = besideWork s := rfl

@[simp] theorem besideWork_endPhase (s : State) (p : PartNo) (i : Nat) (st : BitVec 8) : besideWork (endPhase s p i st) = besideWork s := by
  unfold endPhase
  dsimp only
  split
  · rfl
  · rw [besideWork_rejectTask]; split <;> rfl

@[simp] theorem besideWork_forgetOp (s : State) (n : CuffNo) (t : Task) : besideWork (forgetOp s n t) = besideWork s := by
  rfl

@[simp] theorem besideWork_endCuffOp (s : State) (n : CuffNo) (o : CuffOp) (st : BitVec 8) (b : Bool) : besideWork (endCuffOp s n o st b) = besideWork s := by
  unfold endCuffOp
  dsimp only
  rw [besideWork_forgetOp, besideWork_outcome, besideWork_setCuff]
  have a : ∀ (c : Prop) [Decidable c] (u v w : State), besideWork u = besideWork w → besideWork v = besideWork w →
      besideWork (if c then u else v) = besideWork w := by
    intro c _ u v w h k; split <;> assumption
  have e : besideWork (if (b && opCounts o.task) = true then setCuff s n { getCuff s n with aborts := satInc (getCuff s n).aborts } else s)
      = besideWork s := a _ _ _ _ (besideWork_setCuff ..) rfl
  exact a _ _ _ _ ((besideWork_storeMem ..).trans e) e

@[simp] theorem besideWork_stopCuffOps (s : State) (p : CuffNo → CuffOp → Bool) (st : BitVec 8) : besideWork (stopCuffOps s p st) = besideWork s :=
  besideWork_foldl _ _ _ fun _ n => besideWork_foldl _ _ _ fun s o => besideWork_endCuffOp s n o st true

@[simp] theorem besideWork_stopStream (s : State) (t : TileNo) (st : BitVec 8) : besideWork (stopStream s t st) = besideWork s := by
  unfold stopStream
  split
  · rfl
  · split
    · rfl
    · dsimp only
      rw [besideWork_streamDone, besideWork_foldl _ _ _ fun s x => by split <;> simp]
      rfl

@[simp] theorem besideWork_cutStreams (s : State) (p : Task → Bool) (st : BitVec 8) : besideWork (cutStreams s p st) = besideWork s := by
  unfold cutStreams
  refine besideWork_foldl _ _ _ fun s t => ?_
  split
  · rfl
  · split
    · exact besideWork_stopStream ..
    · rfl

@[simp] theorem besideWork_endPartCuffs (s : State) (p : PartNo) (st : BitVec 8) : besideWork (endPartCuffs s p st) = besideWork s := by
  have e : besideWork (stopCuffOps s (fun _ o => o.task.part == p) st) = besideWork s := besideWork_stopCuffOps ..
  unfold endPartCuffs
  generalize stopCuffOps s (fun _ o => o.task.part == p) st = u at e ⊢
  dsimp only
  refine (besideWork_foldl _ _ _ fun s t => besideWork_complete s t st).trans ?_
  exact e

@[simp] theorem besideWork_endCoordinator (s : State) (p : PartNo) (st : BitVec 8) : besideWork (endCoordinator s p st) = besideWork s := by
  unfold endCoordinator
  dsimp only
  refine (besideWork_foldl _ _ _ fun s t => besideWork_complete s t st).trans ?_
  rw [besideWork_setPart]
  have h : ∀ a b : State, besideWork a = besideWork b →
      besideWork (match (getPart a p).closing with | none => a | some t => complete (withdrawClose a p) t st) = besideWork b := by
    intro a b h; split
    · exact h
    · rw [besideWork_complete]; exact h
  refine h _ _ ?_
  refine (besideWork_foldl _ _ _ fun s _ => besideWork_endPhase s p 0 st).trans ?_
  exact besideWork_foldl _ _ _ fun s x => besideWork_endColl s x.first x st

theorem fuses_ownershipInForce (s : State) (o : Ownership) : (ownershipInForce s o).weala.fuses = s.weala.fuses := by
  unfold ownershipInForce; dsimp only; split <;> rfl

theorem fuses_settleOwnership (s : State) : (settleOwnership s).weala.fuses = s.weala.fuses := by
  unfold settleOwnership
  dsimp only
  split
  · rfl
  · unfold requiet
    split <;> exact fuses_foldl _ _ _ fuses_ownershipInForce

theorem fuses_withdrawStack (s : State) (k : StackNo) (c : Nat) : (withdrawStack s k c).weala.fuses = s.weala.fuses := by
  unfold withdrawStack
  dsimp only
  by_cases h : (getStack s k).withdrawn = true
  · rw [if_pos h]
  · rw [if_neg h]
    rw [fuses_settleOwnership, fuses_unitsLost, fuses_failFn, raise_weala_fuses, fuses_of_work (besideWork_cutStreams ..),
      fuses_of_work (besideWork_stopCuffOps ..)]
    rfl

theorem fuses_withdrawPort (s : State) (p : PortNo) (c : Nat) : (withdrawPort s p c).weala.fuses = s.weala.fuses := by
  unfold withdrawPort
  dsimp only
  by_cases h : (getXp s p).withdrawn = true
  · rw [if_pos h]
  · rw [if_neg h]
    rw [fuses_unitsLost, fuses_failFn, raise_weala_fuses, fuses_of_work (besideWork_cutStreams ..), fuses_of_work (besideWork_stopCuffOps ..)]
    rfl

theorem fuses_coreRemoved (s : State) (c : CoreNo) : (coreRemoved s c).weala.fuses = s.weala.fuses := by
  unfold coreRemoved; rw [fuses_unitsLost, fuses_failFn]

theorem fuses_addAudit (s : State) (k : Nat) (l : List Nat) : (addAudit s k l).weala.fuses = s.weala.fuses := rfl
theorem fuses_addAuditOpen (s : State) (k : Nat) : (addAuditOpen s k).weala.fuses = s.weala.fuses := rfl

theorem fuses_putRecordIn (s : State) (b : Bool) (i : Nat) (v : BitVec 256) : (putRecordIn s b i v).weala.fuses = s.weala.fuses := rfl
theorem fuses_writeRecord (s : State) (i : Nat) (v : BitVec 256) : (writeRecord s i v).weala.fuses = s.weala.fuses := by
  unfold writeRecord
  dsimp only
  rw [fuses_putRecordIn]
  split
  · rfl
  · dsimp only
    refine fuses_foldl _ _ _ fun s x => ?_
    split <;> rfl

theorem fuses_bufData (s : State) (d : List Byte) : (bufData s d).weala.fuses = s.weala.fuses := rfl
theorem fuses_answerReq (s : State) (o : Nat) (src : ReqSource) (r : Byte) (d : List Byte) : (answerReq s o src r d).weala.fuses = s.weala.fuses :=
  fuses_of_work (besideWork_answerReq ..)

/-- What the ledger holds is within its bounds where no more fuses have been burnt. -/
theorem ledger_of_fuses {s t : State} (h : t.weala.fuses = s.weala.fuses) (b : LedgerBounded s) : LedgerBounded t := by
  intro i n e; have k := b i n e; unfold changesMade at *; rw [h]; exact k

theorem fuses_changeSetting (s : State) (i : Nat) (v : BitVec 256) : (changeSetting s i v).weala.fuses =
    if (changesAllowed i).isSome = true then s.weala.fuses ++
      [{ id := BitVec.ofNat 16 i, index := changesMade s.weala i + 1, time := now s, quality := quality s, epoch := s.tb.epoch, value := v }]
    else s.weala.fuses := by
  have pick : ∀ (c : Bool) (u : State) (n : Nat), (if c = true then (n, u) else let r := freshWord u; (r.1.toNat, r.2)).2.weala.fuses = u.weala.fuses := by
    intro c u n; cases c <;> rfl
  have set : ∀ (c : Bool) (u w : State), (if c = true then u else w).weala.fuses = if c = true then u.weala.fuses else w.weala.fuses := by
    intro c u w; cases c <;> rfl
  unfold changeSetting
  generalize (changesAllowed i).isSome = c
  dsimp only
  rw [raise_weala_fuses, pick, fuses_addAuditOpen, fuses_writeRecord, set]

/-- A change of a limited setting that has one left keeps the ledger within its bounds. -/
theorem ledger_changeSetting (s : State) (i : Nat) (v : BitVec 256) (h : i < 65536) (b : LedgerBounded s)
    (l : (changesAllowed i).isSome = false ∨ changesLeft s.weala i ≠ 0) : LedgerBounded (changeSetting s i v) := by
  intro j n a
  have k := b j n a
  unfold changesMade at k ⊢
  rw [fuses_changeSetting]
  split
  · rename_i c
    rcases l with l | l
    · rw [l] at c; cases c
    · rw [List.filter_append, List.length_append]
      have m : (BitVec.ofNat 16 i).toNat = i := by rw [BitVec.toNat_ofNat]; omega
      by_cases q : i = j
      · subst q
        unfold changesLeft changesMade at l
        rw [a, Option.getD_some] at l
        simp only [List.filter_cons, m, beq_self_eq_true, if_true, List.filter_nil, List.length_singleton]
        omega
      · simp only [List.filter_cons, m, beq_eq_false_iff_ne.mpr q, List.filter_nil]
        simpa using k
  · exact k

theorem ledger_answerReq (s : State) (o : Nat) (src : ReqSource) (r : Byte) (d : List Byte) (b : LedgerBounded s) :
    LedgerBounded (answerReq s o src r d) := ledger_of_fuses (fuses_answerReq ..) b

theorem ledger_doRequest (s : State) (src : ReqSource) (i : Instr) (b : LedgerBounded s) : LedgerBounded (doRequest s src i) := by
  have a := ledger_answerReq
  unfold doRequest
  split
  · unfold doSetSetting
    dsimp only
    split
    · exact a _ _ _ _ _ b
    · split
      · exact a _ _ _ _ _ b
      · split
        · exact a _ _ _ _ _ b
        · refine a _ _ _ _ _ (ledger_changeSetting _ _ _ (BitVec.isLt _) b ?_)
          rename_i h
          simp only [Bool.and_eq_true, beq_iff_eq, not_and] at h
          exact (Bool.eq_false_or_eq_true _).symm.imp id h
  · unfold doPersistMap
    have st : ∀ es g, changesLeft s.weala 2 ≠ 0 → LedgerBounded (storeMap s es g) := by
      intro es g h
      unfold storeMap
      dsimp only
      have w : ∀ (x : Weala), x.fuses = s.weala.fuses → LedgerBounded (changeSetting { s with weala := x, gradeStored := g } 2
          (BitVec.ofNat 256 (changesMade s.weala 2 + 1))) := by
        intro x hx
        refine ledger_changeSetting _ _ _ (by decide) (ledger_of_fuses (s := s) hx b) (.inr ?_)
        unfold changesLeft changesMade at *
        dsimp only
        rw [hx]
        exact h
      split
      · exact w _ rfl
      · exact w _ rfl
    split
    · exact a _ _ _ _ _ b
    · rename_i h
      have h' : changesLeft s.weala 2 ≠ 0 := by simpa using h
      split
      · split
        · exact a _ _ _ _ _ (st _ _ h')
        · exact a _ _ _ _ _ b
      · split
        · exact a _ _ _ _ _ b
        · split
          · exact a _ _ _ _ _ b
          · exact a _ _ _ _ _ (st _ _ h')
  · unfold doWriteImage
    dsimp only
    split
    · exact a _ _ _ _ _ b
    · refine a _ _ _ _ _ (ledger_of_fuses (s := s) ?_ b)
      rw [fuses_addAuditOpen]; unfold setImage; dsimp only; split <;> rfl
  · unfold doCommitImage
    dsimp only
    split
    · exact a _ _ _ _ _ b
    · split
      · exact a _ _ _ _ _ b
      · refine a _ _ _ _ _ (ledger_of_fuses (s := s) ?_ b)
        rw [fuses_addAuditOpen]; unfold setImage; dsimp only; split <;> rfl
  · unfold doReadArea
    split
    · refine a _ _ _ _ _ (ledger_of_fuses (s := s) ?_ b)
      unfold areaBytes
      exact foldl_keeps (fun r : State × List Byte => r.1.weala.fuses = s.weala.fuses) _ _ _ rfl fun r x _ h => by
        dsimp only; split <;> exact h
    · exact a _ _ _ _ _ b
  · unfold doReadLedger
    refine a _ _ _ _ _ (ledger_of_fuses (s := s) ?_ b)
    exact foldl_keeps (fun r : State × List Byte => r.1.weala.fuses = s.weala.fuses) _ _ _ rfl fun r x _ h => h
  · exact b

theorem ledger_serve (s : State) (i : Instr) (b : LedgerBounded s) : LedgerBounded (serve s i) := by
  unfold serve
  split
  · exact b
  · split
    · exact ledger_answerReq _ _ _ _ _ b
    · split
      · exact ledger_doRequest _ _ _ b
      · unfold flashFailed
        split
        · exact ledger_answerReq _ _ _ _ _ b
        · exact ledger_doRequest _ _ _ b

theorem ledger_serveWaiting (s : State) (n : Nat) (b : LedgerBounded s) : LedgerBounded (serveWaiting s n) := by
  induction n generalizing s with
  | zero => exact b
  | succ n ih =>
    unfold serveWaiting
    split
    · exact b
    · split
      · exact b
      · exact ih _ (ledger_serve _ _ (ledger_of_fuses (s := s) rfl b))

theorem ledger_serveAll (s : State) (b : LedgerBounded s) : LedgerBounded (serveAll s) := ledger_serveWaiting _ _ b

theorem ledger_request (s : State) (i : Instr) (b : LedgerBounded s) : LedgerBounded (request s i) := by
  have t : ∀ u, LedgerBounded u → LedgerBounded (takeRequest u i) := by
    intro u h
    unfold takeRequest
    split
    · exact ledger_of_fuses (s := u) rfl h
    · exact ledger_serve _ _ h
  unfold request
  split
  · exact b
  · split
    · exact t _ b
    · exact b
  · dsimp only
    split
    · exact b
    · split
      · exact ledger_of_fuses (fuses_of_work (besideWork_setupRefused ..)) b
      · split
        · exact ledger_of_fuses (fuses_answerReq ..) (ledger_of_fuses (s := s) rfl b)
        · split
          · exact ledger_of_fuses (fuses_answerReq ..) (ledger_of_fuses (s := s) rfl b)
          · split
            · exact ledger_of_fuses (s := s) rfl b
            · exact t _ (ledger_of_fuses (s := s) rfl b)

end Sys2Proof.Machine
end

