-- ==== Sys2Proof/Laws/Ledger.lean ====
section
/-!
SUPPORT. The rows that may answer a waiting request on their way keep the ledger within its bounds (R412, R414): map changes, holes, resets and shutdowns.
-/
namespace Sys2Proof.Machine
open Sys2Proof

theorem fuses_toState (s : State) (t : TileNo) (p : PState) (c : Nat) : (toState s t p c).weala.fuses = s.weala.fuses := by
  unfold toState tileStateEvent; dsimp only; rw [raise_weala_fuses]; rfl
theorem fuses_wakeNap (s : State) (t : TileNo) : (wakeNap s t).weala.fuses = s.weala.fuses := by
  unfold wakeNap; dsimp only; split <;> [exact fuses_toState ..; rfl]
theorem fuses_endCore (s : State) (c : CoreNo) (st : BitVec 8) : (endCore s c st).weala.fuses = s.weala.fuses := fuses_of_work (besideWork_endCore ..)
theorem fuses_pumpAll (s : State) : (pumpAll s).weala.fuses = s.weala.fuses := fuses_of_work (besideWork_pumpAll ..)

theorem fuses_deferSegs (s : State) (c : CoreNo) (l : List Nat) : (deferSegs s c l).weala.fuses = s.weala.fuses := rfl
theorem fuses_readyCore (s : State) (c : CoreNo) : (readyCore s c).weala.fuses = s.weala.fuses := by
  unfold readyCore; split <;> [exact fuses_setFn ..; rfl]
theorem fuses_mergeReset (s : State) (c : CoreNo) : (mergeReset s c).weala.fuses = s.weala.fuses := by unfold mergeReset; split <;> rfl

theorem fuses_runChanges (s : State) (n : Nat) : (runChanges s n).weala.fuses = s.weala.fuses := by
  induction n generalizing s with
  | zero => rfl
  | succ n ih =>
    unfold runChanges
    split
    · rfl
    · rename_i m rest _
      split
      · rfl
      · split
        · rw [ih, fuses_deferSegs]
        · dsimp only
          split
          · rw [ih]
          · rename_i p more _
            have w : (if ((defectMask (mittenEntry s m.core)).testBit p.val || decide (clusterState (mittenEntry s m.core) = 3)) = true then s
                else writeMitten s m.core (entryWithout s m.core p.val)).weala.fuses = s.weala.fuses := by
              split <;> [rfl; exact fuses_writeMitten ..]
            generalize (if ((defectMask (mittenEntry s m.core)).testBit p.val || decide (clusterState (mittenEntry s m.core) = 3)) = true then s
                else writeMitten s m.core (entryWithout s m.core p.val)) = u at w ⊢
            split
            · rw [ih]; exact w
            · have v : ∀ x : State, x.weala.fuses = s.weala.fuses →
                  (mergeReset (setFn (endCore x m.core stReset) (fnCore m.core) 1) m.core).weala.fuses = s.weala.fuses := by
                intro x hx; rw [fuses_mergeReset, fuses_setFn, fuses_endCore]; exact hx
              have w' := v { u with changes := { m with segs := more } :: rest } w
              generalize mergeReset (setFn (endCore { u with changes := { m with segs := more } :: rest } m.core stReset) (fnCore m.core) 1) m.core = z
                at w' ⊢
              split
              · rw [ih, fuses_coreRemoved]; exact w'
              · split
                · split
                  · rw [ih, fuses_readyCore]; exact w'
                  · exact w'
                · exact w'

theorem ledger_goChanges (s : State) (b : LedgerBounded s) : LedgerBounded (goChanges s) := by
  unfold goChanges
  dsimp only
  refine ledger_serveAll _ (ledger_of_fuses (s := s) ?_ b)
  split
  · exact fuses_runChanges ..
  · rw [fuses_pumpAll, fuses_runChanges]

theorem ledger_declareDefective (s : State) (c : CoreNo) (p : Fin 5) (b : LedgerBounded s) : LedgerBounded (declareDefective s c p) := by
  unfold declareDefective
  dsimp only
  split
  · exact b
  · split
    · exact ledger_of_fuses (fuses_deferSegs ..) b
    · refine ledger_goChanges _ (ledger_of_fuses (s := s) ?_ b)
      dsimp only
      split
      · rw [fuses_endCore, raise_weala_fuses]
      · rfl

theorem fuses_startImage (s : State) (t : TileNo) (i : Byte) : (startImage s t i).weala.fuses = s.weala.fuses := rfl

theorem ledger_enterRecovery (s : State) (t : TileNo) (b : LedgerBounded s) : LedgerBounded (enterRecovery s t) := by
  unfold enterRecovery
  dsimp only
  refine ledger_goChanges _ (ledger_of_fuses (s := s) ?_ b)
  rw [fuses_startImage]
  refine (fuses_foldl _ _ _ fun u c => by split <;> [exact fuses_setFn ..; rfl]).trans ?_
  exact fuses_foldl _ _ _ fun u m => rfl

theorem fuses_applyAtReturn (s : State) (t : TileNo) (f : BitVec 20) : (applyAtReturn s t f).weala.fuses = s.weala.fuses := by
  unfold applyAtReturn
  dsimp only
  refine (fuses_foldl _ _ _ fun u k => ?_).trans rfl
  split <;> [rfl; exact fuses_writeMitten ..]

theorem fuses_returnTile (s : State) (t : TileNo) (f : BitVec 20) : (returnTile s t f).weala.fuses = s.weala.fuses := by
  unfold returnTile
  dsimp only
  refine Eq.trans (fuses_foldl _ _ _ fun u c => ?_) (fuses_applyAtReturn s t f)
  split
  · rw [fuses_readyCore]; rfl
  · split <;> [rfl; (rw [fuses_coreRemoved]; rfl)]

theorem fuses_applyPending (s : State) : (applyPending s).weala.fuses = s.weala.fuses := by
  unfold applyPending
  dsimp only
  refine (fuses_foldl _ _ _ fun u t => ?_).trans (fuses_foldl _ _ _ fun u m => rfl)
  split <;> [rfl; exact fuses_applyAtReturn ..]

theorem fuses_abortDiag (s : State) : (abortDiag s).weala.fuses = s.weala.fuses := by
  unfold abortDiag
  split
  · rfl
  · refine fuses_foldl _ _ _ fun u t => ?_
    split <;> [rfl; exact fuses_returnTile ..]

theorem fuses_holeEnds (s : State) (t : TileNo) : (holeEnds s t).weala.fuses = s.weala.fuses := by
  unfold holeEnds
  rw [fuses_of_work (besideWork_endStation ..)]
  exact fuses_foldl _ _ _ fun s c => fuses_endCore ..
theorem fuses_holeMarked (s : State) (t : TileNo) : (holeMarked s t).weala.fuses = s.weala.fuses := rfl
theorem fuses_holeCluster (s : State) (c : CoreNo) : (holeCluster s c).weala.fuses = s.weala.fuses := by
  unfold holeCluster; rw [fuses_failFn, fuses_writeMitten]

theorem fuses_holeUnits (s : State) (t : TileNo) : (holeUnits s t).weala.fuses = s.weala.fuses := by
  unfold holeUnits
  dsimp only
  have a : ((tileStacks t).foldl (fun s k => withdrawStack s k 4) (failFn s (fnSram t) 5 0)).weala.fuses = s.weala.fuses :=
    (fuses_foldl _ _ _ fun s k => fuses_withdrawStack ..).trans (fuses_failFn ..)
  generalize (tileStacks t).foldl (fun s k => withdrawStack s k 4) (failFn s (fnSram t) 5 0) = u at a ⊢
  cases tilePort t with
  | none => cases tileHost t with
    | none => exact a
    | some q => exact (fuses_failFn ..).trans a
  | some p => cases tileHost t with
    | none => exact (fuses_withdrawPort ..).trans a
    | some q => exact (fuses_failFn ..).trans ((fuses_withdrawPort u p 4).trans a)

theorem fuses_holeCorner (s : State) (t : TileNo) (o : Option PartNo) : (holeCorner s t o).weala.fuses = s.weala.fuses := by
  unfold holeCorner
  split
  · split <;> [exact fuses_of_work (besideWork_endCoordinator ..); rfl]
  · rfl

theorem ledger_makeHole (s : State) (t : TileNo) (b : LedgerBounded s) : LedgerBounded (makeHole s t) := by
  unfold makeHole
  split
  · exact b
  · refine ledger_goChanges _ (ledger_of_fuses (s := s) ?_ b)
    rw [fuses_unitsLost, fuses_holeCorner, fuses_holeUnits]
    exact (fuses_foldl _ _ _ fuses_holeCluster).trans ((fuses_holeMarked ..).trans (fuses_holeEnds ..))

theorem fuses_clusterEnds (s : State) (c : CoreNo) : (clusterEnds s c).weala.fuses = s.weala.fuses := by
  unfold clusterEnds
  rw [fuses_endCore]
  split <;> [exact raise_weala_fuses ..; rfl]

theorem fuses_clusterBanksFail (s : State) (c : CoreNo) : (clusterBanksFail s c).weala.fuses = s.weala.fuses := fuses_writeMitten ..

theorem fuses_clusterLost (s : State) (c : CoreNo) : (clusterLost s c).weala.fuses = s.weala.fuses := by
  have h := (fuses_clusterBanksFail (clusterEnds s c) c).trans (fuses_clusterEnds s c)
  unfold clusterLost
  dsimp only
  split <;> [exact (fuses_coreRemoved ..).trans h; exact h]

theorem ledger_domainFault (s : State) (t : TileNo) (k : Fin 4) (c : Nat) (b : LedgerBounded s) : LedgerBounded (domainFault s t k c) := by
  unfold domainFault
  dsimp only
  generalize hu : raise _ _ = u
  have f : u.weala.fuses = s.weala.fuses := by rw [← hu, raise_weala_fuses]; rfl
  have bu : LedgerBounded u := ledger_of_fuses f b
  by_cases k0 : k.val = 0
  · rw [if_pos k0]; exact ledger_makeHole _ _ bu
  rw [if_neg k0]
  by_cases k1 : k.val = 1
  · rw [if_pos k1]; exact ledger_goChanges _ (ledger_of_fuses (s := u) (fuses_foldl _ _ _ fuses_clusterLost) bu)
  rw [if_neg k1]
  by_cases k2 : k.val = 2
  · rw [if_pos k2]; exact ledger_of_fuses (fuses_foldl _ _ _ fun v x => fuses_withdrawStack ..) bu
  · rw [if_neg k2]
    refine ledger_of_fuses ?_ bu
    cases tilePort t with
    | none => cases tileHost t with
      | none => rfl
      | some q => exact fuses_failFn ..
    | some p => cases tileHost t with
      | none => exact fuses_withdrawPort ..
      | some q => exact (fuses_failFn ..).trans (fuses_withdrawPort u p 5)

/-! Resets (R356 to R358). -/

theorem fuses_clearPart (s : State) (p : PartNo) : (clearPart s p).weala.fuses = s.weala.fuses := by
  unfold clearPart
  have a1 : ∀ c : Bool, (if c = true then abortDiag s else s).weala.fuses = s.weala.fuses := by intro c; split <;> [exact fuses_abortDiag ..; rfl]
  have a2 : ∀ (l : List TileNo) (u : State), (l.foldl (fun s t => endStation s t stReset) u).weala.fuses = u.weala.fuses :=
    fun l u => fuses_foldl _ _ _ fun s t => fuses_of_work (besideWork_endStation ..)
  refine Eq.trans (b := (endCoordinator (endPartCuffs ((partTiles s p).foldl (fun s t => endStation s t stReset)
    (if s.setup.diagLeft.any (partHasTile s p) then abortDiag s else s)) p stReset) p stReset).weala.fuses) ?_ ?_
  · dsimp only
    exact fuses_foldl _ _ _ fun s t => rfl
  · rw [fuses_of_work (besideWork_endCoordinator ..), fuses_of_work (besideWork_endPartCuffs ..), a2, a1]

theorem fuses_closeColls (s : State) (p : PartNo) : (closeColls s p).weala.fuses = s.weala.fuses := by
  unfold closeColls
  exact fuses_foldl _ _ _ fun s x => fuses_of_work (besideWork_endColl ..)

theorem fuses_clearUnits (s : State) (r : Reset) : (clearUnits s r).weala.fuses = s.weala.fuses := by
  unfold clearUnits
  dsimp only
  have h : (if r.level = 2 then closeColls s (Fin.ofNat 64 r.target.toNat) else s).weala.fuses = s.weala.fuses := by
    split <;> [exact fuses_closeColls ..; rfl]
  generalize (if r.level = 2 then closeColls s (Fin.ofNat 64 r.target.toNat) else s) = u at h ⊢
  have a : ∀ l : List CoreNo, (l.foldl (fun s c => endCore s c stReset) u).weala.fuses = s.weala.fuses :=
    fun l => (fuses_foldl _ _ _ fun s c => fuses_endCore ..).trans h
  split
  · exact a _
  · exact a _
  · rw [fuses_clearPart]; exact a _
  · exact a _

theorem fuses_lsCommit (s : State) (p : PartNo) (v : Word64) : (lsCommit s p v).weala.fuses = s.weala.fuses := by
  unfold lsCommit lsChanged
  dsimp only
  repeat' split
  all_goals first | rfl | (simp only [raise_weala_fuses]; done) | (simp only [raise_weala_fuses]; rfl)

theorem fuses_releaseCommits (s : State) (p : PartNo) : (releaseCommits s p).weala.fuses = s.weala.fuses := by
  unfold releaseCommits
  exact fuses_foldl _ _ _ fun s x => fuses_lsCommit ..

theorem fuses_beginReset (s : State) (l : Fin 4) (g : Byte) (i : Bool) : (beginReset s l g i).weala.fuses = s.weala.fuses := by
  unfold beginReset
  have a1 : ∀ (l : List TileNo) (u : State), (l.foldl wakeNap u).weala.fuses = u.weala.fuses := fun l u => fuses_foldl _ _ _ fuses_wakeNap
  have a2 : ∀ (l : List CoreNo) (u : State), (l.foldl (fun s c => if fnReady s (fnCore c) then setFn s (fnCore c) 1 else s) u).weala.fuses = u.weala.fuses :=
    fun l u => fuses_foldl _ _ _ fun s c => by split <;> [exact fuses_setFn ..; rfl]
  have a3 : ∀ (l : List Nat) (u : State), (l.foldl (fun s i => if fnStarts s (i + 1) then setFn s (i + 1) 1 else s) u).weala.fuses = u.weala.fuses :=
    fun l u => fuses_foldl _ _ _ fun s i => by split <;> [exact fuses_setFn ..; rfl]
  dsimp only
  split
  · exact (a3 _ _).trans ((a2 _ _).trans (a1 _ _))
  · exact (a2 _ _).trans (a1 _ _)

theorem fuses_endReset (s : State) (r : Reset) : (endReset s r).weala.fuses = s.weala.fuses := by
  unfold endReset
  dsimp only
  rw [fuses_pumpAll]
  have h : ∀ u : State, (if r.level = 2 then releaseCommits u (Fin.ofNat 64 r.target.toNat) else u).weala.fuses = u.weala.fuses := by
    intro u; split <;> [exact fuses_releaseCommits ..; rfl]
  rw [h]
  refine (fuses_foldl _ _ _ fun s c => ?_).trans (fuses_clearUnits s r)
  split <;> [exact fuses_setFn ..; rfl]

theorem fuses_resetCoresAt (l : List CoreNo) (s : State) : (resetCoresAt l s).weala.fuses = s.weala.fuses :=
  fuses_foldl _ l s fun _ _ => fuses_endCore ..

theorem fuses_resetRest (s : State) : (resetRest s).weala.fuses = s.weala.fuses := by
  have a2 : ∀ (l : List PartNo) (u : State), (l.foldl clearPart u).weala.fuses = u.weala.fuses := fun l u => fuses_foldl _ l u fuses_clearPart
  have a3 : ∀ (l : List Task) (u : State), (l.foldl (fun s t => complete s t stReset) u).weala.fuses = u.weala.fuses :=
    fun l u => fuses_foldl _ l u fun s t => fuses_of_work (besideWork_complete ..)
  unfold resetRest
  dsimp only
  rw [a3]
  dsimp only
  rw [a2]

theorem fuses_of_eq {t u : State} (h : t = u) : t.weala.fuses = u.weala.fuses := h ▸ rfl

theorem endEverything_eq (s : State) : endEverything s =
    resetRest (resetCoresAt (List.finRange 256) ((s.parts.map fun e => (Fin.ofNat 64 e.1 : PartNo)).foldl closeColls s)) := rfl

theorem fuses_endEverything (s : State) : (endEverything s).weala.fuses = s.weala.fuses :=
  (fuses_of_eq (endEverything_eq s)).trans ((fuses_resetRest _).trans ((fuses_resetCoresAt ..).trans (fuses_foldl _ _ _ fuses_closeColls)))

theorem ledger_moduleRest (a : Bool) (s : State) (b : LedgerBounded s) : LedgerBounded (moduleRest a s) := by
  unfold moduleRest
  exact ledger_serveAll _ (ledger_of_fuses (s := s) rfl b)

theorem ledger_moduleCleared (s : State) (b : LedgerBounded s) : LedgerBounded (moduleCleared s) :=
  ledger_moduleRest _ _ (ledger_of_fuses ((fuses_applyPending _).trans (fuses_endEverything s)) b)

theorem ledger_drainEnd (s : State) (r : Reset) (d : BitVec 16) (b : LedgerBounded s) : LedgerBounded (drainEnd s r d) := by
  unfold drainEnd
  dsimp only
  split
  · exact ledger_moduleCleared _ (ledger_of_fuses (s := s) rfl b)
  · exact ledger_of_fuses (s := s) rfl b

theorem ledger_resetWrite (p : HostPort) (v : Word64) (s : State) (b : LedgerBounded s) : LedgerBounded (resetWrite p v s) := by
  unfold resetWrite
  dsimp only
  split
  · exact b
  · split
    · exact ledger_of_fuses (fuses_of_work (besideWork_setupRefused ..)) b
    · split
      · exact ledger_of_fuses (s := s) rfl b
      · generalize hu : beginReset _ _ _ _ = u
        have f : u.weala.fuses = s.weala.fuses := by rw [← hu, fuses_beginReset]
        have bu : LedgerBounded u := ledger_of_fuses f b
        split
        · exact bu
        · split
          · exact ledger_of_fuses (fuses_endReset ..) (ledger_drainEnd _ _ _ bu)
          · split
            · exact ledger_drainEnd _ _ _ bu
            · exact bu

/-! Shutdowns (R453, R472). -/

theorem ledger_mainOff (s : State) (c : Bool) (b : LedgerBounded s) : LedgerBounded (mainOff s c) := by
  unfold mainOff
  exact ledger_serveAll _ (ledger_of_fuses (s := s) rfl b)

theorem ledger_shutdown (s : State) (c : Nat) (o : Bool) (b : LedgerBounded s) : LedgerBounded (shutdown s c o) := by
  unfold shutdown
  split
  · exact b
  · refine ledger_mainOff _ _ (ledger_of_fuses (s := s) ?_ b)
    split
    · dsimp only; rw [raise_weala_fuses]; rfl
    · rfl

theorem ledger_wealaDown (s : State) (c : Nat) (b : LedgerBounded s) : LedgerBounded (wealaDown s c) := by
  unfold wealaDown
  dsimp only
  generalize hu : (if ({ s with weala := { s.weala with reqQueue := [] } } : State).pw.stage == .main then
    mainOff { s with weala := { s.weala with reqQueue := [] } } false else { s with weala := { s.weala with reqQueue := [] } }) = u
  have bu : LedgerBounded u := by
    rw [← hu]
    split
    · exact ledger_mainOff _ _ (ledger_of_fuses (s := s) rfl b)
    · exact ledger_of_fuses (s := s) rfl b
  exact ledger_of_fuses (s := u) rfl bu

end Sys2Proof.Machine
end

