-- ==== Sys2Proof/WellFormed.lean ====
section
/-!
DEFINITION. Well-formed commands: operands inside the ranges that the rules naming them give. The meanings are total and do
not assume it.
-/
namespace Sys2Proof

/-- A packet's payload fits and has the length its header says; a read request has none (R142, R143). -/
def Packet.wf (p : Packet) : Bool :=
  decide (p.length.toNat ≤ 4096) && (if p.typ = 0 then p.payload.isEmpty else p.payload.length == p.length.toNat || p.typ = 3 || p.typ = 0x0B)

/-- A packet of one type, the row's (R143). -/
def Packet.wfAs (p : Packet) (typ : Nat) : Bool := p.wf && p.typ.toNat == typ

/-- Well-formed commands. -/
def Instr.wf : Instr → Bool
  | .fetchFailure _ _ st => [0x08, 0x23, 0x24, 0x25, 0x26, 0x27, 0x28].contains st.toNat
  | .rdReq p _ => p.wfAs 0x00
  | .wrReq p _ => p.wfAs 0x01
  | .rdRsp p => p.wfAs 0x02
  | .wrAck p => p.wfAs 0x03
  | .addReq p _ => p.wfAs 0x04 && p.length == 8
  | .addRsp p => p.wfAs 0x05 && p.length == 8
  | .redData p => p.wfAs 0x06 && p.length.toNat % 8 == 0
  | .redCredit p => p.wfAs 0x07
  | .bcastData p => p.wfAs 0x08
  | .mgReq p => p.wfAs 0x09
  | .mgRsp p => p.wfAs 0x0A
  | .errRsp p => p.wfAs 0x0B
  | .addlReq p _ => p.wfAs 0x0C && p.length == 16
  | .hostLinkUp _ _ _ cfg => cfg.masked.all fun v => decide (v < 2048)
  | .mboxComplete _ _ out => decide (out.length ≤ 2 ^ 20)
  | .doorbell _ _ _ size _ => [1, 2, 4, 8].contains size
  | .writeImage _ _ _ data _ => decide (data.length ≤ 4096)
  | .readArea _ _ _ len _ => decide (len ≤ 4096)
  | .setSetting _ id _ _ => decide (id ≠ 0)
  | .sensorSample _ l => l.length == 16
  | .visorInterval l => l.all fun v => decide (v.index < 256)
  | .registerWrite _ off bs => decide (off < 2 ^ 25 ∧ bs.length ≤ 512)
  | _ => true

end Sys2Proof
end

