-- ==== Sys2Proof/Laws/PerInstr.lean ====
section
/-!
SUPPORT. What holds of every command as syntax: a BAR0 write through another port is as well formed as before (R485).
-/
namespace Sys2Proof.Laws.ViaPort
open Sys2Proof Sys2Proof.Machine

/-- The command, with another port in its place, is well formed as it was. -/
def Statement (i : Instr) : Prop := ∀ (q : HostPort) (j : Instr), viaPort q i = some j → j.wf = i.wf

theorem diagRequest (port : HostPort) (value : Word64) : Statement (.diagRequest port value) := fun _ _ h => by cases h <;> rfl
theorem clusterModeEntry (tile : TileNo) : Statement (.clusterModeEntry tile) := fun _ _ h => by cases h <;> rfl
theorem clusterModeReturn (tile : TileNo) (failed : BitVec 20) : Statement (.clusterModeReturn tile failed) := fun _ _ h => by cases h <;> rfl
theorem segmentFailure (core : CoreNo) (phys : Fin 5) : Statement (.segmentFailure core phys) := fun _ _ h => by cases h <;> rfl
theorem substituteSelftestDone (core : CoreNo) (pass : Bool) : Statement (.substituteSelftestDone core pass) := fun _ _ h => by cases h <;> rfl
theorem spareSelftest (tile : TileNo) : Statement (.spareSelftest tile) := fun _ _ h => by cases h <;> rfl
theorem spareSelftestResult (core : CoreNo) (pass : Bool) : Statement (.spareSelftestResult core pass) := fun _ _ h => by cases h <;> rfl
theorem tileHole (tile : TileNo) (cause : HoleCause) : Statement (.tileHole tile cause) := fun _ _ h => by cases h <;> rfl
theorem lsCommit (port : HostPort) (p : PartNo) (value : Word64) : Statement (.lsCommit port p value) := fun _ _ h => by cases h <;> rfl
theorem lsPairInvalid (p : PartNo) : Statement (.lsPairInvalid p) := fun _ _ h => by cases h <;> rfl
theorem taskAdmit (core : CoreNo) : Statement (.taskAdmit core) := fun _ _ h => by cases h <;> rfl
theorem sliceExpiry (core : CoreNo) : Statement (.sliceExpiry core) := fun _ _ h => by cases h <;> rfl
theorem minRunExpiry (core : CoreNo) : Statement (.minRunExpiry core) := fun _ _ h => by cases h <;> rfl
theorem fetchTagComplete (core : CoreNo) (slot : SlotNo) (tag : Nat) : Statement (.fetchTagComplete core slot tag) := fun _ _ h => by cases h <;> rfl
theorem storeTagComplete (core : CoreNo) (slot : SlotNo) (tag : Nat) : Statement (.storeTagComplete core slot tag) := fun _ _ h => by cases h <;> rfl
theorem swapComplete (core : CoreNo) (slot : SlotNo) : Statement (.swapComplete core slot) := fun _ _ h => by cases h <;> rfl
theorem fetchFailure (core : CoreNo) (slot : SlotNo) (status : BitVec 8) : Statement (.fetchFailure core slot status) := fun _ _ h => by cases h <;> rfl
theorem gauntlet (core : CoreNo) (slot : SlotNo) : Statement (.gauntlet core slot) := fun _ _ h => by cases h <;> rfl
theorem attn (core : CoreNo) (slot : SlotNo) : Statement (.attn core slot) := fun _ _ h => by cases h <;> rfl
theorem attnBwd (core : CoreNo) (slot : SlotNo) : Statement (.attnBwd core slot) := fun _ _ h => by cases h <;> rfl
theorem attnRound (core : CoreNo) (slot : SlotNo) : Statement (.attnRound core slot) := fun _ _ h => by cases h <;> rfl
theorem copy (core : CoreNo) (slot : SlotNo) : Statement (.copy core slot) := fun _ _ h => by cases h <;> rfl
theorem sparseMetaCheck (core : CoreNo) (slot : SlotNo) : Statement (.sparseMetaCheck core slot) := fun _ _ h => by cases h <;> rfl
theorem tlSparseClear (port : HostPort) (core : CoreNo) (value : Word64) : Statement (.tlSparseClear port core value) := fun _ _ h => by cases h <;> rfl
theorem linkReplay (tile : TileNo) (dir : Fin 4) (good : Bool) : Statement (.linkReplay tile dir good) := fun _ _ h => by cases h <;> rfl
theorem linkDown (tile : TileNo) (dir : Fin 4) : Statement (.linkDown tile dir) := fun _ _ h => by cases h <;> rfl
theorem escapeTableLoad : Statement (.escapeTableLoad) := fun _ _ h => by cases h <;> rfl
theorem packetHop (hop : Hop) : Statement (.packetHop hop) := fun _ _ h => by cases h <;> rfl
theorem rdReq (pkt : Packet) (ecc : Ecc) : Statement (.rdReq pkt ecc) := fun _ _ h => by cases h <;> rfl
theorem wrReq (pkt : Packet) (ecc : Ecc) : Statement (.wrReq pkt ecc) := fun _ _ h => by cases h <;> rfl
theorem rdRsp (pkt : Packet) : Statement (.rdRsp pkt) := fun _ _ h => by cases h <;> rfl
theorem wrAck (pkt : Packet) : Statement (.wrAck pkt) := fun _ _ h => by cases h <;> rfl
theorem addReq (pkt : Packet) (ecc : Ecc) : Statement (.addReq pkt ecc) := fun _ _ h => by cases h <;> rfl
theorem addlReq (pkt : Packet) (ecc : Ecc) : Statement (.addlReq pkt ecc) := fun _ _ h => by cases h <;> rfl
theorem addRsp (pkt : Packet) : Statement (.addRsp pkt) := fun _ _ h => by cases h <;> rfl
theorem redData (pkt : Packet) : Statement (.redData pkt) := fun _ _ h => by cases h <;> rfl
theorem redCredit (pkt : Packet) : Statement (.redCredit pkt) := fun _ _ h => by cases h <;> rfl
theorem bcastData (pkt : Packet) : Statement (.bcastData pkt) := fun _ _ h => by cases h <;> rfl
theorem mgReq (pkt : Packet) : Statement (.mgReq pkt) := fun _ _ h => by cases h <;> rfl
theorem mgRsp (pkt : Packet) : Statement (.mgRsp pkt) := fun _ _ h => by cases h <;> rfl
theorem errRsp (pkt : Packet) : Statement (.errRsp pkt) := fun _ _ h => by cases h <;> rfl
theorem redTimeout (tile : TileNo) (slot : Fin 16) : Statement (.redTimeout tile slot) := fun _ _ h => by cases h <;> rfl
theorem brimBurstHop (index : Nat) : Statement (.brimBurstHop index) := fun _ _ h => by cases h <;> rfl
theorem clockWake (tile : TileNo) : Statement (.clockWake tile) := fun _ _ h => by cases h <;> rfl
theorem fbCommit (port : HostPort) (value : Word64) : Statement (.fbCommit port value) := fun _ _ h => by cases h <;> rfl
theorem quietTablesApplied : Statement (.quietTablesApplied) := fun _ _ h => by cases h <;> rfl
theorem phase (p : PartNo) : Statement (.phase p) := fun _ _ h => by cases h <;> rfl
theorem phaseDrained (p : PartNo) : Statement (.phaseDrained p) := fun _ _ h => by cases h <;> rfl
theorem route (core : CoreNo) (slot : SlotNo) : Statement (.route core slot) := fun _ _ h => by cases h <;> rfl
theorem routeBwd (core : CoreNo) (slot : SlotNo) : Statement (.routeBwd core slot) := fun _ _ h => by cases h <;> rfl
theorem dispatch (core : CoreNo) (slot : SlotNo) : Statement (.dispatch core slot) := fun _ _ h => by cases h <;> rfl
theorem dispatchCountPhase (p : PartNo) (key : Nat) : Statement (.dispatchCountPhase p key) := fun _ _ h => by cases h <;> rfl
theorem dispatchDirectoryValid (core : CoreNo) (slot : SlotNo) : Statement (.dispatchDirectoryValid core slot) := fun _ _ h => by cases h <;> rfl
theorem dispatchBwd (core : CoreNo) (slot : SlotNo) : Statement (.dispatchBwd core slot) := fun _ _ h => by cases h <;> rfl
theorem combine (core : CoreNo) (slot : SlotNo) : Statement (.combine core slot) := fun _ _ h => by cases h <;> rfl
theorem combineBwd (core : CoreNo) (slot : SlotNo) : Statement (.combineBwd core slot) := fun _ _ h => by cases h <;> rfl
theorem stream (tile : TileNo) : Statement (.stream tile) := fun _ _ h => by cases h <;> rfl
theorem streamStart (tile : TileNo) : Statement (.streamStart tile) := fun _ _ h => by cases h <;> rfl
theorem rotate (core : CoreNo) (slot : SlotNo) : Statement (.rotate core slot) := fun _ _ h => by cases h <;> rfl
theorem rotateShardReceived (core : CoreNo) (slot : SlotNo) : Statement (.rotateShardReceived core slot) := fun _ _ h => by cases h <;> rfl
theorem fbMapAreaWrite (port : HostPort) (p : PartNo) (value : Word64) : Statement (.fbMapAreaWrite port p value) := fun _ _ h => by cases h <;> rfl
theorem fbMoeClear (port : HostPort) (p : PartNo) (value : Word64) : Statement (.fbMoeClear port p value) := fun _ _ h => by cases h <;> rfl
theorem palmInit (core : CoreNo) : Statement (.palmInit core) := fun _ _ h => by cases h <;> rfl
theorem palmContribution (core : CoreNo) (slot : SlotNo) : Statement (.palmContribution core slot) := fun _ _ h => by cases h <;> rfl
theorem reduce (core : CoreNo) (slot : SlotNo) : Statement (.reduce core slot) := fun _ _ h => by cases h <;> rfl
theorem stepClose (p : PartNo) : Statement (.stepClose p) := fun _ _ h => by cases h <;> rfl
theorem censusFinal (p : PartNo) : Statement (.censusFinal p) := fun _ _ h => by cases h <;> rfl
theorem updateApply (cuff : CuffNo) : Statement (.updateApply cuff) := fun _ _ h => by cases h <;> rfl
theorem updatePark (cuff : CuffNo) : Statement (.updatePark cuff) := fun _ _ h => by cases h <;> rfl
theorem cuffUpdateStart (cuff : CuffNo) : Statement (.cuffUpdateStart cuff) := fun _ _ h => by cases h <;> rfl
theorem cuffChunk (cuff : CuffNo) (read : CuffRead) : Statement (.cuffChunk cuff read) := fun _ _ h => by cases h <;> rfl
theorem rootBufferTimeout (cuff : CuffNo) (tree : BitVec 16) : Statement (.rootBufferTimeout cuff tree) := fun _ _ h => by cases h <;> rfl
theorem correctedWriteback (line : Nat) : Statement (.correctedWriteback line) := fun _ _ h => by cases h <;> rfl
theorem scrubLine (stack : StackNo) (ecc : Ecc) : Statement (.scrubLine stack ecc) := fun _ _ h => by cases h <;> rfl
theorem refresh (stack : StackNo) : Statement (.refresh stack) := fun _ _ h => by cases h <;> rfl
theorem phyRecalibration (stack : StackNo) (pc : Fin 32) (ok : Bool) : Statement (.phyRecalibration stack pc ok) := fun _ _ h => by cases h <;> rfl
theorem hcWithdraw (port : HostPort) (stack : StackNo) (value : Word64) : Statement (.hcWithdraw port stack value) := fun _ _ h => by cases h <;> rfl
theorem hcLoadWindow (stack : StackNo) (util : Byte) : Statement (.hcLoadWindow stack util) := fun _ _ h => by cases h <;> rfl
theorem hcLoadRead (port : HostPort) (stack : StackNo) : Statement (.hcLoadRead port stack) := fun _ _ h => by cases h <;> rfl
theorem xpLinkRecovery (p : PortNo) : Statement (.xpLinkRecovery p) := fun _ _ h => by cases h <;> rfl
theorem xpLinkLost (p : PortNo) : Statement (.xpLinkLost p) := fun _ _ h => by cases h <;> rfl
theorem promote (cuff : CuffNo) : Statement (.promote cuff) := fun _ _ h => by cases h <;> rfl
theorem drain (cuff : CuffNo) : Statement (.drain cuff) := fun _ _ h => by cases h <;> rfl
theorem mboxGo (port : HostPort) (p : PortNo) (value : Word64) : Statement (.mboxGo port p value) := fun _ _ h => by cases h <;> rfl
theorem mboxComplete (p : PortNo) (returnCode : BitVec 16) (output : List Byte) : Statement (.mboxComplete p returnCode output) := fun _ _ h => by cases h <;> rfl
theorem mboxTimeout (p : PortNo) : Statement (.mboxTimeout p) := fun _ _ h => by cases h <;> rfl
theorem ringCreate (port : HostPort) (value : Word64) : Statement (.ringCreate port value) := fun _ _ h => by cases h <;> rfl
theorem ringChange (port : HostPort) (value : Word64) : Statement (.ringChange port value) := fun _ _ h => by cases h <;> rfl
theorem ringDisable (port : HostPort) (value : Word64) : Statement (.ringDisable port value) := fun _ _ h => by cases h <;> rfl
theorem doorbell (port : HostPort) (ctx : CtxNo) (slot : BitVec 9) (size : Nat) (value : Word64) : Statement (.doorbell port ctx slot size value) := fun _ _ h => by cases h <;> rfl
theorem ringRead (r : RingNo) : Statement (.ringRead r) := fun _ _ h => by cases h <;> rfl
theorem headWriteback (r : RingNo) : Statement (.headWriteback r) := fun _ _ h => by cases h <;> rfl
theorem fenceRelease (r : RingNo) : Statement (.fenceRelease r) := fun _ _ h => by cases h <;> rfl
theorem nop (r : RingNo) : Statement (.nop r) := fun _ _ h => by cases h <;> rfl
theorem signal (r : RingNo) : Statement (.signal r) := fun _ _ h => by cases h <;> rfl
theorem wait (g : GatePlace) : Statement (.wait g) := fun _ _ h => by cases h <;> rfl
theorem timed (g : GatePlace) : Statement (.timed g) := fun _ _ h => by cases h <;> rfl
theorem waitPoll (g : GatePlace) : Statement (.waitPoll g) := fun _ _ h => by cases h <;> rfl
theorem waitTimeoutExpiry (w : WaitPlace) : Statement (.waitTimeoutExpiry w) := fun _ _ h => by cases h <;> rfl
theorem holdoffExpiry (r : RingNo) : Statement (.holdoffExpiry r) := fun _ _ h => by cases h <;> rfl
theorem platformEventSet (port : HostPort) (value : Word64) : Statement (.platformEventSet port value) := fun _ _ h => by cases h <;> rfl
theorem partitionCreate (port : HostPort) (value : Word64) : Statement (.partitionCreate port value) := fun _ _ h => by cases h <;> rfl
theorem partitionChange (port : HostPort) (value : Word64) : Statement (.partitionChange port value) := fun _ _ h => by cases h <;> rfl
theorem partitionRemove (port : HostPort) (value : Word64) : Statement (.partitionRemove port value) := fun _ _ h => by cases h <;> rfl
theorem ownershipSwitch (p : PartNo) : Statement (.ownershipSwitch p) := fun _ _ h => by cases h <;> rfl
theorem stackHandoverZeroDone (stack : StackNo) : Statement (.stackHandoverZeroDone stack) := fun _ _ h => by cases h <;> rfl
theorem contextBind (port : HostPort) (value : Word64) : Statement (.contextBind port value) := fun _ _ h => by cases h <;> rfl
theorem contextUnbind (port : HostPort) (value : Word64) : Statement (.contextUnbind port value) := fun _ _ h => by cases h <;> rfl
theorem contextMove (port : HostPort) (value : Word64) : Statement (.contextMove port value) := fun _ _ h => by cases h <;> rfl
theorem contextEntriesChange (port : HostPort) (value : Word64) : Statement (.contextEntriesChange port value) := fun _ _ h => by cases h <;> rfl
theorem pageAllocate (port : HostPort) (value : Word64) : Statement (.pageAllocate port value) := fun _ _ h => by cases h <;> rfl
theorem pageZeroDone (first : BitVec 16) : Statement (.pageZeroDone first) := fun _ _ h => by cases h <;> rfl
theorem pageFree (port : HostPort) (value : Word64) : Statement (.pageFree port value) := fun _ _ h => by cases h <;> rfl
theorem coreReset (port : HostPort) (value : Word64) : Statement (.coreReset port value) := fun _ _ h => by cases h <;> rfl
theorem clusterReset (port : HostPort) (value : Word64) : Statement (.clusterReset port value) := fun _ _ h => by cases h <;> rfl
theorem partitionReset (port : HostPort) (value : Word64) : Statement (.partitionReset port value) := fun _ _ h => by cases h <;> rfl
theorem moduleReset (port : HostPort) (value : Word64) : Statement (.moduleReset port value) := fun _ _ h => by cases h <;> rfl
theorem resetDrainEnd (level : Fin 4) (target : BitVec 8) (drain100ns : BitVec 16) : Statement (.resetDrainEnd level target drain100ns) := fun _ _ h => by cases h <;> rfl
theorem resetClearDone (level : Fin 4) (target : BitVec 8) : Statement (.resetClearDone level target) := fun _ _ h => by cases h <;> rfl
theorem refPpsEdge (ref : Fin 2) (cycles : Nat) (phaseNs : Int) : Statement (.refPpsEdge ref cycles phaseNs) := fun _ _ h => by cases h <;> rfl
theorem refPpsTimeout (ref : Fin 2) : Statement (.refPpsTimeout ref) := fun _ _ h => by cases h <;> rfl
theorem refFreqLoss (ref : Fin 2) : Statement (.refFreqLoss ref) := fun _ _ h => by cases h <;> rfl
theorem toleranceWindowEnd (freqA freqB ocxo : Int) : Statement (.toleranceWindowEnd freqA freqB ocxo) := fun _ _ h => by cases h <;> rfl
theorem slewDone : Statement (.slewDone) := fun _ _ h => by cases h <;> rfl
theorem holdoverDegrade : Statement (.holdoverDegrade) := fun _ _ h => by cases h <;> rfl
theorem tbSet (port : HostPort) (value : Word64) : Statement (.tbSet port value) := fun _ _ h => by cases h <;> rfl
theorem tbCtlWrite (port : HostPort) (value : Word64) : Statement (.tbCtlWrite port value) := fun _ _ h => by cases h <;> rfl
theorem tbNowLowRead (port : HostPort) : Statement (.tbNowLowRead port) := fun _ _ h => by cases h <;> rfl
theorem notBeforeReached (what : HeldUntil) : Statement (.notBeforeReached what) := fun _ _ h => by cases h <;> rfl
theorem exportRingSet (port : HostPort) (p : PartNo) (value : Word64) : Statement (.exportRingSet port p value) := fun _ _ h => by cases h <;> rfl
theorem wealaStart : Statement (.wealaStart) := fun _ _ h => by cases h <;> rfl
theorem mainPowerStart : Statement (.mainPowerStart) := fun _ _ h => by cases h <;> rfl
theorem fabricReady : Statement (.fabricReady) := fun _ _ h => by cases h <;> rfl
theorem tileSramReady (tile : TileNo) (badBanks : BitVec 64) : Statement (.tileSramReady tile badBanks) := fun _ _ h => by cases h <;> rfl
theorem stackTrainResult (stack : StackNo) (ok : Bool) : Statement (.stackTrainResult stack ok) := fun _ _ h => by cases h <;> rfl
theorem hostPortWaiting (p : HostPort) (sris : Bool) : Statement (.hostPortWaiting p sris) := fun _ _ h => by cases h <;> rfl
theorem hostLinkUp (p : HostPort) (width speed : BitVec 3) (cfg : HostConfig) : Statement (.hostLinkUp p width speed cfg) := fun _ _ h => by cases h <;> rfl
theorem xpReady (p : PortNo) (result : XpResult) : Statement (.xpReady p result) := fun _ _ h => by cases h <;> rfl
theorem coreReady (core : CoreNo) (failed : BitVec 5) : Statement (.coreReady core failed) := fun _ _ h => by cases h <;> rfl
theorem functionTimeout (fn : Fin 367) : Statement (.functionTimeout fn) := fun _ _ h => by cases h <;> rfl
theorem setSetting (src : ReqSource) (id : BitVec 16) (value : BitVec 256) (auth : Auth) : Statement (.setSetting src id value auth) := fun _ _ h => by cases h <;> rfl
theorem persistMap (src : ReqSource) (map : Option OfferedMap) (auth : Auth) : Statement (.persistMap src map auth) := fun _ _ h => by cases h <;> rfl
theorem writeImage (src : ReqSource) (imageB : Bool) (offset : Nat) (data : List Byte) (auth : Auth) : Statement (.writeImage src imageB offset data auth) := fun _ _ h => by cases h <;> rfl
theorem commitImage (src : ReqSource) (imageB : Bool) (version : Nat) (gens : BitVec 2) (camormetSigned : Bool) (auth : Auth) : Statement (.commitImage src imageB version gens camormetSigned auth) := fun _ _ h => by cases h <;> rfl
theorem readArea (src : ReqSource) (area : FlashArea) (offset length : Nat) (auth : Auth) : Statement (.readArea src area offset length auth) := fun _ _ h => by cases h <;> rfl
theorem readLedger (src : ReqSource) (auth : Auth) : Statement (.readLedger src auth) := fun _ _ h => by cases h <;> rfl
theorem setEndpointId (b : Binding) (eid : Byte) : Statement (.setEndpointId b eid) := fun _ _ h => by cases h <;> rfl
theorem getEndpointId (b : Binding) : Statement (.getEndpointId b) := fun _ _ h => by cases h <;> rfl
theorem getEndpointUuid (b : Binding) : Statement (.getEndpointUuid b) := fun _ _ h => by cases h <;> rfl
theorem getMctpVersionSupport (b : Binding) (msgType : Byte) : Statement (.getMctpVersionSupport b msgType) := fun _ _ h => by cases h <;> rfl
theorem getMessageTypeSupport (b : Binding) : Statement (.getMessageTypeSupport b) := fun _ _ h => by cases h <;> rfl
theorem gettid (b : Binding) : Statement (.gettid b) := fun _ _ h => by cases h <;> rfl
theorem settid (b : Binding) (tid : Byte) : Statement (.settid b tid) := fun _ _ h => by cases h <;> rfl
theorem getpldmversion (b : Binding) (pldmType : Byte) : Statement (.getpldmversion b pldmType) := fun _ _ h => by cases h <;> rfl
theorem getpldmtypes (b : Binding) : Statement (.getpldmtypes b) := fun _ _ h => by cases h <;> rfl
theorem getpldmcommands (b : Binding) (pldmType : Byte) : Statement (.getpldmcommands b pldmType) := fun _ _ h => by cases h <;> rfl
theorem getpdrrepositoryinfo (b : Binding) : Statement (.getpdrrepositoryinfo b) := fun _ _ h => by cases h <;> rfl
theorem getpdr (b : Binding) (record : Nat) : Statement (.getpdr b record) := fun _ _ h => by cases h <;> rfl
theorem getsensorreading (b : Binding) (sensor : Nat) : Statement (.getsensorreading b sensor) := fun _ _ h => by cases h <;> rfl
theorem getstatesensorreadings (b : Binding) (sensor : Nat) : Statement (.getstatesensorreadings b sensor) := fun _ _ h => by cases h <;> rfl
theorem seteventreceiver (b : Binding) (eid : Byte) : Statement (.seteventreceiver b eid) := fun _ _ h => by cases h <;> rfl
theorem throttleTick (vA vB iA iB : BitVec 16) (power : BitVec 32) : Statement (.throttleTick vA vB iA iB power) := fun _ _ h => by cases h <;> rfl
theorem freqStep (tile : TileNo) : Statement (.freqStep tile) := fun _ _ h => by cases h <;> rfl
theorem sensorSample (tile : TileNo) (readings : List Int) : Statement (.sensorSample tile readings) := fun _ _ h => by cases h <;> rfl
theorem thermalNapEnd (tile : TileNo) : Statement (.thermalNapEnd tile) := fun _ _ h => by cases h <;> rfl
theorem visorInterval (samples : List VisorSample) : Statement (.visorInterval samples) := fun _ _ h => by cases h <;> rfl
theorem pwVminRead (port : HostPort) (index : Fin 256) : Statement (.pwVminRead port index) := fun _ _ h => by cases h <;> rfl
theorem pwLimitWrite (port : HostPort) (value : Word64) : Statement (.pwLimitWrite port value) := fun _ _ h => by cases h <;> rfl
theorem runRequest (port : HostPort) (tile : TileNo) (value : Word64) : Statement (.runRequest port tile value) := fun _ _ h => by cases h <;> rfl
theorem napRequest (port : HostPort) (tile : TileNo) (value : Word64) : Statement (.napRequest port tile value) := fun _ _ h => by cases h <;> rfl
theorem dozeRequest (port : HostPort) (tile : TileNo) (value : Word64) : Statement (.dozeRequest port tile value) := fun _ _ h => by cases h <;> rfl
theorem offRequest (port : HostPort) (tile : TileNo) (value : Word64) : Statement (.offRequest port tile value) := fun _ _ h => by cases h <;> rfl
theorem autoNapEntry (tile : TileNo) : Statement (.autoNapEntry tile) := fun _ _ h => by cases h <;> rfl
theorem powerDownDone (tile : TileNo) : Statement (.powerDownDone tile) := fun _ _ h => by cases h <;> rfl
theorem wakeRampDone (tile : TileNo) : Statement (.wakeRampDone tile) := fun _ _ h => by cases h <;> rfl
theorem claspRelease (port : HostPort) (value : Word64) : Statement (.claspRelease port value) := fun _ _ h => by cases h <;> rfl
theorem wakeComplete (tile : TileNo) (failed : BitVec 20) (badBanks : BitVec 64) : Statement (.wakeComplete tile failed badBanks) := fun _ _ h => by cases h <;> rfl
theorem domainOvercurrent (tile : TileNo) (k : Fin 4) : Statement (.domainOvercurrent tile k) := fun _ _ h => by cases h <;> rfl
theorem vddlPhaseLoss (tile : TileNo) : Statement (.vddlPhaseLoss tile) := fun _ _ h => by cases h <;> rfl
theorem senseLineOpen (tile : TileNo) (k : Fin 4) : Statement (.senseLineOpen tile k) := fun _ _ h => by cases h <;> rfl
theorem softStartTimeout (tile : TileNo) (k : Fin 4) : Statement (.softStartTimeout tile k) := fun _ _ h => by cases h <;> rfl
theorem busDroop (vA vB : BitVec 16) : Statement (.busDroop vA vB) := fun _ _ h => by cases h <;> rfl
theorem rampResume (vA vB : BitVec 16) : Statement (.rampResume vA vB) := fun _ _ h => by cases h <;> rfl
theorem rampAbort (tile : TileNo) (k : Fin 4) : Statement (.rampAbort tile k) := fun _ _ h => by cases h <;> rfl
theorem busPairLost (pair : BusPair) (v : BitVec 16) : Statement (.busPairLost pair v) := fun _ _ h => by cases h <;> rfl
theorem undervoltageShutdown : Statement (.undervoltageShutdown) := fun _ _ h => by cases h <;> rfl
theorem overvoltageShutdown : Statement (.overvoltageShutdown) := fun _ _ h => by cases h <;> rfl
theorem coolantOkAssert : Statement (.coolantOkAssert) := fun _ _ h => by cases h <;> rfl
theorem coolantLoss : Statement (.coolantLoss) := fun _ _ h => by cases h <;> rfl
theorem coolantTimeout : Statement (.coolantTimeout) := fun _ _ h => by cases h <;> rfl
theorem pwrEnAssert : Statement (.pwrEnAssert) := fun _ _ h => by cases h <;> rfl
theorem pwrEnDeassert : Statement (.pwrEnDeassert) := fun _ _ h => by cases h <;> rfl
theorem auxLoss : Statement (.auxLoss) := fun _ _ h => by cases h <;> rfl
theorem watchdogExpiry : Statement (.watchdogExpiry) := fun _ _ h => by cases h <;> rfl
theorem pumpHoldExpiry : Statement (.pumpHoldExpiry) := fun _ _ h => by cases h <;> rfl
theorem perstRelease (p : HostPort) : Statement (.perstRelease p) := fun _ _ h => by cases h <;> rfl
theorem perstAssert (p : HostPort) : Statement (.perstAssert p) := fun _ _ h => by cases h <;> rfl
theorem registerWrite (port : HostPort) (offset : Nat) (bytes : List Byte) : Statement (.registerWrite port offset bytes) := fun _ _ h => by cases h <;> rfl
theorem slewHoldFine : Statement (.slewHoldFine) := fun _ _ h => by cases h <;> rfl
theorem thefaWholeSecond : Statement (.thefaWholeSecond) := fun _ _ h => by cases h <;> rfl
theorem hostLinkRecovery (p : HostPort) (loss : LinkLoss) : Statement (.hostLinkRecovery p loss) := fun _ _ h => by cases h <;> rfl
theorem xpLinkReturnL0 (p : PortNo) : Statement (.xpLinkReturnL0 p) := fun _ _ h => by cases h <;> rfl
theorem atsInvalidateRequest (p : HostPort) (ctx : CtxNo) (page : Nat) : Statement (.atsInvalidateRequest p ctx page) := fun _ _ h => by cases h <;> rfl
theorem ctrlFault (unit : CtrlUnit) : Statement (.ctrlFault unit) := fun _ _ h => by cases h <;> rfl
theorem busPairRecovered (pair : BusPair) (v : BitVec 16) : Statement (.busPairRecovered pair v) := fun _ _ h => by cases h <;> rfl
theorem fabricUndrainedTimeout (tile : TileNo) : Statement (.fabricUndrainedTimeout tile) := fun _ _ h => by cases h <;> rfl
theorem palmInitDone (core : CoreNo) : Statement (.palmInitDone core) := fun _ _ h => by cases h <;> rfl
theorem cmemScrubLine (core : CoreNo) (bank : Fin 16) (ecc : Ecc) : Statement (.cmemScrubLine core bank ecc) := fun _ _ h => by cases h <;> rfl
theorem mctpMessageRead : Statement (.mctpMessageRead) := fun _ _ h => by cases h <;> rfl
theorem smbusClockLowTimeout : Statement (.smbusClockLowTimeout) := fun _ _ h => by cases h <;> rfl

end Sys2Proof.Laws.ViaPort
end

