-- ==== Sys2Proof/Laws/Records.lean ====
section
/-!
SUPPORT. What writing a completion record leaves alone (R325, R326): every shared operation on outcomes keeps `besideRecords`.
-/
namespace Sys2Proof.Machine
open Sys2Proof

theorem besideRecords_of_reports {s t : State} (h : OnlyReports s t) : besideRecords t = besideRecords s := by
  have b : besideRecords { besideReports t with weala := t.weala } = besideRecords { besideReports s with weala := s.weala } := by
    rw [h.rest]; unfold besideRecords besideWork; dsimp only; rw [h.weala]
  exact b
theorem besideRecords_of_memory {s t : State} (h : besideMemory t = besideMemory s) : besideRecords t = besideRecords s := (congrArg besideRecords h :)

/-- A fold of steps that each leave it leaves it. -/
theorem besideRecords_foldl {α : Type} (f : State → α → State) (l : List α) (s : State) (h : ∀ s x, besideRecords (f s x) = besideRecords s) :
    besideRecords (l.foldl f s) = besideRecords s :=
  foldl_keeps (fun t => besideRecords t = besideRecords s) f l s rfl fun t x _ ht => (h t x).trans ht

/-! Setters. -/

@[simp] theorem besideRecords_setCore (s : State) (c : CoreNo) (v : Core) : besideRecords (setCore s c v) = besideRecords s := rfl
@[simp] theorem besideRecords_setSlot (s : State) (c : CoreNo) (k : SlotNo) (v : Slot) : besideRecords (setSlot s c k v) = besideRecords s := rfl
@[simp] theorem besideRecords_setCuff (s : State) (n : CuffNo) (v : Cuff) : besideRecords (setCuff s n v) = besideRecords s := rfl
@[simp] theorem besideRecords_setRing (s : State) (n : Nat) (v : Ring) : besideRecords (setRing s n v) = besideRecords s := rfl
@[simp] theorem besideRecords_setCtx (s : State) (c : CtxNo) (v : Context) : besideRecords (setCtx s c v) = besideRecords s := rfl
@[simp] theorem besideRecords_setTile (s : State) (t : TileNo) (v : Tile) : besideRecords (setTile s t v) = besideRecords s := rfl
@[simp] theorem besideRecords_setPoison (s : State) (l : Nat) (b : Bool) : besideRecords (setPoison s l b) = besideRecords s := rfl
@[simp] theorem besideRecords_sendOn (s : State) (b : Binding) (l : List MgmtMsg) : besideRecords (sendOn s b l) = besideRecords s := rfl
@[simp] theorem besideRecords_announce (s t : State) : besideRecords (announce s t) = besideRecords t := rfl

/-! Memory and reports. -/

@[simp] theorem besideRecords_writeMem (s : State) (a : Nat) (bs : List Byte) : besideRecords (writeMem s a bs).1 = besideRecords s :=
  besideRecords_of_memory (besideMemory_writeMem s a bs)
@[simp] theorem besideRecords_storeMem (s : State) (a : Nat) (bs : List Byte) : besideRecords (storeMem s a bs) = besideRecords s :=
  besideRecords_of_memory (besideMemory_storeMem s a bs)
@[simp] theorem besideRecords_zeroRange (s : State) (a n : Nat) : besideRecords (zeroRange s a n) = besideRecords s := rfl
@[simp] theorem besideRecords_freeBytes (s : State) (a n : Nat) : besideRecords (freeBytes s a n) = besideRecords s :=
  besideRecords_of_memory (besideMemory_freeBytes s a n)
@[simp] theorem besideRecords_raise (s : State) (ev : Event) : besideRecords (raise s ev) = besideRecords s := besideRecords_of_reports (onlyReports_raise s ev)
@[simp] theorem besideRecords_setupRefused (s : State) (o : Nat) : besideRecords (setupRefused s o) = besideRecords s :=
  besideRecords_of_reports (onlyReports_setupRefused s o)
@[simp] theorem besideRecords_raiseMsix (s : State) (n : Nat) : besideRecords (raiseMsix s n) = besideRecords s := besideRecords_of_reports (onlyReports_raiseMsix s n)

@[simp] theorem besideRecords_addWord (s : State) (a : Nat) (v : Word64) : besideRecords (addWord s a v).1 = besideRecords s := by
  unfold addWord; split <;> simp

@[simp] theorem besideRecords_writeFor (s : State) (t : TileNo) (c : CtxNo) (a : Nat) (bs : List Byte) : besideRecords (writeFor s t c a bs).1 = besideRecords s := by
  unfold writeFor; split <;> simp

/-! Records (R325, R326, R328). -/

@[simp] theorem besideRecords_faultRing (s : State) (n : Nat) (st : BitVec 8) : besideRecords (faultRing s n st) = besideRecords s := by
  unfold faultRing; dsimp only; rw [besideRecords_raise]; split <;> rfl

@[simp] theorem besideRecords_releaseHolder (s : State) (t : Task) : besideRecords (releaseHolder s t) = besideRecords s := rfl

@[simp] theorem besideRecords_writeOutcome (s : State) (o : Outcome) : besideRecords (writeOutcome s o).1 = besideRecords s := by
  unfold writeOutcome
  dsimp only
  split
  · simp
  · split
    · rfl
    · split
      · simp
      · split
        · simp
        · simp only [besideRecords_releaseHolder]
          split <;> simp

@[simp] theorem besideRecords_drainWaiting (s : State) (r n : Nat) : besideRecords (drainWaiting s r n) = besideRecords s := by
  induction n generalizing s with
  | zero => rfl
  | succ n ih => unfold drainWaiting; split <;> [rfl; skip]; dsimp only; split <;> simp [ih]

@[simp] theorem besideRecords_headerSignal (s : State) (t : Task) (st : BitVec 8) : besideRecords (headerSignal s t st).1 = besideRecords s := by
  unfold headerSignal
  split
  · rfl
  · dsimp only
    split
    · rfl
    · split <;> simp

@[simp] theorem besideRecords_outcome (s : State) (t : Task) (st : BitVec 8) (d : BitVec 16) (c : Bool) (w : Word64) (q : BitVec 4) :
    besideRecords (outcome s t st d c w q).1 = besideRecords s := by
  unfold outcome
  dsimp only
  generalize (if (headerSignal s t st).2 = true then d else 0xFFFF) = d'
  split
  · exact besideRecords_headerSignal ..
  · split
    · exact (besideRecords_writeOutcome ..).trans (besideRecords_headerSignal ..)
    · exact (besideRecords_writeOutcome ..).trans (besideRecords_headerSignal ..)

@[simp] theorem besideRecords_complete (s : State) (t : Task) (st : BitVec 8) : besideRecords (complete s t st) = besideRecords s := by simp [complete]
@[simp] theorem besideRecords_rejectTask (s : State) (t : Task) (st : BitVec 8) (d : BitVec 16) : besideRecords (rejectTask s t st d) = besideRecords s := by
  simp [rejectTask]

@[simp] theorem besideRecords_spoilRange (kept : List (Nat × Nat)) (a n : Nat) (s : State) :
    besideRecords (spoilRange kept a n s) = besideRecords s := by
  induction n generalizing s with
  | zero => rfl
  | succ n ih => unfold spoilRange; dsimp only; split <;> simp [ih]

@[simp] theorem besideRecords_spoilDest (s : State) (sl : Slot) : besideRecords (spoilDest s sl) = besideRecords s := by
  unfold spoilDest
  split
  · rfl
  · exact besideRecords_foldl _ _ _ fun s r => by split <;> [split; skip] <;> simp

@[simp] theorem besideRecords_recordSlot (s : State) (c : CoreNo) (k : SlotNo) (t : Task) (sl : Slot) :
    besideRecords (recordSlot s c k t sl) = besideRecords s := by
  unfold recordSlot; dsimp only; split <;> simp

@[simp] theorem besideRecords_endSlot (s : State) (c : CoreNo) (k : SlotNo) (st : BitVec 8) (d : BitVec 16) : besideRecords (endSlot s c k st d) = besideRecords s := by
  unfold endSlot
  dsimp only
  split
  · rfl
  · split <;> simp

end Sys2Proof.Machine
end

