-- ==== Sys2Proof/Laws/TaskEnd.lean ====
section
/-!
SUPPORT. The end of a task's work while its stores are outstanding: the slot keeps the outcome, no record is written yet (R92, R94).
-/
namespace Sys2Proof.Machine
open Sys2Proof

/-- Judging who owns a sequencer changes no slot but the one that gets it, of which only the state. -/
theorem reschedule_slot (c : Core) (k : SlotNo) : coreSlot (reschedule c) k = coreSlot c k ∨
    ((coreSlot c k).state = .ready ∧ coreSlot (reschedule c) k = { coreSlot c k with state := .running }) := by
  unfold reschedule
  split
  · exact .inl rfl
  · dsimp only
    split
    · exact .inl rfl
    · rename_i j h
      by_cases e : k = j
      · subst e
        right
        have := List.find?_some h
        exact ⟨by simpa [coreSlot] using this, by simp [coreSlot]⟩
      · left
        have : (k : Nat) ≠ j.val := fun x => e (Fin.ext x)
        unfold coreSlot
        exact tget_tput_other _ _ _ this

theorem reschedule_keeps (c : Core) (k : SlotNo) (x : Slot) (h : coreSlot c k = x) (n : x.state ≠ .ready) : coreSlot (reschedule c) k = x := by
  rcases reschedule_slot c k with r | r
  · rw [r, h]
  · rw [h] at r; exact absurd r.1 n

@[simp] theorem coreSlot_putSlot_same (c : Core) (k : SlotNo) (x : Slot) : coreSlot (putSlot c k x) k = x := by
  unfold coreSlot putSlot; exact tget_tput_same ..

theorem coreSlot_leaveSequencer (c : Core) (k j : SlotNo) : coreSlot (leaveSequencer c k) j = coreSlot c j := by
  unfold leaveSequencer; split <;> rfl

/-- The switch conditions change no slot that neither runs nor is ready (R85). -/
theorem judge_keeps (c : Core) (k : SlotNo) (h : (coreSlot c k).state = .late) : coreSlot (judge c) k = coreSlot c k := by
  unfold judge
  split
  · exact reschedule_keeps _ _ _ rfl (by rw [h]; decide)
  · rename_i j _
    dsimp only
    split
    · rfl
    · split
      · exact reschedule_keeps _ _ _ (coreSlot_leaveSequencer ..) (by rw [h]; decide)
      · split
        · split
          · rename_i r
            by_cases e : j = k
            · subst e; rw [h] at r; cases r
            · refine reschedule_keeps _ _ _ ?_ (by rw [h]; decide)
              have : (k : Nat) ≠ j.val := fun x => e (Fin.ext x.symm)
              unfold putSlot
              refine Eq.trans (b := coreSlot (leaveSequencer c j) k) (tget_tput_other _ _ _ this) (coreSlot_leaveSequencer ..)
          · exact reschedule_keeps _ _ _ (coreSlot_leaveSequencer ..) (by rw [h]; decide)
        · rfl

/-- What an end with output still to be swapped and stored leaves in the slot, and that it changes nothing but that core. -/
theorem endTask_outstanding (s : State) (n : CoreNo) (k : SlotNo) (st : BitVec 8) (d : BitVec 16) (outs : List Out) (ho : outs ≠ []) :
    getSlot (endTask s n k st d outs true) n k =
      { getSlot s n k with outs := outs, ended := true, status := st, detail := d, swapPending := true, outsReady := false, state := .late } ∧
    { endTask s n k st d outs true with cores := s.cores } = s ∧ (∀ m, m ≠ n → getCore (endTask s n k st d outs true) m = getCore s m) := by
  have e : outs.isEmpty = false := by cases outs <;> [exact absurd rfl ho; rfl]
  unfold endTask
  dsimp only
  rw [e]
  simp only [Bool.false_eq_true, if_false, if_true, Bool.not_true]
  unfold judgeCore
  refine ⟨?_, rfl, ?_⟩
  · unfold getSlot
    rw [getCore_same]
    have : ∀ x : Slot, x.state = .late → coreSlot (judge (getCore (setSlot s n k x) n)) k = x := by
      intro x hx
      have g : coreSlot (getCore (setSlot s n k x) n) k = x := getSlot_same ..
      rw [judge_keeps _ _ (by rw [g]; exact hx), g]
    exact this _ rfl
  · intro m hm
    rw [getCore_other _ _ hm]
    unfold setSlot
    rw [getCore_other _ _ hm]

end Sys2Proof.Machine
end

