-- ==== Sys2Proof/Tests/Slice0.lean ====
section
/-!
SUPPORT. Tests: the checks of well-formed commands, one witness for each statement's hypotheses, clause by clause, and single steps whose expected values
come from the spec's own examples and tables.
-/
namespace Sys2Proof.Tests
open Sys2Proof Sys2Proof.Machine

set_option Elab.async false


/-! The states that the witnesses are built from. -/

/-- Port 0's link is up; nothing else has happened since power-on. -/
def linked : State := setHp State.reset 0 { linkUp := true, perstReleased := true }

/-- An entry of a table of 64 bits or more, from its fields (value, lowest bit). -/
def fields (l : List (Nat × Nat)) : Nat := l.foldl (fun n f => n + f.1 * 2 ^ f.2) 0

/-- Every tile, stack and port (R361). -/
def wholeEntry : BitVec 128 := BitVec.ofNat 128 (fields [(7, 6), (7, 9), (1, 12), (2 ^ 32 - 1, 32), (255, 64)])

/-- A range of a context with every right (R362). -/
def range (base last : Nat) : BitVec 128 := BitVec.ofNat 128 (fields [(base, 0), (last, 64), (15, 120)])

/-- Main power, every domain up, every function READY, CK_TB running, partition 1 over the whole module, context 5 bound to it with its rights over stack 0, the first
page of the cluster memories of cores 0, 1 and 4, and host memory behind port 0. -/
def module : State :=
  { linked with
    fns := (List.range 367).map (fun f => (f, { state := 3 }))
    tb := { running := true }
    pw := { aux := true, pwrEn := true, coolantOk := true, stage := .main, modReady := true, shelfEn := true, pumpReq := true }
    weala := { running := true }
    parts := [(1, { entry := wholeEntry, gen := 1 })]
    ctxs := [(5, { binding := 0xC1, ranges := [(0, range 0 (stackMapped - 1)), (1, range (cmemBase 0) (cmemBase 8 - 1)), (2, range (2 ^ 55) (2 ^ 55 + 2 ^ 53 - 1))] })]
    pages := [(0, 6), (256, 6), (1024, 6)]
    tiles := (List.range 64).map fun n => (n, { domainsUp := tileDomains (Fin.ofNat 64 n) }) }

/-- A task of context 5 and partition 1 from the fields of its descriptor. -/
def task (l : List (Nat × Nat)) : Task := { ring := 0x50, index := 0, ctx := 5, part := 1, raw := BitVec.ofNat 2048 (fields l), exp := some 0 }

/-- Core 0's slot 0 runs a task; the same with ranges in its compute region. -/
def runs (t : Task) : State :=
  setCore module 0 { current := some 0, lastRan := some 0, slots := [(0, { state := .running, task := some t, footprint := 1 })] }
def supplied (t : Task) (got : List (Nat × Nat)) : State := setSlot (runs t) 0 0 { getSlot (runs t) 0 0 with got := got }

/-- A packet of partition 1 to a unit, from unit 0 of tile 9. -/
def packet (typ cls : Nat) (dst : TileNo) (unit : BitVec 4) (addr : BitVec 56) (payload : List Byte) : Packet :=
  { cls := BitVec.ofNat 3 cls, typ := BitVec.ofNat 5 typ, srcTile := 9, srcUnit := 0, dstTile := dst, dstUnit := unit, partition := 1, context := 5
    length := BitVec.ofNat 13 payload.length, addr := addr, tag := 0, tree := 0, node := 0, role := false, nonfinite := false, poison := false, last := true, status := 0
    origClass := 0, sys := false, offset := 0, payload := payload, here := dst }

/-! Well-formed commands: a term for each check that it passes, and one that it refuses. -/

theorem test_wf_fetchFailure : Instr.wf (.fetchFailure 0 0 0x08) = true ∧ Instr.wf (.fetchFailure 0 0 0x00) = false := by decide
theorem test_wf_rdReq : Instr.wf (.rdReq (packet 0 0 0 8 0 []) .clean) = true ∧ Instr.wf (.rdReq (packet 1 0 0 8 0 []) .clean) = false := by decide
theorem test_wf_wrReq : Instr.wf (.wrReq (packet 1 1 0 8 0 [7]) .clean) = true ∧
    Instr.wf (.wrReq { packet 1 1 0 8 0 [7] with length := 2 } .clean) = false := by decide
theorem test_wf_rdRsp : Instr.wf (.rdRsp (packet 2 2 0 0 0 [7])) = true ∧ Instr.wf (.rdRsp { packet 2 2 0 0 0 [7] with length := 4097 }) = false := by decide
theorem test_wf_wrAck : Instr.wf (.wrAck (packet 3 2 0 0 0 [])) = true ∧ Instr.wf (.wrAck (packet 2 2 0 0 0 [])) = false := by decide
theorem test_wf_addReq : Instr.wf (.addReq (packet 4 1 0 8 0 (bytesOf 8 1)) .clean) = true ∧
    Instr.wf (.addReq (packet 4 1 0 8 0 (bytesOf 4 1)) .clean) = false := by decide
theorem test_wf_addlReq : Instr.wf (.addlReq (packet 12 1 0 8 0 (bytesOf 16 1)) .clean) = true ∧
    Instr.wf (.addlReq (packet 12 1 0 8 0 (bytesOf 8 1)) .clean) = false := by decide
theorem test_wf_addRsp : Instr.wf (.addRsp (packet 5 2 0 0 0 (bytesOf 8 1))) = true ∧ Instr.wf (.addRsp (packet 5 2 0 0 0 [])) = false := by decide
theorem test_wf_redData : Instr.wf (.redData (packet 6 3 0 12 0 (bytesOf 8 1))) = true ∧ Instr.wf (.redData (packet 6 3 0 12 0 (bytesOf 9 1))) = false := by
  decide
theorem test_wf_other_packets :
    Instr.wf (.redCredit (packet 7 2 0 0 0 [])) = true ∧ Instr.wf (.redCredit (packet 6 2 0 0 0 [])) = false ∧
    Instr.wf (.bcastData (packet 8 3 0 0 0 [1])) = true ∧ Instr.wf (.bcastData (packet 7 3 0 0 0 [1])) = false ∧
    Instr.wf (.mgReq (packet 9 4 0 0 0 [])) = true ∧ Instr.wf (.mgReq (packet 8 4 0 0 0 [])) = false ∧
    Instr.wf (.mgRsp (packet 10 4 0 0 0 [1])) = true ∧ Instr.wf (.mgRsp (packet 9 4 0 0 0 [1])) = false ∧
    Instr.wf (.errRsp (packet 11 2 0 0 0 [])) = true ∧ Instr.wf (.errRsp (packet 10 2 0 0 0 [])) = false := by decide
theorem test_wf_places : 
    Instr.wf (.hostLinkUp 0 4 6 { flit := false, ats := true, msix := true, masked := [2047] }) = true ∧
    Instr.wf (.hostLinkUp 0 4 6 { flit := false, ats := true, msix := true, masked := [2048] }) = false ∧
    Instr.wf (.visorInterval [{ index := 255, mean := 0, peak := 0, vmean := 0, vmin := 0, vminTime := 0, off := false }]) = true ∧
    Instr.wf (.visorInterval [{ index := 256, mean := 0, peak := 0, vmean := 0, vmin := 0, vminTime := 0, off := false }]) = false := by decide
theorem test_wf_sizes : Instr.wf (.doorbell 0 5 0 8 0) = true ∧ Instr.wf (.doorbell 0 5 0 3 0) = false ∧
    Instr.wf (.sensorSample 0 (List.replicate 16 0)) = true ∧ Instr.wf (.sensorSample 0 (List.replicate 15 0)) = false ∧
    Instr.wf (.registerWrite 0 0x400000 (bytesOf 8 0)) = true ∧ Instr.wf (.registerWrite 0 0x2000000 (bytesOf 8 0)) = false := by decide
theorem test_wf_requests :
    (let a : Auth := { sigValid := true, keyDigest := 0 }
     Instr.wf (.setSetting (.mctp .smbus 0) 1 0 a) = true ∧ Instr.wf (.setSetting (.mctp .smbus 0) 0 0 a) = false ∧
     Instr.wf (.readArea (.mctp .smbus 0) .audit 0 4096 a) = true ∧ Instr.wf (.readArea (.mctp .smbus 0) .audit 0 4097 a) = false ∧
     Instr.wf (.writeImage (.mctp .smbus 0) true 0 [1] a) = true ∧
     Instr.wf (.writeImage (.mctp .smbus 0) true 0 (List.replicate 4097 1) a) = false) := by decide +kernel
theorem test_wf_mbox : Instr.wf (.mboxComplete 0 0 [1]) = true ∧ ∀ out : List Byte, 2 ^ 20 < out.length → Instr.wf (.mboxComplete 0 0 out) = false := by
  refine ⟨by decide, fun out h => ?_⟩
  simp only [Instr.wf, decide_eq_false_iff_not]
  omega

/-! Witnesses: the block as a whole, and set-up registers. Each shows states and operands that meet a statement's hypotheses. -/

theorem test_hyps_StepRunsFront : (∃ s : State, s.pending = [.slewDone]) ∧ (∃ s : State, s.pending = [] ∧ s.tb.running = true) ∧
    (∃ s : State, s.pending = [] ∧ s.tb.running = false) :=
  ⟨⟨{ module with pending := [.slewDone] }, rfl⟩, ⟨module, rfl, rfl⟩, ⟨State.reset, rfl, rfl⟩⟩
theorem test_hyps_StepKeepsSafe : CounterAligned State.reset ∧ LedgerBounded State.reset ∧ step State.reset = .next State.reset := by
  refine ⟨by simp [CounterAligned, State.reset], fun id n _ => ?_, rfl⟩
  simp [changesMade, State.reset]
theorem test_hyps_PairsAreObeyed :
    pairRow (.tbSet 0 0) = some (0, false, offTbSet, 0) ∧ bar0Open linked 0 false = true ∧ pairOk 0 = false ∧
    windowAt 0x100010 = none ∧ regAt (0x100010 / 8 * 8) = .pair ∧ windowAt 0x1000208 = none ∧ regAt 0x1000208 = .pwLl 0 ∧
    windowAt 0x1FC0208 = none ∧ regAt 0x1FC0208 = .pwLl 63 := by decide +kernel
theorem test_hyps_SelectorsAreNamed :
    selectorRow linked (.ringCreate 0 (mkPair 1)) = some (0, offRingCommit, mkPair 1, 0) ∧ pairOk (mkPair 1) = true ∧ pairVal (mkPair 1) ≠ 0 ∧
    selectorRow linked (.pageFree 0 (mkPair 65535)) = some (0, offPageCommit, mkPair 65535, 0) ∧ pairVal (mkPair 65535) ≠ 0 ∧
    (bytesOf 8 63).length = 8 := by decide +kernel
theorem test_hyps_PortsShareRegisters :
    viaPort 0 (.tbSet 2 0) = some (.tbSet 0 0) ∧ viaPort 3 (.tbSet 2 0) = some (.tbSet 3 0) ∧
    (getHp (setHp linked 3 { linkUp := true }) 0).linkUp = true ∧ (getHp (setHp linked 3 { linkUp := true }) 3).linkUp = true ∧
    (getHp linked 3).linkUp = false := by decide +kernel
theorem test_hyps_HostPortsAndWrites :
    (getHp linked 0).linkUp = true ∧ bar0Open linked 0 (alwaysOpen 0x400020) = true ∧
    windowAt 0x400020 = some (.ringShadow, 0, 32) ∧ windowAt 0x40003C = some (.ringShadow, 28, 32) ∧ 28 + (bytesOf 4 0).length ≤ 32 ∧
    32 < 28 + (bytesOf 8 0).length ∧ windowAt 0x100010 = none ∧ 0x100010 % (bytesOf 8 0).length = 0 ∧ 0x100014 % (bytesOf 8 0).length ≠ 0 ∧
    bar0Open linked 0 (alwaysOpen 0x200018) = true ∧ windowAt 0x200018 = none ∧ regAt 0x200018 = .busMin := by decide +kernel

/-! Witnesses: the grid of cores. -/

/-- Port 0 open, tile 0 entering cluster mode with image 1. -/
def entering : State := setTile module 0 { mode := .entering 1 0 }
/-- DIAG_REQUEST for partition 1 with image 1, token 0. -/
def diagPair : Word64 := mkPair (BitVec.ofNat 32 (fields [(1, 0), (1, 8)]))

theorem test_hyps_ClusterModeAndSpares :
    (getTile entering 0).mode = .entering 1 0 ∧ isHole module 63 = false ∧ inCoreMode module 63 = true ∧ (getTile module 63).power = .run ∧
    coreCluster 3 ∈ (getTile (setTile module 0 { spareTests := [3] }) (coreTile 3)).spareTests ∧
    (let s := { setFn module (fnCore (coreAt 0 0)) 4 with changes := [{ core := coreAt 0 0, segs := [], step := 4 }] }
     (getTile s 0).mode = .core ∧ recoveryDue s 0 = true ∧ (∀ m ∈ s.changes, coreTile m.core = 0) ∧ s.weala.reqQueue = []) := by decide +kernel
/-- Tiles 0 and 63 are named; tile 0 holds a task, tile 63 is a hole. -/
def holding : State :=
  let s := setCore module 0 { slots := [(0, { state := .running, task := some { ring := 0, index := 0, ctx := 5, part := 1, raw := 0 } })] }
  { s with setup := { diagTiles := 2 ^ 63 + 1 }, holes := 2 ^ 63 }
theorem test_hyps_DiagnosticsRuns :
    (let s := { module with setup := { module.setup with diagTiles := 2 ^ 63 + 1 } }
     bar0Open s 0 true = true ∧ pairOk diagPair = true ∧ s.setup.diagBusy = false ∧ bits (pairVal diagPair) 8 7 < 64 ∧
     (∀ n : TileNo, s.setup.diagTiles.getLsb n = true →
       partHasTile s (Fin.ofNat 64 (bits (pairVal diagPair) 8 6)) n = true ∧ isHole s n = false ∧ tileResident s n = false)) ∧
    ((allTiles.filter fun m => holding.setup.diagTiles.getLsb m).find?
       fun m => (!partHasTile holding (Fin.ofNat 64 (bits (pairVal diagPair) 8 6)) m || isHole holding m) || tileResident holding m) = some 0 ∧
    (let s := setTile module 0 { mode := .cluster 1 }
     (getTile s 0).mode = .cluster 1 ∧ s.weala.reqQueue = [] ∧ (∀ c ∈ tileCores 0, resettingCore s c = false) ∧
     (0 : TileNo) ∉ s.setup.diagLeft ∧ (0 : TileNo) ∈ ({ diagLeft := [0] } : SetupRegs).diagLeft) := by decide +kernel
theorem test_hyps_SegmentChanges :
    isHole module (coreTile 255) = false ∧ inCoreMode module (coreTile 255) = true ∧ (entryLs (mittenEntry module 255)).contains (4 : Fin 5).val = false ∧
    (entryLs (mittenEntry module 255)).findIdx? (· == (3 : Fin 5).val) = some 3 ∧
    (defectMask (mittenEntry module 255)).testBit (4 : Fin 5).val = false ∧ (defectMask (mittenEntry module 255)).testBit (3 : Fin 5).val = false ∧
    clusterState (mittenEntry module 255) ≠ 3 ∧ module.changes = [] ∧ module.weala.reqQueue = [] ∧
    (let s := setTile module 0 { mode := .cluster 1 }
     isHole s (coreTile 0) = false ∧ inCoreMode s (coreTile 0) = false ∧ (defectMask (mittenEntry s 0)).testBit (4 : Fin 5).val = false ∧
     clusterState (mittenEntry s 0) ≠ 3) := by decide +kernel
theorem test_hyps_SegmentChanges_substitute :
    (let m : MapChange := { core := 255, segs := [], step := 4, sub := 3 }
     let s := { module with changes := [m] }
     s.changes = [m] ∧ m.core = 255 ∧ m.step = 4 ∧ m.segs = [] ∧ s.weala.reqQueue = [] ∧ inCoreMode s (coreTile 255) = true ∧
     corePresent s 255 = true ∧ resettingCore s 255 = false ∧ (entryLs (mittenEntry s 255)).findIdx? (· == (Fin.ofNat 5 m.sub).val) = some 3 ∧
     (defectMask (mittenEntry s 255)).testBit (Fin.ofNat 5 m.sub).val = false ∧ clusterState (mittenEntry s 255) ≠ 3) := by decide +kernel
theorem test_hyps_TileBecomesHole : isHole module 0 = false ∧ isHole module 63 = false := by decide +kernel
theorem test_hyps_GradeCountsUsableTiles :
    (allTiles.filter fun t => !isHole module t).length = 64 ∧ (allTiles.filter fun t => !isHole { module with holes := 1 } t).length = 63 ∧
    (allTiles.filter fun t => !isHole { module with holes := 3 } t).length = 62 ∧
    (allTiles.filter fun t => !isHole { module with holes := 7 } t).length = 61 := by decide +kernel
theorem test_hyps_DefectsStay :
    (let s := setFn module (fnCore 4) 1
     comingUp s (fnCore 4) = true ∧ fnReady s (fnSram (coreTile 4)) = true ∧ inCoreMode s (coreTile 4) = true ∧ changingCore s 4 = false ∧
     resettingCore s 4 = false ∧ (0x10 : BitVec 5).getLsbD 4 = true) ∧
    (let s := setMitten (setFn module (fnCore 4) 1) 4 (entryWithout module 4 0)
     comingUp s (fnCore 4) = true ∧ entryConsistent (tget mittenFull s.mitten 4) = true ∧ (defectMask (mittenEntry s 4)).testBit 0 = true) ∧
    (let s := { setMitten module 0 (entryWithout module 0 0) with weala := { module.weala with
       mapA := { entries := tput mittenFull [] 0 (mkPair (entryWithout module 0 0)) } } }
     let o : OfferedMap := { entries := List.replicate 256 mittenFull, camormetSigned := false, grade := 0 }
     s.weala.reqQueue = [] ∧ mustWait s (.persistMap (.mctp .smbus 0) (some o) { sigValid := true, keyDigest := 0 }) = false ∧
     bindingUp s .smbus = true ∧ clearsDefect s o.entries = true ∧ o.camormetSigned = false) := by decide +kernel

/-! Witnesses: loss scale, cores and their tasks. -/

/-- A COPY of 64 bytes from stack 0 to core 0's cluster memory. -/
def copyTask : Task := task [(0x01, 0), (1, 18), (1, 32), (4096, 256), (cmemBase 0, 320), (64, 384)]
/-- A GAUNTLET of one ELEMENT stage over one row of 32 FP32 elements; the same with its output to Palm 0. -/
def gauntletFields : List (Nat × Nat) := [(0x10, 0), (1, 8), (1, 18), (1, 32), (0x02, 256), (1, 384), (32, 408), (4096, 512), (32, 896), (32, 960)]
def gauntletTask : Task := task (gauntletFields ++ [(cmemBase 0, 704)])
def palmTask : Task := task (gauntletFields ++ [(12, 477)])
/-- A sparse GAUNTLET (GEMM, 1:4, FP32) of one row and K 32, its header at 8192 and its records behind it. -/
def sparseTask : Task := task [(0x10, 0), (1, 8), (1, 18), (1, 32), (0x01, 256), (1, 384), (32, 408), (32, 432), (1, 465), (1, 484), (16384, 512), (8192, 1024)]
/-- The map in force: cores 0 and 1 take part, cores 0, 1 and 2 make ring 0, group 0 has one slot on core 4, tree 0 ends at stack 0's Cuff through node 0 at slot 0 of
tile 0 with the leaves 0 and 1. -/
def mapBytes : List Byte := bytesOf 896 (fields [(1, 0), (1, 8), (2, 17), (1, 32), (1, 48), (1, 64), (1, 80), (1, 64 * 8 + 8),
  (1, 320 * 8), (4, 320 * 8 + 64), (3, 448 * 8), (1, 464 * 8 + 8), (2, 464 * 8 + 16), (8, 768 * 8 + 6),
  (1, 832 * 8 + 11), (1, 832 * 8 + 22), (1, 832 * 8 + 23), (1, 832 * 8 + 33)])
def mapped (s : State) : State := setPart s 1 { getPart s 1 with map := mapBytes }
/-- A task of each kind of collective ATTN, forward and backward, over one shard of 128 positions, one head of 64; DISPATCH; ROTATE. -/
def attnFields : List (Nat × Nat) := [(0x11, 0), (1, 8), (1, 18), (1, 32), (1, 260), (1, 270), (1, 281), (1, 285), (1, 289), (4096, 384), (65536, 448), (131072, 512),
  (196608, 576), (262144, 640), (327680, 768)]
def attnTask : Task := task attnFields
def attnBwdTask : Task := task (attnFields ++ [(1, 15)])
def dispatchTask : Task := task [(0x21, 0), (1, 8), (1, 18), (1, 32), (32, 344), (1, 361)]
def rotateTask : Task := task [(0x24, 0), (1, 8), (1, 18), (1, 32), (1, 262), (1, 286), (32, 310), (1, 334), (1, 338), (1, 342), (4096, 448), (8192, 512)]
def collOf (t : Task) (stage : Nat) : Coll := { opcode := BitVec.ofNat 8 t.opcode, key := collKey t, first := t, members := [(0, 0, t), (1, 0, t), (2, 0, t)], stage := stage }
/-- Core 0's slot 0 stands at a round of an open collective, with its own operands. -/
def collective (t : Task) (round : Nat) : State :=
  let s := mapped (runs t)
  let s := setPart s 1 { getPart s 1 with colls := [collOf t 1] }
  let s := ([1, 2] : List CoreNo).foldl (fun s c => setCore s c {
    current := some 0, lastRan := some 0, slots := [(0, { state := .late, task := some t, joined := true, round := round })] }) s
  setSlot s 0 0 { getSlot s 0 0 with joined := true, round := round }

theorem test_hyps_LossScaleFollowsItsRules_commit :
    bar0Open module 0 false = true ∧ resettingPart module 1 = false ∧ pairOk (mkPair 1) = true ∧ pairVal (mkPair 1) = 1 ∧
    lsShadowsOk (getPart module 1).ls = true ∧
    (pairOk (mkPair 2) && pairVal (mkPair 2) == 1 && lsShadowsOk (getPart module 1).ls) = false ∧ (getPart module 1).ls.invalid = false ∧
    (let s := { module with resets := [{ level := 2, target := 1, step := 1, immediate := false }] }
     bar0Open s 0 false = true ∧ resettingPart s 1 = true) := by decide +kernel
theorem test_hyps_LossScaleFollowsItsRules_census :
    (let l : LossScale := {}
     l.invalid = false ∧ l.dynamic = true ∧ -32 < l.expNow ∧ l.clean + 1 ≠ l.growth) ∧
    (let l : LossScale := { expNow := -32, clean := 1999 }
     l.dynamic = true ∧ l.expNow ≤ -32 ∧ l.clean + 1 = l.growth) ∧ ({ dynamic := false } : LossScale).dynamic = false := by decide +kernel
theorem test_hyps_SlotsAndSequencer_admit :
    (let s := setCore module 0 { queue := [copyTask] }
     (getCore s 0).queue = copyTask :: [] ∧ resettingCore s 0 = false ∧ changingCore s 0 = false ∧ clockStopped s 0 = false ∧
     (let gen := if (match copyTask.op with | some op => op.usesMapGen | none => false) = true
         then genWhen (getPart s copyTask.part) copyTask.mapGen copyTask.afterMark else .run
      (gen = .hold → coreAvailable s 0 = false) ∧
      admissionFailure (need (coreAvailable s 0) stCore 3 ++ genFails gen ++ coreFails s 0 copyTask) = none) ∧
     emptySlot (getCore s 0) = some 0 ∧ unitsHeld (getCore s 0) + copyTask.footprint ≤ coreUnits s 0) := by decide +kernel
/-- Slots 0 and 3 of core 255 hold tasks; slot 0 has the sequencer. -/
def twoSlots (st other : SlotState) : State :=
  setCore module 255 { current := some 0, lastRan := some 0, slots := [(0, { state := st, task := some copyTask }), (3, { state := other, task := some copyTask })] }
theorem test_hyps_SlotsAndSequencer_switch :
    ((getCore (twoSlots .running .ready) 255).current = some 0 ∧ (getCore (twoSlots .running .ready) 255).lastRan = some 0 ∧
     (getSlot (twoSlots .running .ready) 255 0).state = .running ∧ ctlSlice (getCore (twoSlots .running .ready) 255) ≠ 0 ∧
     (∃ j : SlotNo, j ≠ 0 ∧ (getSlot (twoSlots .running .ready) 255 j).state = .ready)) ∧
    ((getSlot (twoSlots .late .ready) 255 0).state = .late ∧ ctlSwitch (getCore (twoSlots .late .ready) 255) = true ∧
     (∃ j : SlotNo, j ≠ 0 ∧ (getSlot (twoSlots .late .ready) 255 j).state = .ready)) ∧
    (getCore (twoSlots .running .late) 255).current = some 0 ∧ otherReady (getCore (twoSlots .running .late) 255) 0 = false := by decide +kernel

/-- The transfer of the source of copyTask under tag 5, all of it landed but for so many packets; its store under tag 3. -/
def fetchTag (left : Nat) : FetchTag := { tag := 5, xfer := { addr := 4096, len := 64 }, left := left }
def storeTag (left : Nat) : StoreTag := { tag := 3, parts := [(cmemBase 0, 64)], left := left }
/-- copyTask's slot of core 0, changed. -/
def slotted (f : Slot → Slot) : State := setSlot (runs copyTask) 0 0 (f (getSlot (runs copyTask) 0 0))
theorem test_hyps_TagsSwapsAndFailures_tags :
    (let s := slotted fun x => { x with fetchTags := [fetchTag 0], state := .late }
     awake s (coreTile 0) = true ∧ (getSlot s 0 0).fetchTags.find? (fun g => g.tag == 5 && g.left == 0) = some (fetchTag 0) ∧
     (getSlot s 0 0).toFetch = [] ∧ (getCore s 0).fetchQueue = [] ∧ (getSlot s 0 0).fetchTags.filter (fun g => g.tag != 5) = [] ∧
     (getSlot s 0 0).swapPending = false ∧ (getSlot s 0 0).ahead = false ∧ (getSlot s 0 0).state = .late ∧ (getSlot s 0 0).ended = false) ∧
    (let s := slotted fun x => { x with storeTags := [storeTag 0] }
     awake s (coreTile 0) = true ∧ (getSlot s 0 0).storeTags.find? (fun y => y.tag == 3 && y.left == 0) = some (storeTag 0) ∧
     (getSlot s 0 0).ended = false ∧ (getSlot s 0 0).outs = [] ∧ (getCore s 0).storeQueue = []) ∧
    (let s := slotted fun x => { x with storeTags := [storeTag 0], ended := true, state := .late }
     (getSlot s 0 0).storeTags = [storeTag 0] ∧ (getSlot s 0 0).outs = [] ∧ (getSlot s 0 0).adding = none ∧ (∀ e ∈ (getCore s 0).storeQueue, e.1 ≠ 0) ∧
     (getSlot s 0 0).ended = true ∧ (getSlot s 0 0).recordHeld = false ∧ (getSlot s 0 0).task = some copyTask) := by decide +kernel
theorem test_hyps_TagsSwapsAndFailures_swaps_and_failures :
    (let s := slotted fun x => { x with swapPending := true, state := .late }
     awake s (coreTile 0) = true ∧ clockStopped s 0 = false ∧ swapDue (getCore s 0) 0 = true ∧ (getSlot s 0 0).ended = false) ∧
    (let p : List (Nat × List Byte) := [(cmemBase 0, [7])]
     let s := slotted fun x => { x with swapPending := true, state := .late, ended := true, outs := [.store p] }
     swapDue (getCore s 0) 0 = true ∧ (getSlot s 0 0).ended = true ∧ (getSlot s 0 0).task = some copyTask ∧ (getSlot s 0 0).outs = [.store p] ∧
     (getSlot s 0 0).adding = none ∧ (getSlot s 0 0).storeTags = [] ∧ (getCore s 0).storeQueue = [] ∧
     freeTags (storeInUse (getCore s 0)) = 0 :: [1, 2, 3, 4, 5] ∧ resettingCore s 0 = false ∧
     (∀ e ∈ p, rangeOk s copyTask.ctx .write e.1 e.2.length = true)) ∧
    (let s := slotted fun x => { x with fetchTags := [fetchTag 1] }
     fetchesOver (getCore s 0) 0 = false ∧ (getSlot s 0 0).task = some copyTask ∧ (getSlot s 0 0).ended = false ∧ isCollective copyTask = false ∧
     (copyTask.op = some .reduce → (getSlot s 0 0).started = false) ∧ (getSlot s 0 0).storeTags = [] ∧ (∀ e ∈ (getCore s 0).storeQueue, e.1 ≠ 0)) ∧
    (let s := slotted fun x => { x with fetchTags := [fetchTag 1], storeTags := [storeTag 1] }
     fetchesOver (getCore s 0) 0 = false ∧ (getSlot s 0 0).storeTags ≠ []) := by decide +kernel

/-- A COMBINE of one token with one choice over rows of 32 FP32 elements. -/
def combineTask (bwd : Nat) : Task := task [(0x22, 0), (1, 8), (bwd, 15), (1, 18), (1, 32), (1, 256), (32, 260), (1, 285), (4096, 384), (8192, 448),
  (12288, 576), (16384, 640)]
/-- A dense GEMM of one row, K 32, one column of output. -/
def gemmTask : Task := task [(0x10, 0), (1, 8), (1, 18), (1, 32), (0x01, 256), (1, 384), (32, 408), (32, 432), (1, 456), (1, 465), (1, 469), (4096, 512), (8192, 576),
  (cmemBase 0, 704), (32, 896), (32, 928), (32, 960)]
theorem test_hyps_OperandsComeFirst :
    (let s := runs copyTask
     taskRow (.copy 0 0) = some (0, 0, .copy) ∧ runningTask s 0 0 .copy = some copyTask ∧ copyTask.bwd = bwdRow (.copy 0 0) copyTask ∧
     (getSlot s 0 0).joined = false ∧ (∀ r ∈ firstReads s 0 copyTask, rangeOk s copyTask.ctx .read r.1 r.2 = true) ∧
     (firstReads s 0 copyTask).filter (fun r => r.2 != 0 && !covered (startWork s 0 0 copyTask).got r.1 r.2) = [(4096, 64)] ∧
     (getSlot s 0 0).fetchTags = [] ∧ (getSlot s 0 0).toFetch = [] ∧ (getCore s 0).fetchQueue = [] ∧
     freeTags (fetchInUse (getCore s 0)) = 0 :: [1, 2, 3, 4, 5]) ∧
    (let t := combineTask 0
     let s := runs t
     taskRow (.combine 0 0) = some (0, 0, .combine) ∧ runningTask s 0 0 .combine = some t ∧ t.bwd = false ∧
     (∀ r ∈ firstReads s 0 t, rangeOk s t.ctx .read r.1 r.2 = true) ∧ 8 * coT t * coK t ≠ 0 ∧
     covered (startWork s 0 0 t).got (coPlace t) (8 * coT t * coK t) = false) ∧
    (let t := gemmTask
     let s := runs t
     let xs := gauntletSlices s 0 t (rowSource (startWork s 0 0 t).view 0 t)
     runningTask s 0 0 .gauntlet = some t ∧ metaWaits s 0 0 t = false ∧ gAsrc t ≠ 2 ∧ gM t ≠ 0 ∧ hasStage t 5 = false ∧ (getSlot s 0 0).status = stOk ∧
     (getSlot s 0 0).ahead = false ∧ (xs[(getSlot s 0 0).slice]?).isSome = true ∧
     (∀ l ∈ xs, ∀ x ∈ l, rangeOk s t.ctx .read x.addr x.extent = true) ∧ t.dbuf = false) := by decide +kernel

/-- Bytes of an operand store, by the device address they came from. -/
def cells (a : Nat) (bs : List Byte) : Tbl Byte := (bs.zipIdx.map fun e => (a + e.2, e.1)).filter fun e => e.2 != 0
/-- The sparse task's store holds its records, and a header that fits them or zeros. -/
def sparseState (h : Nat) : State :=
  let s := runs sparseTask
  setSlot s 0 0 { getSlot s 0 0 with compute := cells 8192 (bytesOf 32 h), got := [(8192, 34)] }
theorem test_hyps_SparseCheckPasses :
    (let s := sparseState (sparseHeader 1 1 true 1 32 8)
     runningTask s 0 0 .gauntlet = some sparseTask ∧ metaWaits s 0 0 sparseTask = true ∧
     (sparseCheck (startWork s 0 0 sparseTask) (sparseA sparseTask)).halted = false) ∧
    (let s := sparseState 0
     runningTask s 0 0 .gauntlet = some sparseTask ∧ metaWaits s 0 0 sparseTask = true ∧
     (rangeOk s sparseTask.ctx .read (gMeta sparseTask) 32 = true ∧ covered (getSlot s 0 0).got (gMeta sparseTask) 32 = true) ∧
     headerOk (sparseA sparseTask) (memNat (startWork s 0 0 sparseTask).view (gMeta sparseTask) 32) = false ∧ storesOut (getCore s 0) 0 = false ∧
     (getSlot s 0 0).spoilt = false) := by decide +kernel

/-- ROUTE of one token over two experts, forward and backward; DISPATCH's backward form and COMBINE over no token. -/
def routeTask (bwd : Nat) : Task := task [(0x20, 0), (1, 8), (bwd, 15), (1, 18), (1, 32), (1, 256), (2, 273), (1, 287), (4096, 384), (8192, 448), (12288, 576), (16384, 640)]
def gatherTask (tokens : Nat) : Task := task [(0x21, 0), (1, 8), (1, 15), (1, 18), (1, 32), (1, 336), (32, 344), (tokens, 365), (8192, 640), (4096, 704)]
def noTokens (bwd : Nat) : Task := task [(0x22, 0), (1, 8), (bwd, 15), (1, 18), (1, 32), (1, 256), (32, 260), (4096, 384), (8192, 448), (12288, 576), (16384, 640)]
/-- Stack 0's first 64 KiB and core 0's first 1 KiB stand in the store of a task. -/
def all64k (t : Task) : State := supplied t [(0, 65536), (cmemBase 0, 1024)]
theorem test_hyps_TasksEndWithTheirStores_route :
    (let t := routeTask 0
     let s := all64k t
     let v := (startWork s 0 0 t).view
     runningTask s 0 0 .route = some t ∧ t.bwd = false ∧ roBias t = 0 ∧ Supplied s 0 0 t (roZ t) (4 * roT t * roE t) ∧ putOut [(roOut t, routeBytes v t)] ≠ []) ∧
    (let t := routeTask 1
     let s := all64k t
     let v := (startWork s 0 0 t).view
     runningTask s 0 0 .route = some t ∧ t.bwd = true ∧ Supplied s 0 0 t (roZ t) (4 * roT t * roE t) ∧
     Supplied s 0 0 t (roOut t) (8 * roT t * roStride t) ∧ Supplied s 0 0 t (roDw t) (4 * roT t * roK t) ∧ putOut [(roDz t, routeBwdBytes v t)] ≠ []) := by
  unfold Supplied; decide +kernel
theorem test_hyps_TasksEndWithTheirStores_gather :
    (let t := gatherTask 1
     let s := all64k t
     let v := (startWork s 0 0 t).view
     runningTask s 0 0 .dispatch = some t ∧ t.bwd = true ∧ Supplied s 0 0 t (diPlace t) (8 * diT t * diK t) ∧
     (∀ i, i < diT t → ∀ a ∈ gatherPlaces t v i, Supplied s 0 0 t a (diRow t)) ∧
     (List.range (diT t)).flatMap (fun i => putOut [(diSrc t + i * diRow t, gatherRow t v i)]) ≠ []) ∧
    (let t := gatherTask 0
     let s := all64k t
     runningTask s 0 0 .dispatch = some t ∧ t.bwd = true ∧ diT t = 0 ∧ storesOut (getCore s 0) 0 = false ∧ rangeOk s t.ctx .read (diPlace t) 0 = true) := by
  unfold Supplied; decide +kernel
theorem test_hyps_TasksEndWithTheirStores_combine :
    (let t := combineTask 0
     let s := all64k t
     let v := (startWork s 0 0 t).view
     runningTask s 0 0 .combine = some t ∧ CombineSupplied s 0 0 t ∧ t.bwd = false ∧
     (List.range (coT t)).flatMap (fun i => putOut [(coY t + i * coYrow t, combineRow t (coStride v t) v i)]) ≠ []) ∧
    (let t := combineTask 1
     let s := all64k t
     let v := (startWork s 0 0 t).view
     runningTask s 0 0 .combine = some t ∧ CombineSupplied s 0 0 t ∧ t.bwd = true ∧
     (List.range (coT t)).flatMap (fun i => (scatterStores t (coStride v t) v i).flatMap fun e => putOut [e]) ≠ []) := by
  unfold CombineSupplied Supplied; dsimp only; and_intros <;> decide +kernel
theorem test_hyps_TasksEndWithTheirStores_no_tokens :
    (let t := noTokens 0
     let s := all64k t
     runningTask s 0 0 .combine = some t ∧ coT t = 0 ∧ t.bwd = false ∧ storesOut (getCore s 0) 0 = false ∧ rangeOk s t.ctx .read (diPlace t) 0 = true ∧
     CombineSupplied s 0 0 t) ∧
    (let t := noTokens 1
     let s := all64k t
     runningTask s 0 0 .combine = some t ∧ coT t = 0 ∧ t.bwd = true ∧ CombineSupplied s 0 0 t) := by
  unfold CombineSupplied Supplied; dsimp only; and_intros <;> decide +kernel
/-- A GAUNTLET over the rows of a directory entry that has none. -/
def directoryTask : Task := task (gauntletFields.filter (·.2 != 512) ++ [(2, 481), (cmemBase 0, 512)])
def directoryState : State :=
  let s := runs directoryTask
  setSlot s 0 0 { getSlot s 0 0 with compute := cells (cmemBase 0) (bytesOf 8 (2 ^ 48)), got := [(cmemBase 0, 64)] }
/-- The same with a SAVE for its only stage, and its area's header at 8192. -/
def saveTask : Task := task [(0x10, 0), (1, 8), (1, 18), (1, 32), (0x06, 256), (1, 384), (32, 408), (4096, 512), (32, 896), (32, 960), (8192, 1024)]
theorem test_hyps_TasksEndWithTheirStores_directory :
    (let t := directoryTask
     let s := directoryState
     runningTask s 0 0 .gauntlet = some t ∧ metaWaits s 0 0 t = false ∧ (readDirectory (startWork s 0 0 t)).halted = false ∧
     (rowSource (readDirectory (startWork s 0 0 t)).view 0 t).m = 0 ∧ gPalm t = false ∧ storesOut (getCore s 0) 0 = false) := by decide +kernel
theorem test_hyps_TasksEndWithTheirStores_stages :
    (∀ t ∈ [gauntletTask, palmTask, saveTask],
     let s := all64k t
     let src := rowSource (readDirectory (startWork s 0 0 t)).view 0 t
     runningTask s 0 0 .gauntlet = some t ∧ metaWaits s 0 0 t = false ∧ (readDirectory (startWork s 0 0 t)).halted = false ∧ src.m ≠ 0 ∧
     stageOf t 5 = none ∧ (getSlot s 0 0).status = stOk ∧ (getSlot s 0 0).ahead = false ∧
     (gauntletSlices s 0 t src).length ≤ (getSlot s 0 0).slice ∧ (runStages (startWork s 0 0 t) 0 src).w.halted = false) ∧
    (let w := startWork (all64k saveTask) 0 0 saveTask
     (lastStage saveTask).map (·.kind) = some 6 ∧ (runStages w 0 (rowSource (readDirectory w).view 0 saveTask)).w.outs ≠ []) ∧
    (let w := startWork (all64k gauntletTask) 0 0 gauntletTask
     let src := rowSource (readDirectory w).view 0 gauntletTask
     (lastStage gauntletTask).map (·.kind) = some 2 ∧ gPalm gauntletTask = false ∧ (gauntletStores src (runStages w 0 src)).outs ≠ []) ∧
    (let w := startWork (all64k palmTask) 0 0 palmTask
     gPalm palmTask = true ∧ (runStages w 0 (rowSource (readDirectory w).view 0 palmTask)).w.outs = []) := by decide +kernel
theorem test_hyps_TasksEndWithTheirStores_element :
    (let t := gauntletTask
     let s := all64k t
     let f := fmtD (gAfmt t)
     runningTask s 0 0 .gauntlet = some t ∧ gStages t = [{ idx := 0, word := 2 }] ∧ gAsrc t = 0 ∧ gPattern t = 0 ∧ gPalm t = false ∧ gM t ≠ 0 ∧
     (getSlot s 0 0).status = stOk ∧ (getSlot s 0 0).ahead = false ∧
     (gauntletSlices s 0 t (rowSource (startWork s 0 0 t).view 0 t)).length ≤ (getSlot s 0 0).slice ∧
     BlockSupplied s 0 0 t (rowBlock f (gA t) (gLda t) (gM t) 0 (inputWidth t)) ∧ f.isMx = false ∧
     putOut (rowStores (fmtD (gDfmt t)) t.saturate (gD t) (gLdd t) [List.replicate 32 0]) ≠ []) := by unfold BlockSupplied; decide +kernel

/-- copyTask's source has landed in the transfer region. -/
def landed : State := slotted fun x => { x with landed := [(4096, 64)], transfer := cells 4096 [1, 2, 3] }
/-- A context may write the bytes of a range that lies in one of its regions, piece by piece. -/
theorem test_hyps_CopyMovesBytes :
    runningTask landed 0 0 .copy = some copyTask ∧ 1 ≤ cpBytes copyTask ∧ cpDst copyTask + cpBytes copyTask ≤ 2 ^ 56 ∧
    rangeOk landed copyTask.ctx .read (cpSrc copyTask) (cpBytes copyTask) = true ∧
    covered (getSlot landed 0 0).landed (cpSrc copyTask) (cpBytes copyTask) = true ∧
    (∀ a n, cpDst copyTask ≤ a → a + n ≤ cpDst copyTask + cpBytes copyTask → rangeOk landed copyTask.ctx .write a n = true) ∧
    (getSlot landed 0 0).adding = none ∧ (getSlot landed 0 0).storeTags = [] ∧ (getCore landed 0).storeQueue = [] ∧
    freeTags (storeInUse (getCore landed 0)) = 0 :: [1, 2, 3, 4, 5] := by
  refine ⟨by decide +kernel, by decide +kernel, by decide +kernel, by decide +kernel, by decide +kernel, fun a n h1 h2 => ?_, by decide +kernel,
    by decide +kernel, by decide +kernel, by decide +kernel⟩
  have e : cpBytes copyTask = 64 := by decide +kernel
  have d : cpDst copyTask = cmemBase 0 := by decide +kernel
  rw [e, d] at h2
  rw [d] at h1
  have w : ∀ i, i < 65 → ∀ j, j < 65 - i → rangeOk landed copyTask.ctx .write (cmemBase 0 + i) j = true := by decide +kernel
  have := w (a - cmemBase 0) (by omega) n (by omega)
  rwa [Nat.add_sub_cancel' h1] at this
/-- A task of a collective with what it reads first. -/
def opens (t : Task) : State := mapped (supplied t (firstReads (mapped (runs t)) 0 t))
theorem test_hyps_CollectiveOpens :
    (∀ e ∈ [(attnTask, Op.attn), (attnBwdTask, Op.attn), (dispatchTask, Op.dispatch), (rotateTask, Op.rotate)],
     let t := e.1
     let s := opens t
     runningTask s 0 0 e.2 = some t ∧
     (∀ r ∈ firstReads s 0 t, rangeOk s t.ctx .read r.1 r.2 = true ∧ (r.2 = 0 ∨ covered (getSlot s 0 0).got r.1 r.2 = true)) ∧
     (getSlot s 0 0).joined = false ∧ isHole s (cornerTile (getPart s t.part)) = false ∧ findColl s t = none ∧ findEnded s t = none ∧
     (getPart s t.part).colls.length < 256 ∧ 1 < (collCores s t).length) ∧
    attnTask.bwd = false ∧ attnBwdTask.bwd = true ∧ dispatchTask.bwd = false ∧ summaryWrong (opens dispatchTask) 0 dispatchTask = false := by
  decide +kernel
set_option maxRecDepth 100000 in
/-- Core 0 stands at a round of a task of a ring of three; the ring's predecessor is core 2. -/
theorem test_hyps_AttentionRounds :
    (let s (r : Nat) := collective attnTask r
     let x := collOf attnTask 1
     (∀ r ∈ [0, 1, 2], runningTask (s r) 0 0 .attn = some attnTask ∧ findColl (s r) attnTask = some x ∧ (getSlot (s r) 0 0).round = r) ∧
     attnTask.bwd = false ∧ x.stage = 1 ∧ (collCores (s 0) attnTask).length = 3 ∧ (getSlot (s 0) 0 0).joined = true ∧
     (∀ r ∈ [1, 2], predecessorDone (s r) x (collCores (s r) attnTask) 0 (getSlot (s r) 0 0).head r = true ∧
       reachable (s r) (coreTile (predecessor (collCores (s r) attnTask) 0)) (coreTile 0) = true) ∧
     atH attnTask = 1) ∧
    (let s (r : Nat) := collective attnBwdTask r
     let x := collOf attnBwdTask 1
     (∀ r ∈ [0, 1, 2, 3], runningTask (s r) 0 0 .attn = some attnBwdTask ∧ findColl (s r) attnBwdTask = some x ∧ (getSlot (s r) 0 0).round = r) ∧
     attnBwdTask.bwd = true ∧ (collCores (s 0) attnBwdTask).length = 3 ∧ (getSlot (s 0) 0 0).joined = true ∧
     (∀ r ∈ [1, 2, 3], predecessorDone (s r) x (collCores (s r) attnBwdTask) 0 (getSlot (s r) 0 0).head r = true ∧
       reachable (s r) (coreTile (predecessor (collCores (s r) attnBwdTask) 0)) (coreTile 0) = true) ∧
     putOut (headStores attnBwdTask (atDk attnBwdTask) 0 (travelGet x attnBwdTask 0 (ringPos (collCores (s 3) attnBwdTask) 0)).1) ≠ []) := by decide +kernel
theorem test_hyps_RotateRounds :
    (let s (r : Nat) := collective rotateTask r
     let x := collOf rotateTask 1
     (∀ r ∈ [0, 1, 2, 3], runningTask (s r) 0 0 .rotate = some rotateTask ∧ findColl (s r) rotateTask = some x ∧ (getSlot (s r) 0 0).round = r) ∧
     x.stage = 1 ∧ (collCores (s 0) rotateTask).length = 3 ∧ (getSlot (s 0) 0 0).joined = true ∧ rtGrad rotateTask = false ∧
     (∀ r ∈ [1, 2, 3], predecessorDone (s r) x (collCores (s r) rotateTask) 0 (getSlot (s r) 0 0).head r = true ∧
       reachable (s r) (coreTile (predecessor (collCores (s r) rotateTask) 0)) (coreTile 0) = true)) := by decide +kernel
/-- Core 0's last round, with what its slot keeps and what has come round the ring. -/
def lastRound (t : Task) (round : Nat) (x : Coll) (keep : Slot → Slot) : State :=
  let s := collective t round
  let s := setPart s 1 { getPart s 1 with colls := [x] }
  setSlot s 0 0 (keep (getSlot s 0 0))
set_option maxRecDepth 100000 in
theorem test_hyps_AttentionRounds_last :
    (let t := attnTask
     let x := collOf t 1
     let s := lastRound t 2 x fun sl => { sl with acc := List.replicate 8192 0, rowMax := List.replicate 128 0, rowSum := List.replicate 128 0x3F800000 }
     let sl := getSlot s 0 0
     let cores := collCores s t
     let rows := forwardRound s.weala.generation t
       ((headRows (startWork s 0 0 t).view t (fmtD (atQk t)) (atQaddr t) sl.head).zip (positions (startWork s 0 0 t).view t (ringPos cores 0)))
       (blockKeys t []) (blockValues t []) (slotRows sl (atD t))
     runningTask s 0 0 .attn = some t ∧ findColl s t = some x ∧ tget [] x.blocks (sl.head * 256 + (ringPos cores 0 + 3 - 2) % 3) = [] ∧
     predecessorDone s x cores 0 sl.head sl.round = true ∧
     sl.outs ++ putOut (headStores t (atOaddr t) sl.head ((rows.map (softEnd s.weala.generation)).map (·.1)))
       ++ putOut [(atLse t + 4 * sl.head * atLen t, (rows.map (softEnd s.weala.generation)).flatMap fun e => bytesOf 4 e.2.toNat)] ≠ []) := by decide +kernel
theorem test_hyps_RotateRounds_last :
    (let t := rotateTask
     let x : Coll := { collOf t 1 with blocks := [(1, [List.replicate 32 0x3C])], travel := [(0, [0x3F800000, 0])] }
     let s (r : Nat) := lastRound t r x id
     (∀ r ∈ [2, 3], runningTask (s r) 0 0 .rotate = some t ∧ findColl (s r) t = some x ∧ predecessorDone (s r) x (collCores (s r) t) 0 0 r = true) ∧
     putOut (ySlices t 3 ((ringPos (collCores (s 2) t) 0 + 3 - 2) % 3 * rtN t) (rotateProduct (startWork (s 2) 0 0 t).view t (getSlot (s 2) 0 0) 3 1 (tget [] x.blocks 1))) ≠ [] ∧
     putOut [(cmemBase 0 + rtGacc t, pairsToBytes (wordPairs (tget [] x.travel (ringPos (collCores (s 3) t) 0))))] ≠ []) := by decide +kernel

/-- A map with one set of one expert on core 0, and cores 0 and 1 as participants. -/
def expertMap : List Byte := bytesOf 384 (fields [(1, 0), (1, 8), (2, 17), (1, 26), (1, 64 * 8 + 8), (1, 320 * 8), (1, 336 * 8 + 64)])
/-- DISPATCH of one token with one choice. -/
def placeTask : Task := task [(0x21, 0), (1, 8), (1, 18), (1, 32), (4, 306), (1, 330), (1, 336), (32, 344), (1, 361), (1, 365), (16, 416), (4096, 476),
  (8192, 512), (4096, 576), (8192, 640), (12288, 704)]
def placing (stage : Nat) : State :=
  let s := setPart (runs placeTask) 1 { getPart module 1 with map := expertMap, colls := [{ collOf placeTask stage with members := [(0, 0, placeTask), (1, 0, placeTask)] }] }
  ([0, 1] : List CoreNo).foldl (fun s c => setCore s c {
    current := some 0, lastRan := some 0, slots := [(0, { state := .late, task := some placeTask, joined := true })] }) s

theorem test_hyps_DispatchPhases_count :
    (let s := placing 1
     let x : Coll := { collOf placeTask 1 with members := [(0, 0, placeTask), (1, 0, placeTask)] }
     (getPart s 1).colls.find? (fun x => x.first.op == some .dispatch && x.key == collKey placeTask && x.stage == 1) = some x ∧ x.first.part = 1 ∧
     resettingPart s 1 = false ∧ lowestStatus (countReadFails s 1 x) = none ∧ lowestStatus (countFails s 1 x) = none) := by decide +kernel
theorem test_hyps_DispatchPhases_valid :
    (let s := placing 2
     let x : Coll := { collOf placeTask 2 with members := [(0, 0, placeTask), (1, 0, placeTask)] }
     (getSlot s 0 0).task = some placeTask ∧ placeTask.op = some .dispatch ∧ findColl s placeTask = some x ∧
     (x.members.any fun m => m.1 == 0 && m.2.1 == 0 && memberRuns s m) = true ∧
     (x.members.all fun m => !memberRuns s m || (step3Over s m && !storingInto s 0 m)) = true ∧
     rangeOk s placeTask.ctx .write (cmemBase 0 + diDirOff placeTask + 6) 1 = true ∧ (getSlot s 0 0).outs = [] ∧ (getSlot s 0 0).adding = none ∧
     (getSlot s 0 0).storeTags = [] ∧ (getCore s 0).storeQueue = [] ∧ freeTags (storeInUse (getCore s 0)) = 0 :: [1, 2, 3, 4, 5] ∧
     resettingCore s 0 = false) := by decide +kernel

/-! Witnesses: Palms. -/

def initTask : Task := task [(0x30, 0), (1, 32), (15, 256), (512, 288)]
def withQueue (busy : Bool) : State := setCore module 0 { palmBusy := busy, palmQueue := [initTask] }
theorem test_hyps_PalmsOpenAndTakeRows_init :
    ((getCore (withQueue false) 0).palmBusy = false ∧ resettingCore (withQueue false) 0 = false ∧ (getCore (withQueue false) 0).palmQueue = initTask :: [] ∧
     admissionFailure (palmInitFails (withQueue false) 0 initTask) = none ∧ stepWhen (getPart (withQueue false) initTask.part) initTask.step ≠ .next) ∧
    ((getCore (withQueue true) 0).palmBusy = true ∧ (getCore (withQueue true) 0).palmQueue = initTask :: [] ∧ initTask.sigMode = 0 ∧
     8 * piElements initTask % 64 = 0) := by decide +kernel
/-- A contribution of one row of 32 elements in sequence n to Palm 0, which is next at sequence m. -/
def contributes (n m : Nat) (broken : Bool) : Task × State :=
  let t := task (gauntletFields ++ [(12, 477), (n, 732)])
  (t, setPalm (setSlot (runs t) 0 0 { getSlot (runs t) 0 0 with started := true, outRows := [List.replicate 32 0], state := .late }) 0 0
    { isOpen := true, owner := 5, base := 4096, elements := 32, nextSeq := BitVec.ofNat 32 m, broken := broken })
theorem test_hyps_PalmsOpenAndTakeRows_contribution :
    (let t := (contributes 0 0 false).1
     let s := (contributes 0 0 false).2
     (getSlot s 0 0).task = some t ∧ t.op = some .gauntlet ∧ gPalm t = true ∧ (getSlot s 0 0).started = true ∧ (getSlot s 0 0).ended = false ∧
     storesOut (getCore s 0) 0 = false ∧ resettingCore s 0 = false ∧ (getSlot s 0 0).spoilt = false ∧ (getPalm s 0 (gPalmSlot t)).isOpen = true ∧ (getPalm s 0 (gPalmSlot t)).owner = t.ctx ∧
     gPalmSeq t = (getPalm s 0 (gPalmSlot t)).nextSeq ∧ (getSlot s 0 0).outRows = [List.replicate 32 0] ∧
     (let first := gPalmFirst t + (getSlot s 0 0).outRow0 * gLdd t
      first + 32 ≤ (getPalm s 0 (gPalmSlot t)).elements ∧
      rangePoisoned s (cmemBase 0 + (getPalm s 0 (gPalmSlot t)).base + 8 * first) (8 * 32) = false)) ∧
    seqBefore (gPalmSeq (contributes 0 1 false).1) (getPalm (contributes 0 1 false).2 0 0).nextSeq = true ∧
    (gPalmSeq (contributes (2 ^ 31 - 1) 0 false).1 ≠ 0 ∧ seqBefore (gPalmSeq (contributes (2 ^ 31 - 1) 0 false).1) 0 = false) ∧
    (getPalm (contributes 0 0 true).2 0 0).broken = true := by decide +kernel
def reduceTask (n : Nat) : Task := task [(0x31, 0), (1, 18), (1, 32), (4608, 284), (n, 320)]
def reducing (n m : Nat) : State :=
  setPalm (mapped (runs (reduceTask n))) 0 0 { isOpen := true, owner := 5, base := 4096, elements := 4608, nextSeq := BitVec.ofNat 32 m }
theorem test_hyps_ReduceSends :
    (let t := reduceTask 0
     let s := reducing 0 0
     runningTask s 0 0 .reduce = some t ∧ (getSlot s 0 0).started = false ∧ (getPalm s 0 (rePalm t)).isOpen = true ∧
     (getPalm s 0 (rePalm t)).owner = t.ctx ∧ (getPalm s 0 (rePalm t)).broken = false ∧ (getSlot s 0 0).sent = 0 ∧ (getSlot s 0 0).outstanding = 0 ∧
     1 ≤ reCount t ∧ reChunks t = 9 ∧ reSeq t = (getPalm s 0 (rePalm t)).nextSeq ∧ storesOut (getCore s 0) 0 = false) ∧
    seqBefore (reSeq (reduceTask 0)) (getPalm (reducing 0 1) 0 0).nextSeq = true ∧
    (reSeq (reduceTask 1) ≠ (getPalm (reducing 1 0) 0 0).nextSeq ∧ seqBefore (reSeq (reduceTask 1)) (getPalm (reducing 1 0) 0 0).nextSeq = false) := by
  decide +kernel

/-! Witnesses: the fabric. -/

theorem test_hyps_FabricRegistersAndLinks :
    (bar0Open module 0 false = true ∧ tlAnswers module (coreTile 255) = true ∧ linkUsable module 0 0 = true ∧
     { module with escapeLoading := true }.escapeLoading = true ∧ pairOk (mkPair 1) = true ∧ pairVal (mkPair 1) = 1 ∧
     (∀ e ∈ module.parts, pairOk e.2.quietShadow = true)) ∧
    (let s := setLink module 0 0 { failedReplays := 16 }
     (getLink s 0 0).down = false ∧ 16 ≤ (getLink s 0 0).failedReplays) ∧
    (let s := setLink module 0 1 { replayTimes := List.replicate 1025 0 }
     (getLink s 0 1).down = false ∧ 1024 < (getLink s 0 1).replayTimes.length) ∧ { module with quietDue := true }.quietDue = true ∧
    (let users : List PartNo := [0, 31, 63]
     users.Nodup ∧ 1 ≤ users.length ∧ users.length ≤ 32) := by decide +kernel
/-- One packet is in the mesh, at tile 0 on its way to tile 63. -/
def crossing : Packet := { packet 0 0 63 8 0 [] with here := 0 }
def escaping : Packet := { crossing with cls := 5 }
/-- With nothing else at the far router there is room for any packet. -/
theorem room_of_empty (s : State) (p : Packet) (d : Fin 4) (u : TileNo) (h : ∀ x ∈ s.packets, x.here ≠ u) (hf : (getLink s p.here d).frame = [])
    (hp : p.payload.length ≤ 4096) : bufferRoom s p d u = true := by
  have e : ∀ g : Packet → Bool, s.packets.filter (fun x => x.here == u && g x) = [] := fun g =>
    List.filter_eq_nil_iff.mpr fun x hx => by simp [h x hx]
  simp only [bufferRoom, bufferShare, packetBytes, hf, List.isEmpty_nil, if_true, Bool.and_assoc, e, decide_eq_true_eq, List.map_nil, List.sum_nil]
  omega
theorem test_hyps_PacketsTakeDimensionOrder :
    (∀ p ∈ [packet 13 0 63 8 0 [], packet 0 6 63 8 0 [], packet 0 0 63 15 0 [], { packet 0 0 63 8 0 [] with srcUnit := 15 }],
     { module with packets := [p] }.packets[0]? = some p ∧ (12 < p.typ.toNat ∨ 5 < p.cls.toNat ∨ p.dstUnit = 0xF ∨ p.srcUnit = 0xF)) ∧
    (badPacket crossing = false ∧ firstOfFlow { module with packets := [crossing, crossing] } 1 crossing = false) ∧
    (let s := { module with packets := [crossing] }
     firstOfFlow s 0 crossing = true ∧ crossing.here ≠ crossing.dstTile ∧ dimOrder crossing.here crossing.dstTile = some 0 ∧ crossing.cls ≠ 5 ∧
     neighbour crossing.here 0 = some 1 ∧ hopUsable s crossing.here 0 = true ∧ slotAllows s (getLink s crossing.here 0) crossing 0 = true ∧
     bufferRoom s crossing 0 1 = true) ∧
    (let s := setPart (setLink { module with packets := [crossing] } 0 0 { frame := List.replicate 32 3 }) 2 { quietTables := true }
     hopUsable s crossing.here 0 = true ∧ slotAllows s (getLink s crossing.here 0) crossing 0 = false) := by
  and_intros <;> first | decide +kernel | exact room_of_empty _ _ _ _ (by decide +kernel) (by decide +kernel) (by decide +kernel)
theorem test_hyps_PacketsTakeDimensionOrder_escape :
    (let s := setLink { module with packets := [crossing] } 0 0 { down := true }
     badPacket crossing = false ∧ firstOfFlow s 0 crossing = true ∧ dimOrder crossing.here crossing.dstTile = some 0 ∧
     hopUsable s crossing.here 0 = false ∧ s.escapeLoading = false ∧ { s with escapeLoading := true }.escapeLoading = true) ∧
    (let s := { module with packets := [escaping] }
     badPacket escaping = false ∧ firstOfFlow s 0 escaping = true ∧ escaping.here ≠ escaping.dstTile ∧ escaping.cls = 5 ∧
     escapeNext s escaping.here escaping.dstTile escaping.descended = none) ∧
    (let s := { module with packets := [escaping], escape := [(63 * 2, 2)] }
     escapeNext s escaping.here escaping.dstTile escaping.descended = some 1 ∧ directionTo escaping.here 1 = some 0 ∧
     slotAllows s (getLink s escaping.here 0) escaping 0 = true ∧ bufferRoom s escaping 0 1 = true) := by
  and_intros <;> first | decide +kernel | exact room_of_empty _ _ _ _ (by decide +kernel) (by decide +kernel) (by decide +kernel)
theorem test_hyps_RoutersRefuse :
    (let p := packet 0 0 0 8 4096 []
     let busy := { module with packets := List.replicate 256 { packet 2 1 9 0 0 [] with srcTile := 0, srcUnit := 8, here := 0 } }
     packetRow (.rdReq p .clean) = some p ∧ packetRoom (.rdReq p .clean) busy p = false ∧
     (let q := { p with here := 1 }
      atHand { module with packets := [q] } q = false) ∧
     packetRoom (.rdReq p .clean) linked p = true ∧ atHand linked p = true ∧ badPacket p = false ∧ ownerOk linked p = false ∧ ownerOk module p = true) ∧
    (∀ p ∈ [packet 13 0 0 8 0 [], packet 0 6 0 8 0 [], packet 0 0 0 15 0 [], { packet 0 0 0 8 0 [] with srcUnit := 15 }],
     packetRoom (.rdReq p .clean) module p = true ∧ atHand module p = true ∧
     (12 < p.typ.toNat ∨ 5 < p.cls.toNat ∨ p.dstUnit = 0xF ∨ p.srcUnit = 0xF)) ∧
    (let p := packet 0 0 0 0 0 []
     let s := { module with resets := [{ level := 2, target := 1, step := 1, immediate := false }] }
     packetRoom (.rdReq p .clean) s p = true ∧ atHand s p = true ∧ badPacket p = false ∧ ownerOk s p = true ∧ absorbs s p = true) := by decide +kernel

theorem test_hyps_ServesReadsWritesAndAdds_reads :
    (let p := { packet 0 0 0 8 4096 [] with length := 64 }
     Delivered module p ∧ controllerRoom module p = true ∧ serveRefusal module p .read p.length.toNat = none ∧
     rangePoisoned module p.addr.toNat p.length.toNat = false ∧ regionOf p.addr.toNat = some (.stack 0) ∧
     linePoison module (p.addr.toNat / 64) = false ∧
     (let s := { module with poison := [(64, true)] }
      Delivered s p ∧ controllerRoom s p = true ∧ serveRefusal s p .read p.length.toNat = none ∧ rangePoisoned s p.addr.toNat p.length.toNat = true)) ∧
    (let p := { packet 0 0 0 8 (BitVec.ofNat 56 stackMapped) [] with length := 64 }
     Delivered module p ∧ controllerRoom module p = true ∧ serveRefusal module p .read p.length.toNat = some 7 ∧
     serveRefusal module p .write p.length.toNat = some 7) := by unfold Delivered; decide +kernel
theorem test_hyps_ServesReadsWritesAndAdds_writes_and_adds :
    (let p := packet 1 1 0 8 (BitVec.ofNat 56 (stackMapped - 1)) [1]
     Delivered module p ∧ controllerRoom module p = true ∧ serveRefusal module p .write p.length.toNat = none ∧
     p.payload.length = p.length.toNat ∧ rangePoisoned module p.addr.toNat p.length.toNat = false) ∧
    (let p := packet 12 1 0 8 (BitVec.ofNat 56 (stackMapped - 8)) (bytesOf 16 1)
     Delivered module p ∧ controllerRoom module p = true ∧ p.addr.toNat % 8 = 0 ∧
     regionOf p.addr.toNat = some (.stack 0) ∧ serveRefusal module p .add 8 = none ∧ rangePoisoned module p.addr.toNat 8 = false) := by
  unfold Delivered; decide +kernel
theorem test_hyps_ResponsesAndCopiesLand_tags :
    (let s := slotted fun x => { x with fetchTags := [fetchTag 1], storeTags := [storeTag 1] }
     let p := { packet 2 1 0 0 0 [1] with tag := 5 }
     let q := { packet 3 1 0 0 0 [] with tag := 131 }
     Delivered s p ∧ Delivered s q ∧ p.tag.toNat < 192 ∧ unitCore p.dstTile p.dstUnit = some 0 ∧
     slotOfFetch (getCore s 0) p.tag.toNat = some 0 ∧ (getSlot s 0 0).fetchTags.find? (fun g => g.tag == p.tag.toNat) = some (fetchTag 1) ∧
     slotOfStore (getCore s 0) (q.tag.toNat - 128) = some 0 ∧ (getSlot s 0 0).ended = false ∧
     p.tag.toNat < 64 ∧ (getSlot s 0 0).task = some copyTask ∧ isCollective copyTask = false ∧ copyTask.op ≠ some .reduce ∧
     (getSlot s 0 0).storeTags ≠ [] ∧
     storesOut (getCore (slotted fun x => { x with fetchTags := [fetchTag 1] }) 0) 0 = false) := by unfold Delivered; decide +kernel
/-- The first frame of an area of 16 units that asks for its place. -/
def waitingFrame : Frame := { alloc := 2 ^ 22, limit := 16, data := 2 ^ 23, index := 2 ^ 24, number := 0, enc := 0, fmt := 1, count := 1024, bytes := List.replicate 2048 0 }
theorem test_hyps_ResponsesAndCopiesLand_frame :
    (let s := slotted fun x => { x with adding := some waitingFrame, outsReady := true, ended := true, state := .late }
     let p := { packet 5 1 0 0 0 (bytesOf 8 15) with tag := 192 }
     Delivered s p ∧ unitCore p.dstTile p.dstUnit = some 0 ∧ p.tag = 192 + BitVec.ofNat 8 (0 : SlotNo).val ∧ (getSlot s 0 0).task = some copyTask ∧
     (getSlot s 0 0).adding = some waitingFrame ∧ natOfBytes (p.payload.take 8) + waitingFrame.units ≤ waitingFrame.limit ∧ (getSlot s 0 0).outs = [] ∧
     (getSlot s 0 0).outsReady = true ∧ (getSlot s 0 0).storeTags = [] ∧ (getCore s 0).storeQueue = [] ∧
     freeTags (storeInUse (getCore s 0)) = 0 :: 1 :: [2, 3, 4, 5] ∧ resettingCore s 0 = false ∧ 1 ≤ waitingFrame.bytes.length ∧
     waitingFrame.bytes.length ≤ 2 ^ 22 ∧ rangeOk s copyTask.ctx .write (waitingFrame.data + 15 * 2048) waitingFrame.bytes.length = true ∧
     rangeOk s copyTask.ctx .write waitingFrame.entryAt 16 = true) := by unfold Delivered; decide +kernel
/-- A chunk of one pair for tree 0: at stack 0's Cuff, and at node 0 of tile 0 in either role. -/
def rootChunk : Packet := packet 6 2 0 8 0 (bytesOf 8 1)
def nodeChunk (role : Bool) : Packet := { packet 6 2 0 0xC 0 (bytesOf 8 1) with role := role }
theorem test_hyps_ResponsesAndCopiesLand_roots_and_credits :
    (let s := mapped module
     Delivered s rootChunk ∧ chunkRoom s rootChunk = true ∧ rootChunk.dstUnit ≠ 0xC ∧
     rootOf rootChunk = some 0 ∧ (getCuff s 0).discarded.contains rootChunk.tree = false ∧
     (getCuff s 0).roots.find? (fun b => b.tree == rootChunk.tree) = none ∧ (getCuff s 0).roots.length < 32 ∧
     (let u := setCuff s 0 { roots := [{ tree := 0, chunks := [] }] }
      Delivered u rootChunk ∧ chunkRoom u rootChunk = true ∧
      ((getCuff u 0).roots.find? fun b => b.tree == rootChunk.tree) = some { tree := 0, chunks := [] })) ∧
    (let t := reduceTask 0
     let p := { packet 7 1 0 0 0 [] with tag := 64 }
     let s (n : Nat) := setSlot (reducing 0 0) 0 0 { getSlot (reducing 0 0) 0 0 with started := true, sent := 9, outstanding := n, state := .late }
     Delivered (s 1) p ∧ Delivered (s 2) p ∧ unitCore p.dstTile p.dstUnit = some 0 ∧ (Fin.ofNat 4 (p.tag.toNat - 64) : SlotNo) = 0 ∧
     (getSlot (s 1) 0 0).task = some t ∧ t.op = some .reduce ∧ (getSlot (s 1) 0 0).started = true ∧ (getSlot (s 1) 0 0).ended = false ∧
     resettingCore (s 1) 0 = false ∧ (getSlot (s 1) 0 0).sent = reChunks t ∧ storesOut (getCore (s 1) 0) 0 = false ∧
     (getSlot (s 1) 0 0).outstanding = 1 ∧ 1 < (getSlot (s 2) 0 0).outstanding) := by unfold Delivered; decide +kernel
theorem test_hyps_ResponsesAndCopiesLand_broadcast :
    (let p := { packet 8 3 1 0 0 [7] with srcTile := 0 }
     let r : StreamRun := { task := copyTask, group := 0, remaining := 2, status := 0 }
     let s := setTile (mapped module) 0 { getTile module 0 with station := { running := some r } }
     Delivered s p ∧
     (groupSlots (getPart s (Fin.ofNat 64 p.partition.toNat)).map p.tree.toNat).filter (fun sl => coreTile sl.1 == p.dstTile) = [(4, 0)] ∧
     resettingCore s 4 = false ∧ cmemMapped s p.dstTile (Fin.ofNat 4 (coreCluster 4)) = true ∧ (getTile s p.srcTile).station.running = some r ∧
     p.payload.length < r.remaining ∧ rangePoisoned s (cmemBase 4 + 0 + p.offset.toNat) p.payload.length = false) := by
  unfold Delivered; decide +kernel
theorem test_hyps_ReductionNodes :
    (let s := mapped module
     let p := nodeChunk false
     let m := (getPart s (Fin.ofNat 64 p.partition.toNat)).map
     Delivered s p ∧ chunkRoom s p = true ∧ p.dstUnit = 0xC ∧ nodeSlotAt m p.dstTile p.node.toNat = some 0 ∧ (getNode s p.dstTile 0).stopped = false ∧
     ndPass (nodeEntry m p.node.toNat) = false ∧ (getNode s p.dstTile 0).a = [] ∧ (getNode s p.dstTile 0).b = []) ∧
    (let q := nodeChunk true
     let s := setNode (mapped module) 0 0 { b := [q], outstanding := 7 }
     let p := nodeChunk false
     Delivered s p ∧ chunkRoom s p = true ∧ p.role = false ∧ (getNode s 0 0).a = [] ∧ (getNode s 0 0).b = [q] ∧ p.offset = q.offset ∧ p.length = q.length ∧
     (getNode s 0 0).outstanding < 8) ∧
    (let s := setNode (mapped module) 0 0 { b := [nodeChunk true], outstanding := 8 }
     Delivered s (nodeChunk false) ∧ chunkRoom s (nodeChunk false) = true ∧ 8 ≤ (getNode s 0 0).outstanding) ∧
    (let s := setNode (mapped module) 0 0 { stopped := true }
     Delivered s (nodeChunk false) ∧ chunkRoom s (nodeChunk false) = true ∧ (getNode s 0 0).stopped = true) ∧
    (let s := setNode (mapped module) 0 15 { a := [nodeChunk false] }
     (getNode s 0 15).stopped = false ∧ (getNode s 0 15).a = nodeChunk false :: [] ∧ (getNode s 0 15).b = []) ∧
    (let s := setNode (mapped module) 0 15 { b := [nodeChunk true] }
     (getNode s 0 15).stopped = false ∧ (getNode s 0 15).a = [] ∧ (getNode s 0 15).b = nodeChunk true :: []) := by unfold Delivered; decide +kernel
/-- A node that passes its one child's chunks on: tree 0's, with PASS set. -/
def passing (s : State) : State :=
  setPart s 1 { getPart s 1 with map := mapBytes.set 832 1 }
theorem test_hyps_ReductionNodes_pass_and_credit :
    (let s := passing (mapped module)
     let p := nodeChunk false
     let m := (getPart s (Fin.ofNat 64 p.partition.toNat)).map
     Delivered s p ∧ chunkRoom s p = true ∧ p.dstUnit = 0xC ∧ nodeSlotAt m p.dstTile p.node.toNat = some 0 ∧ (getNode s p.dstTile 0).stopped = false ∧
     ndPass (nodeEntry m p.node.toNat) = true ∧ p.role = false ∧ (getNode s 0 0).a = [] ∧ (getNode s 0 0).b = [] ∧ (getNode s 0 0).outstanding < 8) ∧
    (let p := packet 7 1 0 0xC 0 []
     let s := setNode (mapped module) 0 0 { outstanding := 8 }
     Delivered s p ∧ p.dstUnit = 0xC ∧ (getNode s p.dstTile p.tag.toNat).stopped = false ∧ (getNode s p.dstTile p.tag.toNat).a = []) ∧
    (let p := packet 7 1 0 0xC 0 []
     let y := nodeChunk false
     let q := nodeChunk true
     let s := setNode (mapped module) 0 0 { a := [y], b := [q], outstanding := 8 }
     let m := (getPart s (Fin.ofNat 64 p.partition.toNat)).map
     Delivered s p ∧ (getNode s p.dstTile p.tag.toNat).a = [y] ∧ (getNode s p.dstTile p.tag.toNat).b = [q] ∧ y.offset = q.offset ∧ y.length = q.length ∧
     (getNode s p.dstTile p.tag.toNat).outstanding = 8 ∧ resettingPart s (Fin.ofNat 64 p.partition.toNat) = false ∧
     nodeInSlot m p.dstTile p.tag.toNat = some 0 ∧ ndPass (nodeEntry m 0) = false) := by unfold Delivered; decide +kernel

/-! Witnesses: phases, steps and the Brim. -/

/-- A map of one participant, with its complement and its CRC. -/
def newMap : List Byte :=
  let h := fields [(1, 0), (1, 8), (1, 17), (320, 96), (3094524304, 128)]
  bytesOf 320 (h + (2 ^ 256 - 1 - h) * 2 ^ 256)
def phaseTask (gen : Nat) : Task := task [(0x28, 0), (4, 32), (gen, 40), (4096, 256), (2 ^ 32, 320)]
/-- The coordinator holds a PHASE for the map at 4096; the map area is tile 2's first. -/
def phasing (gen : Nat) : State :=
  setPart (writeMem module 4096 newMap).1 1 { getPart module 1 with coord := [phaseTask gen], mapArea := 0x4002 }
theorem test_hyps_PhasesAndSteps_phase :
    (let s := phasing 2
     let t := phaseTask 2
     let v := setPart s 1 { getPart s 1 with coord := (getPart s 1).coord.filter fun u => !sameTask u t }
     (getPart s 1).phases = [] ∧ resettingPart s 1 = false ∧ (getPart s 1).coord.find? (fun t => t.op == some .phase) = some t ∧
     admissionFailure (phaseFails s t) = none ∧ stepWhen (getPart s 1) t.step ≠ .next ∧ phaseGenOk (getPart s 1) t.mapGen = true ∧
     mapAreaUsable v 1 (getPart s 1).mapArea = true ∧ readMap v 1 t = some newMap ∧
     serveStatus v (cornerTile (getPart s 1)) false (pendingHalf (getPart s 1)) newMap.length = none ∧
     rangePoisoned s (pendingHalf (getPart s 1)) newMap.length = false) ∧
    phaseGenOk (getPart (phasing 3) 1) (phaseTask 3).mapGen = false := by decide +kernel
def pendingPhase (step : Nat) (lost : Bool) : State :=
  let s := setPart module 1 { getPart module 1 with phases := [{ task := phaseTask 2, step := step, map := newMap, lost := lost }], drainMark := true }
  { s with tb := { s.tb with now := if step = 5 then 2 ^ 32 else 2 ^ 32 - 4 } }
theorem test_hyps_PhasesAndSteps_switch :
    ((getPart (pendingPhase 4 false) 1).phases = { task := phaseTask 2, step := 4, map := newMap } :: [] ∧ resettingPart (pendingPhase 4 false) 1 = false ∧
     oldGenerationDone (pendingPhase 4 false) 1 = true ∧ (now (pendingPhase 4 false)).toNat < phNotBefore (phaseTask 2)) ∧
    ((getPart (pendingPhase 5 false) 1).phases = { task := phaseTask 2, step := 5, map := newMap } :: [] ∧
     phNotBefore (phaseTask 2) ≤ (now (pendingPhase 5 false)).toNat ∧ checkCores (pendingPhase 5 false) 1 newMap = true ∧
     checkTrees (pendingPhase 5 false) 1 newMap = true) ∧
    (getPart (pendingPhase 5 true) 1).phases = { task := phaseTask 2, step := 5, map := newMap, lost := true } :: [] := by decide +kernel
def closeTask (n : Nat) : Task := task [(0x29, 0), (4, 32), (n, 64), (4096, 256)]
theorem test_hyps_PhasesAndSteps_steps :
    (let s (n : Nat) := setPart module 1 { getPart module 1 with coord := [closeTask n] }
     resettingPart (s 0) 1 = false ∧ (getPart (s 0) 1).coord.find? (fun t => t.op == some .stepClose) = some (closeTask 0) ∧
     admissionFailure (stepCloseFails (s 0) (closeTask 0)) = none ∧ (admissionFailure (stepCloseFails (s 1) (closeTask 1))).isSome = true) ∧
    (let s := setPart module 1 { getPart module 1 with closing := some (closeTask 0) }
     (getPart s 1).closing = some (closeTask 0) ∧ stepDone s 1 = true ∧ resettingPart s 1 = false ∧ (∀ e ∈ s.rings, e.2.sendQueue = []) ∧
     (closeTask 0).sigMode = 0 ∧ scAddr (closeTask 0) ≠ 0 ∧ transferStatus s (cornerTile (getPart s 1)) 5 .write (scAddr (closeTask 0)) 32 = none ∧
     rangePoisoned s (scAddr (closeTask 0)) 32 = false) := by decide +kernel
def streamTask (gen : Nat) : Task := task [(0x23, 0), (3, 32), (gen, 40), (1, 256), (1, 288), (4096, 384)]
theorem test_hyps_StreamsAndBursts_stream :
    (let s := setTile (mapped module) 0 { getTile module 0 with station := { inbox := [streamTask 1] } }
     (getTile s 0).station.inbox = streamTask 1 :: [] ∧ genWhen (getPart s 1) (streamTask 1).mapGen false ≠ .hold ∧
     admissionFailure (genFails (genWhen (getPart s 1) (streamTask 1).mapGen false) ++ streamFails s 0 (streamTask 1)) = none ∧
     stepWhen (getPart s 1) (streamTask 1).step ≠ .next ∧ (getTile s 0).station.queue.length < 64 ∧
     genWhen (getPart s 1) (streamTask 2).mapGen false = .hold ∧ (getTile s 0).station.held.length < 16) ∧
    (let t := streamTask 1
     let s := setTile (mapped module) 0 { getTile module 0 with station := { queue := [t] } }
     let v := setTile s 0 { getTile s 0 with station := { (getTile s 0).station with queue := [] } }
     (getTile s 0).station.running = none ∧ resettingPart s t.part = false ∧ (streamGroup v 0 t).toOption = some 0 ∧
     admissionFailure (streamRanges v t 0) = none ∧ 1 ≤ stBytes t) := by decide +kernel
theorem test_hyps_StreamsAndBursts_read :
    (let t := streamTask 1
     let x : StationRead := { tag := 0, offset := 0, len := 2048 }
     let r : StreamRun := { task := t, group := 0, remaining := 2048, status := 0, asked := 2048, reads := [x] }
     let s := setTile (mapped module) 0 { getTile module 0 with station := { running := some r } }
     let p := packet 2 3 0 0xE 0 (List.replicate 2048 7)
     Delivered s p ∧ p.dstUnit = 0xE ∧ (getTile s 0).station.running = some r ∧ r.reads = [x] ∧ x.data = none ∧ x.tag = p.tag.toNat ∧ r.stopped = false ∧
     r.remaining ≠ 0 ∧ resettingPart s t.part = false ∧ r.asked = stBytes t ∧ r.sent < stBytes t ∧ stBytes t - r.sent ≤ 16384 ∧
     (r.buffer ++ p.payload).length = stBytes t - r.sent ∧ (groupTiles (getPart s t.part).map r.group).contains 0 = false ∧
     (∀ d ∈ burstWays s t.part (groupTiles (getPart s t.part).map r.group) 0 none, (segment s t.part 0 d).isSome = true)) := by
  unfold Delivered; decide +kernel
theorem test_hyps_StreamsAndBursts_hop :
    (let b : Burst := { srcTile := 0, partition := 1, group := 0, seq := 0, last := true, poison := false, offset := 0, data := [1], here := 0, heading := 0 }
     let s := { mapped module with bursts := [b] }
     s.bursts[0]? = some b ∧ segment s b.partition b.here b.heading = some 1 ∧
     (∀ x ∈ s.bursts.take 0, ¬ (x.here = b.here ∧ x.heading = b.heading ∧ x.srcTile = b.srcTile ∧ x.group = b.group)) ∧
     (∀ x ∈ s.bursts, ¬ (x.here = 1 ∧ x.via = some b.heading)) ∧
     (∀ x ∈ s.bursts, ¬ (x.here = 1 ∧ x.heading = opposite b.heading ∧ x.srcTile ≠ b.srcTile)) ∧
     (∀ d ∈ burstWays s b.partition (groupTiles (getPart s b.partition).map b.group.toNat) 1 (some b.heading), (segment s b.partition 1 d).isSome = true)) ∧
    (let b : Burst := { srcTile := 7, partition := 1, group := 0, seq := 0, last := true, poison := false, offset := 0, data := [1], here := 1, heading := 2 }
     let x : Burst := { b with srcTile := 0, here := 0, heading := 0 }
     let s := { mapped module with bursts := [b, x] }
     s.bursts[0]? = some b ∧ segment s b.partition b.here b.heading = some 0 ∧ (∀ x ∈ s.bursts, ¬ (x.here = 0 ∧ x.via = some b.heading)) ∧ b.lost = false ∧
     (∀ x ∈ facing s 0 b, x.lost = false) ∧ (∃ x ∈ facing s 0 b, x.srcTile.val < b.srcTile.val)) := by decide +kernel
set_option maxRecDepth 100000 in
theorem test_hyps_PhasesAndSteps_map : mapChecks (phasing 2) 1 newMap = true := by decide +kernel

/-! Witnesses: Cuffs and their memory. -/

/-- An UPDATE of 1,024 records from tree 0, APPLY or PARK; a DRAIN and a PROMOTE. -/
def updateTask (park : Nat) : Task := task [(0x32, 0), (1, 8), (2, 32), (1, 40), (park, 256), (1024, 273), (2 ^ 24, 384)]
def drainTask : Task := task [(0x34, 0), (1, 8), (2, 32), (4, 273), (2 ^ 24, 384), (2 ^ 25, 896)]
def promoteTask : Task := task [(0x33, 0), (1, 8), (2, 32), (4, 273), (2 ^ 24, 384), (portBase 0, 960)]
def cuffState (t : Task) : State :=
  let s := setXp (mapped module) 0 { linkUp := true, capacity := 1 }
  let s := setCtx s 5 { getCtx s 5 with ranges := tput 0 (getCtx s 5).ranges 3 (range (portBase 0) (portBase 0 + 2 ^ 46 - 1)) }
  setCuff s 0 { inbox := [t] }
theorem test_hyps_CuffsAdmitAndTimeOut_update :
    (let t := updateTask 0
     let s := cuffState t
     (getCuff s 0).inbox = t :: [] ∧ t.op = some .update ∧ uPark t = false ∧ genWhen (getPart s t.part) t.mapGen t.afterMark ≠ .hold ∧
     admissionFailure (genFails (genWhen (getPart s t.part) t.mapGen t.afterMark) ++ updateFails s 0 t ++
       need (!((opCuffs 0 t).any fun m => overlapsAt s m (rangesAt (opRanges 0 t) m))) stOverlap 48) = none ∧
     stepWhen (getPart s t.part) t.step ≠ .next ∧ (∀ m ∈ opCuffs 0 t, (getCuff s m).queue.length < 16)) ∧
    (let t := updateTask 1
     uPark t = true ∧ admissionFailure (updateFails (cuffState t) 0 t) = none) ∧
    (let t := updateTask 0
     (admissionFailure (updateFails (cuffState t) 39 t)).isSome = true) := by decide +kernel
theorem test_hyps_CuffsAdmitAndTimeOut_moves :
    (let t := promoteTask
     let s := cuffState t
     (getCuff s 0).inbox = t :: [] ∧ t.op = some .promote ∧ admissionFailure (moveFails s 0 t) = none ∧ stepWhen (getPart s t.part) t.step ≠ .next ∧
     opCuffs 0 t = [0, 32] ∧ (∀ m ∈ opCuffs 0 t, (getCuff s m).queue.length < 16) ∧
     ((opCuffs 0 t).any fun m => overlapsAt s m (rangesAt (opRanges 0 t) m)) = false) ∧
    (let t := drainTask
     t.op = some .drain ∧ admissionFailure (moveFails (cuffState t) 0 t) = none) := by decide +kernel
theorem test_hyps_CuffsAdmitAndTimeOut_start_and_timeout :
    (let o : CuffOp := { task := updateTask 0 }
     let s := setCuff (mapped module) 0 { queue := [o] }
     (getCuff s 0).queue = o :: [] ∧ (getCuff s 0).active.length < 4 ∧ resettingPart s o.task.part = false ∧
     (getCuff s 0).discarded.contains (BitVec.ofNat 16 (uTree o.task)) = false ∧
     regionMaps s (cuffRegion 0) (uBase o.task) (16 * uRecords o.task) = true) ∧
    (let s := setCuff module 39 { roots := [{ tree := 0xFFF, chunks := [rootChunk] }] }
     (∃ b ∈ (getCuff s 39).roots, b.tree = 0xFFF) ∧ treeMatched (getCuff s 39) 0xFFF = false) ∧
    (let o : CuffOp := { task := updateTask 0 }
     let s := setCuff module 0 { active := [o] }
     (getCuff s 0).roots = [] ∧ (getCuff s 0).active = [o] ∧ o.guest = false ∧ o.recordHeld = false ∧ o.task.op = some .update) := by decide +kernel
/-- A chunk of one pair at the front of tree 0's buffer; the operation stands at its first record. -/
def chunkState (park : Nat) (offset : Nat) : State :=
  setCuff (mapped module) 0 { active := [{ task := updateTask park }], roots := [{
    tree := 0, chunks := [{ rootChunk with last := false, offset := BitVec.ofNat 32 offset, payload := pairsBytes [⟨0x3F800000, 0⟩] }] }] }
theorem test_hyps_CuffTakesChunk :
    (let o : CuffOp := { task := updateTask 0 }
     let s := chunkState 0 0
     let c : Packet := { rootChunk with last := false, payload := pairsBytes [⟨0x3F800000, 0⟩] }
     (getCuff s 0).active = [o] ∧ o.guest = false ∧ o.recordHeld = false ∧ o.task.op = some .update ∧ uWcopy o.task = false ∧ uExport o.task = false ∧
     resettingPart s o.task.part = false ∧ (getCuff s 0).roots = [{ tree := BitVec.ofNat 16 (uTree o.task), chunks := [c] }] ∧ c.typ ≠ 0x0B ∧
     c.payload = pairsBytes [⟨0x3F800000, 0⟩] ∧ c.last = false ∧ o.done + 1 < uRecords o.task ∧ c.offset.toNat = 8 * o.done ∧ c.poison = false ∧
     uBase o.task % 16 = 0 ∧ linePoison s (uBase o.task / 64) = false) ∧
    (getCuff (chunkState 1 0) 0).active = [{ task := updateTask 1 }] ∧ uBase (updateTask 1) % 8 = 0 ∧
    ({ rootChunk with offset := 8 } : Packet).offset.toNat ≠ 8 * 0 := by decide +kernel
theorem test_hyps_MapAndTierRegisters_tier :
    stackWorks module 31 = true ∧ (getHp module 0).linkUp = true ∧ (getXp (setXp module 7 { linkUp := true }) 7).withdrawn = false ∧
    (getXp (setXp module 7 { linkUp := true }) 7).linkUp = true ∧ (getXp (setXp module 7 { recovering := true }) 7).recovering = true ∧
    (getXp (setXp module 7 { mboxBusy := true }) 7).mboxBusy = true ∧ bar0Open module 0 false = true ∧ (BitVec.ofNat 64 (2 ^ 63)).getLsbD 63 = true ∧
    (getXp module 7).mboxBusy = false := by decide +kernel
theorem test_hyps_MapAndTierRegisters_area :
    (let v := mkPair 0x4002
     let a : BitVec 15 := v.extractLsb' 0 15
     bar0Open module 0 false = true ∧ pairOk v = true ∧ (∀ h ∈ (getPart module 1).phases, h.step = 1) ∧ mapAreaValid a = true ∧
     mapAreaUsable module 1 a = true ∧ (getPart module 1).gen ≠ 0 ∧ rangePoisoned module (mapAreaBase a) (getPart module 1).map.length = false) ∧
    pairOk 0x4002 = false ∧ mapAreaValid 0 = false ∧ mapAreaUsable module 1 0x4000 = false ∧ mapAreaValid 0x4000 = true ∧
    (getPart (setPart module 1 { getPart module 1 with gen := 0 }) 1).gen = 0 ∧
    (∃ h ∈ (getPart (pendingPhase 4 false) 1).phases, h.step ≠ 1) := by decide +kernel
theorem test_hyps_ScrubLoadAndWithdrawal :
    (let s := setStack module 0 { position := 603979774 }
     stackWorks s 0 = true ∧ (getStack s 0).passEnable = true ∧ (getStack s 0).position.toNat + 1 < 603979776) ∧
    cmemMapped module (coreTile 255) (Fin.ofNat 4 (coreCluster 255)) = true ∧
    (let n := tget 0 (getStack (setStack module 31 { recalFails := [(5, 2)] }) 31).recalFails (5 : Fin 32).val + 1
     stackWorks (setStack module 31 { recalFails := [(5, 2)] }) 31 = true ∧ 3 ≤ n) ∧
    (tget 0 (getStack module 31).recalFails 5 + 1 < 3 ∧ (getStack module 31).withdrawn = false ∧ bar0Open module 0 false = true ∧ pairOk (mkPair 1) = true ∧
     pairVal (mkPair 1) = 1) ∧
    (let s := setXp module 7 { linkUp := true }
     (getXp s 7).withdrawn = false ∧ (getXp s 7).linkUp = true) := by decide +kernel

/-! Witnesses: rings. -/

/-- An entry of context 5 in stack 0. -/
def ringEntry (base headWb kind slot link : Nat) : BitVec 256 :=
  BitVec.ofNat 256 (fields [(base, 0), (headWb, 64), (4, 128), (kind, 133), (1, 135), (5, 136), (slot, 152), (link, 161)])
def submitEntry : BitVec 256 := ringEntry (2 ^ 20) (2 ^ 22) 0 0 0x51
def completeEntry : BitVec 256 := ringEntry (2 ^ 21) 0 1 511 0
def eventEntry : BitVec 256 := ringEntry (3 * 2 ^ 20) 0 2 2 0
/-- The context's SUBMIT, COMPLETE and EVENT rings in service, each of 16 entries. -/
def ringed (queue : List Task) : State :=
  { module with rings := [(0x50, { entry := submitEntry, state := .active, sendQueue := queue, open_ := queue.map (·.index) }),
                          (0x51, { entry := completeEntry, state := .active }), (0x52, { entry := eventEntry, state := .active })] }
theorem test_hyps_RingCommitsAndDoorbells_commits :
    (let s := { ringed [] with rings := (ringed []).rings.tail, setup := { ringSel := 0x50, ringShadow := submitEntry } }
     bar0Open s 0 false = true ∧ pairOk (mkPair 0x50) = true ∧ pairVal (mkPair 0x50) = s.setup.ringSel.toNat ∧ (getRing s 0x50).enabled = false ∧
     s.setup.ringShadow.toNat.testBit 135 = true ∧ ringCreateOk s 0x50 s.setup.ringShadow = true ∧ ringCreateOk s 0x50 eventEntry = false ∧
     pairVal (mkPair 0x51) ≠ s.setup.ringSel.toNat) ∧
    (let s := { ringed [] with setup := { ringSel := 0x50, ringShadow := submitEntry } }
     (getRing s 0x50).enabled = true ∧ (s.setup.ringShadow ^^^ (getRing s 0x50).entry) &&& ~~~ringChangeMask = 0 ∧
     s.setup.ringShadow.toNat.testBit 135 = true ∧ s.setup.ringShadow.toNat.testBit 192 = false ∧
     ((ringEntry 0 0 0 0 0x51) ^^^ (getRing s 0x50).entry) &&& ~~~ringChangeMask ≠ 0 ∧
     (let e := submitEntry &&& ~~~(BitVec.ofNat 256 (2 ^ 135))
      (e ^^^ (getRing s 0x50).entry) &&& ~~~ringChangeMask = 0 ∧ e.toNat.testBit 135 = false ∧ (getRing s 0x50).waiting = [] ∧ (getRing s 0x50).kind ≠ 1)) := by
  decide +kernel
theorem test_hyps_RingCommitsAndDoorbells_doorbell :
    (let s := ringed []
     (getHp s 0).linkUp = true ∧ ringOfSlot s 5 0 = some 0x50 ∧ (getRing s 0x50).home = 0 ∧ pairOk (mkPair 16) = true ∧
     doorbellInWindow (getRing s 0x50) ((mkPair 16).extractLsb' 0 32) = true ∧ (getRing s 0x50).kind = 0 ∧
     ringOfSlot s 5 2 = some 0x52 ∧ doorbellInWindow (getRing s 0x52) ((mkPair 0).extractLsb' 0 32) = true ∧ (getRing s 0x52).kind ≠ 1 ∧
     ringOfSlot s 5 1 = none ∧ pairOk 16 = false ∧ doorbellInWindow (getRing s 0x50) ((mkPair 17).extractLsb' 0 32) = false) := by decide +kernel
/-- A one-entry COPY for core 0 at the head of the SUBMIT ring. -/
def fetchable : State :=
  let s := (writeMem (ringed []) (2 ^ 20) (bytesOf 64 copyTask.raw.toNat)).1
  setRing s 0x50 { getRing s 0x50 with tail := 1 }
theorem test_hyps_RingsReadAndSend_read :
    (let s := fetchable
     let r := getRing s 0x50
     let t : Task := { ring := 0x50, index := r.head, ctx := r.ctx, part := (getCtx s r.ctx).part, raw := BitVec.ofNat 2048 (memNat s (r.slotAddr r.head) 64), serial := s.taskCtr }
     ringReads s r = true ∧ r.sendQueue = [] ∧ r.open_ = [] ∧ r.gateOut = none ∧ r.count = 1 ∧ ringAccess s r .read (r.slotAddr r.head) 64 = none ∧
     bits (memNat s (r.slotAddr r.head) 64) 8 2 = 0 ∧ ringUnitFails s t = [] ∧ t.tkind = 1 ∧ targetHeld s t = false ∧
     reachable s (hostTile r.home) (targetTile s t) = true ∧ t.op ≠ some .palmInit) := by decide +kernel
theorem test_hyps_RingsReadAndSend_fence :
    (let s := ringed [copyTask]
     (getRing s 0x50).sendQueue = [copyTask] ∧ homeStands s (getRing s 0x50) = true ∧ fenceWaits (getRing s 0x50) copyTask = false ∧ gateHolds (getRing s 0x50) = false ∧
     targetHeld s copyTask = false ∧ ringUnitFails s copyTask = [] ∧ copyTask.tkind = 1 ∧ copyTask.op ≠ some .palmInit ∧
     reachable s (hostTile (getRing s 0x50).home) (targetTile s copyTask) = true) ∧
    (let s := setRing (ringed []) 0x50 { getRing (ringed []) 0x50 with headDue := true }
     (getRing s 0x50).headDue = true ∧ (getRing s 0x50).headWb ≠ 0 ∧ (getRing s 0x50).state = .active ∧
     ringAccess s (getRing s 0x50) .write (getRing s 0x50).headWb 8 = none ∧ ringAccess s (getRing s 0x50) .read (getRing s 0x50).headWb 8 = none ∧
     rangePoisoned s (getRing s 0x50).headWb 8 = false) := by decide +kernel
def signalTask : Task := task [(0x08, 0), (1, 13), (4096, 128), (1, 192)]
def nopTask : Task := task [(0x00, 0)]
theorem test_hyps_RingUnitRuns :
    (let s := ringed [signalTask]
     let t := signalTask
     ringFront s 0x50 .signal = some t ∧ (getRing s 0x50).sendQueue = [t] ∧ admissionFailure (emptyBody t ++ headerFails s t) = none ∧
     stepWhen (getPart s t.part) t.step ≠ .next ∧ (t.sigMode = 1 ∨ t.sigMode = 2) ∧ tallyOk t.sigAddr = true ∧
     transferStatus s (hostTile (getRing s t.ring.toNat).home) t.ctx .add t.sigAddr 8 = none ∧ rangePoisoned s t.sigAddr 8 = false) ∧
    (let s := ringed [nopTask]
     let t := nopTask
     let r := getRing s (getRing s 0x50).link
     ringFront s 0x50 .nop = some t ∧ (getRing s 0x50).sendQueue = [t] ∧ admissionFailure (emptyBody t ++ headerFails s t) = none ∧ t.sigMode = 0 ∧
     t.ring = 0x50 ∧ (getRing s 0x50).link ≠ 0x50 ∧ r.enabled = true ∧ r.state = .active ∧ r.waiting = [] ∧ r.count < r.size ∧
     ringAccess s r .write (r.slotAddr r.tail) 32 = none ∧ rangePoisoned s (r.slotAddr r.tail) 32 = false) := by decide +kernel

/-- WAIT for the tally at 4096 to reach n, and TIMED until n, for the ring unit (0) or core 0 (1). -/
def waitTask (kind n : Nat) : Task := task [(0x09, 0), (kind, 32), (4096, 256), (n, 320)]
def timedTask (kind n : Nat) : Task := task [(0x0A, 0), (kind, 32), (n, 256)]
def started (s : State) : State := setRing s 0x50 { getRing s 0x50 with gateStarted := true }
def gateSlot (t : Task) (started : Bool) : State :=
  setCore (ringed []) 0 { slots := [(0, { state := .blocked, task := some t, gateStarted := started })] }
theorem test_hyps_Gates_start :
    (let t := waitTask 0 1
     let s := ringed [t]
     ringFront s 0x50 .wait = some t ∧ admissionFailure (waitFails s t) = none ∧ (getRing s 0x50).gateStarted = false ∧
     stepWhen (getPart s t.part) t.step ≠ .next ∧ gateResult s (hostTile (getRing s 0x50).home) t = none) ∧
    (let t := timedTask 0 (60 * 2 ^ 32)
     let s := ringed [t]
     ringFront s 0x50 .timed = some t ∧ admissionFailure (timedFails s t) = none ∧ gateResult s (hostTile (getRing s 0x50).home) t = none) ∧
    (coreGate (gateSlot (waitTask 1 1) false) 0 0 .wait false = some (waitTask 1 1) ∧ gateResult (gateSlot (waitTask 1 1) false) (coreTile 0) (waitTask 1 1) = none) ∧
    (coreGate (gateSlot (timedTask 1 1) false) 0 0 .timed false = some (timedTask 1 1) ∧
     gateResult (gateSlot (timedTask 1 1) false) (coreTile 0) (timedTask 1 1) = none) := by decide +kernel
theorem test_hyps_Gates_end :
    (let t := waitTask 0 0
     let s := started (ringed [t])
     ringFront s 0x50 .wait = some t ∧ (getRing s 0x50).sendQueue = [t] ∧ (getRing s 0x50).gateStarted = true ∧
     gateResult s (hostTile (getRing s 0x50).home) t = some stOk) ∧
    (let t := timedTask 0 0
     let s := started (ringed [t])
     ringFront s 0x50 .timed = some t ∧ gateResult s (hostTile (getRing s 0x50).home) t = some stOk) ∧
    (let t := waitTask 1 0
     let s := gateSlot t true
     coreGate s 0 0 .wait true = some t ∧ storesOut (getCore s 0) 0 = false ∧ (getRing s t.ring.toNat).sendQueue = [] ∧ gateResult s (coreTile 0) t = some stOk) ∧
    (coreGate (gateSlot (timedTask 1 0) true) 0 0 .timed true = some (timedTask 1 0) ∧
     gateResult (gateSlot (timedTask 1 0) true) (coreTile 0) (timedTask 1 0) = some stOk) := by decide +kernel
theorem test_hyps_TimeoutsAndInterrupts_timeouts :
    (let t := waitTask 0 1
     let s := started (ringed [t])
     ringFront s 0x50 .wait = some t ∧ (getRing s 0x50).sendQueue = [t] ∧ (getRing s 0x50).gateStarted = true ∧ (getRing s 0x50).gateStop = false ∧
     waitResult s (hostTile (getRing s 0x50).home) t = none) ∧
    (let t := updateTask 0
     let t2 : Task := { t with raw := t.raw + BitVec.ofNat 2048 (2 ^ 40) }
     let s := setCore module 255 { held := [t2] }
     (getCore s 255).held[0]? = some t2 ∧ genWaits s t2 = true) ∧
    (let t := task [(0x01, 0), (1, 32), (1, 64)]
     let s := setCore module 0 { slots := [(3, { state := .blocked, task := some t, stepHeld := true })] }
     (getSlot s 0 3).task = some t ∧ (getSlot s 0 3).ended = false ∧ (getSlot s 0 3).stepHeld = true ∧ stepWaits s t = true ∧ storesOut (getCore s 0) 3 = false ∧
     (getSlot s 0 3).started = false ∧ t.op ≠ some .wait ∧ t.op ≠ some .timed) ∧
    (let s := setPart (runs copyTask) 1 { getPart module 1 with closing := some (closeTask 0) }
     (getPart s 1).closing = some (closeTask 0) ∧ stepDone s 1 = false) := by decide +kernel
theorem test_hyps_TimeoutsAndInterrupts_interrupts :
    (let s := setRing (ringed []) 0x52 { getRing (ringed []) 0x52 with entry := eventEntry ||| BitVec.ofNat 256 (2 ^ 192), holdoff := true, holdoffDue := true }
     (getRing s 0x52).holdoff = true ∧ (getRing s 0x52).holdoffDue = true ∧ (getRing s 0x52).msixEn = true ∧
     (getHp s (getRing s 0x52).msixPort).linkUp = true ∧
     (let u := setHp s (getRing s 0x52).msixPort { getHp s (getRing s 0x52).msixPort with msixOn := true }
      (getHp u (getRing u 0x52).msixPort).linkUp = true ∧ (getHp u (getRing u 0x52).msixPort).msixOn = true ∧
      (getHp u (getRing u 0x52).msixPort).msixMasked.contains (getRing u 0x52).msixVec = false ∧
      u.msixPending.contains ((getRing u 0x52).msixPort, (getRing u 0x52).msixVec) = false ∧
      (let m := setHp u (getRing s 0x52).msixPort { getHp u (getRing s 0x52).msixPort with msixMasked := [(getRing s 0x52).msixVec] }
       (getHp m (getRing m 0x52).msixPort).linkUp = true ∧ (getHp m (getRing m 0x52).msixPort).msixOn = true ∧
       (getHp m (getRing m 0x52).msixPort).msixMasked.contains (getRing m 0x52).msixVec = true)) ∧
     (getRing (setRing s 0x52 { getRing s 0x52 with holdoffDue := false }) 0x52).holdoffDue = false) ∧
    bar0Open module 0 false = true ∧ pairOk 0 = false ∧ pairOk (mkPair 0) = true := by decide +kernel

/-! Witnesses: partitions, contexts, pages and resets. -/

theorem test_hyps_PartitionCommits :
    (let s := { linked with setup := { partSel := 63, partShadow := wholeEntry } }
     bar0Open s 0 false = true ∧ pairOk (mkPair 63) = true ∧ pairVal (mkPair 63) = (Fin.ofNat 64 s.setup.partSel.toNat : PartNo).val ∧
     partCommitOk s 63 (effEntry s 63) s.setup.partShadow = true ∧ partCommitOk module 2 (effEntry module 2) wholeEntry = false ∧
     pairVal (mkPair 64) ≠ (Fin.ofNat 64 s.setup.partSel.toNat : PartNo).val) ∧
    (let o : Ownership := { part := 63, entry := wholeEntry, switched := false }
     let s := { linked with owning := [o] }
     s.owning = [o] ∧ s.resets = [] ∧ unitsDrained s o = true ∧ passingStacks s o = [] ∧ stacksZeroed s o.entry = true ∧ peValid o.entry = true ∧
     peValid (getPart s 63).entry = false) ∧
    (let o : Ownership := { part := 1, entry := wholeEntry, switched := false }
     let s := { module with parts := [], owning := [o] }
     unitsDrained s o = true ∧ passingStacks s o ≠ [] ∧
     (let b := { runs copyTask with owning := [{ o with entry := 0 }] }
      b.owning = [{ o with entry := 0 }] ∧ unitsDrained b { o with entry := 0 } = false) ∧
     passingStacks { module with owning := [o] } o = [] ∧ peValid (getPart { module with owning := [o] } 1).entry = true) ∧
    (let s := setStack module 31 { zeroing := true }
     (getStack s 31).zeroing = true ∧ (getStack s 31).withdrawn = false ∧ s.owning = []) := by decide +kernel
theorem test_hyps_ContextsAndPages_contexts :
    (let s := { module with setup := { ctxSel := 9, ctxShadow := 0x41, rangeShadow := [(0, range 0 (stackMapped - 1))] } }
     let new : Context := { binding := s.setup.ctxShadow.extractLsb' 0 8, ranges := s.setup.rangeShadow }
     bar0Open s 0 false = true ∧ pairOk (mkPair 9) = true ∧ pairVal (mkPair 9) = s.setup.ctxSel.toNat ∧ bits s.setup.ctxShadow.toNat 8 56 = 0 ∧
     new.bound = true ∧ (getCtx s 9).bound = false ∧ (getPart s new.part).valid = true ∧
     (∀ e ∈ s.setup.rangeShadow, rangeEntryOk s new.part e.2 = true) ∧ (getPart linked new.part).valid = false ∧
     bits { s.setup with ctxShadow := 0x141 }.ctxShadow.toNat 8 56 ≠ 0 ∧ rangeEntryOk s new.part (range 0 (2 ^ 56 - 1) ||| BitVec.ofNat 128 (2 ^ 127)) = false) ∧
    (let s := { ringed [] with setup := { ctxSel := 5, ctxShadow := 1 } }
     (getCtx s 5).bound = true ∧ ({ binding := s.setup.ctxShadow.extractLsb' 0 8 } : Context).bound = false ∧
     (getPart s ({ binding := s.setup.ctxShadow.extractLsb' 0 8 } : Context).part).valid = true ∧ ctxHasRing s 5 = true ∧ ctxHasPage { s with rings := [], pages := [] } 5 = false ∧
     ctxHasRing { s with rings := [], pages := [] } 5 = false) ∧
    (let s := { ringed [] with setup := { ctxSel := 5, ctxShadow := 0x42 } }
     let new : Context := { binding := s.setup.ctxShadow.extractLsb' 0 8 }
     ((getCtx s 5).bound && new.bound && (getCtx s 5).part != new.part) = true) := by decide +kernel
theorem test_hyps_ContextsAndPages_pages :
    (let s := { module with setup := { pageSel := 4095, pageShadow := 0x10005 } }
     let n := bits s.setup.pageShadow.toNat 17 10 + 1
     bar0Open s 0 false = true ∧ pairOk (mkPair 4095) = true ∧ pairVal (mkPair 4095) = s.setup.pageSel.toNat ∧ s.setup.pageSel.toNat % 1024 + n ≤ 1024 ∧
     s.setup.pageShadow.toNat.testBit 16 = true ∧ (∀ i, i < n → pageAllocOk s (s.setup.pageShadow.extractLsb' 0 16) (s.setup.pageSel.toNat + i) = true)) ∧
    (let s := { module with setup := { pageSel := 1023, pageShadow := 0x20005 } }
     1024 < s.setup.pageSel.toNat % 1024 + (bits s.setup.pageShadow.toNat 17 10 + 1)) ∧
    (let s := { module with setup := { pageSel := 1022, pageShadow := 0x20005 } }
     s.setup.pageShadow.toNat.testBit 16 = false ∧
     (∀ i, i < 2 → pageInPalm s (s.setup.pageSel.toNat + i) = false ∧ pageInMapArea s (s.setup.pageSel.toNat + i) = false)) ∧
    (let s := { module with pageRuns := [(4095, 1, 5)] }
     s.pageRuns.find? (fun r => r.1 == (4095 : BitVec 16).toNat) = some ((4095 : BitVec 16).toNat, 1, 5)) := by decide +kernel
theorem test_hyps_ResetsDrainAndClear_begin :
    bar0Open module 0 false = true ∧ pairOk (mkPair 255) = true ∧ resetTargetOk module (Fin.ofNat 4 (bits (pairVal (mkPair 255)) 8 2)) 255 = true ∧
    (∀ r ∈ module.resets, resetInside module 0 255 r.level r.target = false) ∧ replacing module 0 255 = false ∧ powerHeld module 0 255 = false ∧ (pairVal (mkPair 255)).testBit 10 = false ∧
    resetTargetOk module 2 1 = true ∧ resetTargetOk module 2 2 = false ∧ resetTargetOk module 3 0 = true ∧ resetTargetOk module 3 1 = false ∧
    (let s := { module with resets := [{ level := 1, target := 255, step := 1, immediate := false }] }
     ∃ r ∈ s.resets, resetInside s 0 255 r.level r.target = true) ∧
    replacing { module with changes := [{ core := 255, segs := [], step := 4 }] } 0 255 = true ∧
    (let s := setTile module 63 { getTile module 63 with power := .doze }
     (∀ r ∈ s.resets, resetInside s 0 255 r.level r.target = false) ∧ replacing s 0 255 = false ∧ powerHeld s 0 255 = true ∧
     (∀ r ∈ s.resets, resetInside s r.level r.target 0 255 = false) ∧ (∀ e ∈ s.rings, e.2.sendQueue = [])) ∧
    (let s := { module with resets := [{ level := 0, target := 255, step := 1, immediate := false }] }
     (∀ r ∈ s.resets, resetInside s 1 255 r.level r.target = false) ∧ replacing s 1 255 = false ∧ powerHeld s 1 255 = false ∧
     (∀ x ∈ s.resets, resetInside s x.level x.target 1 255 = true → x.step = 1) ∧ ∃ x ∈ s.resets, resetInside s x.level x.target 1 255 = true) := by
  decide +kernel
theorem test_hyps_ResetsDrainAndClear_end :
    (let r : Reset := { level := 0, target := 255, step := 1, immediate := false }
     r.level ≠ 3 ∧ ({ module with resets := [r] }.resets.find? fun r => r.level == 0 && r.target == 255 && decide (r.step < 4)) = some r) ∧
    (let r : Reset := { level := 1, target := 255, step := 5, immediate := false }
     let s := { ringed [] with resets := [r] }
     r.level.val ≤ 1 ∧ (∀ e ∈ s.rings, e.2.sendQueue = []) ∧
     (s.resets.find? fun r => r.level == 1 && r.target == 255 && r.step == 5) = some r ∧
     (getTile s (coreTile (Fin.ofNat 256 (255 : Byte).toNat))).thermal = false ∧ corePresent s 255 = true ∧ changingCore s 255 = false ∧
     inCoreMode s (coreTile 255) = true ∧ fnState (setFn s (fnCore 255) 1) (fnCore 255) = 1) ∧
    (let r : Reset := { level := 3, target := 0, step := 1, immediate := true }
     r.level = 3 ∧ ({ module with resets := [r] }.resets.find? fun r => r.level == 3 && r.target == 0 && decide (r.step < 4)) = some r) ∧
    module.changes = [] ∧ (∀ n : TileNo, (getTile module n).failedSegs = 0) := by decide +kernel

/-! Witnesses: time. -/

def withRefs (a b : Ref) (src : Source) : State := { module with tb := { module.tb with refs := [(0, a), (1, b)], source := src, everLocked := true } }
theorem test_hyps_ReferencesAreJudged :
    (let s := withRefs { state := refGood, seen := true } {} .refA
     s.tb.running = true ∧ (tget {} s.tb.refs 0 : Ref).seen = true ∧ (tget {} s.tb.refs 1 : Ref).seen = false ∧ (tget {} s.tb.refs 0 : Ref).state ≠ refAbsent ∧ (tget {} s.tb.refs 0 : Ref).state ≠ refLost ∧ sourceRef s.tb.source = some 0 ∧
     (tget {} s.tb.refs 1 : Ref).state ≠ refGood) ∧
    (let s := { module with tb := { module.tb with refs := [(1, { consistent := 7, seen := true })] } }
     s.tb.running = true ∧ (tget {} s.tb.refs 1 : Ref).seen = true ∧ s.tb.armed = none ∧ (tget {} s.tb.refs 1 : Ref).state = refAbsent ∧ 7 ≤ (tget {} s.tb.refs 1 : Ref).consistent ∧
     s.tb.everLocked = false ∧ s.tb.timeSet = false ∧ s.tb.source = .free ∧ (tget {} s.tb.refs 0 : Ref).state ≠ refGood ∧ s.tb.slewing = false ∧
     (let u := { module with tb := { module.tb with refs := [(0, { seen := true })] } }
      (tget {} u.tb.refs 0 : Ref).seen = true ∧ u.tb.armed = none ∧ (tget {} u.tb.refs 0 : Ref).state = refAbsent ∧ (tget {} u.tb.refs 0 : Ref).consistent + 1 < 8)) ∧
    (let s := withRefs { state := refGood } { state := refGood } .refA
     (tget {} s.tb.refs 0 : Ref).state = refGood ∧ (tget {} s.tb.refs 1 : Ref).state = refGood ∧ (tget {} s.tb.refs 0 : Ref).lossInWindow = false ∧
     (tget {} s.tb.refs 1 : Ref).lossInWindow = false ∧ s.tb.source = .refA ∧ s.tb.prefer = false ∧ s.tb.slewing = false ∧ s.tb.learnedWindows = [] ∧
     (tget {} s.tb.refs 0 : Ref).outWindows = 0 ∧ (tget {} s.tb.refs 1 : Ref).outWindows = 0) := by decide +kernel
theorem test_hyps_SlewsHoldoverAndSets_slews :
    (let s := { withRefs { state := refGood } {} .refA with tb := { (withRefs { state := refGood } {} .refA).tb with slewing := true } }
     s.tb.running = true ∧ s.tb.slewing = true ∧ sourceRef s.tb.source = some 0 ∧ (tget {} s.tb.refs 0 : Ref).state = refGood ∧
     (0 : Fin 2) = (if s.tb.prefer then 1 else 0)) ∧
    (let h (n : Word64) : State := { module with tb := { running := true, source := .holdover, fine := true, now := n } }
     (h 0).tb.running = true ∧ (h 0).tb.source = .holdover ∧ (h 0).tb.fine = true ∧ holdoverError (h 0).tb < 1000 ∧
     1000 ≤ holdoverError (h (BitVec.ofNat 64 (2 ^ 50))).tb) ∧
    (module.tb.now.toNat % 2 ^ 32 = 0 ∧ module.tb.armed = none ∧ module.tb.source = .free ∧ module.tb.refs = [] ∧
     { module.tb with armed := some 7 }.armed = some 7) := by decide +kernel
theorem test_hyps_SlewsHoldoverAndSets_registers :
    bar0Open module 0 false = true ∧ pairOk (mkPair 7) = true ∧ pairOk 7 = false ∧ bits (pairVal (mkPair (4 * 16))) 4 10 < 5 ∧
    1000 < bits (pairVal (mkPair (1001 * 16))) 4 10 ∧ 5 ≤ bits (pairVal (mkPair (5 * 16))) 4 10 ∧ bits (pairVal (mkPair (1000 * 16))) 4 10 ≤ 1000 ∧
    module.tb.refs = [] ∧ sourceRef module.tb.source = none ∧ (getHp module 0).linkUp = true ∧ (pairVal (mkPair 0)).testBit 20 = false ∧
    (let s := setRing (ringed []) 0x53 { entry := ringEntry (5 * 2 ^ 20) 0 3 3 0, state := .active }
     let r := getRing s (pairVal (mkPair 0x100053) % 2 ^ 20)
     (pairVal (mkPair 0x100053)).testBit 20 = true ∧ r.enabled = true ∧ r.kind = 3 ∧ (getCtx s r.ctx).bound = true ∧ (getCtx s r.ctx).part = 1) := by
  decide +kernel
theorem test_hyps_TimeAndFusesAreGuarded : actsOnTime .wealaStart = false ∧ actsOnFuses .wealaStart = false ∧ actsOnTime (.refresh 0) = false ∧
    actsOnFuses (.refresh 0) = false := by decide

/-! Witnesses: start-up, requests and management. -/

def waits : State := { State.reset with pw := { aux := true, pwrEn := true, coolantOk := true, stage := .waitMain }, weala := { running := true } }
def fabricStarts : State := { waits with pw := { waits.pw with stage := .main }, fns := [(fnFabric, { state := 1 })] }
/-- The fabric READY and one function coming up. -/
def comesUp (f : Nat) : State := setFn module f 1
theorem test_hyps_PowerComesUp :
    (State.reset.weala.running = false ∧ State.reset.weala.records = [] ∧ State.reset.weala.fuses = [] ∧ imageRuns State.reset.weala.imageA 2 = true ∧
     State.reset.pw.stage = .off ∧ State.reset.pw.needPwrEnCycle = false ∧ State.reset.pw.coolantOk = false) ∧
    (waits.pw.stage = .waitMain ∧ waits.pw.pwrEn = true ∧ waits.pw.coolantOk = true ∧ waits.weala.running = true) ∧
    (fabricStarts.pw.stage = .main ∧ fnState fabricStarts fnFabric = 1 ∧ fabricStarts.holes = 0) := by decide +kernel
theorem test_hyps_FunctionsComeUp :
    comingUp (comesUp (fnSram 63)) (fnSram 63) = true ∧
    (comingUp (comesUp (fnStack 31)) (fnStack 31) = true ∧ (getStack module 31).withdrawn = false ∧ (getStack module 31).zeroing = false ∧
     (getStack (setStack module 31 { attempts := 1 }) 31).attempts < 2 ∧ 2 ≤ (getStack (setStack module 31 { attempts := 2 }) 31).attempts) ∧
    comingUp (comesUp (fnHost 3)) (fnHost 3) = true ∧
    (let s := setHp (comesUp (fnHost 3)) 3 { perstReleased := true }
     (getHp s 3).linkUp = false ∧ (getHp s 3).perstReleased = true ∧ comingUp s (fnHost 3) = true) ∧
    (comingUp (comesUp (fnPort 7)) (fnPort 7) = true ∧ (getXp (comesUp (fnPort 7)) 7).withdrawn = false ∧ linkSupported 4 6 = true ∧ linkSupported 2 3 = true) ∧
    (getHp linked 0).linkUp = true ∧ fnReady module (fnHost 3) = true ∧
    (let s := comesUp (fnCore 255)
     comingUp s (fnCore 255) = true ∧ fnReady s (fnSram (coreTile 255)) = true ∧ inCoreMode s (coreTile 255) = true ∧ changingCore s 255 = false ∧
     resettingCore s 255 = false) ∧
    ((comesUp 106).pw.stage = .main ∧ fnState (comesUp 106) 106 ≤ 1 ∧ fnState (comesUp 65) 65 ≤ 1) := by decide +kernel
def anyAuth : Auth := { sigValid := false, keyDigest := 0 }
/-- The word of MG_REQ_CMD for an operation. -/
def reqWord (op : Nat) : Word64 := mkPair (BitVec.ofNat 32 op)
def locked : State := { module with weala := { module.weala with settings := [(5, 1)] } }
theorem test_hyps_RequestsAreServed :
    (∀ i ∈ ([.setSetting (.bar0 0 (reqWord 1)) 3 100 anyAuth, .persistMap (.bar0 0 (reqWord 2)) none anyAuth, .writeImage (.bar0 0 (reqWord 3)) true 0 [1] anyAuth,
        .commitImage (.bar0 0 (reqWord 4)) true 1 3 true anyAuth, .readArea (.bar0 0 (reqWord 5)) .settings 0 3840 anyAuth,
        .readLedger (.bar0 0 (reqWord 6)) anyAuth] : List Instr),
      module.weala.reqQueue = [] ∧ mustWait module i = false ∧ authorised module i = true ∧
      (match reqSource i with
       | some (.bar0 port v) => bar0Open module port true && pairOk v && v.toNat % 256 == reqOp i
       | _ => false) = true) ∧
    anyAuth.flashOk = true ∧ runningPersists module = true ∧ slotFree module true = true ∧ 3840 ≤ areaSize .settings ∧ changesLeft module.weala 2 ≠ 0 ∧
    settingOk 3 99 = false ∧ settingOk 3 100 = true := by
  decide +kernel
theorem test_hyps_RequestsAreServed_refused :
    (let i : Instr := .setSetting (.mctp .smbus 0) 3 100 anyAuth
     reqSource i = some (.mctp .smbus 0) ∧ bindingUp locked .smbus = true ∧ mustWait locked i = false ∧ authorised locked i = false) ∧
    (let i : Instr := .setSetting (.bar0 0 (reqWord 1)) 3 100 { anyAuth with flashOk := false }
     reqSource i = some (.bar0 0 (reqWord 1)) ∧ authorised module i = true ∧ (reqAuth i).flashOk = false ∧ reqOp i ≤ 4) ∧
    (let s := { locked with pw := { module.pw with stage := .waitCoolant } }
     let i : Instr := .persistMap (.mctp .smbus 0) none { sigValid := true, keyDigest := 1 }
     s.weala.reqQueue = [] ∧ mustWait s i = false ∧ bindingUp s .smbus = true ∧ authorised s i = true ∧ changesLeft s.weala 2 ≠ 0 ∧ runningPersists s = false) ∧
    (let e : LedgerEntry := { id := 2, index := 0, time := 0, quality := 0, epoch := 0, value := 0 }
     changesLeft { module.weala with fuses := List.replicate 32 e } 2 = 0) := by decide +kernel
theorem test_hyps_ManagementAnswers :
    bindingUp module .smbus = true ∧ bindingUp module (.vdm 0) = true ∧ (1 : Byte) ≠ 0 ∧ (1 : Byte) ≠ 0xFF ∧ messageTypes.contains 0x7E = true ∧
    messageTypes.contains 0x7F = false ∧ (numericSensor module 68).isSome = true ∧ numericSensor module 69 = none ∧ numericSensor module 0 = none := by
  decide +kernel

/-! Witnesses: power and heat. -/

theorem test_hyps_HeatAndVisor_ticks :
    (let l := effectiveLimit module 5000 5000
     l = 27000 ∧ module.pw.stage = .main ∧ module.pw.coolantLost = false ∧ 115 * l < 100 * (31051 : BitVec 32).toNat ∧
     (allTiles.filter fun t => throttled module t && decide (16 < (getTile module t).freq)) ≠ [] ∧
     (26190 : BitVec 32).toNat ≤ l ∧ 97 * l ≤ 100 * (26190 : BitVec 32).toNat ∧ (27000 : BitVec 32).toNat ≤ l ∧
     (∀ t : TileNo, (getTile module t).temp < (module.pw.throttleC.toNat * 4 : Int)) ∧ linked.pw.stage ≠ .main) ∧
    throttled module 63 = true := by decide +kernel
theorem test_hyps_HeatAndVisor_samples :
    (module.pw.stage = .main ∧ isHole module 63 = false ∧ (getTile module 63).sensorsFailed = 0 ∧ (getTile module 63).napForGood = false ∧
     (getTile module 63).power = .run ∧ (getTile module 63).thermal = false) ∧
    (let s := setTile module 63 { power := .nap, thermal := true, temp := 399 }
     (getTile s 63).power = .nap ∧ (getTile s 63).thermal = true ∧ (getTile s 63).napForGood = false ∧ (getTile s 63).temp < 400) ∧
    (let s := setTile module 63 { getTile module 63 with visorPtr := [(0, { wr := 1023 })] }
     (Fin.ofNat 64 (252 / 4) : TileNo) = 63 ∧ (tileDomains 63).getLsbD (252 % 4) = true ∧
     ((tget {} (getTile s 63).visorPtr (252 % 4)).wr - (tget {} (getTile s 63).visorPtr (252 % 4)).rd).toNat < 1024) ∧
    bar0Open module 0 true = true ∧ pairOk (mkPair 100) = true ∧ 100 ≤ pairVal (mkPair 100) % 512 ∧ pairVal (mkPair 100) % 512 ≤ settingValue module 3 ∧
    settingValue module 3 < pairVal (mkPair 271) % 512 ∧ pairVal (mkPair 99) % 512 < 100 := by decide +kernel
/-- The module with no page allocated and no partition. -/
def bare : State := { module with pages := [], parts := [], ctxs := [] }
/-- The same with all tiles holes but 3 and 9. -/
def few : State := { bare with holes := ~~~(BitVec.ofNat 64 (2 ^ 9 + 2 ^ 3)) }
theorem test_hyps_PowerRequests :
    (bar0Open bare 0 false = true ∧ isHole bare 9 = false ∧ pairOk (mkPair 4) = true ∧ goalOf (pairVal (mkPair 4) % 8) = some .off ∧
     objections few 9 .off = 0 ∧ objections few 9 .doze = 0 ∧ isHole few 9 = false ∧ objections bare 9 .nap = 0 ∧ (getTile bare 9).power = .run ∧
     (getTile bare 9).retCompl = ~~~(getTile bare 9).retWord ∧ goalOf (pairVal (mkPair 3) % 8) = some .doze ∧ goalOf (pairVal (mkPair 2) % 8) = some .nap) ∧
    (let s := setTile bare 9 { power := .doze }
     (getTile s 9).power = .doze ∧ goalOf (pairVal (mkPair 0) % 8) = some .run ∧ objections s 9 .run = 0) ∧
    (getTile (setTile bare 9 { power := .entering }) 9).power = .entering ∧ objections (runs copyTask) 0 .nap ≠ 0 ∧ (getTile (runs copyTask) 0).power = .run ∧
    (let s := setTile bare 9 { getTile bare 9 with autoNap := true }
     (getTile s 9).autoNap = true ∧ (getTile s 9).power = .run ∧ (∀ c ∈ tileCores 9, (getCore s c).slots = []) ∧ objections s 9 .nap = 0) ∧
    (let s := setTile bare 9 { power := .nap }
     (getTile s 9).power = .nap ∧ (getTile s 9).thermal = false) := by decide +kernel
theorem test_hyps_TilesGoDownAndWake :
    (let s := setTile bare 9 { power := .entering, goal := .doze }
     (getTile s 9).power = .entering ∧ s.escapeLoading = false ∧ (getTile s 9).heldReq = none ∧ holdsPackets s 9 = false ∧
     holdsPackets { s with packets := [packet 0 0 9 0 0 []] } 9 = true) ∧
    (let s := setTile bare 9 { power := .waking, ramping := 3 }
     (getTile s 9).power = .waking ∧ (getTile s 9).ramping ≠ 0 ∧ (getTile s 9).rampHeld = 0) ∧
    (bar0Open bare 0 true = true ∧ pairOk (mkPair 73) = true ∧
     (let d : BitVec 4 := BitVec.ofNat 4 (pairVal (mkPair 73) / 64)
      d &&& ~~~(getTile bare 9).domainsUp = 0 ∧ d &&& ~~~(getTile (setTile bare 9 {}) 9).domainsUp ≠ 0)) ∧
    (let s := setTile bare 9 { power := .waking, goal := .run, domainsUp := 3 }
     (getTile s 9).power = .waking ∧ (getTile s 9).ramping = 0 ∧ (getTile s 9).clasped &&& ~~~(getTile s 9).claspFault = 0 ∧
     (getTile s 9).napForGood = false ∧ (getTile s 9).heldReq = none ∧ (getTile s 9).retained.getLsbD 63 = false) := by decide +kernel
theorem test_hyps_DomainsAndBus :
    (domainLive bare 0 0 = true ∧ domainLive bare 0 1 = true ∧ domainLive bare 0 2 = true ∧
     (getTile (setTile bare 0 { getTile bare 0 with ramping := 2 }) 0).ramping.getLsbD 1 = true) ∧
    ((getTile bare 0).phases.toNat = 16 ∧ (getTile (setTile bare 0 { phases := 14 }) 0).phases.toNat = 14 ∧
     domainLive (setTile bare 0 { phases := 14 }) 0 0 = true) ∧
    (tget 0 (getTile (setTile bare 0 { senseLost := [(0, 2)] }) 0).senseLost 0 + 1 < 4 ∧ tget 0 (getTile bare 0).senseLost 1 + 1 < 2) ∧
    (let s := setTile bare 0 { rampHeld := 2 }
     (getTile s 0).rampHeld.getLsbD (1 : Fin 4).val = true ∧ (getTile s 0).power ≠ .waking ∧ (getTile s 0).rampRetried = 0) ∧
    (let s := setTile bare 0 { rampHeld := 2, power := .waking }
     (getTile s 0).power = .waking ∧ (getTile s 0).heldReq = none) ∧
    (bare.pw.stage = .main ∧ bare.pw.drooped = false ∧ busVolts 4699 4699 < bare.pw.busMin.toNat * 10 ∧
     bare.pw.busMin.toNat * 10 + 50 ≤ busVolts 4750 0) ∧
    (let s := { bare with pw := { bare.pw with vB := 4400, lostA := true } }
     (4399 : BitVec 16).toNat < 4400 ∧ 4400 ≤ s.pw.vB.toNat ∧ bare.pw.lostA = false ∧ 4400 ≤ (4400 : BitVec 16).toNat ∧ s.pw.lostA = true) := by
  decide +kernel
theorem test_hyps_MainPowerAndInterlocks :
    (module.pw.stage = .main ∧ module.weala.reqQueue = [] ∧ module.pw.pwrEn = true ∧ module.weala.running = true ∧ module.pw.coolantOk = true ∧
     { module.pw with coolantLost := true }.coolantLost = true) ∧
    (waits.pw.stage = .waitMain ∧ waits.pw.coolantOk = true ∧ { waits.pw with stage := .waitCoolant }.stage = .waitCoolant) ∧
    (let s := { State.reset with weala := { running := true } }
     s.pw.pwrEn = false ∧ s.pw.stage = .off ∧ s.weala.running = true ∧ s.weala.recovery = false ∧ s.pw.coolantOk = false) ∧
    { State.reset.pw with pumpHold := true }.pumpHold = true := by decide +kernel

/-! Values and single steps from the spec's own examples and tables. -/

/-- R522: the check value of the nine digits. -/
theorem test_crc32c_digits : crc32c ("123456789".toList.map fun c => BitVec.ofNat 8 c.toNat) = 0xE3069283 := by decide +kernel
/-- "One chunk, bit by bit" (R58 to R60): the accumulator holds 1.0 and takes a chunk of two E4M3 operands. -/
theorem test_one_chunk :
    (let row (l : List Nat) : Chunk := { elems := l.map (fmtNum .e4m3), scale := some 0 }
     accumulate 0x3F800000 (chunkSum 3 3 (row [0x3E, 0x20, 0x8A, 0x0D]) (row [0x3C, 0x39, 0x3A, 0x3B])) = 0x4071A000 ∧
     accumulate 0x3F800000 (chunkSum 3 3 (row [0x8A, 0x0D, 0x3E, 0x20]) (row [0x3A, 0x3B, 0x3C, 0x39])) = 0x4071A000) := by decide +kernel
/-- As in "Small increments on a pair and on FP32" (R69): after a hundred increments the pair is 1 + 100 x 2^-30, which is hi = 1 + 128 x 2^-30 and
lo = -28 x 2^-30; an FP32 master loses each. -/
theorem test_pair_increments :
    (List.replicate 100 ()).foldl (fun p _ => pairAdd p (Pair.ofF32 0x30800000)) (Pair.ofF32 0x3F800000) = ⟨0x3F800001, 0xB2E00000⟩ ∧
    f32Add 0x3F800000 0x30800000 = 0x3F800000 := by decide +kernel
/-- "The mask inputs of one element" (R103): KS, and the element number. -/
theorem test_dropout_scale : dropScale 0x1999999A = 0x3F8E38E4 := by decide +kernel
/-- "One S2_4 block from BF16 activations" (R122, R127, R128): the record, the kept values of three groups and the two over-full groups. -/
theorem test_s24_block :
    (let b := compressBlock 2 .bf16 false
       ([0x3F000000, 0xC0400000, 0, 0x40000000, 0, 0, 0, 0x3FA00000, 0xBFC00000, 0x3FC00000, 0x3E800000, 0] ++ List.replicate 20 0)
     b.record = [0xCD, 0x44, 0x44, 0x44] ∧ b.overfull = [0, 2] ∧ b.values.length = 32 ∧
     b.values.take 12 = [0x40, 0xC0, 0x00, 0x40, 0x00, 0x00, 0xA0, 0x3F, 0xC0, 0xBF, 0xC0, 0x3F]) := by decide +kernel
/-- "Decoding one fast-tier address" (R24, R264, R265): the tile, the line's place and its check word's. -/
theorem test_fast_address :
    regionOf 0x13200001C40 = some (.stack 19) ∧ stackTile 19 = 39 ∧ stackBase 19 = 0x13000000000 ∧
    (match scrubTarget 19 (8867044416 / 64) with | .data a => a = 0x13200001C40 | _ => False) ∧
    (match scrubTarget 19 ((8867020800 + 6144 + 448) / 64) with | .code g n => g = 135300 ∧ n = 7 | _ => False) := by
  refine ⟨by decide +kernel, by decide +kernel, by decide +kernel, rfl, rfl, rfl⟩
/-- "Finding registers for partition 3" (R484): the registers at the example's offsets. -/
theorem test_register_offsets :
    regAt 0x5010D0 = .pair ∧ regAt 0x9000E0 = .pair ∧ regAt 0x601330 = .load 19 ∧ regAt 0x1240220 = .pair ∧ regAt 0x900070 = .none := by decide +kernel

/-- Context 0x0123's ring of 16 entries with DB_SLOT 5 behind HP1, four entries waiting across the wrap of its indices. -/
def wrapping : State :=
  { setHp (setHp State.reset 0 { linkUp := true }) 1 { linkUp := true } with
    rings := [(0x50, { entry := BitVec.ofNat 256 (fields [(2 ^ 20, 0), (4, 128), (1, 135), (0x123, 136), (5, 152), (1, 181)]), state := .active,
                       head := 0xFFFFFFF8, tail := 0xFFFFFFFC })] }
def tailAfter (port : HostPort) (v : Word64) : Option (BitVec 32 × Nat) :=
  match exec (.doorbell port 0x123 5 8 v) wrapping with
  | .next s => some ((getRing s 0x50).tail, (getCtx s 0x123).rejects.toNat)
  | _ => none
/-- "A doorbell across the wrap" (R308): accepted, and the three that are rejected and counted. -/
theorem test_doorbell_wrap :
    tailAfter 1 0xFFFFFFFE00000001 = some (1, 0) ∧ tailAfter 1 0xFFFFFFFF00000001 = some (0xFFFFFFFC, 1) ∧
    tailAfter 1 0xFFFFFFEF00000010 = some (0xFFFFFFFC, 1) ∧ tailAfter 0 0xFFFFFFFE00000001 = some (0xFFFFFFFC, 1) := by decide +kernel
/-- Every byte pair is the example's: the register halves differ in every bit (R418). -/
theorem test_pair_words : mkPair 0x7F01 = 0xFFFF80FE00007F01 ∧ pairOk 0xFFFF80FE00007F01 = true ∧ pairOk 0xFFFFFFFF00000001 = false := by decide +kernel
/-- A step takes the front of the queue and leaves the rest; on an empty queue nothing changes at power-on (log 1). -/
theorem test_step_takes_front :
    (let s := { State.reset with pending := [.doorbell 0 0 0 8 0, .doorbell 1 1 1 8 1] }
     step s = exec (.doorbell 0 0 0 8 0) { s with pending := [.doorbell 1 1 1 8 1] }) ∧ step State.reset = .next State.reset := by
  exact ⟨rfl, rfl⟩

end Sys2Proof.Tests
end

/-!
SUPPORT. Every command comes to an end and leaves the queue alone. A row's meaning ends in one of the outcome functions of Ops.lean, each of which answers
a next state with the queue of the state before it; so what a row does in between has no say in either.
-/
namespace Sys2Proof.Proofs.Queue
open Sys2Proof Sys2Proof.Machine

/-- From s a row comes to an end, and its next state has the queue of s. -/
def EndsWithQueue (s : State) (o : Host.Outcome State Fault Refusal) : Prop :=
  ∃ t, o = .next t ∧ t.pending = s.pending

/-! The outcome functions. -/

theorem finish_endsWithQueue (s t : State) : EndsWithQueue s (finish s t) :=
  ⟨_, rfl, announce_pending ..⟩

theorem finishTime_endsWithQueue (s : State) (tb : TimeBase) (t : State) : EndsWithQueue s (finishTime s tb t) :=
  ⟨_, rfl, announce_pending ..⟩

theorem finishPower_endsWithQueue (s : State) (tb : TimeBase) (t : State) : EndsWithQueue s (finishPower s tb t) :=
  ⟨_, rfl, announce_pending ..⟩

theorem finishFuse_endsWithQueue (s t : State) : EndsWithQueue s (finishFuse s t) :=
  ⟨_, rfl, announce_pending ..⟩

theorem finishMain_endsWithQueue (s t : State) : EndsWithQueue s (finishMain s t) :=
  finishPower_endsWithQueue s (tbAfter s t) t

/-! The rows that choose between ends: those of the time base and the start of main power. -/

theorem timeRow_endsWithQueue (s : State) (f : TimeRun → TimeRun) : EndsWithQueue s (timeRow s f) := by
  unfold timeRow
  split <;> exact finishTime_endsWithQueue s _ _

theorem execTbSet_endsWithQueue (port : HostPort) (value : Word64) (s : State) : EndsWithQueue s (execTbSet port value s) := by
  unfold execTbSet
  split
  · exact finishTime_endsWithQueue s _ _
  · split <;> exact finishTime_endsWithQueue s _ _

theorem execTbCtlWrite_endsWithQueue (port : HostPort) (value : Word64) (s : State) :
    EndsWithQueue s (execTbCtlWrite port value s) := by
  unfold execTbCtlWrite
  dsimp only
  split
  · exact finishTime_endsWithQueue s _ _
  · split <;> exact finishTime_endsWithQueue s _ _

theorem execMainPowerStart_endsWithQueue (s : State) : EndsWithQueue s (execMainPowerStart s) := by
  unfold execMainPowerStart
  split <;> exact finishTime_endsWithQueue s _ _

/-- The rows by the outcome function they end in: those of the time base and the start of main power, those with which main power may go, those that
may burn a fuse or answer a request, and the rest, which end in `finish`. -/
theorem exec_endsWithQueue (i : Instr) (s : State) : EndsWithQueue s (exec i s) := by
  cases i with
  | tbSet port value => exact execTbSet_endsWithQueue port value s
  | tbCtlWrite port value => exact execTbCtlWrite_endsWithQueue port value s
  | mainPowerStart => exact execMainPowerStart_endsWithQueue s
  | refPpsEdge | refPpsTimeout | refFreqLoss | toleranceWindowEnd | slewDone | slewHoldFine | holdoverDegrade | thefaWholeSecond =>
    -- To the row's own name first: unified at once, `timeRow` itself would be unfolded.
    dsimp only [exec]
    exact timeRow_endsWithQueue s _
  | undervoltageShutdown | overvoltageShutdown | coolantTimeout | pwrEnDeassert | auxLoss | watchdogExpiry | sensorSample =>
    exact finishMain_endsWithQueue s _
  | setSetting | persistMap | writeImage | commitImage | readArea | readLedger
  | segmentFailure | substituteSelftestDone | spareSelftestResult | clusterModeEntry | clusterModeReturn | tileHole
  | coreReset | clusterReset | partitionReset | moduleReset | resetDrainEnd
  | domainOvercurrent | vddlPhaseLoss | senseLineOpen | softStartTimeout | rampAbort =>
    exact finishFuse_endsWithQueue s _
  | _ => exact finish_endsWithQueue s _

/-- Settles O2: whichever outcome function a row ends in, it answers a next state with the queue it was given. -/
theorem everyCommandAnswers : Obligations.EveryCommandAnswers := by
  unfold Obligations.EveryCommandAnswers
  exact exec_endsWithQueue

end Sys2Proof.Proofs.Queue

/-!
SUPPORT. Outcomes and functions: what a row's outcome adds to its effect, and what the changes of a function's state leave alone (R404, R405, R480).
-/
namespace Sys2Proof.Proofs.Units
open Sys2Proof Sys2Proof.Machine

/-! The outcome of a row whose effect leaves the queue, the time base and, but for the requests' rows, the fuses. -/

theorem finish_next {s t : State} (hp : t.pending = s.pending) (ht : t.tb = s.tb) (hf : t.weala.fuses = s.weala.fuses) :
    finish s t = .next (announce s t) := by
  unfold finish; rw [← hp, ← ht, ← hf]

theorem finishFuse_next {s t : State} (hp : t.pending = s.pending) (ht : t.tb = s.tb) : finishFuse s t = .next (announce s t) := by
  unfold finishFuse; rw [← hp, ← ht]

theorem finishFuse_of_same {s t : State} (h1 : t.pw = s.pw) (h2 : t.fns = s.fns) (h3 : t.tb = s.tb) (h4 : t.pending = s.pending) :
    finishFuse s t = .next t := by
  rw [finishFuse_next h4 h3, announce_of_same s t h1 h2 h3]

/-- The state sensors read power, the module's own function and the time base (R480). -/
theorem stateSensor_congr {s t : State} (hpw : t.pw = s.pw) (hm : fnReady t fnModule = fnReady s fnModule) (htb : t.tb = s.tb) (n : Nat) :
    stateSensor t n = stateSensor s n := by
  unfold stateSensor quality; rw [hpw, hm, htb]

/-- Where no state sensor has changed, nobody is told anything (R480). -/
theorem announce_of_sensors {s t : State} (h : ∀ n, stateSensor t n = stateSensor s n) : announce s t = t := by
  have none : ([69, 70, 71].filter fun n => stateSensor s n != stateSensor t n) = [] := by simp [h]
  unfold announce
  rw [none]
  unfold sendOn forReceiver
  cases hr : t.weala.receiver with
  | none => cases receiverBinding t <;> simp [onSmb, onVdm]
  | some r => cases receiverBinding t <;> simp [onSmb, onVdm]

/-! A function's state. -/

theorem setFn_rest (s : State) (f st : Nat) : setFn s f st = { s with fns := (setFn s f st).fns } := by
  unfold setFn; split <;> rfl

theorem fnState_setFn_same (s : State) (f st : Nat) (h : st < 8) : fnState (setFn s f st) f = st := by
  unfold setFn
  split
  · rename_i e; exact eq_of_beq e
  · have : fnState { s with fns := tput {} s.fns f { state := BitVec.ofNat 3 st, quality := quality s, time := now s } } f = st % 2 ^ 3 := by
      simp [fnState, getFn]
    rw [this]; omega

theorem fnState_setFn_other (s : State) {f g : Nat} (st : Nat) (h : g ≠ f) : fnState (setFn s f st) g = fnState s g := by
  unfold setFn
  split
  · rfl
  · simp [fnState, getFn, tget_tput_other _ _ _ h]

theorem fnState_of (s t : State) (f : Nat) (h : t.fns = s.fns) : fnState t f = fnState s f := by simp [fnState, getFn, h]

theorem fnReady_iff (s : State) (f : Nat) : fnReady s f = true ↔ fnState s f = 3 := by simp [fnReady]

theorem fnCore_inj {c d : CoreNo} : fnCore c = fnCore d ↔ c = d := by
  unfold fnCore; rw [Fin.ext_iff]; omega

theorem fnCore_ne_module (c : CoreNo) : fnCore c ≠ fnModule := by unfold fnCore fnModule; omega

/-- The same over a list of functions that are all set to one state. -/
theorem fnState_foldl_setFn (l : List Nat) (s : State) (st f : Nat) (h : st < 8) :
    fnState (l.foldl (fun s g => setFn s g st) s) f = if f ∈ l then st else fnState s f := by
  induction l generalizing s with
  | nil => simp
  | cons g l ih =>
    rw [List.foldl_cons, ih]
    by_cases hl : f ∈ l
    · simp [hl]
    · by_cases hg : f = g
      · subst hg; simp [hl, fnState_setFn_same s f st h]
      · simp [hl, hg, fnState_setFn_other s st hg]

/-! What a change of functions leaves alone. -/

/-- From s to t nothing has changed but functions' states and what reports change. -/
def OnlyFns (s t : State) : Prop := OnlyReports { s with fns := t.fns } t

theorem OnlyReports.withFns {s t : State} (h : OnlyReports s t) (f : Tbl Fn) : OnlyReports { s with fns := f } { t with fns := f } :=
  ⟨(congrArg (fun x : State => { x with fns := f }) h.rest :), h.weala, h.rings, h.memory⟩

theorem OnlyFns.of_reports {s t : State} (h : OnlyReports s t) : OnlyFns s t := by
  have e : t.fns = s.fns := (congrArg (fun x : State => x.fns) h.rest :)
  unfold OnlyFns; rw [e]; exact h

theorem OnlyFns.refl (s : State) : OnlyFns s s := OnlyReports.refl s

theorem OnlyFns.trans {s t u : State} (h : OnlyFns s t) (k : OnlyFns t u) : OnlyFns s u :=
  (OnlyReports.withFns h u.fns).trans k

theorem onlyFns_setFn (s : State) (f st : Nat) : OnlyFns s (setFn s f st) := by
  unfold OnlyFns; rw [← setFn_rest]; exact .refl _

theorem onlyFns_raise (s : State) (ev : Event) : OnlyFns s (raise s ev) := .of_reports (onlyReports_raise s ev)

theorem onlyFns_announce (s t : State) : OnlyFns t (announce s t) := .of_reports (onlyReports_announce s t)

theorem onlyFns_settleModule (s : State) : OnlyFns s (settleModule s) := by
  unfold settleModule
  split
  · exact .refl s
  · split
    · exact .refl s
    · exact (onlyFns_setFn ..).trans (onlyFns_raise ..)

theorem onlyFns_fnUp (s : State) (f : Nat) : OnlyFns s (fnUp s f) := (onlyFns_setFn ..).trans (onlyFns_settleModule _)

theorem onlyFns_failFn (s : State) (f st c : Nat) : OnlyFns s (failFn s f st c) := by
  unfold failFn
  split
  · exact .refl s
  · dsimp only
    refine (onlyFns_setFn s f st).trans (OnlyFns.trans ?_ (onlyFns_settleModule _))
    split
    · exact onlyFns_raise ..
    · exact .refl _

section
variable {s t : State} (h : OnlyFns s t)
include h

theorem OnlyFns.beside : { besideReports t with fns := s.fns } = besideReports s :=
  (congrArg (fun x : State => { x with fns := s.fns }) h.rest :)
theorem OnlyFns.besideWork : { besideWork t with fns := s.fns } = besideWork s :=
  (congrArg (fun x : State => { x with fns := s.fns }) (besideWork_of_reports h) :)
theorem OnlyFns.cores : t.cores = s.cores := (congrArg (fun x : State => x.cores) h.rest :)
theorem OnlyFns.parts : t.parts = s.parts := (congrArg (fun x : State => x.parts) h.rest :)
theorem OnlyFns.tiles : t.tiles = s.tiles := (congrArg (fun x : State => x.tiles) h.rest :)
theorem OnlyFns.hbm : t.hbm = s.hbm := (congrArg (fun x : State => x.hbm) h.rest :)
theorem OnlyFns.xports : t.xports = s.xports := (congrArg (fun x : State => x.xports) h.rest :)
theorem OnlyFns.hports : t.hports = s.hports := (congrArg (fun x : State => x.hports) h.rest :)
theorem OnlyFns.mitten : t.mitten = s.mitten := (congrArg (fun x : State => x.mitten) h.rest :)
theorem OnlyFns.pending : t.pending = s.pending := (congrArg (fun x : State => x.pending) h.rest :)
theorem OnlyFns.tb : t.tb = s.tb := (congrArg (fun x : State => x.tb) h.rest :)
theorem OnlyFns.pw : t.pw = s.pw := (congrArg (fun x : State => x.pw) h.rest :)
theorem OnlyFns.fuses : t.weala.fuses = s.weala.fuses := (congrArg (fun x : Weala => x.fuses) h.weala :)
theorem OnlyFns.running : t.weala.running = s.weala.running := (congrArg (fun x : Weala => x.running) h.weala :)
theorem OnlyFns.mem {a : Nat} (ha : outsideRings s a) : memByte t a = memByte s a := h.memory a ha

end

/-! Which functions' states change. -/

theorem fnState_raise (s : State) (ev : Event) (f : Nat) : fnState (raise s ev) f = fnState s f := fnState_of _ _ _ (raise_fns ..)
@[simp] theorem fnState_announce (s t : State) (f : Nat) : fnState (announce s t) f = fnState t f := rfl
@[simp] theorem fnReady_announce (s t : State) (f : Nat) : fnReady (announce s t) f = fnReady t f := rfl

/-- Only the module's own function rises with the last of the others (START_DONE, R404). -/
theorem fnState_settleModule (s : State) {f : Nat} (h : f ≠ fnModule) : fnState (settleModule s) f = fnState s f := by
  unfold settleModule
  split
  · rfl
  · split
    · rfl
    · rw [fnState_raise, fnState_setFn_other s 3 h]

theorem fnState_fnUp_same (s : State) {f : Nat} (h : f ≠ fnModule) : fnState (fnUp s f) f = 3 := by
  unfold fnUp; rw [fnState_settleModule _ h, fnState_setFn_same s f 3 (by decide)]

theorem fnState_fnUp_other (s : State) {f g : Nat} (h : g ≠ fnModule) (hg : g ≠ f) : fnState (fnUp s f) g = fnState s g := by
  unfold fnUp; rw [fnState_settleModule _ h, fnState_setFn_other s 3 hg]

theorem fnState_failFn_same (s : State) {f st : Nat} (c : Nat) (h : f ≠ fnModule) (hst : st < 8) : fnState (failFn s f st c) f = st := by
  unfold failFn
  split
  · rename_i e; exact eq_of_beq e
  · dsimp only
    rw [fnState_settleModule _ h]
    split
    · rw [fnState_raise, fnState_setFn_same s f st hst]
    · rw [fnState_setFn_same s f st hst]

theorem fnState_failFn_other (s : State) {f g : Nat} (st c : Nat) (h : g ≠ fnModule) (hg : g ≠ f) : fnState (failFn s f st c) g = fnState s g := by
  unfold failFn
  split
  · rfl
  · dsimp only
    rw [fnState_settleModule _ h]
    split
    · rw [fnState_raise, fnState_setFn_other s st hg]
    · rw [fnState_setFn_other s st hg]

end Sys2Proof.Proofs.Units

/-!
SUPPORT. The service grade (R49) and MG_GRID_STATUS (R506).
-/
namespace Sys2Proof.Proofs.Grade
open Sys2Proof Sys2Proof.Machine

/-- A filtered list of numbers below n has at most n members. -/
theorem filter_finRange_length_le (n : Nat) (p : Fin n → Bool) : ((List.finRange n).filter p).length ≤ n := by
  simpa using List.length_filter_le p (List.finRange n)

/-- Holes and usable tiles together are the grid. -/
theorem holes_add_usable (s : State) : (allTiles.filter (isHole s)).length + (allTiles.filter fun t => !isHole s t).length = 64 := by
  have h := List.length_eq_length_filter_add (l := allTiles) (isHole s)
  rw [← h]; simp [allTiles]

theorem runningGrade_of_usable (s : State) :
    let usable := (allTiles.filter fun t => !isHole s t).length
    (usable = 64 → runningGrade s = 0) ∧ (62 ≤ usable → usable < 64 → runningGrade s = 1) ∧ (usable < 62 → runningGrade s = 2) := by
  have h := holes_add_usable s
  simp only [runningGrade]
  refine ⟨fun e => if_pos (by omega), fun l u => ?_, fun u => ?_⟩
  · rw [if_neg (by omega), if_pos (by omega)]
  · rw [if_neg (by omega), if_neg (by omega)]

/-- The grade reads the holes alone. -/
theorem runningGrade_congr {s t : State} (h : t.holes = s.holes) : runningGrade t = runningGrade s := by
  unfold runningGrade isHole; rw [h]

/-- MG_GRID_STATUS as a sum of its fields, each at its place. -/
theorem mgGridStatus_fields (s : State) : ∃ stored differs stks prts : Nat, stored < 4 ∧ differs < 2 ∧
    mgGridStatus s = s.holes.toNat + (runningGrade s).toNat * 2 ^ 64 + stored * 2 ^ 66 + differs * 2 ^ 68
      + ((List.finRange 256).filter (coreDegraded s)).length * 2 ^ 72
      + ((List.finRange 256).filter fun c => clusterState (mittenEntry s c) == 2).length * 2 ^ 81 + stks * 2 ^ 96 + prts * 2 ^ 102 := by
  have n9 (p : CoreNo → Bool) : ((List.finRange 256).filter p).length % 2 ^ 9 = ((List.finRange 256).filter p).length :=
    Nat.mod_eq_of_lt (by have := filter_finRange_length_le 256 p; omega)
  have g2 (g : BitVec 2) : g.toNat % 2 ^ 2 = g.toNat := Nat.mod_eq_of_lt g.isLt
  unfold mgGridStatus place bit
  dsimp only
  rw [n9, n9, g2, g2]
  simp only [Nat.shiftLeft_eq]
  split
  · exact ⟨_, 1, _, _, s.gradeStored.isLt, by decide, by rw [Nat.one_mul]⟩
  · exact ⟨_, 0, _, _, s.gradeStored.isLt, by decide, by rw [Nat.zero_mul]⟩

/-- Settles O14: the grade is a function of the holes, and the status word's fields are what they count. -/
theorem gradeCountsUsableTiles : Obligations.GradeCountsUsableTiles := by
  unfold Obligations.GradeCountsUsableTiles
  intro s
  obtain ⟨stored, differs, stks, prts, hstored, hdiffers, hs⟩ := mgGridStatus_fields s
  have hg : (runningGrade s).toNat < 4 := (runningGrade s).isLt
  have hh : s.holes.toNat < 2 ^ 64 := s.holes.isLt
  have hd : ((List.finRange 256).filter (coreDegraded s)).length ≤ 256 := filter_finRange_length_le ..
  have hr : ((List.finRange 256).filter fun c => clusterState (mittenEntry s c) == 2).length ≤ 256 := filter_finRange_length_le ..
  refine ⟨runningGrade_of_usable s, fun t h => runningGrade_congr h, ?_, ?_, ?_, ?_⟩ <;> rw [hs]
  · omega
  · omega
  · change _ = ((List.finRange 256).filter (coreDegraded s)).length
    omega
  · omega

end Sys2Proof.Proofs.Grade

/-!
SUPPORT. Requests to Weala: what answering one changes, what a change of a setting and a stored map leave, and how a request that arrives is served
(R403, R412 to R416, R425).
-/
namespace Sys2Proof.Proofs.Requests
open Sys2Proof Sys2Proof.Machine Sys2Proof.Proofs.Units Sys2Proof.Proofs.Grade

/-! Tables that a row of values is put into. -/

/-- Values put at consecutive places from `off + n` on. -/
theorem tget_putRow_from {α : Type} [DecidableEq α] (d : α) (l : List α) (off n : Nat) (t : Tbl α) (k : Nat) :
    tget d ((l.zipIdx n).foldl (fun t e => tput d t (off + e.2) e.1) t) k =
      if off + n ≤ k ∧ k < off + n + l.length then l.getD (k - (off + n)) d else tget d t k := by
  induction l generalizing n t with
  | nil => simp
  | cons x l ih =>
    rw [List.zipIdx_cons, List.foldl_cons, ih, tget_tput]
    simp only [List.length_cons]
    by_cases h : k = off + n
    · rw [if_neg (by omega), if_pos h, if_pos (by omega), h, Nat.sub_self]; rfl
    · by_cases hk : off + (n + 1) ≤ k ∧ k < off + (n + 1) + l.length
      · rw [if_pos hk, if_pos (by omega)]
        obtain ⟨j, rfl⟩ : ∃ j, k = off + n + (j + 1) := ⟨k - (off + n) - 1, by omega⟩
        rw [show off + n + (j + 1) - (off + n) = j + 1 by omega, show off + n + (j + 1) - (off + (n + 1)) = j by omega, List.getD_cons_succ]
      · rw [if_neg hk, if_neg h, if_neg (by omega)]

theorem tget_putRow {α : Type} [DecidableEq α] (d : α) (l : List α) (off : Nat) (t : Tbl α) (k : Nat) :
    tget d (l.zipIdx.foldl (fun t e => tput d t (off + e.2) e.1) t) k =
      if off ≤ k ∧ k < off + l.length then l.getD (k - off) d else tget d t k := tget_putRow_from d l off 0 t k

/-- An entry beside the one that is set reads as before, whatever its own default is. -/
theorem tget_tput_beside {α : Type} [DecidableEq α] (d e : α) (t : Tbl α) {j k : Nat} (v : α) (h : j ≠ k) :
    tget e (tput d t k v) j = tget e t j := by
  induction t with
  | nil => by_cases h2 : v = d <;> simp [tput, tget, h2, Ne.symm h]
  | cons x r ih =>
    obtain ⟨i, w⟩ := x
    by_cases h1 : k < i
    · by_cases h2 : v = d
      · subst h2; simp [tput, tget, h1, ih]
      · simp [tput, tget, h1, h2, Ne.symm h]
    · by_cases h3 : k = i
      · subst h3
        by_cases h2 : v = d
        · subst h2; simp [tput, tget, Ne.symm h, ih]
        · simp [tput, tget, h2, Ne.symm h]
      · simp [tput, tget, h1, h3, ih]

/-! What requests leave alone. -/

/-- Everything but what requests can change beside Weala itself: what reports change, and the grade of the map last stored. -/
def besideRequests (s : State) : State := { besideReports s with gradeStored := 0 }

/-- From s to t nothing has changed but what requests change, and where there are no rings there still are none. -/
def OnlyRequests (s t : State) : Prop := besideRequests t = besideRequests s ∧ (s.rings = [] → t.rings = [])

theorem OnlyRequests.refl (s : State) : OnlyRequests s s := ⟨rfl, id⟩
theorem OnlyRequests.trans {s t u : State} (h : OnlyRequests s t) (k : OnlyRequests t u) : OnlyRequests s u :=
  ⟨k.1.trans h.1, fun r => k.2 (h.2 r)⟩

/-- Weala, the grade and the free counter are the requests' own. -/
theorem onlyRequests_weala (s : State) (w : Weala) (g : BitVec 2) (n : Nat) : OnlyRequests s { s with weala := w, gradeStored := g, freeCtr := n } :=
  ⟨rfl, id⟩

theorem logEvent_rings (s : State) (ev : Event) : (logEvent s ev).rings = s.rings := by unfold logEvent; split <;> rfl

/-- Without rings an event reaches Weala's log at most. -/
theorem raise_rings_nil (s : State) (ev : Event) (h : s.rings = []) : (raise s ev).rings = [] := by
  have log : (if ev.platform then logEvent s ev else s).rings = [] := by
    split
    · rw [logEvent_rings, h]
    · exact h
  have del : (deliver (s.rings.length + 1) s ev).rings = [] := by
    unfold deliver; dsimp only; rw [log]; exact log
  unfold raise
  dsimp only
  split
  · exact del
  · exact del

theorem onlyRequests_raise (s : State) (ev : Event) : OnlyRequests s (raise s ev) :=
  ⟨(congrArg (fun x : State => { x with gradeStored := 0 }) (besideReports_raise s ev) :), raise_rings_nil s ev⟩

theorem onlyRequests_addAuditOpen (s : State) (k : Nat) : OnlyRequests s (addAuditOpen s k) := ⟨rfl, id⟩

section
variable {s t : State} (h : OnlyRequests s t)
include h

theorem OnlyRequests.besideWork : besideWork { t with weala := s.weala } = besideWork s :=
  (congrArg (fun x : State => Machine.besideWork { x with weala := s.weala }) h.1 :)
theorem OnlyRequests.pending : t.pending = s.pending := (congrArg (fun x : State => x.pending) h.1 :)
theorem OnlyRequests.tb : t.tb = s.tb := (congrArg (fun x : State => x.tb) h.1 :)
theorem OnlyRequests.pw : t.pw = s.pw := (congrArg (fun x : State => x.pw) h.1 :)
theorem OnlyRequests.fns : t.fns = s.fns := (congrArg (fun x : State => x.fns) h.1 :)

end

/-! Answering (R413, R425). -/

/-- The answer as it stands before a failure is reported. -/
def answered (s : State) (op : Nat) (src : ReqSource) (res : Byte) (d : List Byte) : State :=
  let s := { s with weala := { s.weala with reqResult := res, reqToken := srcToken src } }
  match src with
  | .bar0 _ _ => bufData s d
  | .mctp b _ => reply s b (.requestResult (BitVec.ofNat 8 op) res d)

theorem answerReq_eq (s : State) (op : Nat) (src : ReqSource) (res : Byte) (d : List Byte) :
    answerReq s op src res d =
      if 0x10 ≤ res.toNat then raise (addAuditOpen (answered s op src res d) 3) { code := 0x0073, args := [op, res.toNat, (srcToken src).toNat] }
      else answered s op src res d := by
  cases src <;> rfl

section
variable (s : State) (op : Nat) (src : ReqSource) (res : Byte) (d : List Byte)

theorem answerReq_result : (answerReq s op src res d).weala.reqResult = res := by
  rw [answerReq_eq]
  split
  · rw [raise_weala_reqResult]; cases src <;> rfl
  · cases src <;> rfl

theorem answerReq_token : (answerReq s op src res d).weala.reqToken = srcToken src := by
  rw [answerReq_eq]
  split
  · rw [raise_weala_reqToken]; cases src <;> rfl
  · cases src <;> rfl

theorem flashPart_raise (ev : Event) : flashPart (raise s ev).weala = flashPart s.weala :=
  (congrArg flashPart (onlyReports_raise s ev).weala :)

theorem flashPart_answerReq : flashPart (answerReq s op src res d).weala = flashPart s.weala := by
  rw [answerReq_eq]
  split
  · rw [flashPart_raise]; cases src <;> rfl
  · cases src <;> rfl

theorem onlyRequests_answerReq : OnlyRequests s (answerReq s op src res d) := by
  have h : OnlyRequests s (answered s op src res d) := by cases src <;> exact ⟨rfl, id⟩
  rw [answerReq_eq]
  split
  · exact h.trans ((onlyRequests_addAuditOpen ..).trans (onlyRequests_raise ..))
  · exact h

end

section
variable {w x : Weala} (h : flashPart w = flashPart x)
include h

theorem settings_of_flash : w.settings = x.settings := (congrArg Weala.settings h :)
theorem fuses_of_flash : w.fuses = x.fuses := (congrArg Weala.fuses h :)
theorem mapA_of_flash : w.mapA = x.mapA := (congrArg Weala.mapA h :)
theorem mapB_of_flash : w.mapB = x.mapB := (congrArg Weala.mapB h :)
theorem imageA_of_flash : w.imageA = x.imageA := (congrArg Weala.imageA h :)
theorem imageB_of_flash : w.imageB = x.imageB := (congrArg Weala.imageB h :)
theorem getImage_of_flash (b : Bool) : getImage w b = getImage x b := by
  unfold getImage; rw [imageA_of_flash h, imageB_of_flash h]

end

theorem settingValue_of {s t : State} (h : t.weala.settings = s.weala.settings) (id : Nat) : settingValue t id = settingValue s id := by
  unfold settingValue; rw [h]

/-! The change of a setting (R408, R409, R414): the fuse, the record, the value, the report. -/

/-- The ledger entry that the change of a limited setting burns (R414). -/
def ledgerEntries (s : State) (id : Nat) (v : BitVec 256) : List LedgerEntry :=
  if (changesAllowed id).isSome = true then
    [{ id := BitVec.ofNat 16 id, index := changesMade s.weala id + 1, time := now s, quality := quality s, epoch := s.tb.epoch, value := v }]
  else []

/-- The fuse of a change. -/
def burnFuse (s : State) (id : Nat) (v : BitVec 256) : State :=
  if (changesAllowed id).isSome then
    { s with weala := { s.weala with fuses := s.weala.fuses ++
        [{ id := BitVec.ofNat 16 id, index := changesMade s.weala id + 1, time := now s, quality := quality s, epoch := s.tb.epoch, value := v }] } }
  else s

/-- The value of a change, and the ledger's mirror. -/
def putSetting (s : State) (id : Nat) (v : BitVec 256) : State :=
  { s with weala := { s.weala with
    mirror := if (changesAllowed id).isSome then s.weala.fuses else s.weala.mirror
    settings := tput (BitVec.ofNat 256 (settingDefault id)) s.weala.settings id v } }

/-- The audit entry and the event of a change. -/
def reportSetting (s : State) (id : Nat) (v : BitVec 256) : State :=
  let s := addAuditOpen s (if id = 2 then 4 else 2)
  let left := if (changesAllowed id).isSome then (changesLeft s.weala id, s) else let r := freshWord s; (r.1.toNat, r.2)
  raise left.2 { code := 0x0072, args := [id, left.1, v.toNat % 2 ^ 64] }

theorem changeSetting_eq (s : State) (id : Nat) (v : BitVec 256) :
    changeSetting s id v = reportSetting (putSetting (writeRecord (burnFuse s id v) id v) id v) id v := rfl

/-- Weala but for what the change of a setting writes beside the ledger and the settings: records, the mirror and the logs. -/
def besideChange (w : Weala) : Weala :=
  { wealaBesideReports w with records := [], recordSeq := 0, activeBank := false, mirror := [], audit := [], auditSeq := 0 }

/-- A step of a change: Weala and the free counter alone. -/
def WealaStep (s t : State) : Prop := ∃ w k, t = { s with weala := w, freeCtr := k } ∧ besideChange w = besideChange s.weala

theorem WealaStep.withWeala {s t : State} (h : WealaStep s t) (w : Weala) (e : besideChange w = besideChange t.weala) : WealaStep s { t with weala := w } := by
  obtain ⟨x, k, rfl, hx⟩ := h
  exact ⟨w, k, rfl, e.trans hx⟩

theorem wealaStep_putRecordIn {s t : State} (b : Bool) (id : Nat) (v : BitVec 256) (h : WealaStep s t) : WealaStep s (putRecordIn t b id v) := by
  obtain ⟨w, k, rfl, hw⟩ := h
  exact ⟨_, _, rfl, hw⟩

theorem wealaStep_writeRecord (s : State) (id : Nat) (v : BitVec 256) : WealaStep s (writeRecord s id v) := by
  have self : WealaStep s s := ⟨_, _, rfl, rfl⟩
  unfold writeRecord
  dsimp only
  refine wealaStep_putRecordIn _ _ _ ?_
  split
  · exact self
  · refine WealaStep.withWeala (foldl_keeps (WealaStep s) _ settingIds s self ?_) _ rfl
    intro t i _ h
    split
    · exact wealaStep_putRecordIn _ _ _ h
    · exact h

/-- The report of a change: an audit entry, perhaps a free value, and the event. -/
theorem reportSetting_eq (s : State) (id : Nat) (v : BitVec 256) :
    ∃ t ev, WealaStep s t ∧ t.weala.settings = s.weala.settings ∧ t.weala.fuses = s.weala.fuses ∧ reportSetting s id v = raise t ev := by
  unfold reportSetting
  cases (changesAllowed id).isSome
  · refine ⟨_, _, ?_, ?_, ?_, rfl⟩
    · exact ⟨_, _, rfl, rfl⟩
    · rfl
    · rfl
  · refine ⟨_, _, ?_, ?_, ?_, rfl⟩
    · exact ⟨_, _, rfl, rfl⟩
    · rfl
    · rfl

theorem burnFuse_eq (s : State) (id : Nat) (v : BitVec 256) :
    burnFuse s id v = { s with weala := { s.weala with fuses := s.weala.fuses ++ ledgerEntries s id v } } := by
  unfold burnFuse ledgerEntries
  split
  · rfl
  · rw [List.append_nil]

/-- A change of a setting: its value, its ledger entry, and no more of Weala's flash but the records and the logs. -/
theorem changeSetting_spec (s : State) (id : Nat) (v : BitVec 256) :
    OnlyRequests s (changeSetting s id v) ∧
      (changeSetting s id v).weala.settings = tput (BitVec.ofNat 256 (settingDefault id)) s.weala.settings id v ∧
      besideChange { (changeSetting s id v).weala with settings := [], fuses := [] } = besideChange { s.weala with settings := [], fuses := [] } := by
  rw [changeSetting_eq, burnFuse_eq]
  obtain ⟨w, k, e, hw⟩ := wealaStep_writeRecord { s with weala := { s.weala with fuses := s.weala.fuses ++ ledgerEntries s id v } } id v
  rw [e]
  obtain ⟨t, ev, ⟨x, n, rfl, hx⟩, hset, -, e⟩ := reportSetting_eq (putSetting { s with weala := w, freeCtr := k } id v) id v
  rw [e]
  refine ⟨OnlyRequests.trans ⟨rfl, fun r => r⟩ (onlyRequests_raise ..), ?_, ?_⟩
  · rw [raise_weala_settings]
    refine hset.trans ?_
    exact (congrArg (fun x : Weala => tput (BitVec.ofNat 256 (settingDefault id)) x.settings id v) hw :)
  · refine (congrArg (fun w : Weala => besideChange { w with settings := [], fuses := [] }) (onlyReports_raise _ ev).weala :).trans ?_
    refine (congrArg (fun w : Weala => besideChange { w with settings := [], fuses := [] }) hx :).trans ?_
    exact (congrArg (fun w : Weala => besideChange { w with settings := [], fuses := [] }) hw :)

end Sys2Proof.Proofs.Requests

/-!
SUPPORT. How a request that arrives is served: authority, the flash, and each request's own work (R403, R407, R410, R413 to R416, R425).
-/
namespace Sys2Proof.Proofs.Requests
open Sys2Proof Sys2Proof.Machine Sys2Proof.Proofs.Units Sys2Proof.Proofs.Grade

/-! A request that arrives. -/

/-- The state in which an arriving request is served: MG_REQ_CMD holds the word that asked for it (R425). -/
def commandWritten (s : State) : ReqSource → State
  | .bar0 _ v => { s with weala := { s.weala with reqCmd := v } }
  | .mctp _ _ => s

section
variable (s : State) (src : ReqSource)

theorem onlyRequests_commandWritten : OnlyRequests s (commandWritten s src) := by cases src <;> exact ⟨rfl, fun r => r⟩
theorem flashPart_commandWritten : flashPart (commandWritten s src).weala = flashPart s.weala := by cases src <;> rfl
theorem settingValue_commandWritten (n : Nat) : settingValue (commandWritten s src) n = settingValue s n := by cases src <;> rfl
theorem changesLeft_commandWritten (n : Nat) : changesLeft (commandWritten s src).weala n = changesLeft s.weala n := by cases src <;> rfl
theorem authorised_commandWritten (i : Instr) : authorised (commandWritten s src) i = authorised s i := by cases src <;> rfl
theorem clearsDefect_commandWritten (es : List Word64) : clearsDefect (commandWritten s src) es = clearsDefect s es := by cases src <;> rfl
theorem runningPersists_commandWritten : runningPersists (commandWritten s src) = runningPersists s := by cases src <;> rfl
theorem slotFree_commandWritten (b : Bool) : slotFree (commandWritten s src) b = slotFree s b := by cases src <;> rfl

end

section
variable {s : State} {i : Instr} {src : ReqSource} (hs : reqSource i = some src)
include hs

theorem exec_of_source : exec i s = finishFuse s (request s i) := by
  unfold reqSource at hs
  split at hs
  case h_7 => cases hs
  all_goals rfl

theorem reqOp_of_source : 1 ≤ reqOp i ∧ reqOp i ≤ 6 := by
  unfold reqSource at hs
  split at hs
  case h_7 => cases hs
  all_goals simp [reqOp]

/-- What arrives is served at once. -/
theorem request_of_arrives (a : Arrives s i) : request s i = serve (commandWritten s src) i := by
  obtain ⟨hq, hw, hr⟩ := a
  have take (t : State) (hq : t.weala.reqQueue = []) (hw : mustWait t i = false) : takeRequest t i = serve t i := by
    unfold takeRequest; rw [hq, hw]; rfl
  rw [hs] at hr
  unfold request
  rw [hs]
  cases src with
  | mctp b tok =>
    dsimp only at hr ⊢
    rw [if_pos hr, take s hq hw]; rfl
  | bar0 port v =>
    obtain ⟨hopen, hpair, hop⟩ := hr
    obtain ⟨h1, h6⟩ := reqOp_of_source hs
    dsimp only
    rw [if_neg (by simp [hopen]), if_neg (by simp [hq]), if_neg (by simp [hpair]), if_neg (by omega), if_neg (by omega)]
    exact take _ hq hw

/-- What arrives and is answered: the outcome, and the answer's result and token. -/
theorem served (a : Arrives s i) {t : State} {r : Byte} {d : List Byte} (e : serve (commandWritten s src) i = answerReq t (reqOp i) src r d)
    (k : OnlyRequests s t) :
    ∃ u, exec i s = .next u ∧ u.weala.reqResult = r ∧ u.weala.reqToken = srcToken src ∧ flashPart u.weala = flashPart t.weala ∧ OnlyRequests s u ∧
      u = answerReq t (reqOp i) src r d := by
  have only := k.trans (onlyRequests_answerReq t (reqOp i) src r d)
  refine ⟨_, ?_, answerReq_result .., answerReq_token .., flashPart_answerReq .., only, rfl⟩
  rw [exec_of_source hs, request_of_arrives hs a, e]
  exact finishFuse_of_same only.pw only.fns only.tb only.pending

/-- The same where Weala has done nothing but answer. -/
theorem served_refusal (a : Arrives s i) {r : Byte} (e : serve (commandWritten s src) i = answerReq (commandWritten s src) (reqOp i) src r []) :
    ∃ u, exec i s = .next u ∧ u.weala.reqResult = r ∧ u.weala.reqToken = srcToken src ∧ flashPart u.weala = flashPart s.weala ∧ OnlyRequests s u := by
  obtain ⟨u, hu, hr, ht, hf, ho, -⟩ := served hs a e (onlyRequests_commandWritten s src)
  exact ⟨u, hu, hr, ht, hf.trans (flashPart_commandWritten s src), ho⟩

theorem serve_unauthorised (h : authorised s i = false) : serve s i = answerReq s (reqOp i) src resAuth [] := by
  unfold serve; rw [hs]; dsimp only; rw [if_pos (by simp [h])]

/-- With authority and a flash that can be written, a request does its work. -/
theorem serve_done (h : authorised s i = true) (hf : (reqAuth i).flashOk = true) : serve s i = doRequest s src i := by
  unfold serve; rw [hs]; dsimp only; rw [if_neg (by simp [h]), if_pos hf]

/-- A request refused on its own account is refused whatever the flash. -/
theorem serve_refused (h : authorised s i = true) {t : State} {r : Byte} {d : List Byte} (e : doRequest s src i = answerReq t (reqOp i) src r d)
    (hr : r ≠ resOk) : serve s i = answerReq t (reqOp i) src r d := by
  unfold serve; rw [hs]; dsimp only; rw [if_neg (by simp [h]), e]
  split
  · rfl
  · unfold flashFailed; rw [if_neg (by rw [answerReq_result]; exact fun k => hr k.2)]

/-- A request that reads goes on whatever the flash. -/
theorem serve_reading (h : authorised s i = true) (ho : 4 < reqOp i) : serve s i = doRequest s src i := by
  unfold serve; rw [hs]; dsimp only; rw [if_neg (by simp [h])]
  split
  · rfl
  · unfold flashFailed; rw [if_neg (by omega)]

/-- What would write the flash fails where it cannot be written (R416). -/
theorem serve_flashFailed (h : authorised s i = true) (hf : (reqAuth i).flashOk = false) (ho : reqOp i ≤ 4) {t : State} {d : List Byte}
    (e : doRequest s src i = answerReq t (reqOp i) src resOk d) : serve s i = answerReq s (reqOp i) src resFlash [] := by
  unfold serve; rw [hs]; dsimp only; rw [if_neg (by simp [h]), if_neg (by simp [hf]), e]
  unfold flashFailed
  rw [if_pos ⟨ho, answerReq_result ..⟩]

end

/-! SET_SETTING. -/

section
variable (s : State) (src : ReqSource) (id : BitVec 16) (v : BitVec 256)

theorem doSetSetting_argument (h : settingOk id.toNat v = false) : doSetSetting s src id v = answerReq s 1 src resArgument [] := by
  unfold doSetSetting; dsimp only; rw [if_pos (by simp [h])]

theorem doSetSetting_unchanged (h : settingOk id.toNat v = true) (hv : settingValue s id.toNat = v.toNat) :
    doSetSetting s src id v = answerReq s 1 src resUnchanged [] := by
  unfold doSetSetting; dsimp only; rw [if_neg (by simp [h]), if_pos (by simp [hv])]

theorem doSetSetting_exhausted (h : settingOk id.toNat v = true) (hv : settingValue s id.toNat ≠ v.toNat)
    (hl : (changesAllowed id.toNat).isSome = true ∧ changesLeft s.weala id.toNat = 0) :
    doSetSetting s src id v = answerReq s 1 src resExhausted [] := by
  unfold doSetSetting; dsimp only; rw [if_neg (by simp [h]), if_neg (by simp [hv]), if_pos (by simp [hl.1, hl.2])]

theorem doSetSetting_done (h : settingOk id.toNat v = true) (hv : settingValue s id.toNat ≠ v.toNat)
    (hl : ¬((changesAllowed id.toNat).isSome = true ∧ changesLeft s.weala id.toNat = 0)) :
    doSetSetting s src id v = answerReq (changeSetting s id.toNat v) 1 src resOk [] := by
  unfold doSetSetting; dsimp only; rw [if_neg (by simp [h]), if_neg (by simp [hv]), if_neg (by simpa using hl)]

theorem settingValue_changeSetting_same (n : Nat) : settingValue (changeSetting s n v) n = v.toNat := by
  unfold settingValue; rw [(changeSetting_spec s n v).2.1, tget_tput_same]

theorem settingValue_changeSetting_other {n k : Nat} (h : k ≠ n) : settingValue (changeSetting s n v) k = settingValue s k := by
  unfold settingValue; rw [(changeSetting_spec s n v).2.1, tget_tput_beside _ _ _ _ h]

end

/-! The stored map (R39, R410). -/

/-- The stored map's generation is a change that has been made. -/
theorem storedMap_generation {w : Weala} {m : MapCopy} (h : storedMap w = some m) : m.generation ≤ changesMade w 2 := by
  unfold storedMap at h
  dsimp only at h
  split at h
  case h_1 x e =>
    obtain rfl := Option.some.inj h
    exact (beq_iff_eq.mp (List.find?_some e :)).le
  case h_2 e =>
    have keep := foldl_keeps (fun acc : Option MapCopy => ∀ x, acc = some x → x.generation < changesMade w 2)
      (fun acc m => match acc with
        | none => some m
        | some b => some (if b.generation < m.generation then m else b))
      ([w.mapA, w.mapB].filter (·.ok) |>.filter fun m => decide (m.generation < changesMade w 2)) none (by simp) (by
        intro acc x hx ih y hy
        have lx : x.generation < changesMade w 2 := by simpa using (List.mem_filter.mp hx).2
        cases acc with
        | none => obtain rfl := Option.some.inj hy; exact lx
        | some b =>
          obtain rfl := Option.some.inj hy
          split
          · exact lx
          · exact ih b rfl)
    exact (keep m h).le

/-- The copy of the generation that the fuses count is the stored map, where no earlier copy has it too. -/
theorem storedMap_of_mapA {w : Weala} (hok : w.mapA.ok = true) (hg : w.mapA.generation = changesMade w 2) : storedMap w = some w.mapA := by
  unfold storedMap
  simp [hok, hg]

theorem storedMap_of_mapB {w : Weala} (hok : w.mapB.ok = true) (hg : w.mapB.generation = changesMade w 2)
    (ha : w.mapA.generation < changesMade w 2) : storedMap w = some w.mapB := by
  unfold storedMap
  cases h : w.mapA.ok <;> simp [hok, hg, h, ha.ne]

section
variable (s : State) (es : Tbl Word64) (g : BitVec 2)

/-- The copy that a map is stored as. -/
def storedCopy : MapCopy := { generation := changesMade s.weala 2 + 1, grade := g, entries := es, ok := true }

/-- The state in which the change that a new map makes is counted: the copy not in use holds it. -/
def copyWritten : State :=
  { s with weala := if storedMap s.weala == some s.weala.mapA then { s.weala with mapB := storedCopy s es g } else { s.weala with mapA := storedCopy s es g }
           gradeStored := g }

theorem storeMap_eq : storeMap s es g = changeSetting (copyWritten s es g) 2 (BitVec.ofNat 256 (changesMade s.weala 2 + 1)) := rfl

theorem changesMade_copyWritten : changesMade (copyWritten s es g).weala 2 = changesMade s.weala 2 := by
  unfold copyWritten; split <;> rfl

theorem onlyRequests_storeMap : OnlyRequests s (storeMap s es g) := by
  rw [storeMap_eq]
  exact OnlyRequests.trans (t := copyWritten s es g) ⟨rfl, fun r => r⟩ (changeSetting_spec _ _ _).1

theorem mapA_changeSetting (n : Nat) (v : BitVec 256) : (changeSetting s n v).weala.mapA = s.weala.mapA :=
  (congrArg Weala.mapA (changeSetting_spec s n v).2.2 :)
theorem mapB_changeSetting (n : Nat) (v : BitVec 256) : (changeSetting s n v).weala.mapB = s.weala.mapB :=
  (congrArg Weala.mapB (changeSetting_spec s n v).2.2 :)

/-- A stored map is one more change that the fuses count. -/
theorem changesMade_changeMap (v : BitVec 256) : changesMade (changeSetting s 2 v).weala 2 = changesMade s.weala 2 + 1 := by
  have e := fuses_changeSetting s 2 v
  rw [if_pos (by rfl)] at e
  unfold changesMade
  rw [e, List.filter_append, List.length_append]
  rfl

theorem changesMade_storeMap : changesMade (storeMap s es g).weala 2 = changesMade s.weala 2 + 1 := by
  rw [storeMap_eq, changesMade_changeMap, changesMade_copyWritten]

/-- A map that is stored is the stored map. -/
theorem storedMap_storeMap : storedMap (storeMap s es g).weala = some (storedCopy s es g) := by
  have hn := changesMade_storeMap s es g
  have hA : (storeMap s es g).weala.mapA = (copyWritten s es g).weala.mapA := mapA_changeSetting ..
  have hB : (storeMap s es g).weala.mapB = (copyWritten s es g).weala.mapB := mapB_changeSetting ..
  unfold copyWritten at hA hB
  by_cases h : storedMap s.weala = some s.weala.mapA
  · rw [if_pos (by simp [h])] at hA hB
    rw [storedMap_of_mapB, hB]
    · rw [hB]; rfl
    · rw [hB, hn]; rfl
    · rw [hA, hn]; exact Nat.lt_succ_of_le (storedMap_generation h)
  · rw [if_neg (by simpa using h)] at hA hB
    rw [storedMap_of_mapA, hA]
    · rw [hA]; rfl
    · rw [hA, hn]; rfl

end

/-! Areas (R413). -/

theorem areaBytes_succ (s : State) (a : FlashArea) (off n : Nat) : areaBytes s a off (n + 1) =
    match areaByte s.weala a (off + n) with
    | some b => ((areaBytes s a off n).1, (areaBytes s a off n).2 ++ [b])
    | none => ((freshByte (areaBytes s a off n).1).2, (areaBytes s a off n).2 ++ [(freshByte (areaBytes s a off n).1).1]) := by
  unfold areaBytes
  rw [List.range_succ, List.foldl_append]
  rfl

/-- The bytes of an area: as many as are asked for, the known ones where they stand; free values are taken for the rest. -/
theorem areaBytes_spec (s : State) (a : FlashArea) (off n : Nat) :
    (∃ k, (areaBytes s a off n).1 = { s with freeCtr := k }) ∧ (areaBytes s a off n).2.length = n ∧
      ∀ i b, i < n → areaByte s.weala a (off + i) = some b → (areaBytes s a off n).2[i]? = some b := by
  induction n with
  | zero => exact ⟨⟨_, rfl⟩, rfl, fun i b h => absurd h (Nat.not_lt_zero i)⟩
  | succ n ih =>
    obtain ⟨⟨k, hk⟩, hl, hb⟩ := ih
    have known (x : Byte) (i : Nat) (b : Byte) (hi : i < n + 1) (e : areaByte s.weala a (off + i) = some b)
        (hx : areaByte s.weala a (off + n) = some b → x = b) : ((areaBytes s a off n).2 ++ [x])[i]? = some b := by
      by_cases h : i < n
      · rw [List.getElem?_append_left (by omega)]; exact hb i b h e
      · obtain rfl : i = n := by omega
        rw [List.getElem?_append_right (by omega), hl, Nat.sub_self]
        exact congrArg some (hx e)
    rw [areaBytes_succ]
    split
    case h_1 b e =>
      refine ⟨⟨k, hk⟩, by simp [hl], fun i c hi hc => known b i c hi hc fun k => ?_⟩
      exact Option.some.inj (e.symm.trans k)
    case h_2 e =>
      refine ⟨?_, by simp [hl], fun i c hi hc => known _ i c hi hc fun k => ?_⟩
      · rw [hk]; exact ⟨_, rfl⟩
      · rw [e] at k; cases k

/-! Boot images (R407, R413). -/

/-- What a request writes to an image, and its audit entry. -/
theorem onlyRequests_imageWork (s : State) (b : Bool) (x : Image) (n : Nat) : OnlyRequests s (addAuditOpen (setImage s b x) n) := by
  cases b <;> exact ⟨rfl, fun r => r⟩

theorem getImage_imageWork_same (s : State) (b : Bool) (x : Image) (n : Nat) : getImage (addAuditOpen (setImage s b x) n).weala b = x := by
  cases b <;> rfl

theorem getImage_imageWork_other (s : State) (b : Bool) (x : Image) (n : Nat) :
    getImage (addAuditOpen (setImage s b x) n).weala (!b) = getImage s.weala (!b) := by
  cases b <;> rfl

theorem settings_imageWork (s : State) (b : Bool) (x : Image) (n : Nat) :
    (addAuditOpen (setImage s b x) n).weala.settings = s.weala.settings ∧ (addAuditOpen (setImage s b x) n).weala.fuses = s.weala.fuses := by
  cases b <;> exact ⟨rfl, rfl⟩

/-! What every request that writes the flash does. -/

/-- A request that writes the flash either does its work or is refused with nothing changed. -/
theorem doRequest_answers (s : State) {i : Instr} {src : ReqSource} (hs : reqSource i = some src) (ho : reqOp i ≤ 4) :
    (∃ t, OnlyRequests s t ∧ doRequest s src i = answerReq t (reqOp i) src resOk []) ∨ ∃ r, r ≠ resOk ∧ doRequest s src i = answerReq s (reqOp i) src r [] := by
  unfold reqSource at hs
  split at hs
  case h_1 x id v a =>
    show (∃ t, OnlyRequests s t ∧ doSetSetting s src id v = answerReq t 1 src resOk []) ∨ ∃ r, r ≠ resOk ∧ doSetSetting s src id v = answerReq s 1 src r []
    unfold doSetSetting
    dsimp only
    split
    · exact .inr ⟨_, by decide, rfl⟩
    · split
      · exact .inr ⟨_, by decide, rfl⟩
      · split
        · exact .inr ⟨_, by decide, rfl⟩
        · exact .inl ⟨_, (changeSetting_spec ..).1, rfl⟩
  case h_2 x m a =>
    show (∃ t, OnlyRequests s t ∧ doPersistMap s src m = answerReq t 2 src resOk []) ∨ ∃ r, r ≠ resOk ∧ doPersistMap s src m = answerReq s 2 src r []
    unfold doPersistMap
    split
    · exact .inr ⟨_, by decide, rfl⟩
    · cases m with
      | none =>
        dsimp only
        split
        · exact .inl ⟨_, onlyRequests_storeMap .., rfl⟩
        · exact .inr ⟨_, by decide, rfl⟩
      | some o =>
        dsimp only
        split
        · exact .inr ⟨_, by decide, rfl⟩
        · split
          · exact .inr ⟨_, by decide, rfl⟩
          · exact .inl ⟨_, onlyRequests_storeMap .., rfl⟩
  case h_3 x b off d a =>
    show (∃ t, OnlyRequests s t ∧ doWriteImage s src b off d = answerReq t 3 src resOk []) ∨ ∃ r, r ≠ resOk ∧ doWriteImage s src b off d = answerReq s 3 src r []
    unfold doWriteImage
    split
    · exact .inr ⟨_, by decide, rfl⟩
    · exact .inl ⟨_, onlyRequests_imageWork .., rfl⟩
  case h_4 x b v g c a =>
    show (∃ t, OnlyRequests s t ∧ doCommitImage s src b v g c = answerReq t 4 src resOk []) ∨ ∃ r, r ≠ resOk ∧ doCommitImage s src b v g c = answerReq s 4 src r []
    unfold doCommitImage
    split
    · exact .inr ⟨_, by decide, rfl⟩
    · split
      · exact .inr ⟨_, by decide, rfl⟩
      · exact .inl ⟨_, onlyRequests_imageWork .., rfl⟩
  case h_5 => simp [reqOp] at ho
  case h_6 => simp [reqOp] at ho
  case h_7 => cases hs

/-! What any request leaves alone. -/

/-- READ_LEDGER takes free values and answers. -/
theorem doReadLedger_eq (s : State) (src : ReqSource) : ∃ k d, doReadLedger s src = answerReq { s with freeCtr := k } 6 src resOk d := by
  unfold doReadLedger
  dsimp only
  generalize hr : List.foldl _ ((s, []) : State × List Byte) _ = r
  have free : ∃ k, r.1 = { s with freeCtr := k } := by
    rw [← hr]
    exact foldl_keeps (fun r : State × List Byte => ∃ k, r.1 = { s with freeCtr := k }) _ _ _ ⟨_, rfl⟩ fun r _ _ ⟨k, e⟩ => by rw [e]; exact ⟨_, rfl⟩
  obtain ⟨k, hk⟩ := free
  exact ⟨k, r.2, by rw [hk]⟩

theorem onlyRequests_doReadArea (s : State) (src : ReqSource) (a : FlashArea) (off n : Nat) : OnlyRequests s (doReadArea s src a off n) := by
  unfold doReadArea
  split
  · obtain ⟨⟨k, hk⟩, -⟩ := areaBytes_spec s a off n
    dsimp only
    rw [hk]
    exact (onlyRequests_weala s s.weala s.gradeStored k).trans (onlyRequests_answerReq ..)
  · exact onlyRequests_answerReq ..

theorem onlyRequests_doRequest (s : State) {i : Instr} {src : ReqSource} (hs : reqSource i = some src) : OnlyRequests s (doRequest s src i) := by
  by_cases ho : reqOp i ≤ 4
  · rcases doRequest_answers s hs ho with ⟨t, k, e⟩ | ⟨r, -, e⟩
    · rw [e]; exact k.trans (onlyRequests_answerReq ..)
    · rw [e]; exact onlyRequests_answerReq ..
  · unfold reqSource at hs
    split at hs
    case h_5 => exact onlyRequests_doReadArea ..
    case h_6 x a =>
      obtain ⟨k, d, e⟩ := doReadLedger_eq s src
      show OnlyRequests s (doReadLedger s src)
      rw [e]
      exact (onlyRequests_weala s s.weala s.gradeStored k).trans (onlyRequests_answerReq ..)
    case h_7 => cases hs
    all_goals exact absurd (by simp [reqOp]) ho

theorem onlyRequests_serve (s : State) (i : Instr) : OnlyRequests s (serve s i) := by
  unfold serve
  split
  · exact .refl s
  · rename_i src hs
    split
    · exact onlyRequests_answerReq ..
    · split
      · exact onlyRequests_doRequest s hs
      · unfold flashFailed
        split
        · exact onlyRequests_answerReq ..
        · exact onlyRequests_doRequest s hs

theorem onlyRequests_serveWaiting (n : Nat) (s : State) : OnlyRequests s (serveWaiting s n) := by
  induction n generalizing s with
  | zero => exact .refl s
  | succ n ih =>
    unfold serveWaiting
    split
    · exact .refl s
    · split
      · exact .refl s
      · exact OnlyRequests.trans (onlyRequests_weala s _ s.gradeStored s.freeCtr) ((onlyRequests_serve _ _).trans (ih _))

theorem onlyRequests_serveAll (s : State) : OnlyRequests s (serveAll s) := onlyRequests_serveWaiting _ s

/-- Where no request waits, none is served. -/
theorem serveAll_of_idle {s : State} (h : s.weala.reqQueue = []) : serveAll s = s := by
  unfold serveAll; rw [h]; rfl

end Sys2Proof.Proofs.Requests

/-!
OBLIGATION O54. Requests to Weala are served (R39, R403, R407, R410, R412 to R416, R425).
-/
namespace Sys2Proof.Proofs.Requests
open Sys2Proof Sys2Proof.Machine Sys2Proof.Proofs.Units Sys2Proof.Proofs.Grade

theorem unauthorised_refused (s : State) (i : Instr) (src : ReqSource) (hs : reqSource i = some src) (a : Arrives s i) (ha : authorised s i = false) :
    ∃ u, exec i s = .next u ∧ u.weala.reqResult = resAuth ∧ u.weala.reqToken = srcToken src ∧ flashPart u.weala = flashPart s.weala ∧
      OnlyRequests s u :=
  served_refusal hs a (serve_unauthorised hs (by rw [authorised_commandWritten, ha]))

/-- What would write a flash that cannot be written is answered otherwise than OK. -/
theorem flash_unwritable (s : State) (i : Instr) (src : ReqSource) (hs : reqSource i = some src) (a : Arrives s i) (ha : authorised s i = true)
    (hf : (reqAuth i).flashOk = false) (ho : reqOp i ≤ 4) :
    ∃ u, exec i s = .next u ∧ u.weala.reqResult ≠ resOk ∧ u.weala.reqToken = srcToken src ∧ flashPart u.weala = flashPart s.weala := by
  have hc : authorised (commandWritten s src) i = true := by rw [authorised_commandWritten, ha]
  rcases doRequest_answers (commandWritten s src) hs ho with ⟨t, -, e⟩ | ⟨r, hr, e⟩
  · obtain ⟨u, hu, hres, htok, hfl, -⟩ := served_refusal hs a (serve_flashFailed hs hc hf ho e)
    exact ⟨u, hu, by rw [hres]; decide, htok, hfl⟩
  · obtain ⟨u, hu, hres, htok, hfl, -⟩ := served_refusal hs a (serve_refused hs hc e hr)
    exact ⟨u, hu, by rw [hres]; exact hr, htok, hfl⟩

/-- What would write the flash is answered. -/
theorem writer_answered (s : State) (i : Instr) (src : ReqSource) (hs : reqSource i = some src) (a : Arrives s i) (ha : authorised s i = true)
    (ho : reqOp i ≤ 4) : ∃ u, exec i s = .next u ∧ u.weala.reqToken = srcToken src := by
  have hc : authorised (commandWritten s src) i = true := by rw [authorised_commandWritten, ha]
  by_cases hf : (reqAuth i).flashOk = true
  · rcases doRequest_answers (commandWritten s src) hs ho with ⟨t, k, e⟩ | ⟨r, hr, e⟩
    · obtain ⟨u, hu, -, htok, -⟩ := served hs a ((serve_done hs hc hf).trans e) ((onlyRequests_commandWritten s src).trans k)
      exact ⟨u, hu, htok⟩
    · obtain ⟨u, hu, -, htok, -⟩ := served_refusal hs a (serve_refused hs hc e hr)
      exact ⟨u, hu, htok⟩
  · obtain ⟨u, hu, -, htok, -⟩ := flash_unwritable s i src hs a ha (by simpa using hf) ho
    exact ⟨u, hu, htok⟩

theorem setSetting_served (s : State) (src : ReqSource) (id : BitVec 16) (v : BitVec 256) (a : Auth) (ha : Arrives s (.setSetting src id v a))
    (hauth : authorised s (.setSetting src id v a) = true) :
    ∃ u, exec (.setSetting src id v a) s = .next u ∧ u.weala.reqToken = srcToken src ∧ besideWork { u with weala := s.weala } = besideWork s ∧
      (if settingOk id.toNat v = false then u.weala.reqResult = resArgument ∧ u.weala.settings = s.weala.settings ∧ u.weala.fuses = s.weala.fuses
       else if settingValue s id.toNat = v.toNat then u.weala.reqResult = resUnchanged ∧ u.weala.settings = s.weala.settings ∧ u.weala.fuses = s.weala.fuses
       else if (changesAllowed id.toNat).isSome = true ∧ changesLeft s.weala id.toNat = 0 then
         u.weala.reqResult = resExhausted ∧ u.weala.settings = s.weala.settings ∧ u.weala.fuses = s.weala.fuses
       else if a.flashOk = false then u.weala.reqResult = resFlash ∧ u.weala.settings = s.weala.settings ∧ u.weala.fuses = s.weala.fuses
       else u.weala.reqResult = resOk ∧ settingValue u id.toNat = v.toNat ∧ (∀ n, n ≠ id.toNat → settingValue u n = settingValue s n) ∧
         u.weala.fuses = s.weala.fuses ++ (if (changesAllowed id.toNat).isSome then
           [{ id := id, index := changesMade s.weala id.toNat + 1, time := now s, quality := quality s, epoch := s.tb.epoch, value := v }] else [])) := by
  have hc : authorised (commandWritten s src) (.setSetting src id v a) = true := by rw [authorised_commandWritten, hauth]
  have hs : reqSource (.setSetting src id v a) = some src := rfl
  have refused {r : Byte} (e : serve (commandWritten s src) (.setSetting src id v a) = answerReq (commandWritten s src) 1 src r []) :
      ∃ u, exec (.setSetting src id v a) s = .next u ∧ u.weala.reqToken = srcToken src ∧ besideWork { u with weala := s.weala } = besideWork s ∧
        u.weala.reqResult = r ∧ u.weala.settings = s.weala.settings ∧ u.weala.fuses = s.weala.fuses := by
    obtain ⟨u, hu, hres, htok, hfl, ho⟩ := served_refusal hs ha e
    exact ⟨u, hu, htok, ho.besideWork, hres, settings_of_flash hfl, fuses_of_flash hfl⟩
  by_cases h1 : settingOk id.toNat v = false
  · simp only [if_pos h1]
    exact refused (serve_refused hs hc (doSetSetting_argument _ _ _ _ h1) (by decide))
  simp only [if_neg h1]
  rw [Bool.not_eq_false] at h1
  by_cases h2 : settingValue s id.toNat = v.toNat
  · simp only [if_pos h2]
    exact refused (serve_refused hs hc (doSetSetting_unchanged _ _ _ _ h1 (by rw [settingValue_commandWritten, h2])) (by decide))
  simp only [if_neg h2]
  have h2c : settingValue (commandWritten s src) id.toNat ≠ v.toNat := by rw [settingValue_commandWritten]; exact h2
  by_cases h3 : (changesAllowed id.toNat).isSome = true ∧ changesLeft s.weala id.toNat = 0
  · simp only [if_pos h3]
    exact refused (serve_refused hs hc (doSetSetting_exhausted _ _ _ _ h1 h2c (by rw [changesLeft_commandWritten]; exact h3)) (by decide))
  simp only [if_neg h3]
  have done := doSetSetting_done (commandWritten s src) src id v h1 h2c (by rw [changesLeft_commandWritten]; exact h3)
  by_cases h4 : a.flashOk = false
  · simp only [if_pos h4]
    exact refused (serve_flashFailed hs hc h4 (by simp [reqOp]) done)
  simp only [if_neg h4]
  obtain ⟨u, hu, hres, htok, hfl, ho, -⟩ := served hs ha ((serve_done hs hc (by simpa using h4 : a.flashOk = true)).trans done)
    ((onlyRequests_commandWritten s src).trans (changeSetting_spec ..).1)
  refine ⟨u, hu, htok, ho.besideWork, hres, ?_, fun n hn => ?_, ?_⟩
  · rw [settingValue_of (settings_of_flash hfl), settingValue_changeSetting_same]
  · rw [settingValue_of (settings_of_flash hfl), settingValue_changeSetting_other _ _ hn, settingValue_commandWritten]
  · rw [fuses_of_flash hfl, fuses_changeSetting]
    have e : (commandWritten s src).weala.fuses = s.weala.fuses := fuses_of_flash (flashPart_commandWritten s src)
    have m : changesMade (commandWritten s src).weala id.toNat = changesMade s.weala id.toNat := by unfold changesMade; rw [e]
    have q : quality (commandWritten s src) = quality s ∧ now (commandWritten s src) = now s ∧ (commandWritten s src).tb = s.tb := by
      cases src <;> exact ⟨rfl, rfl, rfl⟩
    rw [e, m, q.1, q.2.1, q.2.2, BitVec.ofNat_toNat, BitVec.setWidth_eq]
    split
    · rfl
    · rw [List.append_nil]

/-! PERSIST_MAP. -/

section
variable (s : State) (src : ReqSource)

theorem doPersistMap_exhausted (m : Option OfferedMap) (h : changesLeft s.weala 2 = 0) : doPersistMap s src m = answerReq s 2 src resExhausted [] := by
  unfold doPersistMap; rw [if_pos (by simp [h])]

theorem doPersistMap_running (h : changesLeft s.weala 2 ≠ 0) : doPersistMap s src none =
    if runningPersists s then answerReq (storeMap s s.mitten (runningGrade s)) 2 src resOk [] else answerReq s 2 src resArgument [] := by
  unfold doPersistMap; rw [if_neg (by simp [h])]

/-- A map that would clear a stored defect is refused without Camormet's signature (R39). -/
theorem doPersistMap_unsigned {o : OfferedMap} (h : changesLeft s.weala 2 ≠ 0) (hd : clearsDefect s o.entries = true) (hg : o.camormetSigned = false) :
    ∃ r, r ≠ resOk ∧ doPersistMap s src (some o) = answerReq s 2 src r [] := by
  unfold doPersistMap
  rw [if_neg (by simp [h])]
  dsimp only
  split
  · exact ⟨_, by decide, rfl⟩
  · rw [if_pos (by simp [hd, hg])]
    exact ⟨_, by decide, rfl⟩

end

theorem persistMap_exhausted (s : State) (src : ReqSource) (m : Option OfferedMap) (a : Auth) (ha : Arrives s (.persistMap src m a))
    (hauth : authorised s (.persistMap src m a) = true) (h : changesLeft s.weala 2 = 0) :
    ∃ u, exec (.persistMap src m a) s = .next u ∧ u.weala.reqToken = srcToken src ∧ u.weala.reqResult = resExhausted ∧
      flashPart u.weala = flashPart s.weala := by
  obtain ⟨u, hu, hres, htok, hfl, -⟩ := served_refusal (src := src) rfl ha (serve_refused rfl (by rw [authorised_commandWritten, hauth])
    (doPersistMap_exhausted _ src m (by rw [changesLeft_commandWritten, h])) (by decide))
  exact ⟨u, hu, htok, hres, hfl⟩

theorem persistMap_unformed (s : State) (src : ReqSource) (a : Auth) (ha : Arrives s (.persistMap src none a))
    (hauth : authorised s (.persistMap src none a) = true) (h : changesLeft s.weala 2 ≠ 0) (hp : runningPersists s = false) :
    ∃ u, exec (.persistMap src none a) s = .next u ∧ u.weala.reqToken = srcToken src ∧ u.weala.reqResult = resArgument ∧
      flashPart u.weala = flashPart s.weala := by
  have e := doPersistMap_running (commandWritten s src) src (by rw [changesLeft_commandWritten]; exact h)
  rw [if_neg (by simp [runningPersists_commandWritten, hp])] at e
  obtain ⟨u, hu, hres, htok, hfl, -⟩ := served_refusal (src := src) rfl ha
    (serve_refused rfl (by rw [authorised_commandWritten, hauth]) e (by decide))
  exact ⟨u, hu, htok, hres, hfl⟩

/-- The running map, persisted, is the stored one (R39, R410). -/
theorem persistMap_stored (s : State) (src : ReqSource) (a : Auth) (ha : Arrives s (.persistMap src none a))
    (hauth : authorised s (.persistMap src none a) = true) (h : changesLeft s.weala 2 ≠ 0) (hp : runningPersists s = true) (hf : a.flashOk = true) :
    ∃ u, exec (.persistMap src none a) s = .next u ∧ u.weala.reqToken = srcToken src ∧ u.weala.reqResult = resOk ∧
      changesMade u.weala 2 = changesMade s.weala 2 + 1 ∧ ∃ x, storedMap u.weala = some x ∧ x.entries = s.mitten ∧ x.grade = runningGrade s := by
  have hf' : (reqAuth (.persistMap src none a)).flashOk = true := hf
  have e := doPersistMap_running (commandWritten s src) src (by rw [changesLeft_commandWritten]; exact h)
  rw [if_pos (by rw [runningPersists_commandWritten, hp])] at e
  obtain ⟨u, hu, hres, htok, hfl, -⟩ := served (src := src) rfl ha ((serve_done rfl (by rw [authorised_commandWritten, hauth]) hf').trans e)
    ((onlyRequests_commandWritten s src).trans (onlyRequests_storeMap ..))
  have made : changesMade u.weala 2 = changesMade (storeMap (commandWritten s src) (commandWritten s src).mitten
      (runningGrade (commandWritten s src))).weala 2 := by
    unfold changesMade; rw [fuses_of_flash hfl]
  have stored : storedMap u.weala = storedMap (storeMap (commandWritten s src) (commandWritten s src).mitten
      (runningGrade (commandWritten s src))).weala := by
    unfold storedMap; rw [made, mapA_of_flash hfl, mapB_of_flash hfl]
  refine ⟨u, hu, htok, hres, ?_, _, stored.trans (storedMap_storeMap ..), ?_, ?_⟩
  · rw [made, changesMade_storeMap]; cases src <;> rfl
  · cases src <;> rfl
  · cases src <;> rfl

theorem persistMap_unsigned (s : State) (src : ReqSource) (o : OfferedMap) (a : Auth) (ha : Arrives s (.persistMap src (some o) a))
    (hauth : authorised s (.persistMap src (some o) a) = true) (h : changesLeft s.weala 2 ≠ 0) (hd : clearsDefect s o.entries = true)
    (hg : o.camormetSigned = false) :
    ∃ u, exec (.persistMap src (some o) a) s = .next u ∧ u.weala.reqToken = srcToken src ∧ u.weala.reqResult ≠ resOk ∧
      flashPart u.weala = flashPart s.weala := by
  obtain ⟨r, hr, e⟩ := doPersistMap_unsigned (commandWritten s src) src (by rw [changesLeft_commandWritten]; exact h)
    (by rw [clearsDefect_commandWritten]; exact hd) hg
  obtain ⟨u, hu, hres, htok, hfl, -⟩ := served_refusal (src := src) rfl ha
    (serve_refused rfl (by rw [authorised_commandWritten, hauth]) e hr)
  exact ⟨u, hu, htok, by rw [hres]; exact hr, hfl⟩

theorem persistMap_served (s : State) (src : ReqSource) (m : Option OfferedMap) (a : Auth) (ha : Arrives s (.persistMap src m a))
    (hauth : authorised s (.persistMap src m a) = true) :
    ∃ u, exec (.persistMap src m a) s = .next u ∧ u.weala.reqToken = srcToken src ∧
      (changesLeft s.weala 2 = 0 → u.weala.reqResult = resExhausted ∧ u.weala.mapA = s.weala.mapA ∧ u.weala.mapB = s.weala.mapB) ∧
      (changesLeft s.weala 2 ≠ 0 → m = none → runningPersists s = false → u.weala.reqResult = resArgument ∧ flashPart u.weala = flashPart s.weala) ∧
      (changesLeft s.weala 2 ≠ 0 → m = none → runningPersists s = true → a.flashOk = true → u.weala.reqResult = resOk ∧
        changesMade u.weala 2 = changesMade s.weala 2 + 1 ∧ ∃ x, storedMap u.weala = some x ∧ x.entries = s.mitten ∧ x.grade = runningGrade s) ∧
      (∀ o, changesLeft s.weala 2 ≠ 0 → m = some o → clearsDefect s o.entries = true → o.camormetSigned = false → u.weala.reqResult ≠ resOk ∧
        u.weala.mapA = s.weala.mapA ∧ u.weala.mapB = s.weala.mapB) := by
  by_cases h : changesLeft s.weala 2 = 0
  · obtain ⟨u, hu, htok, hres, hfl⟩ := persistMap_exhausted s src m a ha hauth h
    exact ⟨u, hu, htok, fun _ => ⟨hres, mapA_of_flash hfl, mapB_of_flash hfl⟩, fun k => absurd h k, fun k => absurd h k, fun _ k => absurd h k⟩
  cases m with
  | none =>
    by_cases hp : runningPersists s = true
    · by_cases hf : a.flashOk = true
      · obtain ⟨u, hu, htok, done⟩ := persistMap_stored s src a ha hauth h hp hf
        exact ⟨u, hu, htok, fun k => absurd k h, fun _ _ k => by simp [hp] at k, fun _ _ _ _ => done, fun o _ k => by cases k⟩
      · obtain ⟨u, hu, htok⟩ := writer_answered s _ src rfl ha hauth (by simp [reqOp])
        exact ⟨u, hu, htok, fun k => absurd k h, fun _ _ k => by simp [hp] at k, fun _ _ _ k => absurd k hf, fun o _ k => by cases k⟩
    · obtain ⟨u, hu, htok, done⟩ := persistMap_unformed s src a ha hauth h (by simpa using hp)
      exact ⟨u, hu, htok, fun k => absurd k h, fun _ _ _ => done, fun _ _ k => absurd k hp, fun o _ k => by cases k⟩
  | some o =>
    by_cases hd : clearsDefect s o.entries = true ∧ o.camormetSigned = false
    · obtain ⟨u, hu, htok, hres, hfl⟩ := persistMap_unsigned s src o a ha hauth h hd.1 hd.2
      exact ⟨u, hu, htok, fun k => absurd k h, fun _ k => (by cases k), fun _ k => (by cases k), fun _ _ _ _ _ => ⟨hres, mapA_of_flash hfl, mapB_of_flash hfl⟩⟩
    · obtain ⟨u, hu, htok⟩ := writer_answered s _ src rfl ha hauth (by simp [reqOp])
      refine ⟨u, hu, htok, fun k => absurd k h, fun _ k => (by cases k), fun _ k => (by cases k), fun x _ k hx hy => absurd ⟨?_, ?_⟩ hd⟩
      · rw [Option.some.inj k]; exact hx
      · rw [Option.some.inj k]; exact hy

/-! Boot images, areas and the ledger. -/

theorem writeImage_served (s : State) (src : ReqSource) (b : Bool) (off : Nat) (d : List Byte) (a : Auth) (ha : Arrives s (.writeImage src b off d a))
    (hauth : authorised s (.writeImage src b off d a) = true) (hf : a.flashOk = true) :
    ∃ u, exec (.writeImage src b off d a) s = .next u ∧ u.weala.settings = s.weala.settings ∧ u.weala.fuses = s.weala.fuses ∧
      getImage u.weala (!b) = getImage s.weala (!b) ∧
      (if slotFree s b = true ∧ d.length ≤ 3840 ∧ off + d.length ≤ 2 ^ 24 then
         u.weala.reqResult = resOk ∧ (getImage u.weala b).signed = false ∧ (∀ i, i < d.length → tget 0 (getImage u.weala b).data (off + i) = d.getD i 0) ∧
         ∀ i, i < off ∨ off + d.length ≤ i → tget 0 (getImage u.weala b).data i = tget 0 (getImage s.weala b).data i
       else u.weala.reqResult = resArgument ∧ getImage u.weala b = getImage s.weala b) := by
  have hc : authorised (commandWritten s src) (.writeImage src b off d a) = true := by rw [authorised_commandWritten, hauth]
  have flash := flashPart_commandWritten s src
  have todo : doRequest (commandWritten s src) src (.writeImage src b off d a) = doWriteImage (commandWritten s src) src b off d := rfl
  unfold doWriteImage at todo
  rw [slotFree_commandWritten] at todo
  by_cases h : slotFree s b = true ∧ d.length ≤ 3840 ∧ off + d.length ≤ 2 ^ 24
  · rw [if_neg (by simp only [h.1, h.2]; decide)] at todo
    obtain ⟨u, hu, hres, htok, hfl, -⟩ := served (src := src) rfl ha ((serve_done rfl hc hf).trans todo)
      ((onlyRequests_commandWritten s src).trans (onlyRequests_imageWork ..))
    refine ⟨u, hu, ?_, ?_, ?_, ?_⟩
    · rw [settings_of_flash hfl, (settings_imageWork ..).1, settings_of_flash flash]
    · rw [fuses_of_flash hfl, (settings_imageWork ..).2, fuses_of_flash flash]
    · rw [getImage_of_flash hfl, getImage_imageWork_other, getImage_of_flash flash]
    · rw [if_pos h, getImage_of_flash hfl, getImage_imageWork_same]
      refine ⟨hres, rfl, fun i hi => ?_, fun i hi => ?_⟩
      · rw [tget_putRow, if_pos (by omega), Nat.add_sub_cancel_left]
      · rw [tget_putRow, if_neg (by omega), getImage_of_flash flash]
  · have refused : (!slotFree s b || !decide (d.length ≤ 3840 ∧ off + d.length ≤ 2 ^ 24)) = true := by
      rw [← Bool.not_and, Bool.not_eq_true', Bool.and_eq_false_iff, decide_eq_false_iff_not, ← Bool.not_eq_true, ← not_and_or]
      exact h
    rw [if_pos refused] at todo
    obtain ⟨u, hu, hres, htok, hfl, -⟩ := served_refusal (src := src) rfl ha ((serve_done rfl hc hf).trans todo)
    refine ⟨u, hu, settings_of_flash hfl, fuses_of_flash hfl, getImage_of_flash hfl _, ?_⟩
    rw [if_neg h]
    exact ⟨hres, getImage_of_flash hfl _⟩

theorem commitImage_served (s : State) (src : ReqSource) (b : Bool) (ver : Nat) (gens : BitVec 2) (signed : Bool) (a : Auth)
    (ha : Arrives s (.commitImage src b ver gens signed a)) (hauth : authorised s (.commitImage src b ver gens signed a) = true)
    (hf : a.flashOk = true) (hb : slotFree s b = true) :
    ∃ u, exec (.commitImage src b ver gens signed a) s = .next u ∧ getImage u.weala (!b) = getImage s.weala (!b) ∧
      (if signed then u.weala.reqResult = resOk ∧ getImage u.weala b = { getImage s.weala b with version := ver, gens := gens, signed := true }
       else u.weala.reqResult = resSignature ∧ getImage u.weala b = getImage s.weala b) := by
  have hc : authorised (commandWritten s src) (.commitImage src b ver gens signed a) = true := by rw [authorised_commandWritten, hauth]
  have flash := flashPart_commandWritten s src
  have todo : doRequest (commandWritten s src) src (.commitImage src b ver gens signed a) =
      doCommitImage (commandWritten s src) src b ver gens signed := rfl
  unfold doCommitImage at todo
  rw [slotFree_commandWritten, if_neg (by simp [hb])] at todo
  cases signed with
  | true =>
    rw [if_neg (by simp)] at todo
    obtain ⟨u, hu, hres, htok, hfl, -⟩ := served (src := src) rfl ha ((serve_done rfl hc hf).trans todo)
      ((onlyRequests_commandWritten s src).trans (onlyRequests_imageWork ..))
    refine ⟨u, hu, ?_, ?_⟩
    · rw [getImage_of_flash hfl, getImage_imageWork_other, getImage_of_flash flash]
    · rw [if_pos rfl, getImage_of_flash hfl, getImage_imageWork_same, getImage_of_flash flash]
      exact ⟨hres, rfl⟩
  | false =>
    rw [if_pos (by simp)] at todo
    obtain ⟨u, hu, hres, htok, hfl, -⟩ := served_refusal (src := src) rfl ha ((serve_done rfl hc hf).trans todo)
    exact ⟨u, hu, getImage_of_flash hfl _, hres, getImage_of_flash hfl _⟩

theorem readArea_served (s : State) (port : HostPort) (v : Word64) (x : FlashArea) (off n : Nat) (a : Auth)
    (ha : Arrives s (.readArea (.bar0 port v) x off n a)) (hauth : authorised s (.readArea (.bar0 port v) x off n a) = true) (hn : n ≤ 3840)
    (ho : off + n ≤ areaSize x) :
    ∃ u, exec (.readArea (.bar0 port v) x off n a) s = .next u ∧ u.weala.reqResult = resOk ∧ flashPart u.weala = flashPart s.weala ∧
      ∀ i b, i < n → areaByte s.weala x (off + i) = some b → tget 0 u.weala.reqBuf (256 + i) = b := by
  have todo : doRequest (commandWritten s (.bar0 port v)) (.bar0 port v) (.readArea (.bar0 port v) x off n a) =
      doReadArea (commandWritten s (.bar0 port v)) (.bar0 port v) x off n := rfl
  unfold doReadArea at todo
  rw [if_pos ⟨hn, ho⟩] at todo
  obtain ⟨⟨k, hk⟩, hl, hb⟩ := areaBytes_spec (commandWritten s (.bar0 port v)) x off n
  have only : OnlyRequests (commandWritten s (.bar0 port v)) (areaBytes (commandWritten s (.bar0 port v)) x off n).1 := by rw [hk]; exact ⟨rfl, fun r => r⟩
  obtain ⟨u, hu, hres, -, hfl, -, e⟩ := served (src := .bar0 port v) rfl ha
    ((serve_reading rfl (by rw [authorised_commandWritten, hauth]) (by simp [reqOp])).trans todo) ((onlyRequests_commandWritten ..).trans only)
  refine ⟨u, hu, hres, ?_, fun i b hi hx => ?_⟩
  · rw [hfl, hk]; exact flashPart_commandWritten s (.bar0 port v)
  · have known := hb i b hi (by cases x <;> exact hx)
    rw [e, answerReq_eq, if_neg (by decide)]
    show tget 0 (((areaBytes _ x off n).2.take 3840).zipIdx.foldl _ _) (256 + i) = b
    rw [tget_putRow, List.take_of_length_le (by omega), if_pos (by omega), Nat.add_sub_cancel_left, List.getD_eq_getElem?_getD, known]
    rfl

theorem readLedger_served (s : State) (src : ReqSource) (a : Auth) (ha : Arrives s (.readLedger src a))
    (hauth : authorised s (.readLedger src a) = true) :
    ∃ u, exec (.readLedger src a) s = .next u ∧ u.weala.reqResult = resOk ∧ u.weala.reqToken = srcToken src ∧ flashPart u.weala = flashPart s.weala := by
  obtain ⟨k, d, todo⟩ := doReadLedger_eq (commandWritten s src) src
  obtain ⟨u, hu, hres, htok, hfl, -⟩ := served (src := src) rfl ha
    ((serve_reading rfl (by rw [authorised_commandWritten, hauth]) (by simp [reqOp])).trans todo)
    ((onlyRequests_commandWritten s src).trans (onlyRequests_weala _ _ _ k))
  exact ⟨u, hu, hres, htok, by rw [hfl]; exact flashPart_commandWritten s src⟩

/-- Settles O54: what arrives is served at once, and each request's own work is a change of the flash part that it names, or none. -/
theorem requestsAreServed : Obligations.RequestsAreServed := by
  refine ⟨⟨fun s i src hs a ha => ?_, setSetting_served, persistMap_served⟩, flash_unwritable, writeImage_served, commitImage_served, readArea_served,
    readLedger_served⟩
  obtain ⟨u, hu, hres, htok, hfl, ho⟩ := unauthorised_refused s i src hs a ha
  exact ⟨u, hu, hres, htok, settings_of_flash hfl, fuses_of_flash hfl, mapA_of_flash hfl, mapB_of_flash hfl, imageA_of_flash hfl,
    imageB_of_flash hfl, ho.besideWork⟩

end Sys2Proof.Proofs.Requests

/-!
SUPPORT. The grid's frame: what changes of functions, entries, stacks and ports leave of the holes, the escape tables and the time base (R40, R43, R44, R48).
-/
namespace Sys2Proof.Proofs.Grid
open Sys2Proof Sys2Proof.Machine Sys2Proof.Proofs.Units Sys2Proof.Proofs.Requests

/-- The parts of the module that changes of the map and losses of units leave alone: the holes, the escape tables' reload, the drain bits, the time base. -/
def steady (s : State) : BitVec 64 × Bool × BitVec 16 × TimeBase := (s.holes, s.escapeLoading, s.setup.drain, s.tb)

theorem steady_of_work {s t : State} (h : besideWork t = besideWork s) : steady t = steady s := (congrArg steady h :)
theorem steady_of_fns {s t : State} (h : OnlyFns s t) : steady t = steady s := (congrArg steady h.rest :)
theorem steady_of_requests {s t : State} (h : OnlyRequests s t) : steady t = steady s := (congrArg steady h.1 :)

theorem steady_foldl {α : Type} (f : State → α → State) (l : List α) (s : State) (h : ∀ s x, steady (f s x) = steady s) :
    steady (l.foldl f s) = steady s :=
  foldl_keeps (fun t => steady t = steady s) f l s rfl fun t x _ k => (h t x).trans k

section
variable (s : State)

theorem steady_raise (ev : Event) : steady (raise s ev) = steady s := steady_of_work (besideWork_raise ..)
theorem steady_failFn (f st c : Nat) : steady (failFn s f st c) = steady s := steady_of_fns (onlyFns_failFn ..)

theorem besideWork_unitsLost (who : Option PartNo) : besideWork (unitsLost s who) = besideWork s := by
  unfold unitsLost
  cases who with
  | none => rfl
  | some p =>
    dsimp only
    split
    · rfl
    · exact (besideWork_raise ..).trans rfl

theorem steady_unitsLost (who : Option PartNo) : steady (unitsLost s who) = steady s := steady_of_work (besideWork_unitsLost ..)

theorem steady_ownershipInForce (o : Ownership) : steady (ownershipInForce s o) = steady s := by
  unfold ownershipInForce; dsimp only; split <;> rfl

theorem steady_settleOwnership : steady (settleOwnership s) = steady s := by
  unfold settleOwnership
  dsimp only
  split
  · rfl
  · unfold requiet
    split
    · exact (steady_foldl _ _ _ fun s o => steady_ownershipInForce s o :)
    · exact (steady_foldl _ _ _ fun s o => steady_ownershipInForce s o :)

theorem steady_withdrawStack (k : StackNo) (c : Nat) : steady (withdrawStack s k c) = steady s := by
  unfold withdrawStack
  dsimp only
  by_cases h : (getStack s k).withdrawn = true
  · rw [if_pos h]
  · rw [if_neg h, steady_settleOwnership, steady_unitsLost, steady_failFn, steady_raise, steady_of_work (besideWork_cutStreams ..),
      steady_of_work (besideWork_stopCuffOps ..)]
    rfl

theorem steady_withdrawPort (p : PortNo) (c : Nat) : steady (withdrawPort s p c) = steady s := by
  unfold withdrawPort
  dsimp only
  by_cases h : (getXp s p).withdrawn = true
  · rw [if_pos h]
  · rw [if_neg h, steady_unitsLost, steady_failFn, steady_raise, steady_of_work (besideWork_cutStreams ..), steady_of_work (besideWork_stopCuffOps ..)]
    rfl

theorem steady_writeMitten (c : CoreNo) (e : BitVec 32) : steady (writeMitten s c e) = steady s := by
  unfold writeMitten
  dsimp only
  split
  · rfl
  · exact (steady_raise ..).trans rfl

theorem steady_setFn (f st : Nat) : steady (setFn s f st) = steady s := steady_of_fns (onlyFns_setFn ..)
theorem steady_coreRemoved (c : CoreNo) : steady (coreRemoved s c) = steady s := by unfold coreRemoved; rw [steady_unitsLost, steady_failFn]

theorem steady_readyCore (c : CoreNo) : steady (readyCore s c) = steady s := by
  unfold readyCore; split
  · exact steady_setFn ..
  · rfl

theorem steady_mergeReset (c : CoreNo) : steady (mergeReset s c) = steady s := by unfold mergeReset; split <;> rfl
theorem steady_deferSegs (c : CoreNo) (l : List Nat) : steady (deferSegs s c l) = steady s := rfl

theorem steady_runChanges (n : Nat) : steady (runChanges s n) = steady s := by
  induction n generalizing s with
  | zero => rfl
  | succ n ih =>
    unfold runChanges
    split
    · rfl
    · rename_i m rest _
      split
      · rfl
      · split
        · rw [ih, steady_deferSegs]; rfl
        · dsimp only
          split
          · rw [ih]; rfl
          · rename_i p more _
            have marked : steady (if ((defectMask (mittenEntry s m.core)).testBit p.val || decide (clusterState (mittenEntry s m.core) = 3)) = true then s
                else writeMitten s m.core (entryWithout s m.core p.val)) = steady s := by
              split
              · rfl
              · exact steady_writeMitten ..
            generalize (if ((defectMask (mittenEntry s m.core)).testBit p.val || decide (clusterState (mittenEntry s m.core) = 3)) = true then s
                else writeMitten s m.core (entryWithout s m.core p.val)) = w at marked ⊢
            have taken : steady { w with changes := { m with segs := more } :: rest } = steady s := marked
            generalize ({ w with changes := { m with segs := more } :: rest } : State) = v at taken ⊢
            split
            · rw [ih]; exact taken
            · have running : steady (mergeReset (setFn (endCore v m.core stReset) (fnCore m.core) 1) m.core) = steady s := by
                rw [steady_mergeReset, steady_setFn, steady_of_work (besideWork_endCore ..)]; exact taken
              generalize mergeReset (setFn (endCore v m.core stReset) (fnCore m.core) 1) m.core = z at running ⊢
              split
              · rw [ih, steady_coreRemoved]; exact running
              · split
                · split
                  · rw [ih, steady_readyCore]; exact running
                  · exact running
                · exact running

theorem steady_goChanges : steady (goChanges s) = steady s := by
  unfold goChanges
  dsimp only
  rw [steady_of_requests (onlyRequests_serveAll _)]
  split
  · exact steady_runChanges ..
  · rw [steady_of_work (besideWork_pumpAll _), steady_runChanges]

/-! A hole (R48). -/

theorem besideWork_holeEnds (t : TileNo) : besideWork (holeEnds s t) = besideWork s := by
  unfold holeEnds
  rw [besideWork_endStation]
  exact besideWork_foldl _ _ _ fun s c => besideWork_endCore ..

theorem steady_holeMarked (t : TileNo) :
    steady (holeMarked s t) = (s.holes ||| BitVec.ofNat 64 (2 ^ t.val), true, s.setup.drain, s.tb) := rfl

theorem steady_holeCluster (c : CoreNo) : steady (holeCluster s c) = steady s := by
  unfold holeCluster; rw [steady_failFn, steady_writeMitten]

theorem steady_holeUnits (t : TileNo) : steady (holeUnits s t) = steady s := by
  unfold holeUnits
  dsimp only
  have inStacks : steady ((tileStacks t).foldl (fun s k => withdrawStack s k 4) (failFn s (fnSram t) 5 0)) = steady s := by
    rw [steady_foldl _ _ _ fun s k => steady_withdrawStack s k 4, steady_failFn]
  generalize (tileStacks t).foldl (fun s k => withdrawStack s k 4) (failFn s (fnSram t) 5 0) = u at inStacks ⊢
  cases tilePort t with
  | none =>
    cases tileHost t with
    | none => exact inStacks
    | some q => exact (steady_failFn ..).trans inStacks
  | some p =>
    have port : steady (withdrawPort u p 4) = steady s := (steady_withdrawPort u p 4).trans inStacks
    cases tileHost t with
    | none => exact port
    | some q => exact (steady_failFn ..).trans port

theorem steady_holeCorner (t : TileNo) (o : Option PartNo) : steady (holeCorner s t o) = steady s := by
  unfold holeCorner
  split
  · split
    · exact steady_of_work (besideWork_endCoordinator ..)
    · rfl
  · rfl

/-- A tile that becomes a hole: one more hole, and the escape tables are to be worked out anew. -/
theorem steady_makeHole (t : TileNo) (h : isHole s t = false) :
    steady (makeHole s t) = (s.holes ||| BitVec.ofNat 64 (2 ^ t.val), true, s.setup.drain, s.tb) := by
  unfold makeHole
  rw [if_neg (by simp [h])]
  dsimp only
  rw [steady_goChanges, steady_unitsLost, steady_holeCorner, steady_holeUnits, steady_foldl _ _ _ steady_holeCluster, steady_holeMarked]
  have e := steady_of_work (besideWork_holeEnds s t)
  unfold steady at e
  simp only [Prod.mk.injEq] at e
  obtain ⟨holes, -, drain, time⟩ := e
  rw [holes, drain, time]

end

/-! OBLIGATION O13. -/

theorem isHole_mark (s : State) (n m : TileNo) :
    (s.holes ||| BitVec.ofNat 64 (2 ^ n.val)).getLsb m = if m = n then true else isHole s m := by
  have bit : (2 ^ n.val % 2 ^ 64).testBit m.val = decide (n.val = m.val) := by
    rw [Nat.mod_eq_of_lt (Nat.pow_lt_pow_right (by decide) n.isLt), Nat.testBit_two_pow]
  show (s.holes ||| BitVec.ofNat 64 (2 ^ n.val)).toNat.testBit m.val = _
  rw [BitVec.toNat_or, Nat.testBit_or, BitVec.toNat_ofNat, bit]
  split
  · rename_i e; rw [e]; simp
  · rename_i e
    rw [decide_eq_false (fun k => e (Fin.ext k.symm)), Bool.or_false]; rfl

/-- Settles O13: whatever the tile loses with it, the mark of the hole and the reload of the escape tables stand. -/
theorem tileBecomesHole : Obligations.TileBecomesHole := by
  intro s n cause h
  have marked := steady_makeHole s n h
  have holes : (makeHole s n).holes = s.holes ||| BitVec.ofNat 64 (2 ^ n.val) := (congrArg (fun x => x.1) marked :)
  refine ⟨announce s { makeHole s n with pending := s.pending, tb := s.tb }, by cases cause <;> rfl, ?_, (congrArg (fun x => x.2.1) marked :), fun m hm => ?_⟩
  · exact (congrArg (fun x : BitVec 64 => x.getLsb n) holes :).trans ((isHole_mark s n n).trans (if_pos rfl))
  · exact (congrArg (fun x : BitVec 64 => x.getLsb m) holes :).trans ((isHole_mark s n m).trans (if_neg hm))

end Sys2Proof.Proofs.Grid

/-!
SUPPORT. Cluster mode: the tiles that enter for a diagnostics request, and a tile's return to core mode (R31 to R33, R44, R507, R508).
-/
namespace Sys2Proof.Proofs.Grid
open Sys2Proof Sys2Proof.Machine Sys2Proof.Proofs.Units Sys2Proof.Proofs.Requests

/-! What decides whether a core is ready. -/

/-- The map, the tiles, the resets and the partitions' entries stand: what a core's readiness rests on (R32, R360). -/
structure SameRoster (s t : State) : Prop where
  map : t.mitten = s.mitten
  tiles : t.tiles = s.tiles
  resets : t.resets = s.resets
  entries : ∀ p, (getPart t p).entry = (getPart s p).entry

theorem SameRoster.refl (s : State) : SameRoster s s := ⟨rfl, rfl, rfl, fun _ => rfl⟩
theorem SameRoster.trans {s t u : State} (h : SameRoster s t) (k : SameRoster t u) : SameRoster s u :=
  ⟨k.map.trans h.map, k.tiles.trans h.tiles, k.resets.trans h.resets, fun p => (k.entries p).trans (h.entries p)⟩

section
variable {s t : State} (h : SameRoster s t) (c : CoreNo)
include h

theorem SameRoster.mittenEntry : mittenEntry t c = mittenEntry s c := by unfold Machine.mittenEntry; rw [h.map]
theorem SameRoster.corePresent : corePresent t c = corePresent s c := by unfold Machine.corePresent; rw [h.mittenEntry]
theorem SameRoster.getTile (n : TileNo) : getTile t n = getTile s n := by unfold Machine.getTile; rw [h.tiles]
theorem SameRoster.inCoreMode (n : TileNo) : inCoreMode t n = inCoreMode s n := by unfold Machine.inCoreMode; rw [h.getTile]
theorem SameRoster.resettingCore : resettingCore t c = resettingCore s c := by
  unfold Machine.resettingCore partHasTile; rw [h.resets]; simp only [h.entries]

end

theorem sameRoster_of_fns {s t : State} (h : OnlyFns s t) : SameRoster s t :=
  ⟨h.mitten, h.tiles, (congrArg (fun x : State => x.resets) h.rest :), fun p => by unfold getPart; rw [h.parts]⟩

theorem sameRoster_unitsLost (s : State) (who : Option PartNo) : SameRoster s (unitsLost s who) := by
  unfold unitsLost
  cases who with
  | none => exact .refl s
  | some p =>
    dsimp only
    have lost : SameRoster s (setPart s p { getPart s p with
        phases := (getPart s p).phases.map fun h => if h.step = 1 then h else { h with lost := true } }) := by
      refine ⟨rfl, rfl, rfl, fun q => ?_⟩
      by_cases hq : q = p
      · rw [hq, getPart_same]
      · rw [getPart_other _ _ hq]
    split
    · exact lost
    · exact lost.trans (sameRoster_of_fns (.of_reports (onlyReports_raise ..)))

theorem sameRoster_coreRemoved (s : State) (c : CoreNo) : SameRoster s (coreRemoved s c) :=
  (sameRoster_of_fns (onlyFns_failFn ..)).trans (sameRoster_unitsLost ..)

theorem sameRoster_readyCore (s : State) (c : CoreNo) : SameRoster s (readyCore s c) := by
  unfold readyCore
  split
  · exact sameRoster_of_fns (onlyFns_setFn ..)
  · exact .refl s

/-! Which functions change. -/

theorem fnState_unitsLost (s : State) (who : Option PartNo) (f : Nat) : fnState (unitsLost s who) f = fnState s f :=
  fnState_of _ _ _ (congrArg (fun x : State => x.fns) (besideWork_unitsLost s who) :)

theorem fnState_coreRemoved_same (s : State) (c : CoreNo) : fnState (coreRemoved s c) (fnCore c) = 5 := by
  unfold coreRemoved; rw [fnState_unitsLost, fnState_failFn_same s 0 (fnCore_ne_module c) (by decide)]

theorem fnState_coreRemoved_other (s : State) {c d : CoreNo} (h : d ≠ c) : fnState (coreRemoved s c) (fnCore d) = fnState s (fnCore d) := by
  unfold coreRemoved
  rw [fnState_unitsLost, fnState_failFn_other s 5 0 (fnCore_ne_module d) (by rw [Ne, fnCore_inj]; exact h)]

theorem fnState_readyCore_same {s : State} {c : CoreNo} (h : corePresent s c = true) (hm : inCoreMode s (coreTile c) = true)
    (hr : resettingCore s c = false) : fnState (readyCore s c) (fnCore c) = 3 := by
  unfold readyCore; rw [if_pos (by simp [h, hm, hr]), fnState_setFn_same s _ 3 (by decide)]

theorem fnState_readyCore_other (s : State) {c d : CoreNo} (h : d ≠ c) : fnState (readyCore s c) (fnCore d) = fnState s (fnCore d) := by
  unfold readyCore
  split
  · rw [fnState_setFn_other s 3 (by rw [Ne, fnCore_inj]; exact h)]
  · rfl

/-! A change's frame. -/

/-- Everything but what changes of the map, of functions, and the work that goes with them can change. -/
def besideMap (s : State) : State := { besideWork s with mitten := [], fns := [] }

theorem fns_of_work {s t : State} (h : besideWork t = besideWork s) : t.fns = s.fns := (congrArg (fun x : State => x.fns) h :)
theorem mitten_of_work {s t : State} (h : besideWork t = besideWork s) : t.mitten = s.mitten := (congrArg (fun x : State => x.mitten) h :)
theorem setup_of_work {s t : State} (h : besideWork t = besideWork s) : t.setup = s.setup := (congrArg (fun x : State => x.setup) h :)

theorem reqQueue_of_work {s t : State} (h : besideWork t = besideWork s) : t.weala.reqQueue = s.weala.reqQueue :=
  (congrArg (fun x : State => x.weala.reqQueue) h :)

theorem besideMap_of_work {s t : State} (h : besideWork t = besideWork s) : besideMap t = besideMap s := (congrArg besideMap h :)
theorem besideMap_of_fns {s t : State} (h : OnlyFns s t) : besideMap t = besideMap s := (congrArg besideMap h.besideWork :)

theorem besideMap_foldl {α : Type} (f : State → α → State) (l : List α) (s : State) (h : ∀ s x, besideMap (f s x) = besideMap s) :
    besideMap (l.foldl f s) = besideMap s :=
  foldl_keeps (fun t => besideMap t = besideMap s) f l s rfl fun t x _ k => (h t x).trans k

section
variable (s : State)

theorem besideMap_writeMitten (c : CoreNo) (e : BitVec 32) : besideMap (writeMitten s c e) = besideMap s := by
  unfold writeMitten
  dsimp only
  split
  · rfl
  · exact (besideMap_of_work (besideWork_raise ..)).trans rfl

theorem besideMap_coreRemoved (c : CoreNo) : besideMap (coreRemoved s c) = besideMap s :=
  (besideMap_of_work (besideWork_unitsLost ..)).trans (besideMap_of_fns (onlyFns_failFn ..))

theorem besideMap_readyCore (c : CoreNo) : besideMap (readyCore s c) = besideMap s := by
  unfold readyCore; split
  · exact besideMap_of_fns (onlyFns_setFn ..)
  · rfl

theorem besideMap_applyAtReturn (t : TileNo) (f : BitVec 20) : besideMap (applyAtReturn s t f) = besideMap s := by
  unfold applyAtReturn
  dsimp only
  refine (besideMap_foldl _ _ _ fun u k => ?_).trans rfl
  split
  · rfl
  · exact besideMap_writeMitten ..

/-- The step that a tile's return takes for each of its cores. -/
def coreReturns (s : State) (c : CoreNo) : State :=
  let s := setCore s c { getCore s c with slots := tmap {} (fun _ sl => { sl with compute := [], transfer := [] }) (getCore s c).slots }
  if corePresent s c then readyCore s c
  else if fnState s (fnCore c) == 5 then s else coreRemoved s c

/-- The tile in core mode again, its memories zeroed and its failed segments applied. -/
def tileRestored (s : State) (t : TileNo) (failed : BitVec 20) : State :=
  let s := zeroRange (applyAtReturn s t failed) (cmemBase (coreAt t 0)) (2 ^ 30)
  setTile s t { getTile s t with mode := .core, medium := [] }

theorem returnTile_eq (t : TileNo) (f : BitVec 20) : returnTile s t f = (tileCores t).foldl coreReturns (tileRestored s t f) := by
  unfold returnTile tileRestored
  rfl

theorem besideMap_coreReturns (c : CoreNo) : besideMap (coreReturns s c) = besideMap s := by
  unfold coreReturns
  dsimp only
  split
  · exact (besideMap_readyCore ..).trans rfl
  · split
    · rfl
    · exact (besideMap_coreRemoved ..).trans rfl

theorem besideMap_tileRestored (t : TileNo) (f : BitVec 20) : besideMap (tileRestored s t f) = besideMap s := by
  unfold tileRestored
  generalize hz : zeroRange _ _ _ = z
  refine Eq.trans (b := besideMap z) rfl ?_
  rw [← hz, besideMap_of_work (besideWork_zeroRange ..), besideMap_applyAtReturn]

theorem besideMap_returnTile (t : TileNo) (f : BitVec 20) : besideMap (returnTile s t f) = besideMap s := by
  rw [returnTile_eq, besideMap_foldl _ _ _ besideMap_coreReturns, besideMap_tileRestored]

theorem sameRoster_coreReturns (c : CoreNo) : SameRoster s (coreReturns s c) := by
  unfold coreReturns
  dsimp only
  generalize tmap {} _ (getCore s c).slots = l
  have put : SameRoster s (setCore s c { getCore s c with slots := l }) := ⟨rfl, rfl, rfl, fun _ => rfl⟩
  split
  · exact put.trans (sameRoster_readyCore ..)
  · split
    · exact put
    · exact put.trans (sameRoster_coreRemoved ..)

variable {s} in
/-- A core that the map leaves present comes back READY, and what comes back after it leaves it so. -/
theorem coreReturns_ready {c d : CoreNo} (hm : inCoreMode s (coreTile c) = true) (hr : resettingCore s c = false)
    (hp : corePresent s c = true) (h : d = c ∨ fnState s (fnCore c) = 3) : fnState (coreReturns s d) (fnCore c) = 3 := by
  unfold coreReturns
  dsimp only
  generalize tmap {} _ (getCore s d).slots = l
  generalize hu : setCore s d { getCore s d with slots := l } = u
  have put : SameRoster s u := by rw [← hu]; exact ⟨rfl, rfl, rfl, fun _ => rfl⟩
  have fn (f : Nat) : fnState u f = fnState s f := by rw [← hu]; rfl
  by_cases e : d = c
  · rw [e, if_pos (by rw [put.corePresent, hp])]
    exact fnState_readyCore_same (by rw [put.corePresent, hp]) (by rw [put.inCoreMode, hm]) (by rw [put.resettingCore, hr])
  · have h3 : fnState u (fnCore c) = 3 := (fn _).trans (h.resolve_left e)
    split
    · rw [fnState_readyCore_other u (Ne.symm e), h3]
    · split
      · exact h3
      · rw [fnState_coreRemoved_other u (Ne.symm e), h3]

/-- All cores of a list that the map leaves present come back READY. -/
theorem foldl_coreReturns_ready (l : List CoreNo) (c : CoreNo) (hm : inCoreMode s (coreTile c) = true)
    (hr : resettingCore s c = false) (hp : corePresent s c = true) (h : c ∈ l ∨ fnState s (fnCore c) = 3) :
    fnState (l.foldl coreReturns s) (fnCore c) = 3 := by
  induction l generalizing s with
  | nil => simpa using h
  | cons d l ih =>
    have keep := sameRoster_coreReturns s d
    rw [List.foldl_cons]
    refine ih _ (by rw [keep.inCoreMode, hm]) (by rw [keep.resettingCore, hr]) (by rw [keep.corePresent, hp]) ?_
    by_cases hl : c ∈ l
    · exact .inl hl
    · refine .inr (coreReturns_ready hm hr hp ?_)
      rcases h with h | h
      · exact .inl ((List.mem_cons.mp h).resolve_right hl).symm
      · exact .inr h

theorem sameRoster_foldl_coreReturns (l : List CoreNo) : SameRoster s (l.foldl coreReturns s) :=
  foldl_keeps (SameRoster s) _ l s (.refl s) fun t c _ h => h.trans (sameRoster_coreReturns t c)

end

theorem inCoreMode_tileRestored (s : State) (t : TileNo) (f : BitVec 20) : inCoreMode (tileRestored s t f) t = true := by
  unfold inCoreMode tileRestored; dsimp only; rw [getTile_same]; rfl

theorem parts_applyAtReturn (s : State) (t : TileNo) (f : BitVec 20) : (applyAtReturn s t f).parts = s.parts := by
  unfold applyAtReturn
  dsimp only
  refine foldl_keeps (fun u : State => u.parts = s.parts) _ _ _ rfl fun u k _ h => ?_
  split
  · exact h
  · unfold writeMitten
    dsimp only
    split
    · exact h
    · rw [raise_parts]; exact h

theorem resettingCore_tileRestored (s : State) (t : TileNo) (f : BitVec 20) (c : CoreNo) :
    resettingCore (tileRestored s t f) c = resettingCore s c := by
  have parts : (tileRestored s t f).parts = s.parts := parts_applyAtReturn s t f
  have resets : (tileRestored s t f).resets = s.resets := (congrArg (fun x : State => x.resets) (besideMap_tileRestored s t f) :)
  unfold resettingCore partHasTile getPart
  rw [parts, resets]

/-- The tile of `coreAt`. -/
theorem coreTile_of_mem {n : TileNo} {c : CoreNo} (h : c ∈ tileCores n) : coreTile c = n := by
  unfold tileCores at h
  obtain ⟨k, -, rfl⟩ := List.mem_map.mp h
  unfold coreTile coreAt
  ext
  simp only
  omega

end Sys2Proof.Proofs.Grid

/-!
OBLIGATION O11. Diagnostics runs: DIAG_REQUEST and CLUSTER_MODE_RETURN (R31, R33, R44, R344, R507, R508).
-/
namespace Sys2Proof.Proofs.Grid
open Sys2Proof Sys2Proof.Machine Sys2Proof.Proofs.Units Sys2Proof.Proofs.Requests

/-! The tiles that a request names enter cluster mode. -/

/-- A tile enters cluster mode for a diagnostics request (R31): its cores that are present are not ready. -/
def enterDiag (image : Byte) (token : BitVec 16) (s : State) (t : TileNo) : State :=
  let s := setTile s t { getTile s t with mode := .entering image token }
  (tileCores t).foldl (fun s c => if corePresent s c then setFn s (fnCore c) 1 else s) s

/-- Functions of cores that are present are set to a state: nothing but functions changes, and those of the list stand there. -/
theorem foldl_present_spec (l : List CoreNo) (s : State) :
    let u := l.foldl (fun s c => if corePresent s c then setFn s (fnCore c) 1 else s) s
    u = { s with fns := u.fns } ∧ (∀ c, corePresent s c = true → (c ∈ l ∨ fnState s (fnCore c) = 1) → fnState u (fnCore c) = 1) ∧
      fnReady u fnModule = fnReady s fnModule := by
  induction l generalizing s with
  | nil => exact ⟨rfl, fun c _ h => h.resolve_left (by simp), rfl⟩
  | cons d l ih =>
    dsimp only at ih ⊢
    rw [List.foldl_cons]
    generalize hv : (if corePresent s d = true then setFn s (fnCore d) 1 else s) = v
    have rest : v = { s with fns := v.fns } := by
      rw [← hv]
      split
      · exact setFn_rest ..
      · rfl
    have at_d : corePresent s d = true → fnState v (fnCore d) = 1 := fun h => by rw [← hv, if_pos h, fnState_setFn_same s _ 1 (by decide)]
    have other (f : Nat) (h : f ≠ fnCore d) : fnState v f = fnState s f := by
      rw [← hv]
      split
      · exact fnState_setFn_other s 1 h
      · rfl
    obtain ⟨h1, h2, h3⟩ := ih v
    refine ⟨h1.trans ?_, fun c hp hc => h2 c ?_ ?_, h3.trans ?_⟩
    · exact (congrArg (fun x : State => { x with fns := (l.foldl (fun s c => if corePresent s c then setFn s (fnCore c) 1 else s) v).fns }) rest :)
    · rw [rest]; exact hp
    · by_cases e : c = d
      · rw [e]; exact .inr (at_d (e ▸ hp))
      · rcases hc with hc | hc
        · exact .inl ((List.mem_cons.mp hc).resolve_left e)
        · exact .inr ((other _ (by rw [Ne, fnCore_inj]; exact e)).trans hc)
    · unfold fnReady; rw [other _ (fnCore_ne_module d).symm]

section
variable (image : Byte) (token : BitVec 16)

/-- A tile has entered: its mode, and its cores that the map leaves present. -/
def Entered (s : State) (n : TileNo) : Prop :=
  (getTile s n).mode = .entering image token ∧ ∀ c ∈ tileCores n, corePresent s c = true → fnState s (fnCore c) = 1

theorem enterDiag_rest (s : State) (t : TileNo) :
    enterDiag image token s t = { s with tiles := (enterDiag image token s t).tiles, fns := (enterDiag image token s t).fns } ∧
      fnReady (enterDiag image token s t) fnModule = fnReady s fnModule := by
  unfold enterDiag
  generalize hu : setTile s t { getTile s t with mode := .entering image token } = u
  obtain ⟨h1, -, h3⟩ := foldl_present_spec (tileCores t) u
  dsimp only at h1 h3 ⊢
  generalize (tileCores t).foldl _ u = v at h1 h3 ⊢
  refine ⟨?_, h3.trans ?_⟩
  · rw [h1, ← hu]; rfl
  · rw [← hu]; rfl

theorem enterDiag_entered (s : State) (t : TileNo) {n : TileNo} (h : n = t ∨ Entered image token s n) : Entered image token (enterDiag image token s t) n := by
  unfold enterDiag
  generalize hu : setTile s t { getTile s t with mode := .entering image token } = u
  obtain ⟨h1, h2, -⟩ := foldl_present_spec (tileCores t) u
  dsimp only at h1 h2 ⊢
  generalize (tileCores t).foldl _ u = v at h1 h2 ⊢
  have tiles : getTile v n = getTile u n := by rw [h1]; rfl
  have present (c : CoreNo) : corePresent v c = corePresent u c := by rw [h1]; rfl
  refine ⟨?_, fun c hc hp => h2 c (by rw [← present]; exact hp) ?_⟩
  · rw [tiles, ← hu]
    by_cases e : n = t
    · rw [e, getTile_same]
    · rw [getTile_other _ _ e]; exact (h.resolve_left e).1
  · rcases h with h | h
    · rw [← h]; exact .inl hc
    · refine .inr (Eq.trans ?_ (h.2 c hc ?_))
      · rw [← hu]; rfl
      · rw [present, ← hu] at hp; exact hp

/-- All tiles of a list enter, and beside tiles and functions nothing changes. -/
theorem foldl_enterDiag (l : List TileNo) (s : State) :
    let u := l.foldl (enterDiag image token) s
    u = { s with tiles := u.tiles, fns := u.fns } ∧ fnReady u fnModule = fnReady s fnModule ∧
      ∀ n, (n ∈ l ∨ Entered image token s n) → Entered image token u n := by
  induction l generalizing s with
  | nil => exact ⟨rfl, rfl, fun n h => h.resolve_left (by simp)⟩
  | cons t l ih =>
    dsimp only at ih ⊢
    rw [List.foldl_cons]
    obtain ⟨h1, h2, h3⟩ := ih (enterDiag image token s t)
    obtain ⟨k1, k2⟩ := enterDiag_rest image token s t
    have entered {n : TileNo} := enterDiag_entered image token s t (n := n)
    generalize enterDiag image token s t = v at *
    refine ⟨?_, h2.trans k2, fun n hn => h3 n ?_⟩
    · generalize l.foldl (enterDiag image token) v = w at h1 ⊢
      rw [h1, k1]
    · rcases hn with hn | hn
      · rcases List.mem_cons.mp hn with e | hn
        · exact .inr (entered (.inl e))
        · exact .inl hn
      · exact .inr (entered (.inr hn))

end

/-! DIAG_REQUEST. -/

/-- The request's registers as it is judged (R507). -/
def diagTaken (s : State) (v : Word64) : State :=
  { s with setup := { s.setup with diagWord := mkPair (BitVec.ofNat 32 (pairVal v) &&& 0xFFFF7FFF), diagToken := BitVec.ofNat 16 (pairVal v / 2 ^ 16), diagPassed := 0 } }

/-- The tiles that a request names. -/
def diagNamed (s : State) : List TileNo := allTiles.filter fun t => s.setup.diagTiles.getLsb t

/-- The tile is not one that the request may take: outside the partition, or a hole. -/
def diagOutside (s : State) (v : Word64) (t : TileNo) : Bool := !partHasTile s (Fin.ofNat 64 (bits (pairVal v) 8 6)) t || isHole s t

/-- What a request does that is judged: the first tile that fails its condition is reported, or the named tiles enter. -/
def diagJudged (s : State) (v : Word64) : State :=
  match (diagNamed s).find? fun t => diagOutside s v t || tileResident s t with
  | some t =>
    raise (diagResult (diagTaken s v) (if diagOutside s v t then 1 else 2) t)
      { code := 0x0033, part := some (Fin.ofNat 64 (bits (pairVal v) 8 6)), args := [t.val] }
  | none =>
    if BitVec.ofNat 8 (pairVal v) == 0 || !Config.diagImage (BitVec.ofNat 8 (pairVal v)) then diagResult (diagTaken s v) 3 0
    else if (diagNamed s).isEmpty then diagResult (diagTaken s v) 0 0
    else (diagNamed s).foldl (enterDiag (BitVec.ofNat 8 (pairVal v)) (BitVec.ofNat 16 (pairVal v / 2 ^ 16)))
      { diagTaken s v with setup := { (diagTaken s v).setup with diagBusy := true, diagLeft := diagNamed s, diagResult := 0, diagFirst := 0 } }

section
variable {s : State} {port : HostPort} {v : Word64} (hopen : bar0Open s port true = true) (hpair : pairOk v = true) (hbusy : s.setup.diagBusy = false)
  (hpart : bits (pairVal v) 8 7 < 64)
include hopen hpair hbusy hpart

theorem exec_diagRequest : exec (.diagRequest port v) s = finish s (diagJudged s v) := by
  have hp : ¬ bits (pairVal v) 8 7 ≥ 64 := by omega
  show execDiagRequest port v s = _
  unfold execDiagRequest
  rw [if_neg (by simp [hopen]), if_neg (by simp [hpair, hbusy])]
  dsimp only
  simp only [hp, hpart, decide_false, Bool.false_or, if_true]
  rfl

/-- The first tile that may not be taken is reported, and no tile enters. -/
theorem diagRequest_refused (n : TileNo) (h : (diagNamed s).find? (fun m => diagOutside s v m || tileResident s m) = some n) :
    ∃ t, exec (.diagRequest port v) s = .next t ∧ t.setup.diagResult = (if diagOutside s v n then 1 else 2) ∧
      t.setup.diagFirst = BitVec.ofNat 6 n.val ∧ t.setup.diagBusy = false ∧ OnlyReports { s with setup := t.setup } t := by
  have e := exec_diagRequest hopen hpair hbusy hpart
  unfold diagJudged at e
  rw [h] at e
  dsimp only at e
  generalize hu : raise (diagResult _ _ _) _ = u at e
  generalize hw : diagResult (diagTaken s v) (if diagOutside s v n then 1 else 2) n = w at hu
  have ow : OnlyReports w u := by rw [← hu]; exact onlyReports_raise ..
  have sw : w = { s with setup := w.setup } := by rw [← hw]; rfl
  have su : u.setup = w.setup := (congrArg (fun x : State => x.setup) ow.rest :)
  have next : finish s u = .next (announce s u) := by
    refine finish_next ?_ ?_ ?_
    · exact (congrArg (fun x : State => x.pending) ow.rest :).trans (congrArg (fun x : State => x.pending) sw :)
    · exact (congrArg (fun x : State => x.tb) ow.rest :).trans (congrArg (fun x : State => x.tb) sw :)
    · exact (congrArg (fun x : Weala => x.fuses) ow.weala :).trans (congrArg (fun x : State => x.weala.fuses) sw :)
  refine ⟨_, e.trans next, ?_, ?_, ?_, ?_⟩
  · rw [announce_setup, su, ← hw]
    cases diagOutside s v n <;> rfl
  · rw [announce_setup, su, ← hw]; rfl
  · rw [announce_setup, su, ← hw]; rfl
  · rw [announce_setup, su, ← sw]
    exact ow.trans (onlyReports_announce s u)

/-- A request whose tiles may all be taken: without an image of the catalogue its result is 3, with one the run begins. -/
theorem diagRequest_taken (h : ∀ n : TileNo, s.setup.diagTiles.getLsb n = true →
      partHasTile s (Fin.ofNat 64 (bits (pairVal v) 8 6)) n = true ∧ isHole s n = false ∧ tileResident s n = false) :
    ∃ t, exec (.diagRequest port v) s = .next t ∧
      t.setup.diagWord = mkPair (BitVec.ofNat 32 (pairVal v) &&& 0xFFFF7FFF) ∧ t.setup.diagToken = BitVec.ofNat 16 (pairVal v / 2 ^ 16) ∧ t.setup.diagPassed = 0 ∧
      (let image : Byte := BitVec.ofNat 8 (pairVal v)
       let named := allTiles.filter fun n => s.setup.diagTiles.getLsb n
       if image = 0 ∨ Config.diagImage image = false then t.setup.diagResult = 3 ∧ t.setup.diagBusy = false ∧ t.tiles = s.tiles ∧ t.fns = s.fns
       else t.setup.diagResult = 0 ∧ (named ≠ [] → t.setup.diagBusy = true ∧ t.setup.diagLeft = named ∧
         (∀ n ∈ named, (getTile t n).mode = .entering image (BitVec.ofNat 16 (pairVal v / 2 ^ 16))) ∧
         (∀ n ∈ named, ∀ c ∈ tileCores n, corePresent s c = true → fnState t (fnCore c) = 1))) ∧
      { t with setup := s.setup, tiles := s.tiles, fns := s.fns, weala := s.weala } = s := by
  have none : (diagNamed s).find? (fun m => diagOutside s v m || tileResident s m) = none := by
    rw [List.find?_eq_none]
    intro n hn
    obtain ⟨h1, h2, h3⟩ := h n (List.mem_filter.mp hn).2
    unfold diagOutside
    rw [h1, h2, h3]
    decide
  have e := exec_diagRequest hopen hpair hbusy hpart
  unfold diagJudged at e
  rw [none] at e
  dsimp only at e ⊢
  by_cases hi : BitVec.ofNat 8 (pairVal v) = 0 ∨ Config.diagImage (BitVec.ofNat 8 (pairVal v)) = false
  · rw [if_pos (by simpa using hi)] at e
    replace e := e.trans (finish_of_same _ _ rfl rfl rfl rfl rfl)
    refine ⟨_, e, rfl, rfl, rfl, ?_, rfl⟩
    rw [if_pos hi]
    exact ⟨rfl, rfl, rfl, rfl⟩
  rw [if_neg (by simpa using hi)] at e
  by_cases hn : (diagNamed s).isEmpty = true
  · rw [if_pos hn] at e
    replace e := e.trans (finish_of_same _ _ rfl rfl rfl rfl rfl)
    refine ⟨_, e, rfl, rfl, rfl, ?_, rfl⟩
    rw [if_neg hi]
    exact ⟨rfl, fun k => absurd (by simpa [diagNamed] using hn) k⟩
  rw [if_neg hn] at e
  generalize hu : ({ diagTaken s v with setup := _ } : State) = u at e
  obtain ⟨rest, module, entered⟩ := foldl_enterDiag (BitVec.ofNat 8 (pairVal v)) (BitVec.ofNat 16 (pairVal v / 2 ^ 16)) (diagNamed s) u
  generalize (diagNamed s).foldl _ u = w at e rest module entered
  have same : w.pending = s.pending ∧ w.tb = s.tb ∧ w.weala = s.weala ∧ w.pw = s.pw ∧ w.mitten = s.mitten := by
    rw [rest, ← hu]; exact ⟨rfl, rfl, rfl, rfl, rfl⟩
  obtain ⟨hpend, htb, hweala, hpw, hmap⟩ := same
  have silent : announce s w = w :=
    announce_of_sensors (stateSensor_congr hpw (module.trans (by rw [← hu]; rfl)) htb)
  rw [finish_next hpend htb (by rw [hweala]), silent] at e
  have su : w.setup = u.setup := by rw [rest]
  refine ⟨w, e, ?_, ?_, ?_, ?_, ?_⟩
  · rw [su, ← hu]; rfl
  · rw [su, ← hu]; rfl
  · rw [su, ← hu]; rfl
  · rw [if_neg hi, su, ← hu]
    refine ⟨rfl, fun _ => ⟨rfl, rfl, fun n hn => (entered n (.inl hn)).1, fun n hn c hc hp => (entered n (.inl hn)).2 c hc ?_⟩⟩
    unfold corePresent mittenEntry at hp ⊢
    rw [hmap]; exact hp
  · rw [rest, ← hu]; rfl

end

/-! CLUSTER_MODE_RETURN. -/

theorem diagReturned_eq (s : State) (t : TileNo) (p : Bool) : ∃ x, diagReturned s t p = { s with setup := x } := by
  unfold diagReturned
  dsimp only
  split
  · exact ⟨_, rfl⟩
  · exact ⟨_, rfl⟩

theorem besideMap_withSetup {s t : State} (h : besideMap t = besideMap s) (x : SetupRegs) : besideMap { t with setup := x } = besideMap { s with setup := x } :=
  (congrArg (fun u : State => { u with setup := x }) h :)

/-- What the rings then send leaves the return as it was. -/
theorem pumpAll_returned {r s : State} (h : besideMap r = besideMap s) (x : SetupRegs) :
    besideMap { pumpAll { r with setup := x } with setup := s.setup } = besideMap s ∧ (pumpAll { r with setup := x }).fns = r.fns ∧
      (pumpAll { r with setup := x }).mitten = r.mitten ∧ (pumpAll { r with setup := x }).setup = x := by
  have pumped := besideWork_pumpAll { r with setup := x }
  exact ⟨(besideMap_withSetup (besideMap_of_work pumped) s.setup).trans (besideMap_withSetup h s.setup), (fns_of_work pumped :), (mitten_of_work pumped :),
    (setup_of_work pumped :)⟩

theorem clusterModeReturn_spec (s : State) (n : TileNo) (failed : BitVec 20) (image : Byte) (hmode : (getTile s n).mode = .cluster image)
    (hq : s.weala.reqQueue = []) (hreset : ∀ c ∈ tileCores n, resettingCore s c = false) :
    ∃ t, exec (.clusterModeReturn n failed) s = .next t ∧
      (n ∈ s.setup.diagLeft → t.setup.diagLeft = s.setup.diagLeft.filter (· != n) ∧
        t.setup.diagBusy = !(s.setup.diagLeft.filter (· != n)).isEmpty ∧ t.setup.diagResult = 0 ∧
        (failed = 0 → t.setup.diagPassed = s.setup.diagPassed ||| BitVec.ofNat 64 (2 ^ n.val))) ∧
      (n ∉ s.setup.diagLeft → t.setup = s.setup) ∧
      (∀ c ∈ tileCores n, corePresent t c = true → fnReady t (fnCore c) = true) ∧
      t.holes = s.holes ∧ t.resets = s.resets ∧ t.owning = s.owning ∧ t.hbm = s.hbm ∧ t.xports = s.xports ∧ t.pages = s.pages ∧ t.pw = s.pw ∧ t.tb = s.tb := by
  have passedAll : failed = 0 → ((List.finRange 20).all fun i => !failed.toNat.testBit i.val ||
      (defectMask (mittenEntry s (coreAt n (Fin.ofNat 4 (i.val / 5))))).testBit (i.val % 5)) = true := by
    rintro rfl; simp
  have run : exec (.clusterModeReturn n failed) s = finishFuse s (match (getTile s n).mode with
    | .cluster _ => serveAll (pumpAll (diagReturned (returnTile s n failed) n ((List.finRange 20).all fun i =>
        !failed.toNat.testBit i.val || (defectMask (mittenEntry s (coreAt n (Fin.ofNat 4 (i.val / 5))))).testBit (i.val % 5))))
    | _ => s) := rfl
  rw [hmode] at run
  dsimp only at run
  generalize (List.finRange 20).all _ = passed at run passedAll
  have back := besideMap_returnTile s n failed
  have ready (c : CoreNo) (hc : c ∈ tileCores n) : corePresent (returnTile s n failed) c = true → fnState (returnTile s n failed) (fnCore c) = 3 := by
    rw [returnTile_eq, (sameRoster_foldl_coreReturns ..).corePresent]
    intro hp
    refine foldl_coreReturns_ready _ _ c ?_ ?_ hp (.inl hc)
    · rw [coreTile_of_mem hc]; exact inCoreMode_tileRestored ..
    · rw [resettingCore_tileRestored]; exact hreset c hc
  generalize returnTile s n failed = r at run back ready
  have diag : (diagReturned r n passed).setup = (diagReturned s n passed).setup := by
    unfold diagReturned
    rw [show r.setup = s.setup from (congrArg (fun x : State => x.setup) back :)]
    dsimp only
    split
    · exact (congrArg (fun x : State => x.setup) back :)
    · rfl
  obtain ⟨x, ex⟩ := diagReturned_eq r n passed
  rw [ex] at run diag
  obtain ⟨frame, fns, map, setup⟩ := pumpAll_returned back x
  generalize pumpAll { r with setup := x } = w at run frame fns map setup
  replace setup := setup.trans diag
  have idle : w.weala.reqQueue = s.weala.reqQueue := (congrArg (fun x : State => x.weala.reqQueue) frame :)
  have queue : w.pending = s.pending := (congrArg (fun x : State => x.pending) frame :)
  have time : w.tb = s.tb := (congrArg (fun x : State => x.tb) frame :)
  rw [serveAll_of_idle (idle.trans hq), finishFuse_next queue time] at run
  refine ⟨_, run, fun hn => ?_, fun hn => ?_, fun c hc hp => ?_, (congrArg (fun x : State => x.holes) frame :), (congrArg (fun x : State => x.resets) frame :),
    (congrArg (fun x : State => x.owning) frame :), (congrArg (fun x : State => x.hbm) frame :), (congrArg (fun x : State => x.xports) frame :),
    (congrArg (fun x : State => x.pages) frame :), (congrArg (fun x : State => x.pw) frame :), time⟩
  · rw [announce_setup, setup]
    unfold diagReturned
    rw [if_neg (by simpa using hn)]
    exact ⟨rfl, rfl, rfl, fun hf => if_pos (passedAll hf)⟩
  · rw [announce_setup, setup]
    unfold diagReturned
    rw [if_pos (by simpa using hn)]
  · rw [fnReady_announce, fnReady_iff, fnState_of r w _ fns]
    refine ready c hc ?_
    unfold corePresent mittenEntry at hp ⊢
    rw [← map]; exact hp

/-- Settles O11: a request is judged tile by tile before any enters; a tile that returns brings its cores back by the map it leaves. -/
theorem diagnosticsRuns : Obligations.DiagnosticsRuns := by
  refine ⟨fun s port v h1 h2 h3 h4 h5 => diagRequest_taken h1 h2 h3 h4 h5, fun s port v n h1 h2 h3 h4 => ?_, clusterModeReturn_spec⟩
  exact fun h => diagRequest_refused h1 h2 h3 h4 n h

end Sys2Proof.Proofs.Grid

/-!
OBLIGATION O10. Entry into cluster mode and the self-test of unused spares (R30, R31, R42, R44).
-/
namespace Sys2Proof.Proofs.Grid
open Sys2Proof Sys2Proof.Machine Sys2Proof.Proofs.Units Sys2Proof.Proofs.Requests

/-! An image starts on a tile (R30). -/

/-- A table filled from a function over an initial range. -/
theorem tget_foldl_range {α : Type} [DecidableEq α] (d : α) (f : Nat → α) (n k : Nat) :
    tget d ((List.range n).foldl (fun t i => tput d t i (f i)) []) k = if k < n then f k else d := by
  induction n with
  | zero => rfl
  | succ n ih =>
    rw [List.range_succ, List.foldl_append, List.foldl_cons, List.foldl_nil, tget_tput, ih]
    by_cases h : k = n
    · rw [if_pos h, if_pos (by omega), h]
    · by_cases hk : k < n
      · rw [if_neg h, if_pos hk, if_pos (by omega)]
      · rw [if_neg h, if_neg hk, if_neg (by omega)]

theorem mediumCores_running (s : State) (n : TileNo) (i : Nat) (h : i < 20) :
    (tget {} (mediumCores s n) i).running = !(defectMask (mittenEntry s (coreAt n (Fin.ofNat 4 (i / 5))))).testBit (i % 5) := by
  unfold mediumCores
  rw [tget_foldl_range {} (fun i => ({ running := !(defectMask (mittenEntry s (coreAt n (Fin.ofNat 4 (i / 5))))).testBit (i % 5) } : MediumCore)),
    if_pos h]

theorem exec_clusterModeEntry (s : State) (n : TileNo) : exec (.clusterModeEntry n) s = finishFuse s (match (getTile s n).mode with
    | .entering image _ => startImage s n image
    | .core => if recoveryDue s n then enterRecovery s n else s
    | .cluster _ => s) := rfl

theorem entry_startsImage (s : State) (n : TileNo) (image : Byte) (token : BitVec 16) (h : (getTile s n).mode = .entering image token) :
    ∃ u, exec (.clusterModeEntry n) s = .next u ∧ (getTile u n).mode = .cluster image ∧
      (∀ i, i < 20 → (tget {} (getTile u n).medium i).running = !(defectMask (mittenEntry s (coreAt n (Fin.ofNat 4 (i / 5))))).testBit (i % 5)) ∧
      (getTile u n).failedSegs = (getTile s n).failedSegs ∧ (∀ m, m ≠ n → getTile u m = getTile s m) ∧ { u with tiles := s.tiles } = s := by
  have run := exec_clusterModeEntry s n
  rw [h] at run
  dsimp only at run
  have same : finishFuse s (startImage s n image) = .next (startImage s n image) := finishFuse_of_same rfl rfl rfl rfl
  refine ⟨startImage s n image, run.trans same, ?_, fun i hi => ?_, ?_, fun m hm => ?_, rfl⟩
  · unfold startImage; rw [getTile_same]
  · unfold startImage; rw [getTile_same, ← mediumCores_running s n i hi]
  · unfold startImage; rw [getTile_same]
  · unfold startImage; rw [getTile_other _ _ hm]

/-! A tile enters for recovery (R31, R44). -/

/-- Where no change is in hand and no request waits, nothing goes on. -/
theorem goChanges_of_idle {s : State} (hc : s.changes = []) (hq : s.weala.reqQueue = []) : goChanges s = s := by
  have none (n : Nat) : runChanges s n = s := by
    cases n with
    | zero => rfl
    | succ n => unfold runChanges; rw [hc]
  unfold goChanges
  dsimp only
  rw [none, if_pos (by simp), serveAll_of_idle hq]

/-- Failures that wait for a tile's return change that tile alone. -/
theorem foldl_deferSegs (l : List MapChange) (s : State) (n : TileNo) (h : ∀ m ∈ l, coreTile m.core = n) :
    let u := l.foldl (fun s m => deferSegs s m.core (m.segs.map Fin.val)) s
    u = { s with tiles := u.tiles } ∧ ∀ m, m ≠ n → getTile u m = getTile s m := by
  refine foldl_keeps (fun u : State => u = { s with tiles := u.tiles } ∧ ∀ m, m ≠ n → getTile u m = getTile s m) _ l s ⟨rfl, fun _ _ => rfl⟩ ?_
  rintro u x hx ⟨rest, tiles⟩
  refine ⟨?_, fun m hm => ?_⟩
  · exact (congrArg (fun v : State => { v with tiles := (deferSegs u x.core (x.segs.map Fin.val)).tiles }) rest :)
  · unfold deferSegs
    rw [h x hx, getTile_other _ _ hm, tiles m hm]

theorem entry_recovers (s : State) (n : TileNo) (h : (getTile s n).mode = .core) (hdue : recoveryDue s n = true)
    (hmine : ∀ m ∈ s.changes, coreTile m.core = n) (hq : s.weala.reqQueue = []) :
    ∃ u, exec (.clusterModeEntry n) s = .next u ∧ (getTile u n).mode = .cluster 0 ∧ u.changes = [] ∧
      (∀ c ∈ tileCores n, corePresent s c = true → fnState u (fnCore c) = 1) ∧ (∀ m, m ≠ n → getTile u m = getTile s m) ∧
      { u with tiles := s.tiles, fns := s.fns, changes := s.changes } = s := by
  have run := exec_clusterModeEntry s n
  rw [h] at run
  dsimp only at run
  rw [if_pos hdue] at run
  unfold enterRecovery at run
  have all : s.changes.filter (fun m => coreTile m.core == n) = s.changes := List.filter_eq_self.mpr fun m hm => by simp [hmine m hm]
  have none : s.changes.filter (fun m => coreTile m.core != n) = [] := List.filter_eq_nil_iff.mpr fun m hm => by simp [hmine m hm]
  rw [all, none] at run
  dsimp only at run
  obtain ⟨rest1, tiles1⟩ := foldl_deferSegs s.changes { s with changes := [] } n hmine
  dsimp only at rest1 tiles1
  generalize s.changes.foldl (fun s m => deferSegs s m.core (m.segs.map Fin.val)) { s with changes := [] } = u at run rest1 tiles1
  obtain ⟨rest2, fns2, module2⟩ := foldl_present_spec (tileCores n) u
  generalize (tileCores n).foldl (fun s c => if corePresent s c then setFn s (fnCore c) 1 else s) u = v at run rest2 fns2 module2
  have frame : v = { s with changes := [], tiles := v.tiles, fns := v.fns } := by rw [rest2, rest1]
  have tiles (m : TileNo) (hm : m ≠ n) : getTile v m = getTile s m := by rw [rest2]; exact tiles1 m hm
  have silent : announce s (startImage v n 0) = startImage v n 0 := by
    refine announce_of_sensors (stateSensor_congr ?_ ?_ ?_)
    · rw [frame]; rfl
    · exact module2.trans (by rw [rest1]; rfl)
    · rw [frame]; rfl
  rw [goChanges_of_idle (by rw [frame]; rfl) (by rw [frame]; exact hq), finishFuse_next (by rw [frame]; rfl) (by rw [frame]; rfl), silent] at run
  refine ⟨_, run, ?_, ?_, fun c hc hp => ?_, fun m hm => ?_, ?_⟩
  · unfold startImage; rw [getTile_same]
  · rw [frame]; rfl
  · refine fns2 c ?_ (.inl hc)
    unfold corePresent mittenEntry at hp ⊢
    rw [rest1]; exact hp
  · unfold startImage; rw [getTile_other _ _ hm, tiles m hm]
  · rw [frame]; rfl

/-! Unused spares (R42). -/

theorem spareSelftest_begins (s : State) (n : TileNo) (hh : isHole s n = false) (hm : inCoreMode s n = true) (hp : (getTile s n).power = .run) :
    exec (.spareSelftest n) s = .next (setTile s n { getTile s n with
      spareTests := (List.range 4).filter fun k => sparePhys (mittenEntry s (coreAt n (Fin.ofNat 4 k))) != 7 }) := by
  show execSpareSelftest n s = _
  unfold execSpareSelftest
  rw [if_neg (by simp [hh, hm, hp])]
  exact finish_of_same _ _ rfl rfl rfl rfl rfl

theorem spareSelftest_passes (s : State) (c : CoreNo) (h : coreCluster c ∈ (getTile s (coreTile c)).spareTests) :
    exec (.spareSelftestResult c true) s = .next (setTile s (coreTile c) { getTile s (coreTile c) with
      spareTests := (getTile s (coreTile c)).spareTests.filter (· != coreCluster c) }) := by
  show execSpareSelftestResult c true s = _
  unfold execSpareSelftestResult
  dsimp only
  rw [if_neg (by simpa using h), if_pos (by simp)]
  exact finishFuse_of_same rfl rfl rfl rfl

/-- Settles O10: an image starts on the tile alone; a tile that is examined gives up its changes in hand first. -/
theorem clusterModeAndSpares : Obligations.ClusterModeAndSpares :=
  ⟨entry_startsImage, entry_recovers, spareSelftest_begins, spareSelftest_passes⟩

end Sys2Proof.Proofs.Grid

/-!
OBLIGATION O53. Each function comes up by itself, or fails (R38, R272, R278, R281, R398, R399, R401, R474).
-/
namespace Sys2Proof.Proofs.FnOutcomes
open Sys2Proof Sys2Proof.Machine Sys2Proof.Proofs.Units Sys2Proof.Proofs.Grid

theorem onlyFns_foldl {α : Type} (f : State → α → State) (l : List α) (s : State) (h : ∀ s x, OnlyFns s (f s x)) : OnlyFns s (l.foldl f s) :=
  foldl_keeps (OnlyFns s) f l s (.refl s) fun t x _ k => k.trans (h t x)

theorem fnStarts_of_comingUp {s : State} {f : Nat} (h : comingUp s f = true) : fnState s f = 1 := by
  unfold comingUp at h
  simp only [Bool.and_eq_true, beq_iff_eq] at h
  exact h.2

/-- The outcome of a row that changes functions after a first change z which leaves the queue, the time base and the fuses. -/
theorem finish_fns {s z u : State} (h : OnlyFns z u) (hp : z.pending = s.pending) (ht : z.tb = s.tb) (hf : z.weala.fuses = s.weala.fuses) :
    finish s u = .next (announce s u) ∧ OnlyFns z (announce s u) :=
  ⟨finish_next (h.pending.trans hp) (h.tb.trans ht) (h.fuses.trans hf), h.trans (onlyFns_announce s u)⟩

/-- Functions aside, what stands beside work stood beside it in the first change. -/
theorem besideWork_fns {s z u : State} (h : OnlyFns z u) (e : besideWork z = besideWork s) : { besideWork u with fns := s.fns } = besideWork s :=
  (congrArg (fun x : State => { x with fns := s.fns }) (besideWork_of_reports h) :).trans (congrArg (fun x : State => { x with fns := s.fns }) e :)

/-! Memories (R272, R398). -/

/-- A memory filled with zeros, and functions beside. -/
theorem memByte_zeroed {s u : State} {a n : Nat} (h : OnlyFns (zeroRange s a n) u) {x : Nat} (hx : outsideRings s x) :
    memByte u x = if a ≤ x ∧ x < a + n then 0 else memByte s x := by
  rw [h.mem hx, memByte_zeroRange]
  by_cases k : a ≤ x ∧ x < a + n
  · rw [if_pos k, if_neg (by omega)]
  · rw [if_neg k, if_pos (by omega)]

theorem sram_comesUp (s : State) (n : TileNo) (h : comingUp s (fnSram n) = true) :
    ∃ u, exec (.tileSramReady n 0) s = .next u ∧ fnReady u (fnSram n) = true ∧ (∀ c ∈ tileCores n, fnState u (fnCore c) = 1) ∧
      (∀ a, outsideRings s a → memByte u a = if cmemBase (coreAt n 0) ≤ a ∧ a < cmemBase (coreAt n 0) + 2 ^ 30 then 0 else memByte s a) ∧
      { besideWork u with fns := s.fns } = besideWork s := by
  have none : badClusters 0 = [] := by unfold badClusters bits; simp
  have run : exec (.tileSramReady n 0) s = execTileSramReady n 0 s := rfl
  unfold execTileSramReady at run
  rw [if_neg (by simp [h]), none] at run
  dsimp only [List.foldl_nil] at run
  generalize hz : zeroRange s (cmemBase (coreAt n 0)) (2 ^ 30) = z at run
  have cores : OnlyFns z ((tileCores n).foldl (fun s c => setFn s (fnCore c) 1) z) := onlyFns_foldl _ _ _ fun s c => onlyFns_setFn ..
  have one (c : CoreNo) (hc : c ∈ tileCores n) : fnState ((tileCores n).foldl (fun s c => setFn s (fnCore c) 1) z) (fnCore c) = 1 := by
    have e := fnState_foldl_setFn ((tileCores n).map fnCore) z 1 (fnCore c) (by decide)
    rw [List.foldl_map, if_pos (List.mem_map_of_mem hc)] at e
    exact e
  generalize (tileCores n).foldl (fun s c => setFn s (fnCore c) 1) z = v at run cores one
  obtain ⟨next, only⟩ := finish_fns (s := s) (cores.trans (onlyFns_fnUp v (fnSram n))) (by rw [← hz]; rfl) (by rw [← hz]; rfl) (by rw [← hz]; rfl)
  rw [next] at run
  have sram : fnSram n ≠ fnModule := by unfold fnSram fnModule; omega
  refine ⟨_, run, ?_, fun c hc => ?_, fun a ha => ?_, besideWork_fns only (by rw [← hz]; rfl)⟩
  · rw [fnReady_announce, fnReady_iff, fnState_fnUp_same _ sram]
  · rw [fnState_announce, fnState_fnUp_other _ (fnCore_ne_module c) (by unfold fnCore fnSram; omega), one c hc]
  · exact memByte_zeroed (by rw [hz]; exact only) ha

section
variable (s : State) (k : StackNo) (h : comingUp s (fnStack k) = true) (hw : (getStack s k).withdrawn = false) (hz : (getStack s k).zeroing = false)
include h hw hz

theorem exec_stackTrainResult (ok : Bool) : exec (.stackTrainResult k ok) s = finish s (
    if ok then fnUp (zeroRange s (stackBase k) (2 ^ 36)) (fnStack k)
    else if (getStack s k).attempts + 1 < 3 then setStack s k { getStack s k with attempts := (getStack s k).attempts + 1 }
    else withdrawStack (setStack s k { getStack s k with attempts := 3 }) k 1) := by
  show execStackTrainResult k ok s = _
  unfold execStackTrainResult
  dsimp only
  rw [if_neg (by simp [h, hw, hz])]

theorem stack_comesUp : ∃ u, exec (.stackTrainResult k true) s = .next u ∧ fnReady u (fnStack k) = true ∧
    (∀ a, outsideRings s a → memByte u a = if stackBase k ≤ a ∧ a < stackBase k + 2 ^ 36 then 0 else memByte s a) ∧
    { besideWork u with fns := s.fns } = besideWork s := by
  have run := exec_stackTrainResult s k h hw hz true
  rw [if_pos rfl] at run
  generalize hr : zeroRange s (stackBase k) (2 ^ 36) = z at run
  obtain ⟨next, only⟩ := finish_fns (s := s) (onlyFns_fnUp z (fnStack k)) (by rw [← hr]; rfl) (by rw [← hr]; rfl) (by rw [← hr]; rfl)
  rw [next] at run
  refine ⟨_, run, ?_, fun a ha => ?_, besideWork_fns only (by rw [← hr]; rfl)⟩
  · rw [fnReady_announce, fnReady_iff, fnState_fnUp_same _ (by unfold fnStack fnModule; omega)]
  · exact memByte_zeroed (by rw [hr]; exact only) ha

theorem stack_triesAgain (ha : (getStack s k).attempts < 2) :
    exec (.stackTrainResult k false) s = .next (setStack s k { getStack s k with attempts := (getStack s k).attempts + 1 }) := by
  rw [exec_stackTrainResult s k h hw hz, if_neg (by simp), if_pos (by omega)]
  exact finish_of_same _ _ rfl rfl rfl rfl rfl

end

/-! A stack withdrawn after its last attempt (R278). -/

/-- Commits that come into force change partitions and the slot tables that follow them. -/
theorem settleOwnership_eq (s : State) : ∃ o p q, settleOwnership s = { s with owning := o, parts := p, quietDue := q } := by
  unfold settleOwnership
  dsimp only
  generalize s.owning.filter (fun o => !(o.switched && stacksZeroed s o.entry)) = rest
  generalize s.owning.filter (fun o => o.switched && stacksZeroed s o.entry) = ready
  split
  · exact ⟨_, _, _, rfl⟩
  · have force : ∃ p, ready.foldl ownershipInForce { s with owning := rest } = { s with owning := rest, parts := p } := by
      refine foldl_keeps (fun u : State => ∃ p, u = { s with owning := rest, parts := p }) _ _ _ ⟨_, rfl⟩ ?_
      rintro u o - ⟨p, rfl⟩
      unfold ownershipInForce
      dsimp only
      split
      · exact ⟨_, rfl⟩
      · exact ⟨_, rfl⟩
    obtain ⟨p, e⟩ := force
    rw [e]
    unfold requiet
    split
    · exact ⟨_, _, _, rfl⟩
    · exact ⟨_, _, _, rfl⟩

theorem hbm_of_work {s t : State} (h : besideWork t = besideWork s) : t.hbm = s.hbm := (congrArg (fun x : State => x.hbm) h :)

/-- Withdrawing a stack: its registers, the work it stops, its function, and what follows the loss of a unit. -/
theorem withdrawStack_eq (s : State) (k : StackNo) (c : Nat) (h : (getStack s k).withdrawn = false) :
    ∃ u o, besideWork u = besideWork (setStack s k { getStack s k with withdrawn := true, cause := BitVec.ofNat 4 c, zeroing := false }) ∧
      withdrawStack s k c = settleOwnership (unitsLost (failFn u (fnStack k) (if c = 1 then 4 else 5) c) o) := by
  unfold withdrawStack
  dsimp only
  rw [if_neg (by simp [h])]
  refine ⟨_, _, ?_, rfl⟩
  rw [besideWork_raise, besideWork_cutStreams, besideWork_stopCuffOps]
  rfl

/-- A stack withdrawn because its training failed, and its function. -/
theorem withdrawStack_training (s : State) (k : StackNo) (h : (getStack s k).withdrawn = false) :
    (getStack (withdrawStack s k 1) k).withdrawn = true ∧ (getStack (withdrawStack s k 1) k).cause = 1 ∧ fnState (withdrawStack s k 1) (fnStack k) = 4 := by
  obtain ⟨u, o, hu, e⟩ := withdrawStack_eq s k 1 h
  obtain ⟨_, _, _, k2⟩ := settleOwnership_eq (unitsLost (failFn u (fnStack k) (if 1 = 1 then 4 else 5) 1) o)
  rw [e, k2]
  have stack : getStack (unitsLost (failFn u (fnStack k) (if 1 = 1 then 4 else 5) 1) o) k =
      { getStack s k with withdrawn := true, cause := BitVec.ofNat 4 1, zeroing := false } := by
    rw [getStack_of _ _ k (hbm_of_work (besideWork_unitsLost ..)), getStack_of _ _ k (onlyFns_failFn ..).hbm, getStack_of _ _ k (hbm_of_work hu), getStack_same]
  have fn : fnState (unitsLost (failFn u (fnStack k) (if 1 = 1 then 4 else 5) 1) o) (fnStack k) = 4 := by
    rw [fnState_unitsLost, if_pos rfl, fnState_failFn_same u 1 (by unfold fnStack fnModule; omega) (by decide)]
  refine ⟨?_, ?_, fn⟩
  · exact (congrArg Stack.withdrawn stack :)
  · exact (congrArg Stack.cause stack :)

theorem stack_withdrawn (s : State) (k : StackNo) (h : comingUp s (fnStack k) = true) (hw : (getStack s k).withdrawn = false)
    (hz : (getStack s k).zeroing = false) (ha : 2 ≤ (getStack s k).attempts) :
    ∃ u, exec (.stackTrainResult k false) s = .next u ∧ (getStack u k).withdrawn = true ∧ (getStack u k).cause = 1 ∧ fnState u (fnStack k) = 4 := by
  have run := exec_stackTrainResult s k h hw hz false
  rw [if_neg (by simp), if_neg (by omega)] at run
  have gone := withdrawStack_training (setStack s k { getStack s k with attempts := 3 }) k (by rw [getStack_same]; exact hw)
  exact ⟨_, run, gone⟩

/-! Host ports (R401, R474). -/

theorem hostPort_waits (s : State) (p : HostPort) (sris : Bool) (h : comingUp s (fnHost p) = true) :
    ∃ u, exec (.hostPortWaiting p sris) s = .next u ∧ u.pw = { s.pw with modReady := s.weala.running } ∧ (getHp u p) = { getHp s p with sris := sris } ∧
      fnState u (fnHost p) = (if (getHp s p).perstReleased then 1 else 2) ∧ ∀ q, q ≠ p → getHp u q = getHp s q := by
  have run : exec (.hostPortWaiting p sris) s = execHostPortWaiting p sris s := rfl
  unfold execHostPortWaiting at run
  rw [if_neg (by simp [h])] at run
  dsimp only at run
  generalize hz : setHp s p { getHp s p with sris := sris } = z at run
  have host : fnHost p ≠ fnModule := by unfold fnHost fnModule; omega
  generalize hv : (if (getHp s p).perstReleased = true then z else settleModule (setFn z (fnHost p) 2)) = v at run
  have only : OnlyFns z v := by
    rw [← hv]
    split
    · exact .refl z
    · exact (onlyFns_setFn ..).trans (onlyFns_settleModule _)
  have fn : fnState v (fnHost p) = if (getHp s p).perstReleased then 1 else 2 := by
    rw [← hv]
    split
    · rw [← hz]; exact fnStarts_of_comingUp h
    · rw [fnState_settleModule _ host, fnState_setFn_same z _ 2 (by decide)]
  refine ⟨_, run, ?_, ?_, fn, fun q hq => ?_⟩
  · show { v.pw with modReady := v.weala.running } = _
    rw [only.pw, only.running, ← hz]; rfl
  · exact (getHp_of z _ p only.hports).trans (by rw [← hz, getHp_same])
  · exact (getHp_of z _ q only.hports).trans (by rw [← hz, getHp_other _ _ hq])

/-- The configuration that the host writes is the port's. -/
theorem getHp_hostConfigured (s : State) (p : HostPort) (cfg : HostConfig) :
    getHp (hostConfigured s p cfg) p = { getHp s p with
      atsEnabled := cfg.ats, ats := if cfg.ats then (getHp s p).ats else [], msixOn := cfg.msix, msixMasked := cfg.masked } := getHp_same ..

theorem getHp_hostConfigured_other (s : State) {p q : HostPort} (cfg : HostConfig) (h : q ≠ p) : getHp (hostConfigured s p cfg) q = getHp s q :=
  getHp_other _ _ h

/-- A pending vector stays pending unless it is the port's and no longer masked. -/
theorem msixPending_hostConfigured (s : State) (p : HostPort) (cfg : HostConfig) : (hostConfigured s p cfg).msixPending =
    s.msixPending.filter fun e => !(if cfg.msix then s.msixPending.filter fun e => e.1 == p && !cfg.masked.contains e.2 else []).contains e := rfl

theorem hostLink_comesUp (s : State) (p : HostPort) (w v : BitVec 3) (cfg : HostConfig) (hl : (getHp s p).linkUp = false)
    (hr : (getHp s p).perstReleased = true) (h : comingUp s (fnHost p) = true ∨ fnReady s (fnHost p) = true) :
    ∃ u, exec (.hostLinkUp p w v cfg) s = .next u ∧ fnReady u (fnHost p) = true ∧
      getHp u p = { getHp s p with linkUp := true, width := w, speed := v, flit := cfg.flit, recovering := false, atsEnabled := cfg.ats
                                   ats := if cfg.ats then (getHp s p).ats else [], msixOn := cfg.msix, msixMasked := cfg.masked } ∧
      (∀ q, q ≠ p → getHp u q = getHp s q) ∧ { besideWork u with fns := s.fns, hports := s.hports } = besideWork s := by
  have run : exec (.hostLinkUp p w v cfg) s = execHostLinkUp p w v cfg s := rfl
  unfold execHostLinkUp at run
  dsimp only at run
  rw [if_neg (by simp [hl]), if_neg (by rcases h with h | h <;> simp [hr, h])] at run
  generalize hd : (if (getHp s p).recovering = true then s else dropPending s p) = d at run
  have kept : ∃ m, d = { s with msixPending := m } := by
    rw [← hd]
    split
    · exact ⟨_, rfl⟩
    · exact ⟨_, rfl⟩
  obtain ⟨m, rfl⟩ := kept
  generalize hz : hostConfigured (setHp _ p _) p cfg = z at run
  obtain ⟨next, only⟩ := finish_fns (s := s) (onlyFns_fnUp z (fnHost p)) (by rw [← hz]; rfl) (by rw [← hz]; rfl) (by rw [← hz]; rfl)
  rw [next] at run
  refine ⟨_, run, ?_, ?_, fun q hq => ?_, ?_⟩
  · rw [fnReady_announce, fnReady_iff, fnState_fnUp_same _ (by unfold fnHost fnModule; omega)]
  · refine (getHp_of z _ p only.hports).trans ?_
    rw [← hz, getHp_hostConfigured, getHp_same]
  · refine (getHp_of z _ q only.hports).trans ?_
    rw [← hz, getHp_hostConfigured_other _ _ hq, getHp_other _ _ hq]; rfl
  · refine (congrArg (fun x : State => { x with fns := s.fns, hports := s.hports }) (besideWork_of_reports only) :).trans ?_
    rw [← hz]; rfl

theorem hostLink_configured (s : State) (p : HostPort) (w v : BitVec 3) (cfg : HostConfig) (hl : (getHp s p).linkUp = true) :
    ∃ u, exec (.hostLinkUp p w v cfg) s = .next u ∧
      getHp u p = { getHp s p with atsEnabled := cfg.ats, ats := if cfg.ats then (getHp s p).ats else [], msixOn := cfg.msix, msixMasked := cfg.masked } ∧
      (∀ e, e ∈ u.msixPending ↔ e ∈ s.msixPending ∧ (cfg.msix = true → e.1 = p → cfg.masked.contains e.2 = true)) ∧
      (cfg.msix = true → ∀ e ∈ s.msixPending, e.1 = p → cfg.masked.contains e.2 = false → e ∈ u.msix) ∧
      (∀ q, q ≠ p → getHp u q = getHp s q) ∧ { u with hports := s.hports, msix := s.msix, msixPending := s.msixPending } = s := by
  have run : exec (.hostLinkUp p w v cfg) s = execHostLinkUp p w v cfg s := rfl
  unfold execHostLinkUp at run
  dsimp only at run
  rw [if_pos hl] at run
  have same : finish s (hostConfigured s p cfg) = .next (hostConfigured s p cfg) := finish_of_same _ _ rfl rfl rfl rfl rfl
  refine ⟨_, run.trans same, getHp_hostConfigured .., fun e => ?_, fun hm e he hp hk => ?_, fun q hq => getHp_hostConfigured_other _ _ hq, rfl⟩
  · rw [msixPending_hostConfigured]
    cases hm : cfg.msix with
    | false => simp
    | true =>
      simp only [List.mem_filter, if_true, Bool.not_eq_true', List.contains_eq_mem, decide_eq_false_iff_not, Bool.and_eq_true, beq_iff_eq,
        decide_eq_true_eq]
      tauto
  · unfold hostConfigured
    rw [if_pos hm]
    refine List.mem_append_left _ (List.mem_reverse.mpr (List.mem_filter.mpr ⟨he, ?_⟩))
    rw [hp, hk, beq_self_eq_true]; rfl

/-! Expansion ports (R281). -/

theorem port_comesUp (s : State) (p : PortNo) (cap : Nat) (w v : BitVec 3) (h : comingUp s (fnPort p) = true) (hw : (getXp s p).withdrawn = false)
    (hl : linkSupported w v = true) :
    ∃ u, exec (.xpReady p (.mapped cap w v)) s = .next u ∧ fnReady u (fnPort p) = true ∧ getXp u p = { getXp s p with
        linkUp := true, width := w, speed := v, degraded := !(w == 4 && v == 6), capacity := min cap 262144 } ∧
      { besideWork u with fns := s.fns, xports := s.xports } = besideWork s := by
  have run : exec (.xpReady p (.mapped cap w v)) s = execXpReady p (.mapped cap w v) s := rfl
  unfold execXpReady at run
  rw [if_neg (by simp [h, hw])] at run
  dsimp only at run
  rw [if_pos hl] at run
  generalize hz : setXp s p _ = z at run
  obtain ⟨next, only⟩ := finish_fns (s := s) (onlyFns_fnUp z (fnPort p)) (by rw [← hz]; rfl) (by rw [← hz]; rfl) (by rw [← hz]; rfl)
  rw [next] at run
  refine ⟨_, run, ?_, ?_, ?_⟩
  · rw [fnReady_announce, fnReady_iff, fnState_fnUp_same _ (by unfold fnPort fnModule; omega)]
  · refine (getXp_of z _ p only.xports).trans ?_
    rw [← hz, getXp_same]; rfl
  · refine (congrArg (fun x : State => { x with fns := s.fns, xports := s.xports }) (besideWork_of_reports only) :).trans ?_
    rw [← hz]; rfl

/-! Cores (R38, R399). -/

theorem mittenEntry_setMitten (s : State) (c : CoreNo) (e : BitVec 32) : mittenEntry (setMitten s c e) c = e := by
  unfold mittenEntry setMitten mkPair
  dsimp only
  rw [tget_tput_same]
  ext i hi
  simp only [BitVec.getElem_extractLsb', Nat.zero_add]
  exact BitVec.getLsbD_append.trans (by rw [if_pos hi, BitVec.getLsbD_eq_getElem hi])

theorem mitten_writeMitten (s : State) (c : CoreNo) (e : BitVec 32) : (writeMitten s c e).mitten = (setMitten s c e).mitten := by
  unfold writeMitten
  dsimp only
  split
  · rfl
  · exact raise_mitten ..

theorem writeMitten_reports (s : State) (c : CoreNo) (e : BitVec 32) : OnlyReports (setMitten s c e) (writeMitten s c e) := by
  unfold writeMitten
  dsimp only
  split
  · exact .refl _
  · exact onlyReports_raise ..

theorem coreRemoved_cores (s : State) (c : CoreNo) : (coreRemoved s c).cores = s.cores := by
  unfold coreRemoved unitsLost
  have kept := (onlyFns_failFn s (fnCore c) 5 0).cores
  generalize failFn s (fnCore c) 5 0 = u at kept ⊢
  split
  · exact kept
  · dsimp only
    split
    · exact kept
    · rw [raise_cores]; exact kept

/-- A core assembled from an entry: READY with it, or removed. -/
theorem assemble_spec (s : State) (c : CoreNo) (f : BitVec 5) :
    (assemble s c f).mitten = (setMitten s c (formedEntry s c f)).mitten ∧ (assemble s c f).cores = s.cores ∧
      fnState (assemble s c f) (fnCore c) = (if corePresent (assemble s c f) c then 3 else 5) := by
  unfold assemble
  dsimp only
  have map := mitten_writeMitten s c (formedEntry s c f)
  have cores : (writeMitten s c (formedEntry s c f)).cores = s.cores := (OnlyFns.of_reports (writeMitten_reports ..)).cores
  generalize writeMitten s c (formedEntry s c f) = w at map cores ⊢
  split
  · have only := onlyFns_fnUp w (fnCore c)
    have present : corePresent (fnUp w (fnCore c)) c = corePresent w c := (sameRoster_of_fns only).corePresent c
    refine ⟨only.mitten.trans map, only.cores.trans cores, ?_⟩
    rw [present, if_pos (by assumption), fnState_fnUp_same _ (fnCore_ne_module c)]
  · have same := sameRoster_coreRemoved w c
    refine ⟨same.map.trans map, (coreRemoved_cores w c).trans cores, ?_⟩
    rw [same.corePresent, if_neg (by assumption), fnState_coreRemoved_same]

section
variable (s : State) (c : CoreNo) (f : BitVec 5) (h : comingUp s (fnCore c) = true) (hs : fnReady s (fnSram (coreTile c)) = true)
  (hm : inCoreMode s (coreTile c) = true) (hc : changingCore s c = false) (hr : resettingCore s c = false)
include h hs hm hc hr

theorem exec_coreReady : exec (.coreReady c f) s = finish s (assemble s c f) := by
  show execCoreReady c f s = _
  unfold execCoreReady
  rw [if_neg (by simp [h, hs, hm, hc, hr])]

/-- A core that comes up has the entry that its self-test leaves. -/
theorem core_comesUp : ∃ u, exec (.coreReady c f) s = .next u ∧ mittenEntry u c = formedEntry s c f ∧
    (corePresent u c = true → fnReady u (fnCore c) = true ∧ getCore u c = getCore s c) ∧ (corePresent u c = false → fnState u (fnCore c) = 5) ∧
    ∀ m, m ≠ c → getCore u m = getCore s m := by
  have run := exec_coreReady s c f h hs hm hc hr
  obtain ⟨map, cores, fn⟩ := assemble_spec s c f
  generalize assemble s c f = v at run map cores fn
  refine ⟨_, run, ?_, fun hp => ⟨?_, getCore_of _ _ c cores⟩, fun hp => ?_, fun m _ => getCore_of _ _ m cores⟩
  · exact (congrArg (fun x : Tbl Word64 => (tget mittenFull x c.val).extractLsb' 0 32) map :).trans (mittenEntry_setMitten s c _)
  · exact (fnReady_iff ..).mpr (fn.trans (if_pos hp))
  · exact fn.trans (if_neg (by rw [show corePresent v c = false from hp]; decide))

end

/-! FUNCTION_TIMEOUT (R399). -/

theorem function_timesOut (s : State) (f : Fin 367) (hm : s.pw.stage = .main) (hf : 1 ≤ f.val ∧ f.val < 66 ∨ 106 ≤ f.val ∧ f.val < 110)
    (hs : fnState s f.val ≤ 1) :
    ∃ u, exec (.functionTimeout f) s = .next u ∧ fnState u f.val = 4 ∧ { besideReports u with fns := s.fns } = besideReports s := by
  have run : exec (.functionTimeout f) s = execFunctionTimeout f s := rfl
  unfold execFunctionTimeout at run
  dsimp only at run
  have busy : ¬ ((s.pw.stage != .main || decide (f.val = 0) || decide (1 < fnState s f.val)) = true) := by
    rw [hm]
    simp only [bne_self_eq_false, Bool.false_or, Bool.or_eq_true, decide_eq_true_eq]
    omega
  rw [if_neg busy, if_neg (by omega), if_neg (by omega), if_neg (by omega)] at run
  obtain ⟨next, only⟩ := finish_fns (onlyFns_failFn s f.val 4 0) rfl rfl rfl
  rw [next] at run
  exact ⟨_, run, fnState_failFn_same s 0 (by unfold fnModule; omega) (by decide), only.beside⟩

/-- Settles O53, function by function: the outcome of each is a first change of its unit, then of its function and the module's. -/
theorem functionsComeUp : Obligations.FunctionsComeUp :=
  ⟨sram_comesUp, fun s k h hw hz => ⟨stack_comesUp s k h hw hz, stack_triesAgain s k h hw hz, stack_withdrawn s k h hw hz⟩, hostPort_waits,
    hostLink_comesUp, hostLink_configured, port_comesUp, core_comesUp, function_timesOut⟩

end Sys2Proof.Proofs.FnOutcomes

/-!
OBLIGATION O15. A segment marked defective stays so (R38, R39, R42).
-/
namespace Sys2Proof.Proofs.Defects
open Sys2Proof Sys2Proof.Machine Sys2Proof.Proofs.Units Sys2Proof.Proofs.Requests Sys2Proof.Proofs.Grid Sys2Proof.Proofs.FnOutcomes

/-! The defects of an entry (R34). -/

/-- The logical segments of an entry fill its low twelve bits. -/
theorem places_lt (ls : List Nat) (h : ls.length ≤ 4) : (ls.zipIdx.map fun e => place e.1 (3 * e.2) 3).sum < 2 ^ 12 := by
  unfold place
  rcases ls with _ | ⟨a, _ | ⟨b, _ | ⟨c, _ | ⟨d, _ | ⟨x, l⟩⟩⟩⟩⟩
  case cons.cons.cons.cons.cons => simp at h; omega
  all_goals
    simp only [List.zipIdx_cons, List.zipIdx_nil, List.map_cons, List.map_nil, List.sum_cons, List.sum_nil, Nat.shiftLeft_eq]
    omega

/-- An entry's DEFECT_MASK is the one that it is made with. -/
theorem defectMask_entryOf (ls : List Nat) (spare st d : Nat) (bank : Bool) (h : ls.length ≤ 4) : defectMask (entryOf ls spare st d bank) = d % 2 ^ 5 := by
  have low := places_lt ls h
  unfold defectMask entryOf bits
  generalize (ls.zipIdx.map fun e => place e.1 (3 * e.2) 3).sum = n at low ⊢
  rw [BitVec.toNat_ofNat, Nat.shiftRight_eq_div_pow]
  unfold place
  simp only [Nat.shiftLeft_eq]
  generalize (if bank = true then 1 else 0) = b
  omega

theorem length_fillRole (good ls : List Nat) (i : Nat) : (fillRole good ls i).length = ls.length := by
  unfold fillRole
  dsimp only
  split
  · rfl
  · split
    · exact List.length_set
    · split
      · exact List.length_set
      · rw [List.length_set, List.length_set]

/-- A derived entry has the defects that it is derived for. -/
theorem defectMask_deriveEntry (kept : Option (List Nat)) (d : Nat) (bank degraded : Bool) (h : ∀ l, kept = some l → l.length ≤ 4) :
    defectMask (deriveEntry kept d bank degraded) = d % 2 ^ 5 := by
  unfold deriveEntry
  dsimp only
  split
  · exact defectMask_entryOf _ _ _ _ _ (by simp)
  · refine defectMask_entryOf _ _ _ _ _ ?_
    cases kept with
    | none =>
      dsimp only
      split
      · exact List.length_take_le ..
      · rw [List.length_append]
        simp
    | some l =>
      dsimp only
      refine foldl_keeps (fun m : List Nat => m.length ≤ 4) _ _ _ (h l rfl) fun m i _ hm => ?_
      rw [length_fillRole]; exact hm

/-- The entry of a core that comes up counts its failed segments and, where its entry was consistent, those marked in it. -/
theorem testBit_formedEntry (s : State) (c : CoreNo) (f : BitVec 5) {p : Nat} (hp : p < 5)
    (h : f.getLsbD p = true ∨ entryConsistent (tget mittenFull s.mitten c.val) = true ∧ (defectMask (mittenEntry s c)).testBit p = true) :
    (defectMask (formedEntry s c f)).testBit p = true := by
  unfold formedEntry
  dsimp only
  rw [defectMask_deriveEntry]
  · rw [Nat.testBit_mod_two_pow, Nat.testBit_or]
    rcases h with h | ⟨h1, h2⟩
    · rw [← BitVec.testBit_toNat] at h
      simp [hp, h]
    · unfold mittenEntry at h2
      simp [hp, h1, h2]
  · intro l hl
    split at hl
    · rw [← Option.some.inj hl]; rfl
    · cases hl

theorem coreReady_keepsDefects (s : State) (c : CoreNo) (f : BitVec 5) (h : comingUp s (fnCore c) = true) (hs : fnReady s (fnSram (coreTile c)) = true)
    (hm : inCoreMode s (coreTile c) = true) (hc : changingCore s c = false) (hr : resettingCore s c = false) :
    ∃ u, exec (.coreReady c f) s = .next u ∧ ∀ p, p < 5 →
      (f.getLsbD p = true ∨ entryConsistent (tget mittenFull s.mitten c.val) = true ∧ (defectMask (mittenEntry s c)).testBit p = true) →
      (defectMask (mittenEntry u c)).testBit p = true := by
  obtain ⟨u, hu, entry, -⟩ := core_comesUp s c f h hs hm hc hr
  exact ⟨u, hu, fun p hp hd => by rw [entry]; exact testBit_formedEntry s c f hp hd⟩

/-! Tests that pass (R42). -/

/-- A change with no segment left to test is over, and the map stands. -/
theorem runChanges_over (s : State) (m : MapChange) (n : Nat) (hc : s.changes = [m]) (h0 : m.step = 0) (hs : m.segs = []) :
    besideMap { runChanges s (n + 1) with changes := [] } = besideMap { s with changes := [] } ∧ (runChanges s (n + 1)).mitten = s.mitten := by
  have stop (u : State) (hu : u.changes = []) : runChanges u n = u := by
    cases n with
    | zero => rfl
    | succ n => unfold runChanges; rw [hu]
  unfold runChanges
  rw [hc]
  dsimp only
  rw [if_neg (by simp [h0])]
  split
  · rw [stop _ rfl]; exact ⟨rfl, rfl⟩
  · rw [hs]
    dsimp only
    rw [stop _ rfl]; exact ⟨rfl, rfl⟩

theorem substitute_passes (s : State) (c : CoreNo) (m : MapChange) (hc : s.changes = [m]) (hm : m.core = c) (h4 : m.step = 4) (hs : m.segs = [])
    (hq : s.weala.reqQueue = []) : ∃ u, exec (.substituteSelftestDone c true) s = .next u ∧ u.mitten = s.mitten := by
  have run : exec (.substituteSelftestDone c true) s = execSubstituteSelftestDone c true s := rfl
  unfold execSubstituteSelftestDone at run
  rw [hc] at run
  dsimp only at run
  rw [if_neg (by simp [hm, h4]), if_pos rfl] at run
  refine ⟨_, run, ?_⟩
  show (goChanges _).mitten = s.mitten
  generalize hz : ({ readyCore s c with changes := _ } : State) = z
  have ready := sameRoster_readyCore s c
  have zq : z.weala.reqQueue = [] := by
    rw [← hz]; exact (congrArg (fun x : State => x.weala.reqQueue) (besideMap_readyCore s c) :).trans hq
  have zm : z.mitten = s.mitten := by rw [← hz]; exact ready.map
  obtain ⟨finished, map⟩ := runChanges_over z { m with step := 0, sub := 7 } (2 * z.changes.length + 7) (by rw [← hz]) rfl hs
  have idle : (runChanges z (2 * z.changes.length + 8)).weala.reqQueue = [] := (congrArg (fun x : State => x.weala.reqQueue) finished :).trans zq
  unfold goChanges
  dsimp only
  split
  · rw [serveAll_of_idle idle]; exact map.trans zm
  · have pumped := besideWork_pumpAll (runChanges z (2 * z.changes.length + 8))
    rw [serveAll_of_idle ((reqQueue_of_work pumped).trans idle)]
    exact (mitten_of_work pumped).trans (map.trans zm)

/-! Maps that are offered (R39). -/

theorem unsigned_refused (s : State) (src : ReqSource) (o : OfferedMap) (a : Auth) (ha : Arrives s (.persistMap src (some o) a))
    (hd : clearsDefect s o.entries = true) (hg : o.camormetSigned = false) :
    ∃ u, exec (.persistMap src (some o) a) s = .next u ∧ u.weala.reqResult ≠ resOk ∧ u.weala.mapA = s.weala.mapA ∧ u.weala.mapB = s.weala.mapB := by
  have refused {u : State} {r : Byte} (hu : exec (.persistMap src (some o) a) s = .next u) (hr : u.weala.reqResult = r) (h : r ≠ resOk)
      (hf : flashPart u.weala = flashPart s.weala) :
      ∃ u, exec (.persistMap src (some o) a) s = .next u ∧ u.weala.reqResult ≠ resOk ∧ u.weala.mapA = s.weala.mapA ∧ u.weala.mapB = s.weala.mapB :=
    ⟨u, hu, by rw [hr]; exact h, mapA_of_flash hf, mapB_of_flash hf⟩
  by_cases hauth : authorised s (.persistMap src (some o) a) = true
  · by_cases left : changesLeft s.weala 2 = 0
    · obtain ⟨u, hu, -, hr, hf⟩ := persistMap_exhausted s src (some o) a ha hauth left
      exact refused hu hr (by decide) hf
    · obtain ⟨u, hu, -, hr, hf⟩ := persistMap_unsigned s src o a ha hauth left hd hg
      exact refused hu rfl hr hf
  · obtain ⟨u, hu, hr, -, hf, -⟩ := unauthorised_refused s _ src rfl ha (by simpa using hauth)
    exact refused hu hr (by decide) hf

/-- Settles O15: a core's entry is derived for its old defects and its new ones, and a map is stored only by a request that is granted. -/
theorem defectsStay : Obligations.DefectsStay :=
  ⟨coreReady_keepsDefects, fun s c h => ⟨_, spareSelftest_passes s c h, rfl⟩, substitute_passes, unsigned_refused⟩

end Sys2Proof.Proofs.Defects

/-!
SUPPORT. What the end of work leaves of cores, rings and tiles: a core's registers stand, a core that holds nothing stays as it is, rings with nothing queued
stay so, tiles keep their mode and failed segments (R92, R94, R252, R325, R332, R356, R359).
-/
namespace Sys2Proof.Proofs.Ends
open Sys2Proof Sys2Proof.Machine

/-! The relation. -/

/-- A core with its registers alone. -/
def registersOf (c : Core) : Core := { ctl := c.ctl, pruned := c.pruned, sparseFaults := c.sparseFaults }

/-- From x to y a core keeps its registers, and where it holds nothing it stays as it is. -/
structure CoreEnds (x y : Core) : Prop where
  registers : registersOf y = registersOf x
  empty : registersOf x = x → y = x

/-- From s to t work may have ended and records may have been written. -/
structure WorkEnds (s t : State) : Prop where
  rings : (∀ n, (getRing s n).sendQueue = []) → ∀ n, (getRing t n).sendQueue = []
  cores : ∀ c, CoreEnds (getCore s c) (getCore t c)
  tiles : ∀ n, (getTile t n).mode = (getTile s n).mode ∧ (getTile t n).failedSegs = (getTile s n).failedSegs

theorem CoreEnds.refl (x : Core) : CoreEnds x x := ⟨rfl, fun _ => rfl⟩
theorem CoreEnds.trans {x y z : Core} (h : CoreEnds x y) (k : CoreEnds y z) : CoreEnds x z :=
  ⟨k.registers.trans h.registers, fun e => by have f := h.empty e; rw [f] at k; exact k.empty e⟩

theorem WorkEnds.refl (s : State) : WorkEnds s s := ⟨id, fun _ => .refl _, fun _ => ⟨rfl, rfl⟩⟩
theorem WorkEnds.trans {s t u : State} (h : WorkEnds s t) (k : WorkEnds t u) : WorkEnds s u :=
  ⟨fun r => k.rings (h.rings r), fun c => (h.cores c).trans (k.cores c),
    fun n => ⟨(k.tiles n).1.trans (h.tiles n).1, (k.tiles n).2.trans (h.tiles n).2⟩⟩

theorem workEnds_foldl {α : Type} (f : State → α → State) (l : List α) (s : State) (h : ∀ s x, WorkEnds s (f s x)) : WorkEnds s (l.foldl f s) :=
  foldl_keeps (WorkEnds s) f l s (.refl s) fun t x _ k => k.trans (h t x)

/-- Rings, cores and tiles stand. -/
theorem workEnds_of_fields {s t : State} (hr : t.rings = s.rings) (hc : t.cores = s.cores) (ht : t.tiles = s.tiles) : WorkEnds s t := by
  refine ⟨fun r n => ?_, fun c => ?_, fun n => ?_⟩
  · rw [getRing_of s t n hr]; exact r n
  · rw [getCore_of s t c hc]; exact .refl _
  · rw [getTile_of s t n ht]; exact ⟨rfl, rfl⟩

theorem workEnds_of_memory {s t : State} (h : besideMemory t = besideMemory s) : WorkEnds s t :=
  workEnds_of_fields (congrArg (fun x : State => x.rings) h :) (congrArg (fun x : State => x.cores) h :) (congrArg (fun x : State => x.tiles) h :)

theorem workEnds_of_reports {s t : State} (h : OnlyReports s t) : WorkEnds s t := by
  refine ⟨fun r n => ?_, fun c => ?_, fun n => ?_⟩
  · exact (congrArg (fun x : Machine.Ring => x.sendQueue) (h.rings n) :).trans (r n)
  · rw [getCore_of s t c (congrArg (fun x : State => x.cores) h.rest :)]; exact .refl _
  · rw [getTile_of s t n (congrArg (fun x : State => x.tiles) h.rest :)]; exact ⟨rfl, rfl⟩

/-! Setters. -/

theorem workEnds_setRing (s : State) (n : Nat) (v : Machine.Ring) (h : (getRing s n).sendQueue = [] → v.sendQueue = []) : WorkEnds s (setRing s n v) := by
  refine ⟨fun r m => ?_, fun _ => .refl _, fun _ => ⟨rfl, rfl⟩⟩
  by_cases e : m = n
  · rw [e, getRing_same]; exact h (r n)
  · rw [getRing_other s v e]; exact r m

theorem workEnds_setCore (s : State) (c : CoreNo) (v : Core) (h : CoreEnds (getCore s c) v) : WorkEnds s (setCore s c v) := by
  refine ⟨id, fun d => ?_, fun _ => ⟨rfl, rfl⟩⟩
  by_cases e : d = c
  · rw [e, getCore_same]; exact h
  · rw [getCore_other s v e]; exact .refl _

theorem workEnds_setTile (s : State) (t : TileNo) (v : Tile) (h : v.mode = (getTile s t).mode ∧ v.failedSegs = (getTile s t).failedSegs) :
    WorkEnds s (setTile s t v) := by
  refine ⟨id, fun _ => .refl _, fun m => ?_⟩
  by_cases e : m = t
  · rw [e, getTile_same]; exact h
  · rw [getTile_other s v e]; exact ⟨rfl, rfl⟩

theorem workEnds_setCtx (s : State) (c : CtxNo) (v : Context) : WorkEnds s (setCtx s c v) := workEnds_of_fields rfl rfl rfl

/-! Cores and their slots. -/

theorem registersOf_reschedule (c : Core) : registersOf (reschedule c) = registersOf c := by
  unfold reschedule
  split
  · rfl
  · dsimp only
    split <;> rfl

/-- A core that holds nothing has no slot to run. -/
theorem reschedule_empty (c : Core) (h : registersOf c = c) : reschedule c = c := by
  unfold registersOf at h
  have idle (start : Nat) : (((List.range 4).map fun i => (Fin.ofNat 4 (start + i) : SlotNo)).find? fun k =>
      (tget ({} : Slot) [] k.val).state == .ready) = none := List.find?_eq_none.mpr fun _ _ => Bool.false_ne_true
  unfold reschedule
  rw [← h]
  dsimp only
  rw [idle]

theorem leaveSequencer_empty (c : Core) (k : SlotNo) (h : registersOf c = c) : leaveSequencer c k = c := by
  unfold registersOf at h
  unfold leaveSequencer
  rw [← h]
  simp

theorem coreEnds_reschedule (c : Core) : CoreEnds c (reschedule c) := ⟨registersOf_reschedule c, reschedule_empty c⟩

theorem coreEnds_freeSlot (c : Core) (k : SlotNo) : CoreEnds c (freeSlot c k) := by
  refine ⟨?_, fun h => ?_⟩
  · unfold freeSlot leaveSequencer
    rw [registersOf_reschedule]
    split <;> rfl
  · have same : ({ leaveSequencer c k with slots := tput {} c.slots k.val {} } : Core) = c := by
      rw [leaveSequencer_empty c k h]
      unfold registersOf at h
      rw [← h]
      rfl
    unfold freeSlot
    rw [same, reschedule_empty c h]

/-- A core with a task in some slot holds something. -/
theorem registersOf_ne_of_task {c : Core} {k : SlotNo} {t : Task} (h : (tget {} c.slots k.val).task = some t) : registersOf c ≠ c := by
  intro e
  unfold registersOf at e
  rw [← e] at h
  simp [tget] at h

/-- A change of a core that holds something and keeps its registers. -/
theorem coreEnds_of_busy {x y : Core} (h : registersOf y = registersOf x) (k : registersOf x ≠ x) : CoreEnds x y := ⟨h, fun e => absurd e k⟩

/-! Records (R325, R326). -/

theorem workEnds_raise (s : State) (ev : Event) : WorkEnds s (raise s ev) := workEnds_of_reports (onlyReports_raise s ev)
theorem workEnds_raiseMsix (s : State) (n : Nat) : WorkEnds s (raiseMsix s n) := workEnds_of_reports (onlyReports_raiseMsix s n)

/-- The mark of a SUBMIT ring that stops with its COMPLETE ring (R328). -/
def stopIfLinked (n : Nat) (x : Machine.Ring) : Machine.Ring := if x.enabled && x.kind == 0 && x.link == n then { x with stopped := true } else x

theorem stopIfLinked_default (n : Nat) : stopIfLinked n {} = {} := by
  have off : ({} : Machine.Ring).enabled = false := by unfold Ring.enabled; simp
  unfold stopIfLinked
  rw [off]; rfl

theorem tget_stopped (l : Tbl Machine.Ring) (n m : Nat) : tget {} (tmap {} (fun _ => stopIfLinked n) l) m = stopIfLinked n (tget {} l m) := by
  refine tget_tmap {} (fun _ => stopIfLinked n) l m ?_
  exact stopIfLinked_default n

theorem sendQueue_stopIfLinked (n : Nat) (x : Machine.Ring) : (stopIfLinked n x).sendQueue = x.sendQueue := by unfold stopIfLinked; split <;> rfl

theorem workEnds_faultRing (s : State) (n : Nat) (st : BitVec 8) : WorkEnds s (faultRing s n st) := by
  unfold faultRing
  dsimp only
  refine WorkEnds.trans ?_ (workEnds_raise ..)
  have marked : WorkEnds s (setRing s n { getRing s n with state := .faulted, fault := st }) := workEnds_setRing _ _ _ id
  split
  · refine marked.trans ⟨fun r m => ?_, fun _ => .refl _, fun _ => ⟨rfl, rfl⟩⟩
    generalize setRing s n _ = u at r
    exact (congrArg Machine.Ring.sendQueue (tget_stopped u.rings n m)).trans ((sendQueue_stopIfLinked ..).trans (r m))
  · exact marked

theorem coreEnds_foldl_freeSlot (p : Slot → Bool) (l : List SlotNo) (c : Core) :
    CoreEnds c (l.foldl (fun c k => let sl := tget {} c.slots k.val; if p sl then freeSlot c k else c) c) :=
  foldl_keeps (CoreEnds c) _ l c (.refl c) fun d k _ h => by
    dsimp only
    split
    · exact h.trans (coreEnds_freeSlot d k)
    · exact h

theorem workEnds_releaseHolder (s : State) (t : Task) : WorkEnds s (releaseHolder s t) := by
  unfold releaseHolder
  dsimp only
  refine WorkEnds.trans (t := setRing s t.ring.toNat { getRing s t.ring.toNat with open_ := (getRing s t.ring.toNat).open_.filter (· != t.index) })
    (workEnds_setRing _ _ _ id) ⟨id, fun c => ?_, fun n => ?_⟩
  · unfold getCore
    dsimp only
    rw [tget_tmap _ _ _ _ (by simp)]
    split
    · exact coreEnds_foldl_freeSlot (fun sl => sl.recordHeld && (match sl.task with | some u => sameTask u t | none => false)) ..
    · exact .refl _
  · unfold getTile
    dsimp only
    rw [tget_tmap _ _ _ _ rfl]
    split
    · split
      · exact ⟨rfl, rfl⟩
      · exact ⟨rfl, rfl⟩
    · exact ⟨rfl, rfl⟩

theorem workEnds_writeOutcome (s : State) (o : Outcome) : WorkEnds s (writeOutcome s o).1 := by
  unfold writeOutcome
  dsimp only
  generalize (getRing s o.task.ring.toNat).link = link
  generalize hr : getRing s link = r
  split
  · exact workEnds_releaseHolder ..
  · split
    · exact .refl s
    · split
      · exact (workEnds_faultRing ..).trans (workEnds_releaseHolder ..)
      · generalize bytesOf 32 _ = bytes
        have memory := besideMemory_writeMem s (r.slotAddr r.tail) bytes
        have written := workEnds_of_memory memory
        have ring : getRing (writeMem s (r.slotAddr r.tail) bytes).1 link = r := (getRing_of _ _ _ (congrArg (fun x : State => x.rings) memory :)).trans hr
        generalize writeMem s (r.slotAddr r.tail) bytes = w at written ring ⊢
        split
        · exact written.trans ((workEnds_faultRing ..).trans (workEnds_releaseHolder ..))
        · refine WorkEnds.trans ?_ (workEnds_releaseHolder ..)
          have entered := written.trans (workEnds_setRing w.1 link { r with tail := r.tail + 1 } (by rw [ring]; exact id))
          have counted := entered.trans (workEnds_setCtx _ r.ctx { getCtx s r.ctx with seq := (getCtx s r.ctx).seq + 1 })
          split
          · exact counted.trans (workEnds_raiseMsix ..)
          · exact counted

theorem workEnds_headerSignal (s : State) (t : Task) (st : BitVec 8) : WorkEnds s (headerSignal s t st).1 := by
  have added : WorkEnds s (addWord s t.sigAddr t.sigValue).1 := by
    unfold addWord
    split
    · exact .refl s
    · exact workEnds_of_memory (besideMemory_storeMem ..)
  unfold headerSignal
  split
  · exact .refl s
  · dsimp only
    split
    · exact .refl s
    · split
      · exact .refl s
      · exact added

theorem workEnds_outcome (s : State) (t : Task) (st : BitVec 8) (d : BitVec 16) (c : Bool) (w : Word64) (q : BitVec 4) :
    WorkEnds s (outcome s t st d c w q).1 := by
  unfold outcome
  have signalled := workEnds_headerSignal s t st
  generalize headerSignal s t st = u at signalled ⊢
  dsimp only
  generalize (if u.2 = true then d else 0xFFFF) = d'
  split
  · exact signalled.trans (workEnds_setRing _ _ _ id)
  · have written := signalled.trans (workEnds_writeOutcome u.1 { task := t, status := st, detail := d', time := w, quality := q, census := c })
    generalize writeOutcome u.1 _ = v at written ⊢
    split
    · exact written
    · exact written.trans (workEnds_setRing _ _ _ id)

theorem workEnds_complete (s : State) (t : Task) (st : BitVec 8) : WorkEnds s (complete s t st) := workEnds_outcome ..
theorem workEnds_rejectTask (s : State) (t : Task) (st : BitVec 8) (d : BitVec 16) : WorkEnds s (rejectTask s t st d) := workEnds_outcome ..

theorem workEnds_completes (l : List Task) (s : State) (st : BitVec 8) : WorkEnds s (l.foldl (fun s t => complete s t st) s) :=
  workEnds_foldl _ _ _ fun s t => workEnds_complete s t st

/-! Rings that are skipped (R332). -/

theorem workEnds_skipUnread (rn n : Nat) (s : State) : WorkEnds s (skipUnread s rn n) := by
  induction n generalizing s with
  | zero => exact .refl s
  | succ n ih =>
    unfold skipUnread
    dsimp only
    split
    · exact .refl s
    · split
      · exact .refl s
      · exact workEnds_faultRing ..
      · refine WorkEnds.trans ?_ ((workEnds_complete ..).trans (ih _))
        exact WorkEnds.trans (t := { s with taskCtr := s.taskCtr + 1 }) (workEnds_of_fields rfl rfl rfl) (workEnds_setRing _ _ _ id)

theorem workEnds_ringSkip (s : State) (rn : Nat) (g : Task) (st : BitVec 8) : WorkEnds s (ringSkip s rn g st) := by
  unfold ringSkip
  dsimp only
  split
  · exact .refl s
  · refine WorkEnds.trans ?_ (workEnds_raise ..)
    refine WorkEnds.trans ?_ (workEnds_skipUnread ..)
    refine WorkEnds.trans ?_ (workEnds_completes _ _ stSkipped)
    exact workEnds_setRing _ _ _ fun _ => rfl

theorem workEnds_gateSkips (s : State) (t : Task) (st : BitVec 8) : WorkEnds s (gateSkips s t st) := by
  unfold gateSkips
  split
  · exact workEnds_ringSkip ..
  · exact .refl s

/-! Slots that end (R92, R94). -/

theorem workEnds_freeBytes (s : State) (a n : Nat) : WorkEnds s (freeBytes s a n) := workEnds_of_memory (besideMemory_freeBytes s a n)

theorem workEnds_spoilRange (kept : List (Nat × Nat)) (a n : Nat) (s : State) : WorkEnds s (spoilRange kept a n s) := by
  induction n generalizing s with
  | zero => exact .refl s
  | succ n ih =>
    unfold spoilRange
    dsimp only
    split
    · exact ih s
    · exact (ih s).trans (workEnds_freeBytes ..)

theorem workEnds_spoilDest (s : State) (sl : Slot) : WorkEnds s (spoilDest s sl) := by
  unfold spoilDest
  split
  · exact .refl s
  · refine workEnds_foldl _ _ _ fun s r => ?_
    split
    · split
      · exact workEnds_spoilRange ..
      · exact .refl s
    · exact .refl s

theorem cores_freeBytes (s : State) (a n : Nat) : (freeBytes s a n).cores = s.cores := (congrArg (fun x : State => x.cores) (besideMemory_freeBytes s a n) :)

theorem cores_spoilRange (kept : List (Nat × Nat)) (a n : Nat) (s : State) : (spoilRange kept a n s).cores = s.cores := by
  induction n generalizing s with
  | zero => rfl
  | succ n ih =>
    unfold spoilRange
    dsimp only
    split
    · exact ih s
    · rw [cores_freeBytes, ih]

theorem cores_spoilDest (s : State) (sl : Slot) : (spoilDest s sl).cores = s.cores := by
  unfold spoilDest
  split
  · rfl
  · refine foldl_keeps (fun u : State => u.cores = s.cores) _ _ _ rfl fun u r _ h => ?_
    split
    · split
      · rw [cores_spoilRange]; exact h
      · exact h
    · exact h

/-- The record of a slot of a core that holds something. -/
theorem workEnds_recordSlot (s : State) (c : CoreNo) (k : SlotNo) (t : Task) (sl : Slot) (h : registersOf (getCore s c) ≠ getCore s c) :
    WorkEnds s (recordSlot s c k t sl) := by
  unfold recordSlot
  have spoilt := workEnds_spoilDest s sl
  rw [← getCore_of s (spoilDest s sl) c (cores_spoilDest s sl)] at h
  generalize spoilDest s sl = u at spoilt h ⊢
  dsimp only
  have held := spoilt.trans (workEnds_setCore u c { getCore u c with slots := tput {} (getCore u c).slots k.val { sl with recordHeld := true, state := .late } }
    (coreEnds_of_busy rfl h))
  generalize setCore u c _ = v at held ⊢
  have recorded := held.trans (workEnds_outcome v t sl.status sl.detail t.census (now v) (quality v))
  generalize outcome v t sl.status sl.detail t.census _ _ = o at recorded ⊢
  split
  · exact recorded.trans (workEnds_setCore _ _ _ (coreEnds_reschedule _))
  · exact recorded.trans (workEnds_setCore _ _ _ (coreEnds_freeSlot _ _))

theorem registersOf_cancelFetches (c : Core) (k j : SlotNo) : registersOf (cancelFetches (leaveSequencer c j) k) = registersOf c := by
  unfold cancelFetches leaveSequencer
  dsimp only
  split <;> rfl

theorem task_cancelFetches (c : Core) (k : SlotNo) :
    (tget {} (cancelFetches (leaveSequencer c k) k).slots k.val).task = (tget {} c.slots k.val).task := by
  have slots : (leaveSequencer c k).slots = c.slots := by unfold leaveSequencer; split <;> rfl
  unfold cancelFetches
  dsimp only
  rw [tget_tput_same, slots]

theorem workEnds_endSlot (s : State) (c : CoreNo) (k : SlotNo) (st : BitVec 8) (d : BitVec 16) : WorkEnds s (endSlot s c k st d) := by
  unfold endSlot
  split
  · exact .refl s
  · rename_i t ht
    have busy := registersOf_ne_of_task ht
    dsimp only
    have regs := registersOf_cancelFetches (getCore s c) k k
    have task : (tget {} (cancelFetches (leaveSequencer (getCore s c) k) k).slots k.val).task = some t := (task_cancelFetches ..).trans ht
    generalize cancelFetches (leaveSequencer (getCore s c) k) k = co at regs task ⊢
    generalize hsl : ({ tget {} co.slots k.val with ended := true, status := st, detail := d, state := .late } : Slot) = sl
    have ended := workEnds_setCore s c { co with slots := tput {} co.slots k.val sl } (coreEnds_of_busy regs busy)
    split
    · exact ended.trans (workEnds_setCore _ _ _ (coreEnds_reschedule _))
    · refine ended.trans (workEnds_recordSlot _ _ _ _ _ ?_)
      rw [getCore_same]
      refine registersOf_ne_of_task (k := k) (t := t) ?_
      dsimp only
      rw [tget_tput_same, ← hsl]
      exact task

/-- The fetch engine of a core that holds nothing has nothing to grant. -/
theorem workEnds_grantFetches (n : CoreNo) (fuel : Nat) (s : State) : WorkEnds s (grantFetches n fuel s) := by
  induction fuel generalizing s with
  | zero => exact .refl s
  | succ fuel ih =>
    unfold grantFetches
    dsimp only
    split
    · rename_i hq _
      have busy : registersOf (getCore s n) ≠ getCore s n := by
        intro e
        unfold registersOf at e
        rw [← e] at hq
        cases hq
      split
      · refine WorkEnds.trans ?_ (ih _)
        exact workEnds_setCore s n _ (coreEnds_of_busy rfl busy)
      · split
        · exact .refl s
        · refine WorkEnds.trans ?_ (ih _)
          refine (workEnds_setCore s n _ (coreEnds_of_busy ?_ busy)).trans (workEnds_of_fields rfl rfl rfl)
          rfl
    · exact .refl s

theorem workEnds_settleSlot (s : State) (n : CoreNo) (k : SlotNo) : WorkEnds s (settleSlot s n k) := by
  unfold settleSlot
  dsimp only
  split
  · exact workEnds_endSlot ..
  · exact .refl s

theorem workEnds_cutReduce (s : State) (n : CoreNo) (k : SlotNo) (st : BitVec 8) : WorkEnds s (cutReduce s n k st) := by
  unfold cutReduce
  dsimp only
  split
  · split
    · exact workEnds_of_fields rfl rfl rfl
    · exact .refl s
  · exact .refl s

theorem cores_cutReduce (s : State) (n : CoreNo) (k : SlotNo) (st : BitVec 8) : (cutReduce s n k st).cores = s.cores := by
  unfold cutReduce
  dsimp only
  split
  · split <;> rfl
  · rfl

theorem workEnds_failSlot (s : State) (n : CoreNo) (k : SlotNo) (st : BitVec 8) : WorkEnds s (failSlot s n k st) := by
  unfold failSlot
  dsimp only
  split
  · exact .refl s
  · rename_i h
    obtain ⟨t, ht⟩ : ∃ t, (getSlot s n k).task = some t := by
      cases e : (getSlot s n k).task with
      | none => simp [e] at h
      | some t => exact ⟨t, rfl⟩
    have busy := registersOf_ne_of_task ht
    rw [← getCore_of s (cutReduce s n k st) n (cores_cutReduce ..)] at busy
    refine (workEnds_cutReduce s n k st).trans ?_
    refine WorkEnds.trans ?_ ((workEnds_endSlot ..).trans (workEnds_grantFetches ..))
    exact workEnds_setCore _ n _ (coreEnds_of_busy rfl busy)

/-! Collectives, stores and slots of a core that ends (R42, R193, R356). -/

theorem workEnds_endColl (s : State) (t : Task) (x : Coll) (st : BitVec 8) : WorkEnds s (endColl s t x st) := by
  refine WorkEnds.trans (t := dropColl s t) (workEnds_of_fields rfl rfl rfl) ?_
  refine workEnds_foldl _ _ _ fun s m => ?_
  split
  · exact workEnds_failSlot ..
  · exact .refl s

theorem workEnds_leaveByReset (c : CoreNo) (s : State) (x : Coll) : WorkEnds s (leaveByReset c s x) := by
  unfold leaveByReset
  dsimp only
  split
  · exact .refl s
  · split
    · exact .refl s
    · split
      · exact workEnds_endColl ..
      · split
        · exact workEnds_of_fields rfl rfl rfl
        · exact workEnds_of_fields rfl rfl rfl

theorem workEnds_abandonStores (s : State) (c : CoreNo) (k : SlotNo) (st : BitVec 8) : WorkEnds s (abandonStores s c k st) := by
  unfold abandonStores
  dsimp only
  refine WorkEnds.trans ?_ (workEnds_foldl _ _ _ fun s r => workEnds_freeBytes s r.1 r.2)
  refine workEnds_setCore s c _ ⟨rfl, fun e => ?_⟩
  unfold registersOf at e
  rw [← e]
  rfl

theorem workEnds_stopSlot (s : State) (c : CoreNo) (k : SlotNo) (st : BitVec 8) : WorkEnds s (stopSlot s c k st) := by
  unfold stopSlot
  dsimp only
  split
  · exact .refl s
  · split
    · exact workEnds_settleSlot ..
    · exact (workEnds_failSlot ..).trans (workEnds_gateSkips ..)

/-- A core that has ended all it had: its registers stand, and nothing else of it. -/
theorem endCore_spec (s : State) (c : CoreNo) (st : BitVec 8) : WorkEnds s (endCore s c st) ∧ getCore (endCore s c st) c = registersOf (getCore s c) := by
  unfold endCore
  dsimp only
  have left := workEnds_foldl (leaveByReset c) (s.parts.flatMap fun p => p.2.colls) s (workEnds_leaveByReset c)
  generalize (s.parts.flatMap fun p => p.2.colls).foldl (leaveByReset c) s = u at left ⊢
  have stopped := left.trans (workEnds_foldl (fun s k => stopSlot (abandonStores s c k st) c k st) (List.finRange 4) u
    fun s k => (workEnds_abandonStores ..).trans (workEnds_stopSlot ..))
  generalize (List.finRange 4).foldl (fun s k => stopSlot (abandonStores s c k st) c k st) u = v at stopped ⊢
  have cleared := workEnds_setCore v c (registersOf (getCore v c)) ⟨rfl, fun e => e⟩
  have rest := workEnds_foldl (fun s t => gateSkips (complete s t stReset) t stReset)
    ((getCore v c).queue ++ (getCore v c).held ++ (getCore v c).palmQueue) (setCore v c (registersOf (getCore v c)))
    fun s t => (workEnds_complete ..).trans (workEnds_gateSkips ..)
  refine ⟨stopped.trans (cleared.trans rest), ?_⟩
  have empty := (rest.cores c).empty (by rw [getCore_same]; rfl)
  rw [getCore_same] at empty
  exact empty.trans (stopped.cores c).registers

theorem workEnds_endCore (s : State) (c : CoreNo) (st : BitVec 8) : WorkEnds s (endCore s c st) := (endCore_spec s c st).1

end Sys2Proof.Proofs.Ends

/-!
SUPPORT. Resets of cores and clusters: their beginning, and their end (R356 to R360, R364, R405, R454).
-/
namespace Sys2Proof.Proofs.Ends
open Sys2Proof Sys2Proof.Machine Sys2Proof.Proofs.Units Sys2Proof.Proofs.Grid

/-! Rings with nothing queued (R359). -/

/-- No ring has anything to send. -/
def RingsIdle (s : State) : Prop := ∀ n, (getRing s n).sendQueue = []

theorem ringsIdle_of_entries {s : State} (h : ∀ e ∈ s.rings, e.2.sendQueue = []) : RingsIdle s := by
  have table (l : Tbl Machine.Ring) (n : Nat) (h : ∀ e ∈ l, e.2.sendQueue = []) : (tget ({} : Machine.Ring) l n).sendQueue = [] := by
    induction l with
    | nil => rfl
    | cons e l ih =>
      unfold tget
      split
      · exact h e (List.mem_cons_self ..)
      · exact ih fun x hx => h x (List.mem_cons_of_mem _ hx)
  exact fun n => table s.rings n h

/-- Where no ring has anything to send, none is given a turn. -/
theorem pumpAll_of_idle {s : State} (h : RingsIdle s) : pumpAll s = s := by
  have none (n : Nat) : sendOne s n = none := by
    unfold sendOne
    dsimp only
    rw [h n]
  have turn (p : HostPort) (n : Nat) : ringTurns p n s = s := by
    cases n with
    | zero => rfl
    | succ n =>
      unfold ringTurns
      rw [List.find?_eq_none.mpr fun rn _ => by rw [none]; exact Bool.false_ne_true]
  unfold pumpAll
  exact foldl_keeps (fun u : State => u = s) _ _ s rfl fun u p _ hu => by rw [hu, turn]

/-! The end of a reset of a core or cluster (R356 to R360). -/

/-- The core that a reset of a core or cluster names. -/
def resetCore (target : Byte) : CoreNo := Fin.ofNat 256 target.toNat

theorem resetCores_low (s : State) {level : Fin 4} (target : Byte) (h : level = 0 ∨ level = 1) : resetCores s level target = [resetCore target] := by
  rcases h with rfl | rfl <;> rfl

theorem resetTiles_low (s : State) {level : Fin 4} (target : Byte) (h : level = 0 ∨ level = 1) :
    resetTiles s level target = [coreTile (resetCore target)] := by
  rcases h with rfl | rfl <;> rfl

theorem clearUnits_core (s : State) (r : Reset) (h : r.level = 0) : clearUnits s r = endCore s (resetCore r.target) stReset := by
  have ne : ¬ (0 : Fin 4) = 2 := by decide
  unfold clearUnits resetCores
  rw [h]
  dsimp only
  rw [if_neg ne, List.foldl_cons, List.foldl_nil, resetCore]

/-- A cluster's spares are under test no more. -/
def sparesDone (s : State) (c : CoreNo) : State :=
  setTile s (coreTile c) { getTile s (coreTile c) with spareTests := (getTile s (coreTile c)).spareTests.filter (· != coreCluster c) }

theorem clearUnits_cluster (s : State) (r : Reset) (h : r.level = 1) :
    clearUnits s r = sparesDone (endCore s (resetCore r.target) stReset) (resetCore r.target) := by
  have ne : ¬ (1 : Fin 4) = 2 := by decide
  unfold clearUnits resetCores
  rw [h]
  dsimp only
  rw [if_neg ne, List.foldl_cons, List.foldl_nil, sparesDone, resetCore]

theorem clearUnits_low (s : State) (r : Reset) (h : r.level = 0 ∨ r.level = 1) :
    WorkEnds s (clearUnits s r) ∧ getCore (clearUnits s r) (resetCore r.target) = registersOf (getCore s (resetCore r.target)) ∧
      besideWork (clearUnits s r) = besideWork s := by
  obtain ⟨ended, core⟩ := endCore_spec s (resetCore r.target) stReset
  have work := besideWork_endCore s (resetCore r.target) stReset
  rcases h with h | h
  · rw [clearUnits_core s r h]; exact ⟨ended, core, work⟩
  · rw [clearUnits_cluster s r h]
    generalize endCore s (resetCore r.target) stReset = u at ended core work ⊢
    exact ⟨ended.trans (workEnds_setTile _ _ _ ⟨rfl, rfl⟩), core, work⟩

/-- A core's function as its reset is over: READY, where it ran again and the core can take descriptors (R358, R405). -/
def readyAfterReset (s : State) (c : CoreNo) : State :=
  if fnState s (fnCore c) == 1 && corePresent s c && !changingCore s c && inCoreMode s (coreTile c) then setFn s (fnCore c) 3 else s

theorem readyAfterReset_rest (s : State) (c : CoreNo) : readyAfterReset s c = { s with fns := (readyAfterReset s c).fns } := by
  unfold readyAfterReset; split
  · exact setFn_rest ..
  · rfl

/-- A reset stands no more, and is counted with those inside it (R360, R364). -/
def resetCounted (s : State) (r : Reset) : State :=
  { s with resets := s.resets.erase r, setup := { s.setup with resetCount := satAdd s.setup.resetCount (1 + r.inner) } }

/-- The clearing, the count, the functions, and then what was held for the reset. -/
theorem endReset_eq (s : State) (r : Reset) : endReset s r =
    (let v := resetCounted (clearUnits s r) r
     let u := (resetCores v r.level r.target).foldl readyAfterReset v
     pumpAll (if r.level = 2 then releaseCommits u (Fin.ofNat 64 r.target.toNat) else u)) := rfl

theorem endReset_low (s : State) (r : Reset) (h : r.level = 0 ∨ r.level = 1) :
    endReset s r = pumpAll (readyAfterReset (resetCounted (clearUnits s r) r) (resetCore r.target)) := by
  have not2 : ¬ r.level = 2 := by rcases h with h | h <;> rw [h] <;> decide
  rw [endReset_eq]
  dsimp only
  rw [if_neg not2, resetCores_low _ r.target h, List.foldl_cons, List.foldl_nil]

/-- A core whose function runs again and which can take descriptors is READY. -/
theorem fnReady_readyAfterReset {s : State} {c : CoreNo} (h1 : fnState s (fnCore c) = 1) (h2 : corePresent s c = true)
    (h3 : changingCore s c = false) (h4 : inCoreMode s (coreTile c) = true) : fnReady (readyAfterReset s c) (fnCore c) = true := by
  unfold readyAfterReset
  rw [h1, h2, h3, h4, fnReady_iff]
  exact fnState_setFn_same s _ 3 (by decide)

theorem endReset_spec (s : State) (r : Reset) (h : r.level = 0 ∨ r.level = 1) (idle : RingsIdle s) :
    getCore (endReset s r) (resetCore r.target) = registersOf (getCore s (resetCore r.target)) ∧
      (fnState s (fnCore (resetCore r.target)) = 1 → corePresent s (resetCore r.target) = true → changingCore s (resetCore r.target) = false →
        inCoreMode s (coreTile (resetCore r.target)) = true → fnReady (endReset s r) (fnCore (resetCore r.target)) = true) ∧
      besideWork (endReset s r) = { besideWork (resetCounted s r) with fns := (endReset s r).fns } := by
  obtain ⟨ended, core, work⟩ := clearUnits_low s r h
  rw [endReset_low s r h]
  generalize resetCore r.target = c at core ⊢
  generalize clearUnits s r = u at ended core work ⊢
  have rest := readyAfterReset_rest (resetCounted u r) c
  have rings : RingsIdle (readyAfterReset (resetCounted u r) c) := by
    rw [rest]; exact ended.rings idle
  rw [pumpAll_of_idle rings]
  refine ⟨?_, fun h1 h2 h3 h4 => ?_, ?_⟩
  · rw [rest]; exact core
  · refine fnReady_readyAfterReset ?_ ?_ ?_ ?_
    · exact (fnState_of s _ _ (fns_of_work work)).trans h1
    · unfold corePresent mittenEntry at h2 ⊢
      rw [show (resetCounted u r).mitten = s.mitten from (mitten_of_work work :)]; exact h2
    · unfold changingCore at h3 ⊢
      rw [show (resetCounted u r).changes = s.changes from (congrArg (fun x : State => x.changes) work :)]; exact h3
    · unfold inCoreMode at h4 ⊢
      rw [show (getTile (resetCounted u r) (coreTile c)).mode = (getTile s (coreTile c)).mode from (ended.tiles _).1]; exact h4
  · rw [rest]
    exact (congrArg (fun x : State => { x with
      fns := (readyAfterReset (resetCounted u r) c).fns, resets := x.resets.erase r
      setup := { x.setup with resetCount := satAdd x.setup.resetCount (1 + r.inner) } }) work :)

end Sys2Proof.Proofs.Ends

/-!
SUPPORT. The rows of a reset of a core or cluster (R356 to R360, R364, R405, R454).
-/
namespace Sys2Proof.Proofs.Ends
open Sys2Proof Sys2Proof.Machine Sys2Proof.Proofs.Units Sys2Proof.Proofs.Grid

/-! RESET_CLEAR_DONE. -/

/-- What RESET_CLEAR_DONE says, of the reset of a core or cluster that it ends. -/
theorem resetClearDone_spec (s : State) (level : Fin 4) (target : Byte) (r : Reset) (low : level.val ≤ 1) (idle : ∀ e ∈ s.rings, e.2.sendQueue = [])
    (found : s.resets.find? (fun r => r.level == level && r.target == target && r.step == 5) = some r)
    (awake : (getTile s (coreTile (resetCore target))).thermal = false) :
    ∃ u, exec (.resetClearDone level target) s = .next u ∧
      (getCore u (resetCore target) = registersOf (getCore s (resetCore target)) ∧
        (fnState s (fnCore (resetCore target)) = 1 → corePresent s (resetCore target) = true → changingCore s (resetCore target) = false →
          inCoreMode s (coreTile (resetCore target)) = true → fnReady u (fnCore (resetCore target)) = true)) ∧
      u.resets = s.resets.erase r ∧ u.setup = { s.setup with resetCount := satAdd s.setup.resetCount (1 + r.inner) } ∧
      { besideWork u with fns := s.fns, resets := s.resets, setup := s.setup } = besideWork s := by
  have two : level = 0 ∨ level = 1 := by omega
  obtain ⟨⟨hlevel, htarget⟩, -⟩ : (r.level = level ∧ r.target = target) ∧ r.step = 5 := by simpa using List.find?_some found
  subst hlevel htarget
  obtain ⟨core, ready, work⟩ := endReset_spec s r two (ringsIdle_of_entries idle)
  have ended : exec (.resetClearDone r.level r.target) s = finish s (endReset s r) := by
    show finish s (match s.resets.find? _ with | none => s | some x => _) = _
    rw [found, resetTiles_low s r.target two]
    dsimp only
    rw [if_neg (by simp [awake])]
  generalize endReset s r = u at core ready work ended
  have pending : u.pending = s.pending := (congrArg (fun x : State => x.pending) work :)
  have tb : u.tb = s.tb := (congrArg (fun x : State => x.tb) work :)
  have fuses : u.weala.fuses = s.weala.fuses := (congrArg (fun x : State => x.weala.fuses) work :)
  refine ⟨announce s u, ended.trans (finish_next pending tb fuses), ⟨core, ready⟩, ?_, ?_, ?_⟩
  · exact (congrArg (fun x : State => x.resets) work :)
  · exact (congrArg (fun x : State => x.setup) work :)
  · rw [besideWork_of_reports (onlyReports_announce s u), work]
    rfl

end Sys2Proof.Proofs.Ends

/-!
SUPPORT. The beginning of a reset: what PT_RESET answers and marks (R357, R360, R364, R401, R405, R454).
-/
namespace Sys2Proof.Proofs.Ends
open Sys2Proof Sys2Proof.Machine Sys2Proof.Proofs.Units Sys2Proof.Proofs.Grid

/-! The units that are marked (R357, R405, R454). -/

/-- The reset that a request begins, with what it takes over (R360). -/
def newReset (s : State) (level : Fin 4) (target : Byte) (immediate : Bool) : Reset :=
  { level := level, target := target, step := takenStep level (s.resets.filter fun r => resetInside s r.level r.target level target)
    immediate := immediate, inner := ((s.resets.filter fun r => resetInside s r.level r.target level target).map fun r => 1 + r.inner).sum }

theorem resets_takeOver (s : State) (level : Fin 4) (target : Byte) (i : Bool) : (takeOver s level target i).resets =
    (s.resets.filter fun r => !resetInside s r.level r.target level target) ++ [newReset s level target i] := rfl

/-- From s to t nothing has changed but the states of functions. -/
def FnsAlone (s t : State) : Prop := t = { s with fns := t.fns }

theorem FnsAlone.trans {s t u : State} (h : FnsAlone s t) (k : FnsAlone t u) : FnsAlone s u := by
  unfold FnsAlone at *; rw [k, h]

theorem fnsAlone_foldl {α : Type} (f : State → α → State) (l : List α) (s : State) (h : ∀ s x, FnsAlone s (f s x)) : FnsAlone s (l.foldl f s) :=
  foldl_keeps (FnsAlone s) f l s rfl fun t x _ k => k.trans (h t x)

theorem fnsAlone_setFn (s : State) (f st : Nat) : FnsAlone s (setFn s f st) := setFn_rest s f st

/-- A READY core is RUNNING under its reset. -/
def runIfReady (s : State) (c : CoreNo) : State := if fnReady s (fnCore c) then setFn s (fnCore c) 1 else s

/-- A module reset's: every function that can start is RUNNING. -/
def runIfStarts (s : State) (i : Nat) : State := if fnStarts s (i + 1) then setFn s (i + 1) 1 else s

theorem fnsAlone_runIfReady (s : State) (c : CoreNo) : FnsAlone s (runIfReady s c) := by
  unfold runIfReady; split
  · exact fnsAlone_setFn ..
  · exact rfl

theorem fnsAlone_runIfStarts (s : State) (i : Nat) : FnsAlone s (runIfStarts s i) := by
  unfold runIfStarts; split
  · exact fnsAlone_setFn ..
  · exact rfl

/-- What runs stays so as more is set running. -/
theorem fnState_setFn_keeps_running (s : State) (f g : Nat) (h : fnState s f = 1) : fnState (setFn s g 1) f = 1 := by
  by_cases e : f = g
  · rw [e, fnState_setFn_same _ _ _ (by decide)]
  · rw [fnState_setFn_other _ _ e, h]

theorem fnState_runIfReady (s : State) (c d : CoreNo) (h : fnState s (fnCore d) = 1 ∨ (c ≠ d ∧ fnReady s (fnCore d) = true)) :
    fnState (runIfReady s c) (fnCore d) = 1 ∨ fnReady (runIfReady s c) (fnCore d) = true := by
  unfold runIfReady
  rcases h with h | ⟨ne, h⟩
  · split
    · exact .inl (fnState_setFn_keeps_running _ _ _ h)
    · exact .inl h
  · split
    · rw [fnReady_iff] at h ⊢
      rw [fnState_setFn_other _ _ fun e => ne (fnCore_inj.mp e).symm]
      exact .inr h
    · exact .inr h

theorem fnState_foldl_runIfReady_keeps (l : List CoreNo) (s : State) (f : Nat) (h : fnState s f = 1) : fnState (l.foldl runIfReady s) f = 1 :=
  foldl_keeps (fun t => fnState t f = 1) _ _ _ h fun t c _ k => by
    unfold runIfReady; split
    · exact fnState_setFn_keeps_running _ _ _ k
    · exact k

/-- A READY core of the list is RUNNING after it. -/
theorem fnState_foldl_runIfReady (l : List CoreNo) (s : State) (c : CoreNo) (hc : c ∈ l) (h : fnReady s (fnCore c) = true) :
    fnState (l.foldl runIfReady s) (fnCore c) = 1 := by
  induction l generalizing s with
  | nil => cases hc
  | cons d l ih =>
    rw [List.foldl_cons]
    by_cases e : d = c
    · refine fnState_foldl_runIfReady_keeps _ _ _ ?_
      unfold runIfReady
      rw [e, if_pos h, fnState_setFn_same _ _ _ (by decide)]
    · rcases fnState_runIfReady s d c (.inr ⟨e, h⟩) with k | k
      · exact fnState_foldl_runIfReady_keeps _ _ _ k
      · exact ih _ ((List.mem_cons.mp hc).resolve_left fun k => e k.symm) k

theorem fnState_foldl_runIfStarts (l : List Nat) (s : State) (f : Nat) (h : fnState s f = 1) : fnState (l.foldl runIfStarts s) f = 1 :=
  foldl_keeps (fun t => fnState t f = 1) _ _ _ h fun t c _ k => by
    unfold runIfStarts; split
    · exact fnState_setFn_keeps_running _ _ _ k
    · exact k

theorem onlyReports_toState (s : State) (t : TileNo) (p : PState) (c : Nat) : OnlyReports (setTile s t { getTile s t with power := p }) (toState s t p c) := by
  unfold toState tileStateEvent; exact onlyReports_raise ..

/-- A tile after a requested NAP is over. -/
def tileAwake (x : Tile) : Tile := if x.power == .nap && !x.thermal then { x with power := .run } else x

theorem onlyReports_wakeNap (s : State) (t : TileNo) : OnlyReports (setTile s t (tileAwake (getTile s t))) (wakeNap s t) ∨ wakeNap s t = s := by
  unfold wakeNap tileAwake
  dsimp only
  split
  · exact .inl (onlyReports_toState ..)
  · exact .inr rfl

theorem besideWork_wakeNap (s : State) (t : TileNo) : besideWork (wakeNap s t) = besideWork s := by
  rcases onlyReports_wakeNap s t with h | h
  · exact (besideWork_of_reports h).trans rfl
  · rw [h]

theorem parts_wakeNap (s : State) (t : TileNo) : (wakeNap s t).parts = s.parts := by
  rcases onlyReports_wakeNap s t with h | h
  · exact (congrArg (fun x : State => x.parts) h.rest :)
  · rw [h]

theorem besideWork_foldl_wakeNap (l : List TileNo) (s : State) : besideWork (l.foldl wakeNap s) = besideWork s :=
  besideWork_foldl _ _ _ fun s t => besideWork_wakeNap s t

theorem parts_foldl_wakeNap (l : List TileNo) (s : State) : (l.foldl wakeNap s).parts = s.parts :=
  foldl_keeps (fun t : State => t.parts = s.parts) _ _ _ rfl fun t n _ h => (parts_wakeNap t n).trans h

theorem power_wakeNap (s : State) (t : TileNo) : (getTile (wakeNap s t) t).power = (getTile s t).power ∨
    ((getTile s t).power = .nap ∧ (getTile (wakeNap s t) t).power = .run) := by
  unfold wakeNap
  dsimp only
  split
  · rename_i h
    have reports := onlyReports_toState s t .run 0
    refine .inr ⟨by simp_all, ?_⟩
    have tiles : (toState s t .run 0).tiles = (setTile s t { getTile s t with power := .run }).tiles := (congrArg (fun x : State => x.tiles) reports.rest :)
    rw [getTile_of _ _ t tiles, getTile_same]
  · exact .inl rfl

theorem partTiles_of {s t : State} (p : PartNo) (h : t.parts = s.parts) : partTiles t p = partTiles s p := by
  unfold partTiles partHasTile getPart; rw [h]

theorem resetCores_of {s t : State} (level : Fin 4) (target : Byte) (h : t.parts = s.parts) : resetCores t level target = resetCores s level target := by
  have tiles : resetTiles t level target = resetTiles s level target := by
    unfold resetTiles; rw [partTiles_of _ h]
  unfold resetCores; rw [tiles]

/-- Where a reset's tiles are in NAP at a request, they wake (R454). -/
def tilesWake (s : State) (level : Fin 4) (target : Byte) : State := (resetTiles s level target).foldl wakeNap s

theorem besideWork_tilesWake (s : State) (level : Fin 4) (target : Byte) : besideWork (tilesWake s level target) = besideWork s :=
  besideWork_foldl_wakeNap ..

theorem parts_tilesWake (s : State) (level : Fin 4) (target : Byte) : (tilesWake s level target).parts = s.parts := parts_foldl_wakeNap ..

/-- The functions of a reset's READY cores run. -/
def coresRun (s : State) (level : Fin 4) (target : Byte) : State := (resetCores s level target).foldl runIfReady s

theorem fnsAlone_coresRun (s : State) (level : Fin 4) (target : Byte) : FnsAlone s (coresRun s level target) := fnsAlone_foldl _ _ _ fnsAlone_runIfReady

/-- Every function starts again, and MOD_READY falls (R401, R405). -/
def moduleRestarts (s : State) : State :=
  let u := (List.range 366).foldl runIfStarts s
  { u with pw := { u.pw with modReady := false } }

theorem moduleRestarts_rest (s : State) : moduleRestarts s = { s with fns := (moduleRestarts s).fns, pw := { s.pw with modReady := false } } := by
  have alone : FnsAlone s ((List.range 366).foldl runIfStarts s) := fnsAlone_foldl _ _ _ fnsAlone_runIfStarts
  unfold moduleRestarts
  unfold FnsAlone at alone
  generalize (List.range 366).foldl runIfStarts s = u at alone ⊢
  rw [alone]

theorem fnState_moduleRestarts (s : State) (f : Nat) (h : fnState s f = 1) : fnState (moduleRestarts s) f = 1 := by
  have runs := fnState_foldl_runIfStarts (List.range 366) s f h
  unfold moduleRestarts
  generalize (List.range 366).foldl runIfStarts s = u at runs ⊢
  exact runs

theorem beginReset_eq (s : State) (level : Fin 4) (target : Byte) (i : Bool) : beginReset s level target i =
    (let v := coresRun (tilesWake (takeOver s level target i) level target) level target
     if level = 3 then moduleRestarts v else v) := rfl

/-- MOD_READY after a reset begins. -/
def pwUnder (pw : Power) (level : Fin 4) : Power := if level = 3 then { pw with modReady := false } else pw

theorem beginReset_fns (s : State) (level : Fin 4) (target : Byte) (i : Bool) (c : CoreNo) (hc : c ∈ resetCores s level target)
    (h : fnReady s (fnCore c) = true) : fnState (beginReset s level target i) (fnCore c) = 1 := by
  have work := besideWork_tilesWake (takeOver s level target i) level target
  have parts := parts_tilesWake (takeOver s level target i) level target
  rw [beginReset_eq]
  dsimp only
  generalize tilesWake (takeOver s level target i) level target = u at work parts ⊢
  have fns : u.fns = s.fns := (fns_of_work work :)
  have ready : fnReady u (fnCore c) = true := by
    rw [fnReady_iff] at h ⊢
    exact (fnState_of s u _ fns).trans h
  have runs : fnState (coresRun u level target) (fnCore c) = 1 := by
    unfold coresRun
    rw [resetCores_of level target (show u.parts = s.parts from parts)]
    exact fnState_foldl_runIfReady _ _ _ hc ready
  split
  · exact fnState_moduleRestarts _ _ runs
  · exact runs

theorem beginReset_rest (s : State) (level : Fin 4) (target : Byte) (i : Bool) : besideWork (beginReset s level target i) =
    { besideWork (takeOver s level target i) with fns := (beginReset s level target i).fns, pw := pwUnder s.pw level } := by
  have work := besideWork_tilesWake (takeOver s level target i) level target
  rw [beginReset_eq]
  dsimp only
  generalize tilesWake (takeOver s level target i) level target = u at work ⊢
  have alone := fnsAlone_coresRun u level target
  generalize coresRun u level target = v at alone ⊢
  have running : besideWork v = { besideWork (takeOver s level target i) with fns := v.fns } := by
    rw [← work, show v = _ from alone]
    rfl
  have pw : v.pw = s.pw := (congrArg (fun x : State => x.pw) running :)
  unfold pwUnder
  split
  · have fallen : besideWork (moduleRestarts v) = { besideWork v with fns := (moduleRestarts v).fns, pw := { v.pw with modReady := false } } := by
      have rest := moduleRestarts_rest v
      generalize moduleRestarts v = w at rest ⊢
      rw [rest]
      rfl
    rw [fallen, running, pw]
  · rw [running]
    rfl

end Sys2Proof.Proofs.Ends

/-!
SUPPORT. PT_RESET's answers: refused, merged, over at once, begun (R357, R360, R364, R454).
-/
namespace Sys2Proof.Proofs.Ends
open Sys2Proof Sys2Proof.Machine Sys2Proof.Proofs.Units Sys2Proof.Proofs.Grid

/-! The register write. -/

/-- The level and the target that a word of PT_RESET names. -/
def askedLevel (v : Word64) : Fin 4 := Fin.ofNat 4 (bits (pairVal v) 8 2)
def askedTarget (v : Word64) : Byte := BitVec.ofNat 8 (pairVal v)

/-- The register as a request leaves it (R16). -/
def resetNoted (s : State) (v : Word64) : State := { s with setup := { s.setup with reset := mkPair (BitVec.ofNat 32 (pairVal v % 2 ^ 11)) } }

/-- Whether a running reset, or a replacement, has the units already (R360). -/
def resetCovered (s : State) (level : Fin 4) (target : Byte) : Bool :=
  (s.resets.any fun r => resetInside s level target r.level r.target) || replacing s level target

/-- What a reset that begins does at once. -/
def resetGoesOn (s : State) (held : Bool) (r : Reset) : State :=
  if held then endReset (drainEnd s r 0) { r with step := 5 }
  else if r.immediate || r.step == 5 then drainEnd s r 0 else s

theorem resetWrite_eq (s : State) (port : HostPort) (v : Word64) (h : bar0Open s port false = true) : resetWrite port v s =
    if !pairOk v || !resetTargetOk s (askedLevel v) (askedTarget v) then setupRefused s offPtReset
    else if resetCovered s (askedLevel v) (askedTarget v) then
      { resetNoted s v with setup := { (resetNoted s v).setup with merged := satInc s.setup.merged } }
    else
      (let u := beginReset (resetNoted s v) (askedLevel v) (askedTarget v) ((pairVal v).testBit 10)
       match u.resets.getLast? with
       | none => u
       | some r => resetGoesOn u (powerHeld u (askedLevel v) (askedTarget v)) r) := by
  unfold resetWrite
  rw [if_neg (by rw [h]; decide)]
  rfl

theorem exec_reset {i : Instr} {port : HostPort} {v : Word64}
    (h : i = .coreReset port v ∨ i = .clusterReset port v ∨ i = .partitionReset port v ∨ i = .moduleReset port v) (s : State) :
    exec i s = finishFuse s (resetWrite port v s) := by
  rcases h with rfl | rfl | rfl | rfl
  all_goals rfl

section
variable {i : Instr} {s : State} {port : HostPort} {v : Word64}
  (row : i = .coreReset port v ∨ i = .clusterReset port v ∨ i = .partitionReset port v ∨ i = .moduleReset port v)
  (isOpen : bar0Open s port false = true)
include row isOpen

/-- A malformed word, or a target that does not exist. -/
theorem reset_refused (h : pairOk v = false ∨ resetTargetOk s (askedLevel v) (askedTarget v) = false) : ∃ u, exec i s = .next u ∧ OnlyReports s u := by
  have only := onlyReports_setupRefused s offPtReset
  refine ⟨setupRefused s offPtReset, ?_, only⟩
  rw [exec_reset row, resetWrite_eq s port v isOpen, if_pos (by rcases h with h | h <;> simp [h])]
  exact finishFuse_of_same (congrArg (fun x : State => x.pw) only.rest :) (congrArg (fun x : State => x.fns) only.rest :)
    (congrArg (fun x : State => x.tb) only.rest :) (congrArg (fun x : State => x.pending) only.rest :)

variable (ok : pairOk v = true) (exists_ : resetTargetOk s (askedLevel v) (askedTarget v) = true)
include ok exists_

/-- Units that a reset has already: the request is merged. -/
theorem reset_merged (h : resetCovered s (askedLevel v) (askedTarget v) = true) : exec i s =
    .next { s with setup := { s.setup with reset := mkPair (BitVec.ofNat 32 (pairVal v % 2 ^ 11)), merged := satInc s.setup.merged } } := by
  rw [exec_reset row, resetWrite_eq s port v isOpen, if_neg (by rw [ok, exists_]; decide), if_pos h]
  exact finishFuse_of_same rfl rfl rfl rfl

theorem reset_begun (h : resetCovered s (askedLevel v) (askedTarget v) = false) {u : State} {r : Reset}
    (hu : beginReset (resetNoted s v) (askedLevel v) (askedTarget v) ((pairVal v).testBit 10) = u) (hr : u.resets.getLast? = some r) :
    exec i s = finishFuse s (resetGoesOn u (powerHeld u (askedLevel v) (askedTarget v)) r) := by
  rw [exec_reset row, resetWrite_eq s port v isOpen, if_neg (by rw [ok, exists_]; decide), if_neg (by rw [h]; decide), hu]
  dsimp only
  rw [hr]

end

theorem resetCovered_iff {s : State} {level : Fin 4} {target : Byte} : resetCovered s level target = true ↔
    (∃ r ∈ s.resets, resetInside s level target r.level r.target = true) ∨ replacing s level target = true := by
  unfold resetCovered; rw [Bool.or_eq_true, List.any_eq_true]

theorem resetCovered_eq_false {s : State} {level : Fin 4} {target : Byte} (h : ∀ r ∈ s.resets, resetInside s level target r.level r.target = false)
    (k : replacing s level target = false) : resetCovered s level target = false := by
  unfold resetCovered
  rw [k, Bool.or_false, List.any_eq_false]
  exact fun r hr => by rw [h r hr]; decide

/-! A reset that begins (R357). -/

theorem takenStep_eq_one {level : Fin 4} {l : List Reset} (h : level = 3 ∨ ∀ x ∈ l, x.step = 1) : takenStep level l = 1 := by
  unfold takenStep
  split
  · rfl
  · rename_i r more
    split
    · rfl
    · rename_i ne
      have first := h.resolve_left ne
      rw [first r (List.mem_cons_self ..)]
      exact foldl_keeps (fun n => n = 1) _ more 1 rfl fun n x hx hn => by rw [hn, first x (List.mem_cons_of_mem _ hx)]; rfl

/-- At step 1 a reset waits for its drain. -/
theorem resetGoesOn_waits (s : State) {r : Reset} (h : r.immediate = false) (k : r.step = 1) : resetGoesOn s false r = s := by
  unfold resetGoesOn
  rw [if_neg (by decide), h, k]
  rfl

theorem tilesWake_low (s : State) {level : Fin 4} (target : Byte) (h : level = 0 ∨ level = 1) :
    tilesWake s level target = wakeNap s (coreTile (resetCore target)) := by
  unfold tilesWake
  rw [resetTiles_low s target h, List.foldl_cons, List.foldl_nil]

/-- A reset of a core or cluster at its beginning. -/
theorem beginReset_low (s : State) {level : Fin 4} (target : Byte) (i : Bool) (h : level = 0 ∨ level = 1) :
    ∃ f, beginReset s level target i = { wakeNap (takeOver s level target i) (coreTile (resetCore target)) with fns := f } := by
  rw [beginReset_eq]
  dsimp only
  rw [if_neg (by rcases h with rfl | rfl <;> decide), tilesWake_low _ target h]
  generalize wakeNap _ _ = u
  exact ⟨_, fnsAlone_coresRun u level target⟩

theorem powerHeld_low {s : State} {level : Fin 4} {target : Byte} (h : level = 0 ∨ level = 1) : powerHeld s level target = true ↔
    (getTile s (coreTile (resetCore target))).power = .doze ∨ (getTile s (coreTile (resetCore target))).power = .off ∨
      (getTile s (coreTile (resetCore target))).power = .waking ∨ (getTile s (coreTile (resetCore target))).power = .claspHeld := by
  have low : decide (level ≤ 1) = true := by rcases h with rfl | rfl <;> decide
  unfold powerHeld
  rw [low, Bool.true_and, ← resetCore]
  cases (getTile s (coreTile (resetCore target))).power <;> simp

theorem level_of_powerHeld {s : State} {level : Fin 4} {target : Byte} (h : powerHeld s level target = true) : level = 0 ∨ level = 1 := by
  unfold powerHeld at h
  have low : level ≤ 1 := of_decide_eq_true (Bool.and_eq_true_iff.mp h).1
  omega

/-- The tile of a core whose reset is under way is in DOZE or OFF only if it was. -/
theorem powerHeld_beginReset {s : State} {level : Fin 4} {target : Byte} (i : Bool) (h : powerHeld s level target = false) :
    powerHeld (beginReset s level target i) level target = false := by
  by_contra held
  rw [Bool.not_eq_false] at held
  have low := level_of_powerHeld held
  obtain ⟨f, begun⟩ := beginReset_low s target i low
  rw [powerHeld_low low, begun] at held
  rw [← Bool.not_eq_true, powerHeld_low low] at h
  have tile := power_wakeNap (takeOver s level target i) (coreTile (resetCore target))
  generalize wakeNap (takeOver s level target i) _ = u at held tile
  rcases tile with same | ⟨-, run⟩
  · have same : (getTile u (coreTile (resetCore target))).power = (getTile s (coreTile (resetCore target))).power := same
    rw [← same] at h
    exact h held
  · have held : (getTile u (coreTile (resetCore target))).power = .doze ∨ (getTile u (coreTile (resetCore target))).power = .off ∨
      (getTile u (coreTile (resetCore target))).power = .waking ∨ (getTile u (coreTile (resetCore target))).power = .claspHeld := held
    rw [run] at held
    simp at held

/-! A reset that is over at once (R454). -/

theorem drainEnd_low (s : State) (r : Reset) (d : BitVec 16) (h : r.level ≠ 3) : drainEnd s r d =
    { s with
      resets := s.resets.map (fun x => if x == r then { r with step := 5 } else x)
      setup := { s.setup with abandoned := outstandingTraffic s r, drain := d } } := by
  unfold drainEnd
  dsimp only
  rw [if_neg h]

theorem resetInside_self (s : State) {level : Fin 4} (target : Byte) (h : level = 0 ∨ level = 1) : resetInside s level target level target = true := by
  unfold resetInside
  rcases h with rfl | rfl <;> simp

/-- A core or cluster that no running reset has is not the target of one. -/
theorem not_mem_of_apart {s : State} {level : Fin 4} {target : Byte} {r : Reset} (low : level = 0 ∨ level = 1)
    (apart : ∀ r ∈ s.resets, resetInside s level target r.level r.target = false) (hl : r.level = level) (ht : r.target = target) : r ∉ s.resets := by
  intro h
  have self := apart r h
  rw [hl, ht, resetInside_self s target low] at self
  exact absurd self (by decide)

/-- The last of the resets, and no other, drains. -/
theorem map_drained {l : List Reset} {r : Reset} (h : r ∉ l) :
    (l ++ [r]).map (fun x => if x == r then { r with step := 5 } else x) = l ++ [{ r with step := 5 }] := by
  rw [List.map_append, List.map_singleton, beq_self_eq_true, if_pos rfl]
  refine congrArg (· ++ _) ((List.map_congr_left fun x hx => ?_).trans (List.map_id' l))
  have ne : x ≠ r := fun e => h (e ▸ hx)
  exact if_neg fun e => ne (eq_of_beq e)

theorem erase_last {l : List Reset} {r : Reset} (h : r ∉ l) : (l ++ [r]).erase r = l := by
  rw [List.erase_append_right _ h, List.erase_cons_head, List.append_nil]

/-- A reset of a core or cluster on a tile without power begins with nothing but its functions marked. -/
theorem beginReset_held (s : State) {level : Fin 4} {target : Byte} (i : Bool) (h : powerHeld s level target = true) :
    ∃ f, beginReset s level target i = { takeOver s level target i with fns := f } := by
  have low := level_of_powerHeld h
  obtain ⟨f, begun⟩ := beginReset_low s target i low
  refine ⟨f, ?_⟩
  rw [begun]
  have asleep : wakeNap (takeOver s level target i) (coreTile (resetCore target)) = takeOver s level target i := by
    have power : (getTile (takeOver s level target i) (coreTile (resetCore target))).power = (getTile s (coreTile (resetCore target))).power := rfl
    unfold wakeNap
    dsimp only
    rw [if_neg]
    rw [power]
    rcases (powerHeld_low low).mp h with e | e | e | e <;> rw [e] <;> simp
  rw [asleep]

/-- The reset that has drained, of one that takes nothing over. -/
def drainedReset (level : Fin 4) (target : Byte) (i : Bool) : Reset := { level := level, target := target, step := 5, immediate := i, inner := 0 }

/-- A reset that takes nothing over. -/
theorem newReset_alone {s : State} {level : Fin 4} {target : Byte} (i : Bool)
    (empty : ∀ r ∈ s.resets, resetInside s r.level r.target level target = false) :
    newReset s level target i = { drainedReset level target i with step := 1 } ∧
      (takeOver s level target i).resets = s.resets ++ [newReset s level target i] := by
  have none : (s.resets.filter fun r => resetInside s r.level r.target level target) = [] :=
    List.filter_eq_nil_iff.mpr fun r hr => by rw [empty r hr]; decide
  have all : (s.resets.filter fun r => !resetInside s r.level r.target level target) = s.resets :=
    List.filter_eq_self.mpr fun r hr => by rw [empty r hr]; rfl
  refine ⟨?_, ?_⟩
  · unfold newReset
    rw [none]
    rfl
  · rw [resets_takeOver, all]

/-- It stands drained beside the others. -/
theorem drainEnd_alone {s : State} {level : Fin 4} {target : Byte} (i : Bool) (low : level = 0 ∨ level = 1)
    (apart : ∀ r ∈ s.resets, resetInside s level target r.level r.target = false)
    (empty : ∀ r ∈ s.resets, resetInside s r.level r.target level target = false) (f : Tbl Fn) :
    ∃ a, drainEnd { takeOver s level target i with fns := f } (newReset s level target i) 0 =
      { s with
        fns := f, resets := s.resets ++ [drainedReset level target i]
        setup := { s.setup with resetLevel := BitVec.ofNat 2 level.val, resetTarget := target, abandoned := a, drain := 0 } } := by
  obtain ⟨new, listed⟩ := newReset_alone (s := s) i empty
  have fresh := not_mem_of_apart (r := newReset s level target i) low apart rfl rfl
  have ne : (newReset s level target i).level ≠ 3 := by
    show level ≠ 3
    rcases low with rfl | rfl <;> decide
  rw [drainEnd_low _ _ _ ne]
  rw [show ({ takeOver s level target i with fns := f } : State).resets = _ from listed, map_drained fresh, new]
  exact ⟨_, rfl⟩

section
variable {i : Instr} {s : State} {port : HostPort} {v : Word64}
  (row : i = .coreReset port v ∨ i = .clusterReset port v ∨ i = .partitionReset port v ∨ i = .moduleReset port v)
  (isOpen : bar0Open s port false = true) (ok : pairOk v = true) (exists_ : resetTargetOk s (askedLevel v) (askedTarget v) = true)
  (apart : ∀ r ∈ s.resets, resetInside s (askedLevel v) (askedTarget v) r.level r.target = false)
  (unreplaced : replacing s (askedLevel v) (askedTarget v) = false)
include row isOpen ok exists_ apart unreplaced

/-- A reset that is neither merged nor over at once. -/
theorem reset_begins (held : powerHeld s (askedLevel v) (askedTarget v) = false) (drains : (pairVal v).testBit 10 = false)
    (first : askedLevel v = 3 ∨ ∀ x ∈ s.resets, resetInside s x.level x.target (askedLevel v) (askedTarget v) = true → x.step = 1) :
    ∃ u r, exec i s = .next u ∧ r.level = askedLevel v ∧ r.target = askedTarget v ∧ r.step = 1 ∧ r.immediate = false ∧
      r.inner = ((s.resets.filter fun x => resetInside s x.level x.target (askedLevel v) (askedTarget v)).map fun x => 1 + x.inner).sum ∧
      u.resets = (s.resets.filter fun x => !resetInside s x.level x.target (askedLevel v) (askedTarget v)) ++ [r] ∧
      u.setup = { s.setup with
        reset := mkPair (BitVec.ofNat 32 (pairVal v % 2 ^ 11)), resetLevel := BitVec.ofNat 2 (askedLevel v).val, resetTarget := askedTarget v } ∧
      (∀ c ∈ resetCores s (askedLevel v) (askedTarget v), fnReady s (fnCore c) = true → fnState u (fnCore c) = 1) ∧
      u.pw = (if askedLevel v = 3 then { s.pw with modReady := false } else s.pw) ∧
      { besideWork u with fns := s.fns, resets := s.resets, setup := s.setup, pw := s.pw } = besideWork s := by
  have step : takenStep (askedLevel v) (s.resets.filter fun x => resetInside s x.level x.target (askedLevel v) (askedTarget v)) = 1 :=
    takenStep_eq_one (first.imp_right fun h x hx => h x (List.mem_filter.mp hx).1 (List.mem_filter.mp hx).2)
  have held : powerHeld (resetNoted s v) (askedLevel v) (askedTarget v) = false := held
  have heldAfter := powerHeld_beginReset ((pairVal v).testBit 10) held
  have work := beginReset_rest (resetNoted s v) (askedLevel v) (askedTarget v) ((pairVal v).testBit 10)
  have runs := beginReset_fns (resetNoted s v) (askedLevel v) (askedTarget v) ((pairVal v).testBit 10)
  have go := reset_begun row isOpen ok exists_ (resetCovered_eq_false apart unreplaced) (r := newReset (resetNoted s v) (askedLevel v) (askedTarget v) false)
    rfl
  rw [drains] at *
  generalize beginReset (resetNoted s v) (askedLevel v) (askedTarget v) false = u at *
  have resets := (congrArg (fun x : State => x.resets) work :)
  have listed : u.resets = (s.resets.filter fun x => !resetInside s x.level x.target (askedLevel v) (askedTarget v)) ++
    [newReset (resetNoted s v) (askedLevel v) (askedTarget v) false] := resets
  have stays := resetGoesOn_waits u (r := newReset (resetNoted s v) (askedLevel v) (askedTarget v) false) rfl step
  have outcome : exec i s = .next (announce s u) := by
    rw [go (by rw [listed, List.getLast?_concat]), heldAfter, stays]
    exact finishFuse_next (congrArg (fun x : State => x.pending) work :) (congrArg (fun x : State => x.tb) work :)
  refine ⟨announce s u, newReset (resetNoted s v) (askedLevel v) (askedTarget v) false, outcome, rfl, rfl, step, rfl, rfl, listed, ?_, runs, ?_, ?_⟩
  · exact (congrArg (fun x : State => x.setup) work :)
  · exact (congrArg (fun x : State => x.pw) work :)
  · rw [besideWork_of_reports (onlyReports_announce s u), work]
    rfl

/-- A reset of a core or cluster on a tile without power. -/
theorem reset_held (held : powerHeld s (askedLevel v) (askedTarget v) = true)
    (empty : ∀ r ∈ s.resets, resetInside s r.level r.target (askedLevel v) (askedTarget v) = false) (idle : ∀ e ∈ s.rings, e.2.sendQueue = []) :
    ∃ u, exec i s = .next u ∧ u.resets = s.resets ∧ u.setup.resetCount = satAdd s.setup.resetCount 1 ∧ u.setup.drain = 0 ∧
      getCore u (resetCore (askedTarget v)) = registersOf (getCore s (resetCore (askedTarget v))) ∧
      { besideWork u with fns := s.fns, setup := s.setup } = besideWork s := by
  have low := level_of_powerHeld held
  have heldNoted : powerHeld (resetNoted s v) (askedLevel v) (askedTarget v) = true := held
  obtain ⟨f, begun⟩ := beginReset_held (resetNoted s v) ((pairVal v).testBit 10) heldNoted
  obtain ⟨a, drained⟩ := drainEnd_alone (s := resetNoted s v) ((pairVal v).testBit 10) low apart empty f
  obtain ⟨new, listed⟩ := newReset_alone (s := resetNoted s v) ((pairVal v).testBit 10) empty
  have go := reset_begun row isOpen ok exists_ (resetCovered_eq_false apart unreplaced)
    (r := newReset (resetNoted s v) (askedLevel v) (askedTarget v) ((pairVal v).testBit 10)) begun (by
      rw [show ({ takeOver _ _ _ _ with fns := f } : State).resets = _ from listed, List.getLast?_concat])
  have heldAfter : powerHeld { takeOver (resetNoted s v) (askedLevel v) (askedTarget v) ((pairVal v).testBit 10) with fns := f } (askedLevel v)
    (askedTarget v) = true := held
  rw [heldAfter, resetGoesOn, if_pos rfl, drained, new] at go
  have fresh := not_mem_of_apart (r := drainedReset (askedLevel v) (askedTarget v) ((pairVal v).testBit 10)) low apart rfl rfl
  generalize hd : ({ resetNoted s v with fns := f, resets := _, setup := _ } : State) = d at go
  replace go : exec i s = finishFuse s (endReset d (drainedReset (askedLevel v) (askedTarget v) ((pairVal v).testBit 10))) := go
  have idleAfter : RingsIdle d := by rw [← hd]; exact ringsIdle_of_entries idle
  obtain ⟨core, -, work⟩ := endReset_spec d (drainedReset (askedLevel v) (askedTarget v) ((pairVal v).testBit 10)) low idleAfter
  have cores : getCore d (resetCore (askedTarget v)) = getCore s (resetCore (askedTarget v)) := by rw [← hd]; rfl
  have counted : { besideWork (resetCounted d (drainedReset (askedLevel v) (askedTarget v) ((pairVal v).testBit 10))) with
      fns := s.fns, setup := s.setup } = besideWork s := by
    unfold resetCounted
    rw [show d.resets = s.resets ++ [drainedReset (askedLevel v) (askedTarget v) ((pairVal v).testBit 10)] by rw [← hd]; rfl, erase_last fresh, ← hd]
    rfl
  have count : d.setup.resetCount = s.setup.resetCount ∧ d.setup.drain = 0 := by rw [← hd]; exact ⟨rfl, rfl⟩
  generalize endReset d _ = u at go core work
  have setup : u.setup = { d.setup with resetCount := satAdd d.setup.resetCount 1 } := (congrArg (fun x : State => x.setup) work :)
  have frame : { besideWork u with fns := s.fns, setup := s.setup } = besideWork s := by rw [← counted, work]
  refine ⟨announce s u, ?_, ?_, ?_, ?_, core.trans (congrArg registersOf cores), ?_⟩
  · rw [go]
    exact finishFuse_next (congrArg (fun x : State => x.pending) frame :) (congrArg (fun x : State => x.tb) frame :)
  · exact (congrArg (fun x : State => x.resets) frame :)
  · show u.setup.resetCount = _
    rw [setup, ← count.1]
  · show u.setup.drain = _
    rw [setup, ← count.2]
  · rw [besideWork_of_reports (onlyReports_announce s u)]
    exact frame

end

end Sys2Proof.Proofs.Ends

/-!
SUPPORT. What the end of everything leaves of the map, the holes and the time base (R40, R356, R367, R508).
-/
namespace Sys2Proof.Proofs.Ends
open Sys2Proof Sys2Proof.Machine Sys2Proof.Proofs.Units Sys2Proof.Proofs.Grid Sys2Proof.Proofs.Requests

/-! The relation. -/

/-- No tile has failed segments that wait for its return. -/
def Unfailed (s : State) : Prop := ∀ n, (getTile s n).failedSegs = 0

/-- From s to t what `steady` reads stands, and so do the changes in hand; with no segments waiting, the map stands too. -/
structure Stands (s t : State) : Prop where
  steady : steady t = steady s
  changes : t.changes = s.changes
  map : Unfailed s → Unfailed t ∧ t.mitten = s.mitten

theorem Stands.refl (s : State) : Stands s s := ⟨rfl, rfl, fun h => ⟨h, rfl⟩⟩
theorem Stands.trans {s t u : State} (h : Stands s t) (k : Stands t u) : Stands s u :=
  ⟨k.steady.trans h.steady, k.changes.trans h.changes, fun f => ⟨(k.map (h.map f).1).1, (k.map (h.map f).1).2.trans (h.map f).2⟩⟩

theorem stands_foldl {α : Type} (f : State → α → State) (l : List α) (s : State) (h : ∀ s x, Stands s (f s x)) : Stands s (l.foldl f s) :=
  foldl_keeps (Stands s) f l s (.refl s) fun t x _ k => k.trans (h t x)

theorem stands_of_work {s t : State} (h : besideWork t = besideWork s) (k : ∀ n, (getTile t n).failedSegs = (getTile s n).failedSegs) : Stands s t :=
  ⟨steady_of_work h, (congrArg (fun x : State => x.changes) h :), fun f => ⟨fun n => (k n).trans (f n), mitten_of_work h⟩⟩

theorem stands_of_tiles {s t : State} (h : besideWork t = besideWork s) (k : t.tiles = s.tiles) : Stands s t :=
  stands_of_work h fun n => by rw [getTile_of s t n k]

theorem stands_of_ends {s t : State} (h : besideWork t = besideWork s) (k : WorkEnds s t) : Stands s t := stands_of_work h fun n => (k.tiles n).2

theorem stands_setTile (s : State) (t : TileNo) (x : Tile) (h : x.failedSegs = (getTile s t).failedSegs) : Stands s (setTile s t x) := by
  refine stands_of_work rfl fun n => ?_
  by_cases e : n = t
  · rw [e, getTile_same, h]
  · rw [getTile_other s x e]

/-! Cores, collectives and records. -/

theorem stands_complete (s : State) (t : Task) (st : BitVec 8) : Stands s (complete s t st) := stands_of_ends (besideWork_complete ..) (workEnds_complete ..)
theorem stands_completes (s : State) (l : List Task) (st : BitVec 8) : Stands s (l.foldl (fun s t => complete s t st) s) :=
  stands_foldl _ _ _ fun s t => stands_complete s t st
theorem stands_rejectTask (s : State) (t : Task) (st : BitVec 8) (d : BitVec 16) : Stands s (rejectTask s t st d) :=
  stands_of_ends (besideWork_rejectTask ..) (workEnds_rejectTask ..)
theorem stands_endCore (s : State) (c : CoreNo) (st : BitVec 8) : Stands s (endCore s c st) := stands_of_ends (besideWork_endCore ..) (workEnds_endCore ..)
theorem stands_endColl (s : State) (t : Task) (x : Coll) (st : BitVec 8) : Stands s (endColl s t x st) :=
  stands_of_ends (besideWork_endColl ..) (workEnds_endColl ..)
theorem stands_closeColls (s : State) (p : PartNo) : Stands s (closeColls s p) := stands_foldl _ _ _ fun _ _ => stands_endColl ..

/-! A partition's other units (R193, R229, R252). -/

theorem stands_mapTasks (s : State) (p : PartNo) (f : Task → Task) : Stands s (mapTasks s p f) := by
  refine stands_of_work rfl fun n => ?_
  unfold mapTasks getTile
  dsimp only
  rw [tget_tmap _ _ _ _ rfl]

theorem stands_setPart (s : State) (p : PartNo) (x : Partition) : Stands s (setPart s p x) := stands_of_tiles rfl rfl
theorem stands_setCuff (s : State) (n : CuffNo) (x : Cuff) : Stands s (setCuff s n x) := stands_of_tiles rfl rfl

theorem stands_clearMarks (s : State) (p : PartNo) : Stands s (clearMarks s p) := (stands_mapTasks ..).trans (stands_setPart ..)
theorem stands_withdrawClose (s : State) (p : PartNo) : Stands s (withdrawClose s p) := (stands_mapTasks ..).trans (stands_setPart ..)

theorem stands_endPhase (s : State) (p : PartNo) (i : Nat) (st : BitVec 8) : Stands s (endPhase s p i st) := by
  unfold endPhase
  dsimp only
  split
  · exact .refl s
  · refine Stands.trans ?_ (stands_rejectTask ..)
    split
    · exact stands_setPart ..
    · exact (stands_setPart ..).trans (stands_clearMarks ..)

theorem stands_endCoordinator (s : State) (p : PartNo) (st : BitVec 8) : Stands s (endCoordinator s p st) := by
  unfold endCoordinator
  dsimp only
  have closed : Stands s ((getPart s p).colls.foldl (fun s x => endColl s x.first x st) s) := stands_foldl _ _ _ fun s x => stands_endColl ..
  generalize (getPart s p).colls.foldl (fun s x => endColl s x.first x st) s = u at closed ⊢
  have ended := closed.trans (stands_foldl _ (getPart u p).phases u fun s _ => stands_endPhase s p 0 st)
  generalize (getPart u p).phases.foldl (fun s _ => endPhase s p 0 st) u = v at ended ⊢
  refine Stands.trans ?_ ((stands_setPart ..).trans (stands_completes ..))
  split
  · exact ended
  · exact ended.trans ((stands_withdrawClose ..).trans (stands_complete ..))

theorem stands_storeMem (s : State) (a : Nat) (l : List Byte) : Stands s (storeMem s a l) := by
  have memory := besideMemory_storeMem s a l
  exact stands_of_tiles (congrArg besideWork memory :) (congrArg (fun x : State => x.tiles) memory :)

theorem stands_zeroRange (s : State) (a n : Nat) : Stands s (zeroRange s a n) := stands_of_tiles rfl rfl

theorem stands_outcome (s : State) (t : Task) (st : BitVec 8) (d : BitVec 16) (c : Bool) (w : Word64) (q : BitVec 4) :
    Stands s (outcome s t st d c w q).1 := stands_of_ends (besideWork_outcome ..) (workEnds_outcome ..)

theorem stands_forgetOp (s : State) (n : CuffNo) (t : Task) : Stands s (forgetOp s n t) := stands_of_tiles (besideWork_forgetOp ..) rfl

theorem stands_endCuffOp (s : State) (n : CuffNo) (o : CuffOp) (st : BitVec 8) (b : Bool) : Stands s (endCuffOp s n o st b) := by
  unfold endCuffOp
  dsimp only
  refine Stands.trans ?_ (stands_forgetOp ..)
  refine Stands.trans ?_ (stands_outcome ..)
  refine Stands.trans ?_ (stands_setCuff ..)
  have counted : Stands s (if (b && opCounts o.task) = true then setCuff s n { getCuff s n with aborts := satInc (getCuff s n).aborts } else s) := by
    split
    · exact stands_setCuff ..
    · exact .refl s
  generalize (if (b && opCounts o.task) = true then setCuff s n { getCuff s n with aborts := satInc (getCuff s n).aborts } else s) = u at counted ⊢
  split
  · exact counted.trans (stands_storeMem ..)
  · exact counted

theorem stands_stopCuffOps (s : State) (p : CuffNo → CuffOp → Bool) (st : BitVec 8) : Stands s (stopCuffOps s p st) :=
  stands_foldl _ _ _ fun _ n => stands_foldl _ _ _ fun s o => stands_endCuffOp s n o st true

theorem stands_endPartCuffs (s : State) (p : PartNo) (st : BitVec 8) : Stands s (endPartCuffs s p st) := by
  unfold endPartCuffs
  dsimp only
  have stopped := stands_stopCuffOps s (fun _ o => o.task.part == p) st
  generalize stopCuffOps s (fun _ o => o.task.part == p) st = u at stopped ⊢
  refine Stands.trans ?_ (stands_completes ..)
  exact stopped.trans (stands_of_tiles rfl rfl)

theorem stands_endStation (s : State) (t : TileNo) (st : BitVec 8) : Stands s (endStation s t st) := by
  unfold endStation
  dsimp only
  refine Stands.trans ?_ (stands_completes ..)
  refine Stands.trans (t := { s with bursts := s.bursts.filter fun b => b.srcTile != t }) (stands_of_tiles rfl rfl) ?_
  exact stands_setTile _ t _ rfl

/-! A diagnostics run that ends (R508). -/

/-- Where no segment waits, a return to core mode that finds none failing leaves the map alone. -/
theorem applyAtReturn_of_unfailed {s : State} (t : TileNo) (h : (getTile s t).failedSegs = 0) :
    applyAtReturn s t 0 = setTile s t { getTile s t with failedSegs := 0 } := by
  unfold applyAtReturn
  rw [h]
  refine foldl_keeps (fun u => u = setTile s t { getTile s t with failedSegs := 0 }) _ _ _ rfl fun u k _ hu => ?_
  dsimp only
  rw [if_pos, hu]
  simp

theorem stands_tileRestored (s : State) (t : TileNo) (f : Unfailed s) : Stands s (tileRestored s t 0) := by
  have applied : Stands s (applyAtReturn s t 0) := by
    rw [applyAtReturn_of_unfailed t (f t)]
    exact stands_setTile s t _ (f t).symm
  have zeroed := applied.trans (stands_zeroRange _ (cmemBase (coreAt t 0)) (2 ^ 30))
  unfold tileRestored
  dsimp only
  generalize zeroRange _ _ _ = z at zeroed ⊢
  exact zeroed.trans (stands_setTile z t _ rfl)

theorem stands_returnTile (s : State) (t : TileNo) : Stands s (returnTile s t 0) := by
  have work := besideMap_returnTile s t 0
  refine ⟨(congrArg steady work :), (congrArg (fun x : State => x.changes) work :), fun f => ?_⟩
  have restored := (stands_tileRestored s t f).map f
  have same := sameRoster_foldl_coreReturns (tileRestored s t 0) (tileCores t)
  rw [← returnTile_eq] at same
  exact ⟨fun n => by rw [same.getTile]; exact restored.1 n, same.map.trans restored.2⟩

theorem stands_abortDiag (s : State) : Stands s (abortDiag s) := by
  unfold abortDiag
  split
  · exact .refl s
  · dsimp only
    have returned : Stands s (s.setup.diagLeft.foldl (fun s t => if inCoreMode s t then s else returnTile s t 0) s) := stands_foldl _ _ _ fun s t => by
      split
      · exact .refl s
      · exact stands_returnTile s t
    generalize s.setup.diagLeft.foldl _ s = u at returned ⊢
    exact returned.trans ⟨rfl, rfl, fun f => ⟨f, rfl⟩⟩

/-- The units of a partition's tiles that are over with its stations, coordinator and Cuff operations: nodes, tests of spares, tree buffers, Palms. -/
theorem stands_clearPart (s : State) (p : PartNo) : Stands s (clearPart s p) := by
  unfold clearPart
  dsimp only
  have aborted : Stands s (if s.setup.diagLeft.any (partHasTile s p) = true then abortDiag s else s) := by
    split
    · exact stands_abortDiag s
    · exact .refl s
  generalize (if s.setup.diagLeft.any (partHasTile s p) = true then abortDiag s else s) = u at aborted ⊢
  have ended := aborted.trans (stands_foldl _ (partTiles s p) u fun s t => stands_endStation s t stReset)
  generalize (partTiles s p).foldl (fun s t => endStation s t stReset) u = v at ended ⊢
  replace ended := ended.trans ((stands_endPartCuffs v p stReset).trans (stands_endCoordinator _ p stReset))
  generalize endCoordinator (endPartCuffs v p stReset) p stReset = w at ended ⊢
  replace ended := ended.trans (stands_foldl (fun s t => setTile s t { getTile s t with nodes := [], spareTests := [] }) (partTiles s p) w
    fun s t => stands_setTile s t _ rfl)
  generalize (partTiles s p).foldl (fun s t => setTile s t { getTile s t with nodes := [], spareTests := [] }) w = z at ended ⊢
  exact ended.trans (stands_of_tiles rfl rfl)

/-! Everything (R356). -/

theorem stands_resetRest (s : State) : Stands s (resetRest s) := by
  unfold resetRest
  dsimp only
  have cleared := stands_foldl clearPart (s.parts.map fun e => (Fin.ofNat 64 e.1 : PartNo)) s stands_clearPart
  generalize (s.parts.map fun e => (Fin.ofNat 64 e.1 : PartNo)).foldl clearPart s = u at cleared ⊢
  refine Stands.trans ?_ (stands_completes ..)
  exact cleared.trans (stands_of_tiles rfl rfl)

theorem stands_endEverything (s : State) : Stands s (endEverything s) := by
  rw [endEverything_eq]
  exact (stands_foldl closeColls _ s stands_closeColls).trans
    ((stands_foldl (fun s c => endCore s c stReset) (List.finRange 256) _ fun s c => stands_endCore s c stReset).trans (stands_resetRest _))

/-! The changes in hand (R40). -/

theorem steady_applyPending (s : State) : steady (applyPending s) = steady s := by
  unfold applyPending
  dsimp only
  rw [steady_foldl]
  · exact steady_foldl _ _ _ fun s m => steady_deferSegs s m.core _
  · intro s t
    split
    · rfl
    · exact (congrArg steady (besideMap_applyAtReturn s t 0) :)

/-- With no change in hand and no segment waiting there is nothing to apply. -/
theorem applyPending_of_unfailed {s : State} (h : s.changes = []) (f : Unfailed s) : applyPending s = s := by
  have same : ({ s with changes := [] } : State) = s := by rw [← h]
  unfold applyPending
  rw [h, List.foldl_nil, same]
  exact foldl_keeps (fun u => u = s) _ _ _ rfl fun u t _ hu => by rw [hu, f t]; rfl

end Sys2Proof.Proofs.Ends

/-!
SUPPORT. The module's own reset, and OBLIGATION O48 (R40, R356 to R360, R364, R367).
-/
namespace Sys2Proof.Proofs.Ends
open Sys2Proof Sys2Proof.Machine Sys2Proof.Proofs.Units Sys2Proof.Proofs.Grid Sys2Proof.Proofs.Requests

/-- No unit holds anything. -/
def HoldsNothing (u : State) : Prop :=
  u.cores = [] ∧ u.palms = [] ∧ u.parts = [] ∧ u.cuffs = [] ∧ u.rings = [] ∧ u.ctxs = [] ∧ u.pages = [] ∧ u.packets = [] ∧ u.bursts = [] ∧
    u.owning = [] ∧ u.resets = []

theorem holdsNothing_announce (s t : State) : HoldsNothing (announce s t) ↔ HoldsNothing t := by simp [HoldsNothing]

/-- What a module reset leaves of Weala's requests, which then go on, holds nothing and keeps the drain, the map, the holes and the time base. -/
theorem moduleRest_spec (a : Bool) (s : State) : HoldsNothing (moduleRest a s) ∧ (moduleRest a s).setup.drain = s.setup.drain ∧
    (moduleRest a s).mitten = s.mitten ∧ (moduleRest a s).holes = s.holes ∧ (moduleRest a s).tb = s.tb := by
  unfold moduleRest
  dsimp only
  generalize hx : ({ clearedUnits s with setup := _ } : State) = x
  obtain ⟨only, rings⟩ := onlyRequests_serveAll x
  generalize serveAll x = t at only rings ⊢
  have noRings : x.rings = [] := by rw [← hx]; rfl
  have beside : besideRequests x = besideRequests { clearedUnits s with setup := x.setup } := by rw [← hx]
  have drain : x.setup.drain = s.setup.drain := by rw [← hx]
  have same := only.trans beside
  refine ⟨⟨?_, ?_, ?_, ?_, rings noRings, ?_, ?_, ?_, ?_, ?_, ?_⟩, ?_, ?_, ?_, ?_⟩
  · exact (congrArg (fun y : State => y.cores) same :)
  · exact (congrArg (fun y : State => y.palms) same :)
  · exact (congrArg (fun y : State => y.parts) same :)
  · exact (congrArg (fun y : State => y.cuffs) same :)
  · exact (congrArg (fun y : State => y.ctxs) same :)
  · exact (congrArg (fun y : State => y.pages) same :)
  · exact (congrArg (fun y : State => y.packets) same :)
  · exact (congrArg (fun y : State => y.bursts) same :)
  · exact (congrArg (fun y : State => y.owning) same :)
  · exact (congrArg (fun y : State => y.resets) same :)
  · exact (congrArg (fun y : State => y.setup.drain) same :).trans drain
  · exact (congrArg (fun y : State => y.mitten) same :)
  · exact (congrArg (fun y : State => y.holes) same :)
  · exact (congrArg (fun y : State => y.tb) same :)

/-- A module reset that clears: no unit holds anything; the drain, the holes and the time base stand, and so does the map, with no change in hand. -/
theorem moduleCleared_spec (s : State) : HoldsNothing (moduleCleared s) ∧ (moduleCleared s).setup.drain = s.setup.drain ∧
    (s.changes = [] → Unfailed s → (moduleCleared s).mitten = s.mitten) ∧ (moduleCleared s).holes = s.holes ∧ (moduleCleared s).tb = s.tb := by
  have ended := stands_endEverything s
  have applied := (steady_applyPending (endEverything s)).trans ended.steady
  have map (h : s.changes = []) (f : Unfailed s) : (applyPending (endEverything s)).mitten = s.mitten := by
    rw [applyPending_of_unfailed (ended.changes.trans h) (ended.map f).1]
    exact (ended.map f).2
  unfold moduleCleared
  generalize applyPending (endEverything s) = u at applied map ⊢
  obtain ⟨empty, drain, mitten, holes, time⟩ := moduleRest_spec s.setup.diagBusy u
  unfold steady at applied
  simp only [Prod.mk.injEq] at applied
  obtain ⟨holesKept, -, drainKept, timeKept⟩ := applied
  exact ⟨empty, drain.trans drainKept, fun h f => mitten.trans (map h f), holes.trans holesKept, time.trans timeKept⟩

/-- RESET_DRAIN_END of a core, cluster or partition. -/
theorem resetDrainEnd_low (s : State) (level : Fin 4) (target : Byte) (d : BitVec 16) (r : Reset) (ne : r.level ≠ 3)
    (found : s.resets.find? (fun r => r.level == level && r.target == target && decide (r.step < 4)) = some r) :
    exec (.resetDrainEnd level target d) s = .next { s with
      resets := s.resets.map (fun x => if x == r then { r with step := 5 } else x)
      setup := { s.setup with abandoned := outstandingTraffic s r, drain := d } } := by
  show finishFuse s (match s.resets.find? _ with | none => s | some x => _) = _
  rw [found]
  dsimp only
  rw [drainEnd_low s r d ne]
  exact finishFuse_of_same rfl rfl rfl rfl

/-- What a module reset leaves, as RESET_DRAIN_END says it. -/
def ModuleReset (s u : State) (d : BitVec 16) : Prop :=
  HoldsNothing u ∧ u.setup.drain = d ∧ (s.changes = [] → Unfailed s → u.mitten = s.mitten) ∧ u.holes = s.holes ∧ u.tb = s.tb

/-- The row's outcome announces, and leaves the queue and the time base to `step`. -/
theorem moduleReset_next {s u : State} {d : BitVec 16} (h : ModuleReset s u d) : ∃ w, finishFuse s u = .next w ∧ ModuleReset s w d := by
  obtain ⟨empty, drain, map, holes, -⟩ := h
  refine ⟨announce s { u with pending := s.pending, tb := s.tb }, rfl, (holdsNothing_announce ..).mpr empty, ?_, ?_, ?_, ?_⟩
  · rw [announce_setup]; exact drain
  · rw [announce_mitten]; exact map
  · rw [announce_holes]; exact holes
  · rw [announce_tb]

/-- RESET_DRAIN_END of a module reset. -/
theorem resetDrainEnd_module (s : State) (target : Byte) (d : BitVec 16) (r : Reset) (h : r.level = 3)
    (found : s.resets.find? (fun r => r.level == 3 && r.target == target && decide (r.step < 4)) = some r) :
    ∃ u, exec (.resetDrainEnd 3 target d) s = .next u ∧ ModuleReset s u d := by
  have row : exec (.resetDrainEnd 3 target d) s = finishFuse s (drainEnd s r d) := by
    show finishFuse s (match s.resets.find? _ with | none => s | some x => _) = _
    rw [found]
  have cleared : drainEnd s r d = moduleCleared { s with
      resets := s.resets.map (fun x => if x == r then { r with step := 5 } else x)
      setup := { s.setup with abandoned := outstandingTraffic s r, drain := d } } := by
    unfold drainEnd
    dsimp only
    rw [if_pos h]
  rw [row, cleared]
  exact moduleReset_next (moduleCleared_spec _)

/-- Settles O48: a reset's units are marked and cleared one by one; each clearing keeps what the units' rules say, a module reset's keeps the map. -/
theorem resetsDrainAndClear : Obligations.ResetsDrainAndClear := by
  unfold Obligations.ResetsDrainAndClear
  refine ⟨⟨fun i s port v row isOpen => ⟨reset_refused row isOpen, fun ok target => ⟨fun covered => ?_, fun apart free held empty idle => ?_,
    fun apart free held drains first => ?_⟩⟩, fun s level target d r => resetDrainEnd_low s level target d r⟩,
    fun s level target r low idle found awake => ?_, fun s target d r level found => ?_⟩
  · exact reset_merged row isOpen ok target (resetCovered_iff.mpr covered)
  · exact reset_held row isOpen ok target apart free held empty idle
  · exact reset_begins row isOpen ok target apart free held drains first
  · exact resetClearDone_spec s level target r low idle found awake
  · obtain ⟨u, next, ⟨h1, h2, h3, h4, h5, h6, h7, h8, h9, h10, h11⟩, rest⟩ := resetDrainEnd_module s target d r level found
    exact ⟨u, next, h1, h2, h3, h4, h5, h6, h7, h8, h9, h10, h11, rest⟩

end Sys2Proof.Proofs.Ends

/-!
SUPPORT. The registers after reset (R488).
-/
namespace Sys2Proof.Proofs.ResetRegisters
open Sys2Proof Sys2Proof.Machine

/-! At reset no unit is listed in its table, so that each one stands as its structure's defaults have it. -/

theorem getPart_reset (p : PartNo) : getPart State.reset p = {} := rfl
theorem getStack_reset (k : StackNo) : getStack State.reset k = {} := rfl
theorem getCuff_reset (n : CuffNo) : getCuff State.reset n = {} := rfl
theorem getCore_reset (c : CoreNo) : getCore State.reset c = {} := rfl
theorem getTile_reset (n : TileNo) : getTile State.reset n = {} := rfl

/-- QUIET, FB_RED_TMO and the shadows of the loss scale (R75, R178, R254). -/
theorem partitionRegisters_reset (p : PartNo) : regWord State.reset (.quiet p) = mkPair 0 ∧ regWord State.reset (.redTmo p) = 10000 ∧
    regWord State.reset (.lsShadow p 0) = mkPair 16 ∧ regWord State.reset (.lsShadow p 1) = mkPair 32 ∧
    regWord State.reset (.lsShadow p 2) = mkPair 2000 ∧ regWord State.reset (.lsShadow p 3) = mkPair 1 := by
  simp only [regWord, getPart_reset]
  decide

/-- HM_SCRUB_CTL and HM_LOAD (R294, R296). -/
theorem stackRegisters_reset (k : StackNo) : regWord State.reset (.scrubCtl k) = 0x118 ∧ regWord State.reset (.load k) = 0xE6000000 := by
  simp only [regWord, getStack_reset]
  decide

theorem farCtl_reset (q : PortNo) : regWord State.reset (.farCtl q) = 256 := by
  simp only [regWord, getCuff_reset]
  decide

theorem coreCtl_reset (c : CoreNo) : regWord State.reset (.coreCtl c) = 0x01080400 := by
  simp only [regWord, getCore_reset]
  decide

/-- TL_PW_FREQ and TL_PW_LL, and the clock at which a tile runs (R457, R462). -/
theorem tileRegisters_reset (n : TileNo) : regWord State.reset (.pwFreq n) = 40 ∧ (getTile State.reset n).loadLines = 0x28282850 ∧
    (getTile State.reset n).freq = 40 := by
  simp only [regWord, getTile_reset]
  decide

/-- Settles O9: the module's own registers by their defaults, a unit's by those of a unit that no table lists. -/
theorem resetValues : Obligations.ResetValues := by
  unfold Obligations.ResetValues
  exact ⟨rfl, rfl, rfl, rfl, rfl, partitionRegisters_reset, stackRegisters_reset, farCtl_reset, coreCtl_reset,
    fun n => (tileRegisters_reset n).1, fun n => (tileRegisters_reset n).2, rfl, rfl, rfl, rfl, rfl, rfl⟩

end Sys2Proof.Proofs.ResetRegisters

/-!
SUPPORT. Rows whose effect is unit work or a report: their outcome, and the partitions that a report leaves.
-/
namespace Sys2Proof.Proofs.Outcomes
open Sys2Proof Sys2Proof.Machine

/-- A row whose effect is unit work and reports ends with that effect: nothing is announced, and queue, time and fuses stand. -/
theorem finish_of_work {s t : State} (h : besideWork t = besideWork s) : finish s t = .next t :=
  finish_of_same s t (congrArg (fun x : State => x.pw) h :) (congrArg (fun x : State => x.fns) h :) (congrArg (fun x : State => x.tb) h :)
    (congrArg (fun x : State => x.pending) h :) (congrArg (fun x : State => x.weala.fuses) h :)

theorem getPart_of_reports {s t : State} (h : OnlyReports s t) (p : PartNo) : getPart t p = getPart s p :=
  getPart_of s t p (congrArg (fun x : State => x.parts) h.rest :)

end Sys2Proof.Proofs.Outcomes

/-!
SUPPORT. The loss scale: its commit, an invalid pair, the final census (R74 to R79, R420).
-/
namespace Sys2Proof.Proofs.LossScales
open Sys2Proof Sys2Proof.Machine Sys2Proof.Proofs.Outcomes

/-! The shadows (R75, R76). -/

/-- What the shadows need: both exponents' ranges follow from the order of EXP, MAX_EXP and their outer bounds. -/
theorem lsShadowsOk_iff (l : LossScale) : lsShadowsOk l = true ↔
    pairOk l.shadowExp = true ∧ pairOk l.shadowMax = true ∧ pairOk l.shadowGrowth = true ∧ pairOk l.shadowMode = true ∧
    -32 ≤ lsShadowExp l ∧ lsShadowExp l ≤ lsShadowMax l ∧ lsShadowMax l ≤ 64 ∧ 1 ≤ lsShadowGrowth l := by
  simp only [lsShadowsOk, lsInRange, Bool.and_eq_true, decide_eq_true_eq]
  constructor
  · rintro ⟨⟨⟨⟨⟨⟨⟨e, m⟩, g⟩, d⟩, low, -⟩, -, high⟩, growth⟩, order⟩
    exact ⟨e, m, g, d, low, order, high, growth⟩
  · rintro ⟨e, m, g, d, low, order, high, growth⟩
    exact ⟨⟨⟨⟨⟨⟨⟨e, m⟩, g⟩, d⟩, low, by omega⟩, by omega, high⟩, growth⟩, order⟩

/-- A write to a shadow changes that shadow alone. -/
theorem ls_setReg_lsShadow (s : State) (p : PartNo) (k : Nat) (v : Word64) :
    (let l := (getPart s p).ls
     (getPart (setReg s (.lsShadow p k) v) p).ls =
       { l with shadowExp := if k = 0 then v else l.shadowExp, shadowMax := if k = 1 then v else l.shadowMax
                shadowGrowth := if k = 2 then v else l.shadowGrowth, shadowMode := if k = 0 ∨ k = 1 ∨ k = 2 then l.shadowMode else v }) := by
  dsimp only [setReg]
  rw [getPart_same]
  match k with
  | 0 => rfl
  | 1 => rfl
  | 2 => rfl
  | k + 3 => simp

/-! Commits (R76, R78, R79, R420). -/

theorem onlyReports_lsChanged (s : State) (p : PartNo) (old new : Int) (step : BitVec 32) : OnlyReports s (lsChanged s p old new step) := by
  unfold lsChanged
  split
  · exact .refl s
  · exact onlyReports_raise ..

section
variable {s : State} {port : HostPort} {p : PartNo} {v : Word64}

theorem exec_lsCommit (isOpen : bar0Open s port false = true) (stands : resettingPart s p = false) :
    exec (.lsCommit port p v) s = finish s (lsCommit s p v) := by
  show execLsCommit port p v s = _
  simp only [execLsCommit, isOpen, stands, Bool.not_true, Bool.false_eq_true, if_false]

/-- A partition that is resetting takes its commit at step 6. -/
theorem lsCommit_held (isOpen : bar0Open s port false = true) (resets : resettingPart s p = true) :
    exec (.lsCommit port p v) s = .next (setPart s p { getPart s p with lsHeld := (getPart s p).lsHeld ++ [v] }) := by
  show execLsCommit port p v s = _
  simp only [execLsCommit, isOpen, resets, Bool.not_true, Bool.false_eq_true, if_false, if_true]
  exact finish_of_work rfl

/-- An accepted commit: the new scale, and reports. -/
theorem lsCommit_accepted (ok : (pairOk v && pairVal v == 1 && lsShadowsOk (getPart s p).ls) = true) :
    OnlyReports (setPart s p { getPart s p with ls := lsCommitted (getPart s p).ls }) (lsCommit s p v) := by
  unfold lsCommit
  rw [if_pos ok]
  split
  · exact (onlyReports_lsChanged ..).trans (onlyReports_raise ..)
  · exact onlyReports_lsChanged ..

theorem lsCommit_refused (bad : (pairOk v && pairVal v == 1 && lsShadowsOk (getPart s p).ls) = false) :
    lsCommit s p v = raise s { code := 0x0021, part := some p, args := [p.val] } := by
  unfold lsCommit
  rw [if_neg (by rw [bad]; exact Bool.false_ne_true)]

end

/-! An invalid pair (R79). -/

theorem lsPairInvalid_spec (s : State) (p : PartNo) (valid : (getPart s p).ls.invalid = false) :
    ∃ t, exec (.lsPairInvalid p) s = .next t ∧
      OnlyReports (setPart s p { getPart s p with ls := { (getPart s p).ls with invalid := true } }) t := by
  have run : exec (.lsPairInvalid p) s = execLsPairInvalid p s := rfl
  simp only [execLsPairInvalid, valid, Bool.false_eq_true, if_false] at run
  exact ⟨_, run.trans (finish_of_work (besideWork_raise ..)), onlyReports_raise ..⟩

/-! The rule of the final census (R77). -/

section
variable {l : LossScale} (valid : l.invalid = false)
include valid

theorem lsCensus_fixed (fixed : l.dynamic = false) : lsCensus l true = { l with expPrev := l.expNow, clean := 0 } ∧
    lsCensus l false = { l with expPrev := l.expNow, clean := min (l.clean + 1) 65535 } := by
  simp [lsCensus, valid, fixed]

/-- A counted value lowers a dynamic exponent above the floor. -/
theorem lsCensus_halves (dynamic : l.dynamic = true) (above : -32 < l.expNow) : lsCensus l true =
    { l with expPrev := l.expNow, expNow := l.expNow - 1, clean := 0, halvings := min (l.halvings + 1) 65535 } := by
  simp [lsCensus, valid, dynamic, above]

/-- At the floor it is counted there. -/
theorem lsCensus_floor (dynamic : l.dynamic = true) (floor : l.expNow ≤ -32) : lsCensus l true =
    { l with expPrev := l.expNow, clean := 0, floorHits := min (l.floorHits + 1) 65535 } := by
  simp [lsCensus, valid, dynamic, Int.not_lt.mpr floor]

/-- The last of GROWTH clean steps raises it, below its maximum. -/
theorem lsCensus_grows (dynamic : l.dynamic = true) (full : l.clean + 1 = l.growth) : lsCensus l false =
    { l with expPrev := l.expNow, clean := 0, expNow := if l.expNow < l.maxExp then l.expNow + 1 else l.expNow } := by
  simp [lsCensus, valid, dynamic, full]

/-- Any other clean step is counted. -/
theorem lsCensus_clean (dynamic : l.dynamic = true) (more : l.clean + 1 ≠ l.growth) : lsCensus l false =
    { l with expPrev := l.expNow, clean := l.clean + 1 } := by
  simp [lsCensus, valid, dynamic, more]

end

theorem expPrev_lsCensus (l : LossScale) (nonfinite : Bool) : (lsCensus l nonfinite).expPrev = l.expNow := by
  unfold lsCensus
  dsimp only
  repeat' split
  all_goals rfl

/-- Settles O16: a commit is the new scale with reports, or a report alone; the census is the rule of R77, case by case. -/
theorem lossScaleFollowsItsRules : Obligations.LossScaleFollowsItsRules := by
  unfold Obligations.LossScaleFollowsItsRules
  refine ⟨lsShadowsOk_iff, fun s port p v => lsCommit_held, fun s port p v isOpen stands pair one ok => ?_, fun s port p v isOpen stands bad => ?_,
    ls_setReg_lsShadow, lsPairInvalid_spec, fun l valid => ?_⟩
  · have only : OnlyReports _ (lsCommit s p v) := lsCommit_accepted (by rw [pair, one, ok]; rfl)
    have work : besideWork (lsCommit s p v) = besideWork s := (besideWork_of_reports only).trans (besideWork_setPart ..)
    refine ⟨_, (exec_lsCommit isOpen stands).trans (finish_of_work work), ?_, only⟩
    rw [getPart_of_reports only, getPart_same]
    rfl
  · have run := (exec_lsCommit (v := v) isOpen stands).trans (congrArg (finish s) (lsCommit_refused bad))
    exact ⟨run.trans (finish_of_work (besideWork_raise ..)), onlyReports_raise ..⟩
  · refine ⟨expPrev_lsCensus l true, expPrev_lsCensus l false, fun dynamic above => ?_, fun dynamic floor => ?_, fun dynamic full => ?_,
      fun dynamic more => ?_, lsCensus_fixed valid⟩
    · rw [lsCensus_halves valid dynamic above]; exact ⟨rfl, rfl, rfl⟩
    · rw [lsCensus_floor valid dynamic floor]; exact ⟨rfl, rfl, rfl⟩
    · rw [lsCensus_grows valid dynamic full]; exact ⟨rfl, rfl⟩
    · rw [lsCensus_clean valid dynamic more]; exact ⟨rfl, rfl⟩

end Sys2Proof.Proofs.LossScales

/-!
SUPPORT. What the end of a descriptor leaves alone beside its record (R94, R325, R326, R328): memory outside the rings' buffers, what waits at a core, the
node slots of a tile; and what it leaves of the slot that it ends.
-/
namespace Sys2Proof.Proofs.RecordEnds
open Sys2Proof Sys2Proof.Machine Sys2Proof.Proofs.Ends

/-! The relation. -/

/-- What waits at a core: for admission, for a switch, and its PALM_INITs. -/
def waits (c : Core) : List Task × List Task × List Task × Bool := (c.queue, c.held, c.palmQueue, c.palmBusy)

/-- From s to t records may have been written: memory changes in rings' buffers alone, and what waits at cores and stands in node slots stays. -/
structure Recorded (s t : State) : Prop where
  entries : ∀ n, (getRing t n).entry = (getRing s n).entry
  memory : ∀ a, outsideRings s a → memByte t a = memByte s a
  waits : ∀ c, waits (getCore t c) = waits (getCore s c)
  nodes : ∀ n, (getTile t n).nodes = (getTile s n).nodes

/-- Which bytes the rings' buffers hold follows from the rings' entries. -/
theorem outsideRings_of_entries {s t : State} (h : ∀ n, (getRing t n).entry = (getRing s n).entry) {a : Nat} (ha : outsideRings s a) : outsideRings t a := by
  intro n hn
  refine ha n ?_
  simpa only [inRingBuffer, Ring.enabled, Ring.base, Ring.size, Ring.log2, Ring.kind, h n] using hn

theorem Recorded.refl (s : State) : Recorded s s := ⟨fun _ => rfl, fun _ _ => rfl, fun _ => rfl, fun _ => rfl⟩

theorem Recorded.outside {s t : State} (h : Recorded s t) {a : Nat} (ha : outsideRings s a) : outsideRings t a := outsideRings_of_entries h.entries ha

theorem Recorded.trans {s t u : State} (h : Recorded s t) (k : Recorded t u) : Recorded s u :=
  ⟨fun n => (k.entries n).trans (h.entries n), fun a ha => (k.memory a (h.outside ha)).trans (h.memory a ha), fun c => (k.waits c).trans (h.waits c),
    fun n => (k.nodes n).trans (h.nodes n)⟩

theorem recorded_of_reports {s t : State} (h : OnlyReports s t) : Recorded s t := by
  refine ⟨fun n => (congrArg (fun x : Machine.Ring => x.entry) (h.rings n) :), h.memory, fun c => ?_, fun n => ?_⟩
  · rw [getCore_of s t c (congrArg (fun x : State => x.cores) h.rest :)]
  · rw [getTile_of s t n (congrArg (fun x : State => x.tiles) h.rest :)]

theorem recorded_raise (s : State) (ev : Event) : Recorded s (raise s ev) := recorded_of_reports (onlyReports_raise s ev)

/-! Setters. -/

theorem recorded_setRing (s : State) (n : Nat) (v : Machine.Ring) (h : v.entry = (getRing s n).entry) : Recorded s (setRing s n v) := by
  refine ⟨fun m => ?_, fun _ _ => rfl, fun _ => rfl, fun _ => rfl⟩
  by_cases e : m = n
  · rw [e, getRing_same, h]
  · rw [getRing_other s v e]

theorem recorded_setCtx (s : State) (c : CtxNo) (v : Context) : Recorded s (setCtx s c v) := ⟨fun _ => rfl, fun _ _ => rfl, fun _ => rfl, fun _ => rfl⟩

theorem recorded_setPart (s : State) (p : PartNo) (v : Partition) : Recorded s (setPart s p v) := ⟨fun _ => rfl, fun _ _ => rfl, fun _ => rfl, fun _ => rfl⟩

theorem recorded_setPalm (s : State) (c : CoreNo) (k : Nat) (v : Palm) : Recorded s (setPalm s c k v) :=
  ⟨fun _ => rfl, fun _ _ => rfl, fun _ => rfl, fun _ => rfl⟩

theorem recorded_setCore (s : State) (c : CoreNo) (v : Core) (h : waits v = waits (getCore s c)) : Recorded s (setCore s c v) := by
  refine ⟨fun _ => rfl, fun _ _ => rfl, fun d => ?_, fun _ => rfl⟩
  by_cases e : d = c
  · rw [e, getCore_same, h]
  · rw [getCore_other s v e]

theorem recorded_setSlot (s : State) (c : CoreNo) (k : SlotNo) (v : Slot) : Recorded s (setSlot s c k v) := recorded_setCore s c _ rfl

/-! Records (R325, R326). -/

theorem waits_reschedule (c : Core) : waits (reschedule c) = waits c := by
  unfold reschedule
  split
  · rfl
  · dsimp only
    split <;> rfl

theorem waits_freeSlot (c : Core) (k : SlotNo) : waits (freeSlot c k) = waits c := by
  unfold freeSlot leaveSequencer
  rw [waits_reschedule]
  split <;> rfl

theorem waits_foldl_freeSlot (p : Slot → Bool) (l : List SlotNo) (c : Core) :
    waits (l.foldl (fun c k => let sl := tget {} c.slots k.val; if p sl then freeSlot c k else c) c) = waits c :=
  foldl_keeps (fun d : Core => waits d = waits c) _ l c rfl fun d k _ h => by
    dsimp only
    split
    · exact (waits_freeSlot d k).trans h
    · exact h

theorem entry_stopIfLinked (n : Nat) (x : Machine.Ring) : (stopIfLinked n x).entry = x.entry := by unfold stopIfLinked; split <;> rfl

theorem recorded_faultRing (s : State) (n : Nat) (st : BitVec 8) : Recorded s (faultRing s n st) := by
  unfold faultRing
  dsimp only
  refine Recorded.trans ?_ (recorded_raise ..)
  have marked : Recorded s (setRing s n { getRing s n with state := .faulted, fault := st }) := recorded_setRing _ _ _ rfl
  split
  · refine marked.trans ⟨fun m => ?_, fun _ _ => rfl, fun _ => rfl, fun _ => rfl⟩
    generalize setRing s n _ = u
    exact (congrArg Machine.Ring.entry (tget_stopped u.rings n m)).trans (entry_stopIfLinked ..)
  · exact marked

theorem recorded_releaseHolder (s : State) (t : Task) : Recorded s (releaseHolder s t) := by
  unfold releaseHolder
  dsimp only
  refine Recorded.trans (recorded_setRing s t.ring.toNat { getRing s t.ring.toNat with open_ := (getRing s t.ring.toNat).open_.filter (· != t.index) } rfl)
    ⟨fun _ => rfl, fun _ _ => rfl, fun c => ?_, fun n => ?_⟩
  · unfold getCore
    dsimp only
    rw [tget_tmap _ _ _ _ (by simp)]
    split
    · exact waits_foldl_freeSlot (fun sl => sl.recordHeld && (match sl.task with | some u => sameTask u t | none => false)) ..
    · rfl
  · unfold getTile
    dsimp only
    rw [tget_tmap _ _ _ _ rfl]
    split
    · split <;> rfl
    · rfl

/-- An entry of 32 bytes fits a ring of every kind. -/
theorem entry_fits (kind : Nat) : 32 ≤ ringEntryBytes kind := by
  unfold ringEntryBytes
  split <;> decide

theorem recorded_writeOutcome (s : State) (o : Outcome) : Recorded s (writeOutcome s o).1 := by
  unfold writeOutcome
  dsimp only
  generalize (getRing s o.task.ring.toNat).link = link
  split
  · exact recorded_releaseHolder ..
  · rename_i serves
    split
    · exact .refl s
    · split
      · exact (recorded_faultRing ..).trans (recorded_releaseHolder ..)
      · have on : (getRing s link).enabled = true := by
          cases e : (getRing s link).enabled with
          | true => rfl
          | false => simp [e] at serves
        generalize hb : bytesOf 32 _ = bytes
        have long : bytes.length = 32 := by rw [← hb, bytesOf_length]
        have memory := besideMemory_writeMem s ((getRing s link).slotAddr (getRing s link).tail) bytes
        have written := recorded_of_reports (onlyReports_entry s link (getRing s link).tail bytes on
          (by intro e; rw [e] at long; cases long) (by rw [long]; exact entry_fits _))
        have ring : getRing (writeMem s ((getRing s link).slotAddr (getRing s link).tail) bytes).1 link = getRing s link :=
          getRing_of _ _ _ (rings_of_memory memory)
        generalize getRing s link = r at written ring ⊢
        generalize writeMem s (r.slotAddr r.tail) bytes = w at written ring ⊢
        split
        · exact written.trans ((recorded_faultRing ..).trans (recorded_releaseHolder ..))
        · refine Recorded.trans ?_ (recorded_releaseHolder ..)
          have entered := written.trans (recorded_setRing w.1 link { r with tail := r.tail + 1 } (by rw [ring]))
          have counted := entered.trans (recorded_setCtx _ r.ctx { getCtx s r.ctx with seq := (getCtx s r.ctx).seq + 1 })
          split
          · exact counted.trans (recorded_of_reports (onlyReports_raiseMsix ..))
          · exact counted

/-- An outcome that must wait has changed nothing. -/
theorem writeOutcome_waits (s : State) (o : Outcome) (h : (writeOutcome s o).2 = false) : (writeOutcome s o).1 = s := by
  unfold writeOutcome at h ⊢
  dsimp only at h ⊢
  split at h <;> rename_i c1
  · cases h
  · rw [if_neg c1]
    split at h <;> rename_i c2
    · rw [if_pos c2]
    · split at h
      · cases h
      · split at h <;> cases h

/-! Header signals (R329). -/

theorem besideMemory_headerSignal (s : State) (t : Task) (st : BitVec 8) : besideMemory (headerSignal s t st).1 = besideMemory s := by
  have added : besideMemory (addWord s t.sigAddr t.sigValue).1 = besideMemory s := by
    unfold addWord
    split
    · rfl
    · exact besideMemory_storeMem ..
  unfold headerSignal
  split
  · rfl
  · dsimp only
    split
    · rfl
    · split
      · rfl
      · exact added

/-- Under SIG_MODE 0 there is none. -/
theorem headerSignal_silent (s : State) (t : Task) (st : BitVec 8) (silent : t.sigMode = 0) : headerSignal s t st = (s, true) := by
  unfold headerSignal
  rw [silent]
  rfl

/-! Outcomes. -/

section
variable (s : State) (t : Task) (st : BitVec 8) (d : BitVec 16) (census : Bool) (w : Word64) (q : BitVec 4)

theorem recorded_outcome : Recorded (headerSignal s t st).1 (outcome s t st d census w q).1 := by
  unfold outcome
  generalize headerSignal s t st = u
  dsimp only
  generalize (if u.2 = true then d else 0xFFFF) = d'
  split
  · exact recorded_setRing _ _ _ rfl
  · have written := recorded_writeOutcome u.1 { task := t, status := st, detail := d', time := w, quality := q, census := census }
    generalize writeOutcome u.1 _ = v at written ⊢
    split
    · exact written
    · exact written.trans (recorded_setRing _ _ _ rfl)

theorem recorded_outcome_silent (silent : t.sigMode = 0) : Recorded s (outcome s t st d census w q).1 := by
  have h := recorded_outcome s t st d census w q
  rwa [headerSignal_silent s t st silent] at h

theorem waits_outcome (c : CoreNo) : waits (getCore (outcome s t st d census w q).1 c) = waits (getCore s c) := by
  have cores : (headerSignal s t st).1.cores = s.cores := (congrArg (fun x : State => x.cores) (besideMemory_headerSignal s t st) :)
  rw [(recorded_outcome s t st d census w q).waits c, getCore_of s _ c cores]

theorem nodes_outcome (n : TileNo) : (getTile (outcome s t st d census w q).1 n).nodes = (getTile s n).nodes := by
  have tiles : (headerSignal s t st).1.tiles = s.tiles := (congrArg (fun x : State => x.tiles) (besideMemory_headerSignal s t st) :)
  rw [(recorded_outcome s t st d census w q).nodes n, getTile_of s _ n tiles]

/-- While the record waits no core has changed. -/
theorem cores_outcome_waits (h : (outcome s t st d census w q).2 = true) : (outcome s t st d census w q).1.cores = s.cores := by
  have signal : (headerSignal s t st).1.cores = s.cores := (congrArg (fun x : State => x.cores) (besideMemory_headerSignal s t st) :)
  unfold outcome at h ⊢
  generalize headerSignal s t st = u at h signal ⊢
  dsimp only at h ⊢
  generalize (if u.2 = true then d else 0xFFFF) = d' at h ⊢
  split at h <;> rename_i c1
  · rw [if_pos c1]; exact signal
  · rw [if_neg c1]
    have same := writeOutcome_waits u.1 { task := t, status := st, detail := d', time := w, quality := q, census := census }
    generalize writeOutcome u.1 _ = v at h same ⊢
    split at h <;> rename_i c2
    · cases h
    · rw [if_neg c2]
      exact (congrArg State.cores (same (Bool.eq_false_iff.mpr c2))).trans signal

end

/-! Slots that end at once (R94). -/

theorem memByte_spoilRange (kept : List (Nat × Nat)) (a n : Nat) (s : State) (x : Nat) (h : ¬ (a ≤ x ∧ x < a + n)) :
    memByte (spoilRange kept a n s) x = memByte s x := by
  induction n generalizing s with
  | zero => rfl
  | succ n ih =>
    unfold spoilRange
    dsimp only
    split
    · exact ih s (by omega)
    · rw [memByte_freeBytes_outside _ _ _ _ (by omega), ih s (by omega)]

/-- A failure spoils bytes of the task's destinations alone. -/
theorem memByte_spoilDest (s : State) (sl : Slot) (a : Nat) (h : sl.spoilt = true → outsideDest sl a) : memByte (spoilDest s sl) a = memByte s a := by
  unfold spoilDest
  split
  · rfl
  · rename_i spoilt
    have out := h (by simpa using spoilt)
    refine foldl_keeps (fun u : State => memByte u a = memByte s a) _ _ _ rfl fun u r hr k => ?_
    split
    · split
      · exact (memByte_spoilRange _ _ _ _ _ (out r hr)).trans k
      · exact k
    · exact k

theorem rings_spoilRange (kept : List (Nat × Nat)) (a n : Nat) (s : State) : (spoilRange kept a n s).rings = s.rings := by
  induction n generalizing s with
  | zero => rfl
  | succ n ih =>
    unfold spoilRange
    dsimp only
    split
    · exact ih s
    · rw [rings_of_memory (besideMemory_freeBytes ..), ih]

theorem rings_spoilDest (s : State) (sl : Slot) : (spoilDest s sl).rings = s.rings := by
  unfold spoilDest
  split
  · rfl
  · refine foldl_keeps (fun u : State => u.rings = s.rings) _ _ _ rfl fun u r _ k => ?_
    split
    · split
      · exact (rings_spoilRange ..).trans k
      · exact k
    · exact k

section
variable (s : State) (c : CoreNo) (k : SlotNo) (t : Task)

/-- The slot is empty once the record is written; until then it keeps the record. -/
theorem recordSlot_slot (sl : Slot) : getSlot (recordSlot s c k t sl) c k = {} ∨
    getSlot (recordSlot s c k t sl) c k = { sl with recordHeld := true, state := .late } := by
  unfold recordSlot
  generalize spoilDest s sl = u
  dsimp only
  generalize hv : setCore u c { getCore u c with slots := tput {} (getCore u c).slots k.val { sl with recordHeld := true, state := .late } } = v
  have keeps := cores_outcome_waits v t sl.status sl.detail t.census (now v) (quality v)
  generalize outcome v t sl.status sl.detail t.census (now v) (quality v) = o at keeps ⊢
  split
  · rename_i waiting
    right
    unfold getSlot
    rw [getCore_same, getCore_of v _ c (keeps waiting), ← hv, getCore_same]
    exact reschedule_keeps _ k _ (tget_tput_same ..) (by intro e; cases e)
  · left
    unfold getSlot
    rw [getCore_same]
    unfold freeSlot
    exact reschedule_keeps _ k {} (tget_tput_same ..) (by intro e; cases e)

theorem memByte_recordSlot (sl : Slot) (silent : t.sigMode = 0) (a : Nat) (ha : outsideRings s a) (spoils : sl.spoilt = true → outsideDest sl a) :
    memByte (recordSlot s c k t sl) a = memByte s a := by
  have left := memByte_spoilDest s sl a spoils
  have rings := rings_spoilDest s sl
  unfold recordSlot
  generalize spoilDest s sl = u at left rings ⊢
  dsimp only
  generalize hv : setCore u c { getCore u c with slots := tput {} (getCore u c).slots k.val { sl with recordHeld := true, state := .late } } = v
  have out : outsideRings v a := outsideRings_of_entries (fun n => by rw [← hv]; exact congrArg Machine.Ring.entry (getRing_of s u n rings)) ha
  have written := (recorded_outcome_silent v t sl.status sl.detail t.census (now v) (quality v) silent).memory a out
  have same : memByte v a = memByte s a := by rw [← hv]; exact left
  generalize outcome v t sl.status sl.detail t.census (now v) (quality v) = o at written ⊢
  split <;> exact written.trans same

/-- A slot with its sequencer given up and its fetches cancelled. -/
def slotEnded (s : State) (c : CoreNo) (k : SlotNo) (st : BitVec 8) (d : BitVec 16) : Slot :=
  { tget {} (cancelFetches (leaveSequencer (getCore s c) k) k).slots k.val with ended := true, status := st, detail := d, state := .late }

/-- Cancelling fetches leaves a slot's destinations, its stores and what they left. -/
theorem tget_cancelFetches (x : Core) : tget {} (cancelFetches (leaveSequencer x k) k).slots k.val =
    { tget {} x.slots k.val with fetchTags := [], toFetch := [], transfer := [], landed := [], ahead := false, swapPending := false } := by
  have slots : (leaveSequencer x k).slots = x.slots := by unfold leaveSequencer; split <;> rfl
  unfold cancelFetches
  dsimp only
  rw [tget_tput_same, slots]

theorem storesOut_cancelFetches (x : Core) : storesOut (cancelFetches (leaveSequencer x k) k) k = storesOut x k := by
  have queue : (cancelFetches (leaveSequencer x k) k).storeQueue = x.storeQueue := by unfold cancelFetches leaveSequencer; dsimp only; split <;> rfl
  unfold storesOut
  dsimp only
  rw [tget_cancelFetches, queue]

variable {s c k t}

/-- Without outstanding stores the record is due at once. -/
theorem endSlot_atOnce (st : BitVec 8) (d : BitVec 16) (task : (getSlot s c k).task = some t) (stored : storesOut (getCore s c) k = false) :
    ∃ co, endSlot s c k st d = recordSlot (setCore s c co) c k t (slotEnded s c k st d) := by
  refine ⟨putSlot (cancelFetches (leaveSequencer (getCore s c) k) k) k (slotEnded s c k st d), ?_⟩
  unfold endSlot
  rw [task]
  dsimp only
  rw [storesOut_cancelFetches, stored]
  rfl

/-- The slot of a task that ends at once: empty, or with its record. -/
theorem endSlot_slot (st : BitVec 8) (d : BitVec 16) (task : (getSlot s c k).task = some t) (stored : storesOut (getCore s c) k = false) :
    getSlot (endSlot s c k st d) c k = {} ∨ ((getSlot (endSlot s c k st d) c k).recordHeld = true ∧ (getSlot (endSlot s c k st d) c k).ended = true ∧
      (getSlot (endSlot s c k st d) c k).status = st ∧ (getSlot (endSlot s c k st d) c k).state = .late) := by
  obtain ⟨co, e⟩ := endSlot_atOnce st d task stored
  rw [e]
  rcases recordSlot_slot (setCore s c co) c k t (slotEnded s c k st d) with h | h
  · exact .inl h
  · rw [h]; exact .inr ⟨rfl, rfl, rfl, rfl⟩

theorem memByte_endSlot (st : BitVec 8) (d : BitVec 16) (task : (getSlot s c k).task = some t) (stored : storesOut (getCore s c) k = false)
    (silent : t.sigMode = 0) (a : Nat) (ha : outsideRings s a) (spoils : (getSlot s c k).spoilt = true → outsideDest (getSlot s c k) a) :
    memByte (endSlot s c k st d) a = memByte s a := by
  obtain ⟨co, e⟩ := endSlot_atOnce st d task stored
  rw [e]
  have kept : (slotEnded s c k st d).spoilt = (getSlot s c k).spoilt ∧ (slotEnded s c k st d).dest = (getSlot s c k).dest := by
    unfold slotEnded
    rw [tget_cancelFetches]
    exact ⟨rfl, rfl⟩
  refine memByte_recordSlot (setCore s c co) c k t _ silent a ha fun spoilt => ?_
  have out := spoils (kept.1 ▸ spoilt)
  unfold outsideDest at out ⊢
  rwa [kept.2]

/-- A slot without outstanding stores ends as R94 has it. -/
theorem endsAtOnce_endSlot (st : BitVec 8) (d : BitVec 16) (task : (getSlot s c k).task = some t) (stored : storesOut (getCore s c) k = false) :
    EndsAtOnce s (endSlot s c k st d) c k t st (getSlot s c k).spoilt :=
  ⟨endSlot_slot st d task stored, fun silent a ha spoils => memByte_endSlot st d task stored silent a ha spoils,
    congrArg (fun x : State => { x with packets := [] }) (besideRecords_endSlot s c k st d)⟩

end

end Sys2Proof.Proofs.RecordEnds

/-!
SUPPORT. Palms: their opening with zeros and their contributions (R68, R69, R221, R223 to R226, R228).
-/
namespace Sys2Proof.Proofs.Palms
open Sys2Proof Sys2Proof.Machine Sys2Proof.Proofs.Outcomes Sys2Proof.Proofs.RecordEnds

/-! Palms as they are set. -/

@[simp] theorem getPalm_same (s : State) (c : CoreNo) (k : Nat) (v : Palm) : getPalm (setPalm s c k v) c k = v := tget_tput_same ..
theorem getPalm_of (s t : State) (c : CoreNo) (k : Nat) (h : t.palms = s.palms) : getPalm t c k = getPalm s c k := by simp [getPalm, h]

/-! PALM_INIT (R221). -/

section
variable {s : State} {c : CoreNo} {t : Task} {rest : List Task}

theorem palmInit_begins (free : (getCore s c).palmBusy = false) (stands : resettingCore s c = false) (front : (getCore s c).palmQueue = t :: rest)
    (good : admissionFailure (palmInitFails s c t) = none) (due : stepWhen (getPart s t.part) t.step ≠ .next) :
    exec (.palmInit c) s = .next (setPalm (setCore s c { getCore s c with palmBusy := true, palmQueue := admitMark s t :: rest }) c (piSlot t)
      { isOpen := true, owner := t.ctx, base := piBase t, elements := piElements t, nextSeq := 0, nonfinite := false, broken := true }) := by
  show execPalmInit c s = _
  unfold execPalmInit
  simp only [free, stands, front, good, if_neg due, Bool.or_false, List.tail_cons]
  exact finish_of_work rfl

/-- Zeros leave no marker where there was none. -/
theorem linePoison_zeroRange (a n l : Nat) (h : linePoison s l = false) : linePoison (zeroRange s a n) l = false := by
  have filtered := tget_filter false (fun k => decide ((k * 64 < a) ∨ a + n < k * 64 + 64)) s.poison l
  unfold linePoison at h ⊢
  unfold zeroRange
  dsimp only at filtered ⊢
  rw [filtered, h, ite_self]

/-- PALM_INIT_DONE over a last line without a marker: the zeros, the Palm in service, and the record. -/
theorem palmInitDone_eq (busy : (getCore s c).palmBusy = true) (front : (getCore s c).palmQueue = t :: rest)
    (clean : 8 * piElements t % 64 = 0 ∨ linePoison s ((cmemBase c + piBase t + 8 * piElements t) / 64) = false) :
    exec (.palmInitDone c) s = finish s (complete (setPalm (zeroRange (popPalm s c) (cmemBase c + piBase t) (8 * piElements t)) c (piSlot t)
      { getPalm s c (piSlot t) with broken := false }) t stOk) := by
  have unmarked : (decide (8 * piElements t % 64 ≠ 0) && linePoison (zeroRange (popPalm s c) (cmemBase c + piBase t) (8 * piElements t))
      ((cmemBase c + piBase t + 8 * piElements t) / 64)) = false := by
    rcases clean with whole | unmarked
    · simp [whole]
    · rw [linePoison_zeroRange (s := popPalm s c) _ _ _ unmarked, Bool.and_false]
  show execPalmInitDone c s = _
  unfold execPalmInitDone
  simp only [busy, front, unmarked, Bool.false_eq_true, if_false]
  rfl

theorem palmInitDone_spec (busy : (getCore s c).palmBusy = true) (front : (getCore s c).palmQueue = t :: rest) (silent : t.sigMode = 0)
    (clean : 8 * piElements t % 64 = 0 ∨ linePoison s ((cmemBase c + piBase t + 8 * piElements t) / 64) = false) :
    ∃ u, exec (.palmInitDone c) s = .next u ∧ (getCore u c).palmBusy = false ∧ (getCore u c).palmQueue = rest ∧
      (∀ a, outsideRings s a → memByte u a =
        if cmemBase c + piBase t ≤ a ∧ a < cmemBase c + piBase t + 8 * piElements t then 0 else memByte s a) ∧
      besideRecords u = besideRecords (setPalm s c (piSlot t) { getPalm s c (piSlot t) with broken := false }) := by
  have run := palmInitDone_eq busy front clean
  generalize hz : setPalm (zeroRange (popPalm s c) (cmemBase c + piBase t) (8 * piElements t)) c (piSlot t)
    { getPalm s c (piSlot t) with broken := false } = z at run
  have recorded : Recorded z (complete z t stOk) := recorded_outcome_silent z t stOk 0 t.census (now z) (quality z) silent
  have core : getCore z c = { getCore s c with palmQueue := (getCore s c).palmQueue.tail, palmBusy := false } := by
    rw [← hz]
    exact getCore_same s c _
  have arrivals := recorded.waits c
  rw [core, front] at arrivals
  have work : besideWork (complete z t stOk) = besideWork s := by
    rw [besideWork_complete, ← hz]
    rfl
  refine ⟨_, run.trans (finish_of_work work), congrArg (fun x => x.2.2.2) arrivals, congrArg (fun x => x.2.2.1) arrivals, fun a ha => ?_, ?_⟩
  · have zeros : memByte z a = if a < cmemBase c + piBase t ∨ cmemBase c + piBase t + 8 * piElements t ≤ a then memByte s a else 0 := by
      rw [← hz]
      exact memByte_zeroRange ..
    rw [recorded.memory a (outsideRings_of_entries (fun n => by rw [← hz]; rfl) ha), zeros]
    by_cases h : cmemBase c + piBase t ≤ a ∧ a < cmemBase c + piBase t + 8 * piElements t
    · rw [if_pos h, if_neg (by omega)]
    · rw [if_neg h, if_pos (by omega)]
  · rw [besideRecords_complete, ← hz]
    rfl

end

/-! Memory without markers. -/

theorem rangePoisoned_of {s t : State} (h : t.poison = s.poison) (a n : Nat) : rangePoisoned t a n = rangePoisoned s a n := by
  unfold rangePoisoned; rw [h]

/-- Part of a range without markers has none. -/
theorem rangePoisoned_within {s : State} {a n b m : Nat} (h : rangePoisoned s a n = false) (low : a ≤ b) (high : b + m ≤ a + n) :
    rangePoisoned s b m = false := by
  unfold rangePoisoned at h ⊢
  split
  · rfl
  · rw [if_neg (by omega), List.any_eq_false] at h
    rw [List.any_eq_false]
    intro e he
    have out := h e he
    simp only [decide_eq_true_eq] at out ⊢
    omega

theorem memBytes_eq {s : State} {a : Nat} {bs : List Byte} (h : ∀ j, j < bs.length → memByte s (a + j) = bs.getD j 0) : memBytes s a bs.length = bs := by
  refine List.ext_getElem (by simp [memBytes]) fun j h1 h2 => ?_
  simpa [memBytes, List.getElem?_eq_getElem h2] using h j h2

theorem memBytes_of {s t : State} {a n : Nat} (h : ∀ j, j < n → memByte t (a + j) = memByte s (a + j)) : memBytes t a n = memBytes s a n :=
  List.map_congr_left fun j hj => h j (List.mem_range.mp hj)

theorem memNat_of {s t : State} {a n : Nat} (h : ∀ j, j < n → memByte t (a + j) = memByte s (a + j)) : memNat t a n = memNat s a n :=
  congrArg natOfBytes (memBytes_of h)

/-! The elements of a row (R68, R69, R223). -/

/-- A row's elements, by their numbers in the Palm. -/
def rowElems (first : Nat) (row : List F32) : List (Nat × F32) := row.zipIdx.map fun x => (first + x.2, x.1)

theorem rowElems_cons (first : Nat) (x : F32) (row : List F32) : rowElems first (x :: row) = (first, x) :: rowElems (first + 1) row := by
  unfold rowElems
  rw [List.zipIdx_cons', List.map_cons, List.map_map]
  simp [Function.comp_def, Nat.add_assoc, Nat.add_comm 1]

theorem palmElems_row {t : Task} {sl : Slot} {row : List F32} (h : sl.outRows = [row]) :
    palmElems t sl = rowElems (gPalmFirst t + sl.outRow0 * gLdd t) row := by
  simp [palmElems, rowElems, h]

theorem lt_of_mem_rowElems {first : Nat} {row : List F32} {e : Nat × F32} (h : e ∈ rowElems first row) : e.1 < first + row.length := by
  obtain ⟨x, hx, rfl⟩ := List.mem_map.mp h
  have := (List.mem_zipIdx hx).2.1
  dsimp only
  omega

/-- The pair at an address with a value added, and the bytes of a pair. -/
def palmSum (s : State) (a : Nat) (x : F32) : Pair := pairAdd ⟨BitVec.ofNat 32 (memNat s a 4), BitVec.ofNat 32 (memNat s (a + 4) 4)⟩ (Pair.ofF32 x)
def pairBytes (v : Pair) : List Byte := bytesOf 8 (v.hi.toNat + v.lo.toNat * 2 ^ 32)

theorem pairBytes_length (v : Pair) : (pairBytes v).length = 8 := bytesOf_length ..

theorem palmSum_of {s t : State} {a : Nat} (x : F32) (h : ∀ j, j < 8 → memByte t (a + j) = memByte s (a + j)) : palmSum t a x = palmSum s a x := by
  have lo : memNat t (a + 4) 4 = memNat s (a + 4) 4 := memNat_of fun j hj => by rw [Nat.add_assoc]; exact h (4 + j) (by omega)
  unfold palmSum
  rw [memNat_of fun j (hj : j < 4) => h j (by omega), lo]

/-- An element over clean memory takes its sum. -/
theorem palmAdd_clean {c : CoreNo} {p : Palm} {base : Nat} (hb : cmemBase c + p.base = base) (s : State) (n k : Nat) (x : F32)
    (clean : rangePoisoned s (base + 8 * k) 8 = false) :
    ∃ m, palmAdd c p (s, n, false) (k, x) = (storeMem s (base + 8 * k) (pairBytes (palmSum s (base + 8 * k) x)), m, false) := by
  unfold palmAdd
  dsimp only
  rw [hb, clean]
  exact ⟨_, rfl⟩

/-- From s to t a row has been added to the pairs from an address on: each takes its sum, and nothing else changes. -/
structure RowAdded (s t : State) (a : Nat) (row : List F32) : Prop where
  sums : ∀ i x, row[i]? = some x → memBytes t (a + 8 * i) 8 = pairBytes (palmSum s (a + 8 * i) x)
  others : ∀ b, b < a ∨ a + 8 * row.length ≤ b → memByte t b = memByte s b
  poison : t.poison = s.poison
  rest : besideMemory t = besideMemory s

/-- One element, and then the rest of the row. -/
theorem RowAdded.cons {s t : State} {a : Nat} {x : F32} {row : List F32} (h : RowAdded (storeMem s a (pairBytes (palmSum s a x))) t (a + 8) row)
    (clean : rangePoisoned s a 8 = false) : RowAdded s t a (x :: row) := by
  obtain ⟨-, poison, stored⟩ := writeMem_clean s a (pairBytes (palmSum s a x)) (by rw [pairBytes_length]; exact clean)
  rw [pairBytes_length] at stored
  have apart (b : Nat) (hb : b < a ∨ a + 8 ≤ b) : memByte (storeMem s a (pairBytes (palmSum s a x))) b = memByte s b :=
    (stored b).trans (if_neg (by omega))
  refine ⟨fun i y hy => ?_, fun b hb => ?_, h.poison.trans poison, h.rest.trans (besideMemory_storeMem ..)⟩
  · cases i with
    | zero =>
      obtain rfl : x = y := by simpa using hy
      have bytes := memBytes_eq (s := t) (a := a) (bs := pairBytes (palmSum s a x)) fun j hj => by
        rw [pairBytes_length] at hj
        refine (h.others (a + j) (.inl (by omega))).trans ((stored (a + j)).trans ?_)
        rw [if_pos (by omega), Nat.add_sub_cancel_left]
      rw [pairBytes_length] at bytes
      exact bytes
    | succ i =>
      have sum := h.sums i y (by simpa using hy)
      rw [palmSum_of y fun j _ => apart _ (.inr (by omega))] at sum
      rwa [show a + 8 + 8 * i = a + 8 * (i + 1) by omega] at sum
  · rw [List.length_cons] at hb
    rw [h.others b (by omega), apart b (by omega)]

/-- A row over clean memory is added whole. -/
theorem rowAdded_foldl {c : CoreNo} {p : Palm} {base : Nat} (hb : cmemBase c + p.base = base) (row : List F32) (s : State) (first n : Nat)
    (clean : rangePoisoned s (base + 8 * first) (8 * row.length) = false) :
    ∃ u m, (rowElems first row).foldl (palmAdd c p) (s, n, false) = (u, m, false) ∧ RowAdded s u (base + 8 * first) row := by
  induction row generalizing s first n with
  | nil => exact ⟨s, n, rfl, fun i x h => by simp at h, fun _ _ => rfl, rfl, rfl⟩
  | cons x row ih =>
    rw [List.length_cons] at clean
    have head : rangePoisoned s (base + 8 * first) 8 = false := rangePoisoned_within clean (by omega) (by omega)
    have tail : rangePoisoned s (base + 8 * (first + 1)) (8 * row.length) = false := rangePoisoned_within clean (by omega) (by omega)
    obtain ⟨k, added⟩ := palmAdd_clean hb s n first x head
    obtain ⟨-, poison, -⟩ := writeMem_clean s (base + 8 * first) (pairBytes (palmSum s (base + 8 * first) x)) (by rw [pairBytes_length]; exact head)
    obtain ⟨u, m, run, rest⟩ := ih (storeMem s (base + 8 * first) (pairBytes (palmSum s (base + 8 * first) x))) (first + 1) k
      ((rangePoisoned_of poison _ _).trans tail)
    rw [Nat.mul_add, ← Nat.add_assoc] at rest
    exact ⟨u, m, by rw [rowElems_cons, List.foldl_cons, added, run], rest.cons head⟩

/-! The census of a contribution (R228, R230). -/

/-- What counting values leaves of a slot and its core: the slot's task may be marked. -/
structure Counted (s u : State) (c : CoreNo) (k : SlotNo) (t : Task) : Prop where
  slot : ∃ census, getSlot u c k = { getSlot s c k with task := some { t with census := census } }
  queue : (getCore u c).storeQueue = (getCore s c).storeQueue
  palms : u.palms = s.palms
  recorded : Recorded s u

theorem counted_countCensus (s : State) (c : CoreNo) (k : SlotNo) (t : Task) (f : CensusFrom) (n : Nat) (task : (getSlot s c k).task = some t) :
    Counted s (countCensus s c k f n) c k t := by
  have marked : Counted s (setSlot s c k { getSlot s c k with task := some { t with census := true } }) c k t := by
    refine ⟨⟨true, getSlot_same ..⟩, ?_, rfl, recorded_setSlot ..⟩
    unfold setSlot
    rw [getCore_same]
  have counted_setPart {u : State} (p : PartNo) (v : Partition) (h : Counted s u c k t) : Counted s (setPart u p v) c k t :=
    ⟨h.slot, h.queue, h.palms, h.recorded.trans (recorded_setPart ..)⟩
  have counted_raise {u : State} (ev : Event) (h : Counted s u c k t) : Counted s (raise u ev) c k t := by
    refine ⟨?_, ?_, (raise_palms u ev).trans h.palms, h.recorded.trans (recorded_raise ..)⟩
    · rw [getSlot_of u _ c k (raise_cores u ev)]; exact h.slot
    · rw [getCore_of u _ c (raise_cores u ev)]; exact h.queue
  unfold countCensus
  dsimp only
  split
  · refine ⟨⟨t.census, ?_⟩, rfl, rfl, .refl s⟩
    conv_lhs => rw [← show ({ getSlot s c k with task := (getSlot s c k).task } : Slot) = getSlot s c k from rfl, task]
  · rename_i none
    rw [task] at none
    cases none
  · rename_i u _ found
    obtain rfl : t = u := Option.some.inj (task.symm.trans found)
    generalize setSlot s c k { getSlot s c k with task := some { t with census := true } } = v at marked ⊢
    split
    · generalize hw : (if (t.late && t.step == (getPart v t.part).cur) = true then setPart v t.part _ else v) = w
      have late : Counted s w c k t := by
        rw [← hw]
        split
        · exact counted_setPart _ _ marked
        · exact marked
      split
      · exact late
      · exact counted_raise _ late
    · exact counted_setPart _ _ marked

/-! PALM_CONTRIBUTION (R223 to R226). -/

section
variable {s : State} {c : CoreNo} {k : SlotNo} {t : Task}

/-- What a contribution finds: a Palm that refuses it, a sequence that has passed, one that has not come, or its turn. -/
def contributionTurn (s : State) (c : CoreNo) (k : SlotNo) (t : Task) : State :=
  let p := getPalm s c (gPalmSlot t)
  if !p.isOpen || p.owner != t.ctx || p.broken then endSlot s c k stPalm 0
  else if seqBefore (gPalmSeq t) p.nextSeq then endSlot s c k stPalmSeq 0
  else if gPalmSeq t != p.nextSeq then s
  else contribute s c k t

theorem exec_palmContribution (task : (getSlot s c k).task = some t) (op : t.op = some .gauntlet) (palm : gPalm t = true)
    (started : (getSlot s c k).started = true) (running : (getSlot s c k).ended = false) (stands : resettingCore s c = false) :
    exec (.palmContribution c k) s = finish s (contributionTurn s c k t) := by
  show execPalmContribution c k s = _
  unfold execPalmContribution
  simp only [task, op, palm, started, running, stands, beq_self_eq_true, Bool.not_true, Bool.not_false, Bool.and_self, Bool.or_self,
    Bool.false_eq_true, if_false]
  rfl

theorem contributionTurn_refused (h : (getPalm s c (gPalmSlot t)).isOpen = false ∨ (getPalm s c (gPalmSlot t)).owner ≠ t.ctx ∨
    (getPalm s c (gPalmSlot t)).broken = true) : contributionTurn s c k t = endSlot s c k stPalm 0 := by
  refine if_pos ?_
  rcases h with h | h | h <;> simp [h]

section
variable (isOpen : (getPalm s c (gPalmSlot t)).isOpen = true) (own : (getPalm s c (gPalmSlot t)).owner = t.ctx)
  (whole : (getPalm s c (gPalmSlot t)).broken = false)
include isOpen own whole

theorem contributionTurn_serves : contributionTurn s c k t =
    if seqBefore (gPalmSeq t) (getPalm s c (gPalmSlot t)).nextSeq then endSlot s c k stPalmSeq 0
    else if gPalmSeq t != (getPalm s c (gPalmSlot t)).nextSeq then s
    else contribute s c k t := by
  refine if_neg ?_
  simp [isOpen, own, whole]

theorem contributionTurn_passed (h : seqBefore (gPalmSeq t) (getPalm s c (gPalmSlot t)).nextSeq = true) :
    contributionTurn s c k t = endSlot s c k stPalmSeq 0 := by
  rw [contributionTurn_serves isOpen own whole, if_pos h]

theorem contributionTurn_early (h : gPalmSeq t ≠ (getPalm s c (gPalmSlot t)).nextSeq)
    (ahead : seqBefore (gPalmSeq t) (getPalm s c (gPalmSlot t)).nextSeq = false) : contributionTurn s c k t = s := by
  rw [contributionTurn_serves isOpen own whole, ahead, if_neg Bool.false_ne_true, if_pos (by simpa using h)]

theorem contributionTurn_due (h : gPalmSeq t = (getPalm s c (gPalmSlot t)).nextSeq) : contributionTurn s c k t = contribute s c k t := by
  rw [contributionTurn_serves isOpen own whole, h, if_neg (by simp [seqBefore]), if_neg (by simp)]

end

/-- From s to z a contribution of a row at an address is made, but for the end of its task. -/
structure Contributed (s z : State) (c : CoreNo) (k : SlotNo) (t : Task) (a : Nat) (row : List F32) : Prop where
  added : ∃ u, RowAdded s u a row ∧ Recorded u z
  slot : ∃ census, getSlot z c k = { getSlot s c k with task := some { t with census := census } }
  queue : (getCore z c).storeQueue = (getCore s c).storeQueue
  seq : (getPalm z c (gPalmSlot t)).nextSeq = (getPalm s c (gPalmSlot t)).nextSeq + 1
  broken : (getPalm z c (gPalmSlot t)).broken = (getPalm s c (gPalmSlot t)).broken
  rest : besideWork z = besideWork s

/-- The row in the Palm, then the census, then the next sequence number. -/
theorem contributed_row {u : State} {a m : Nat} {x : Bool} {row : List F32} (task : (getSlot s c k).task = some t) (h : RowAdded s u a row) :
    Contributed s (palmEnd (countCensus (setPalm u c (gPalmSlot t) { getPalm u c (gPalmSlot t) with nonfinite := x }) c k .palms m) c (gPalmSlot t) false)
      c k t a row := by
  have cores : u.cores = s.cores := (congrArg (fun y : State => y.cores) h.rest :)
  have palm : getPalm u c (gPalmSlot t) = getPalm s c (gPalmSlot t) := getPalm_of s u c _ (congrArg (fun y : State => y.palms) h.rest :)
  have work : besideWork u = besideWork s := besideWork_of_memory h.rest
  have set : Recorded u (setPalm u c (gPalmSlot t) { getPalm u c (gPalmSlot t) with nonfinite := x }) := recorded_setPalm ..
  have vPalm : getPalm (setPalm u c (gPalmSlot t) { getPalm u c (gPalmSlot t) with nonfinite := x }) c (gPalmSlot t) =
    { getPalm u c (gPalmSlot t) with nonfinite := x } := getPalm_same ..
  have vCores : (setPalm u c (gPalmSlot t) { getPalm u c (gPalmSlot t) with nonfinite := x }).cores = s.cores := cores
  have vWork := (besideWork_setPalm u c (gPalmSlot t) { getPalm u c (gPalmSlot t) with nonfinite := x }).trans work
  generalize setPalm u c (gPalmSlot t) { getPalm u c (gPalmSlot t) with nonfinite := x } = v at set vPalm vCores vWork ⊢
  have counted : Counted v (countCensus v c k .palms m) c k t := counted_countCensus v c k t .palms m (by rw [getSlot_of s v c k vCores]; exact task)
  have wWork := (besideWork_countCensus v c k .palms m).trans vWork
  generalize countCensus v c k .palms m = w at counted wWork ⊢
  have wPalm := (getPalm_of v w c (gPalmSlot t) counted.palms).trans vPalm
  obtain ⟨census, slot⟩ := counted.slot
  refine ⟨⟨u, h, (set.trans counted.recorded).trans (recorded_setPalm ..)⟩, ⟨census, ?_⟩, ?_, ?_, ?_, wWork⟩
  · rw [← getSlot_of s v c k vCores]; exact slot
  · rw [← getCore_of s v c vCores]; exact counted.queue
  · rw [palmEnd, getPalm_same, wPalm, palm]
  · rw [palmEnd, getPalm_same, wPalm, palm, Bool.or_false]

/-- One row over clean memory: it is added, counted, the Palm moves on, and the task ends with OK. -/
theorem contribute_row {row : List F32} (task : (getSlot s c k).task = some t) (rows : (getSlot s c k).outRows = [row])
    (fits : gPalmFirst t + (getSlot s c k).outRow0 * gLdd t + row.length ≤ (getPalm s c (gPalmSlot t)).elements)
    (clean : rangePoisoned s (cmemBase c + (getPalm s c (gPalmSlot t)).base + 8 * (gPalmFirst t + (getSlot s c k).outRow0 * gLdd t)) (8 * row.length) = false) :
    ∃ z, Contributed s z c k t (cmemBase c + (getPalm s c (gPalmSlot t)).base + 8 * (gPalmFirst t + (getSlot s c k).outRow0 * gLdd t)) row ∧
      contribute s c k t = endSlot z c k stOk 0 := by
  obtain ⟨u, m, run, added⟩ := rowAdded_foldl (c := c) (p := getPalm s c (gPalmSlot t)) rfl row s _ 0 clean
  refine ⟨_, contributed_row (m := m) (x := (getPalm u c (gPalmSlot t)).nonfinite || decide (0 < m)) task added, ?_⟩
  have inside : ((rowElems (gPalmFirst t + (getSlot s c k).outRow0 * gLdd t) row).any fun e => decide ((getPalm s c (gPalmSlot t)).elements ≤ e.1)) = false := by
    rw [List.any_eq_false]
    intro e he
    have := lt_of_mem_rowElems he
    simp only [decide_eq_true_eq]
    omega
  unfold contribute
  dsimp only
  rw [palmElems_row rows, inside, run]
  rfl

/-- The end of a task that has contributed. -/
theorem Contributed.ends {z : State} {a : Nat} {row : List F32} (h : Contributed s z c k t a row) (stored : storesOut (getCore s c) k = false)
    (unspoilt : (getSlot s c k).spoilt = false) :
    (getSlot (endSlot z c k stOk 0) c k = {} ∨ ((getSlot (endSlot z c k stOk 0) c k).ended = true ∧ (getSlot (endSlot z c k stOk 0) c k).status = stOk)) ∧
      ∃ u, RowAdded s u a row ∧ (t.sigMode = 0 → ∀ b, outsideRings s b → memByte (endSlot z c k stOk 0) b = memByte u b) := by
  obtain ⟨census, slot⟩ := h.slot
  have zStored : storesOut (getCore z c) k = false := by
    unfold getSlot at slot
    unfold storesOut at stored ⊢
    rw [slot, h.queue]
    exact stored
  obtain ⟨u, added, recorded⟩ := h.added
  refine ⟨(endSlot_slot stOk 0 (by rw [slot]) zStored).imp_right fun ⟨_, ended, status, _⟩ => ⟨ended, status⟩, u, added, fun silent b hb => ?_⟩
  have out : outsideRings u b := outsideRings_of_entries (fun n => congrArg Machine.Ring.entry (getRing_of s u n (rings_of_memory added.rest))) hb
  have memory := memByte_endSlot (t := { t with census := census }) stOk 0 (by rw [slot]) zStored silent b (recorded.outside out) fun spoilt => by
    rw [slot] at spoilt
    exact absurd (unspoilt.symm.trans spoilt) Bool.false_ne_true
  exact memory.trans (recorded.memory b out)

end

/-- Settles O27: zeros bring a Palm into service; a contribution in its turn adds its row element by element, and any other leaves the Palm. -/
theorem palmsOpenAndTakeRows : Obligations.PalmsOpenAndTakeRows := by
  unfold Obligations.PalmsOpenAndTakeRows
  refine ⟨⟨fun s c t rest => palmInit_begins, fun s c t rest => palmInitDone_spec⟩,
    fun s c k t task op palm started running stored stands => ⟨fun refused => ?_, fun isOpen own whole => ⟨fun passed => ?_, fun other ahead => ?_,
      fun row due rows fits unspoilt clean => ?_⟩⟩⟩
  all_goals have run := exec_palmContribution task op palm started running stands
  · rw [contributionTurn_refused refused] at run
    exact ⟨_, run.trans (finish_of_work (besideWork_endSlot ..)), endsAtOnce_endSlot stPalm 0 task stored⟩
  · rw [contributionTurn_passed isOpen own whole passed] at run
    exact ⟨_, run.trans (finish_of_work (besideWork_endSlot ..)), endsAtOnce_endSlot stPalmSeq 0 task stored⟩
  · rw [contributionTurn_early isOpen own whole other ahead] at run
    exact run.trans (finish_of_work rfl)
  · rw [contributionTurn_due isOpen own whole due] at run
    obtain ⟨z, h, e⟩ := contribute_row task rows fits clean
    rw [e] at run
    obtain ⟨slot, u, added, memory⟩ := h.ends stored unspoilt
    have palm : getPalm (endSlot z c k stOk 0) c (gPalmSlot t) = getPalm z c (gPalmSlot t) :=
      getPalm_of _ _ _ _ (congrArg (fun y : State => y.palms) (besideRecords_endSlot z c k stOk 0) :)
    have work := (besideWork_endSlot z c k stOk 0).trans h.rest
    refine ⟨_, run.trans (finish_of_work work), slot, palm ▸ h.seq, palm ▸ h.broken.trans whole, fun silent i x hx out => ?_, fun silent a out apart => ?_, work⟩
    · rw [memBytes_of fun j hj => memory silent _ (out j hj), Nat.mul_add, ← Nat.add_assoc]
      exact added.sums i x hx
    · rw [memory silent a out]
      exact added.others a (by omega)

end Sys2Proof.Proofs.Palms

/-!
SUPPORT. The switch of a partition's map (R183, R191 to R193).
-/
namespace Sys2Proof.Proofs.Phases
open Sys2Proof Sys2Proof.Machine Sys2Proof.Proofs.Outcomes Sys2Proof.Proofs.RecordEnds

theorem parts_of_records {s t : State} (h : besideRecords t = besideRecords s) : t.parts = s.parts := (congrArg (fun x : State => x.parts) h :)
theorem besideWork_of_records {s t : State} (h : besideRecords t = besideRecords s) : besideWork t = besideWork s := (congrArg besideWork h :)

/-! PHASE, the only one of its partition (R192, steps 1 to 3). -/

section
variable {s v : State} {p : PartNo} {t : Task}

theorem exec_phase (alone : (getPart s p).phases = []) (stands : resettingPart s p = false)
    (found : (getPart s p).coord.find? (fun t => t.op == some .phase) = some t) (good : admissionFailure (phaseFails s t) = none)
    (due : stepWhen (getPart s p) t.step ≠ .next) :
    exec (.phase p) s = finish s (phaseBegin (setPart s p { getPart s p with coord := (getPart s p).coord.filter fun u => !sameTask u t }) p t) := by
  show execPhase p s = _
  unfold execPhase
  dsimp only
  rw [stands, alone, if_neg Bool.false_ne_true, found]
  dsimp only
  rw [good]
  dsimp only
  rw [if_neg due]

/-- A MAP_GEN out of turn. -/
theorem phaseBegin_stale (h : phaseGenOk (getPart v p) t.mapGen = false) : phaseBegin v p t = rejectTask v t stStalePhase (phaseDetail stStalePhase) := by
  have failed : phaseCopy v p t = .error stStalePhase := by
    unfold phaseCopy
    dsimp only
    rw [h]
    rfl
  unfold phaseBegin
  rw [failed]

/-- A map that is read, checked and copied into the pending half. -/
theorem phaseBegin_copied {m : List Byte} (gen : phaseGenOk (getPart v p) t.mapGen = true) (area : mapAreaUsable v p (getPart v p).mapArea = true)
    (read : readMap v p t = some m) (checks : mapChecks v p m = true)
    (serves : serveStatus v (cornerTile (getPart v p)) false (pendingHalf (getPart v p)) m.length = none)
    (clean : rangePoisoned v (pendingHalf (getPart v p)) m.length = false) :
    phaseBegin v p t = setPart (writeMem v (pendingHalf (getPart v p)) m).1 p
      { getPart v p with phases := { task := t, step := 4, map := m } :: (getPart v p).phases, drainMark := true } := by
  obtain ⟨stored, -⟩ := writeMem_clean v (pendingHalf (getPart v p)) m clean
  have part : getPart (writeMem v (pendingHalf (getPart v p)) m).1 p = getPart v p :=
    getPart_of _ _ _ (congrArg (fun x : State => x.parts) (besideMemory_writeMem v (pendingHalf (getPart v p)) m) :)
  have copied : phaseCopy v p t = .ok (setPart (writeMem v (pendingHalf (getPart v p)) m).1 p
      { getPart v p with phases := { task := t, step := 4, map := m } :: (getPart v p).phases, drainMark := true }) := by
    unfold phaseCopy
    simp only [gen, area, read, checks, serves, stored, part, Bool.not_true, Bool.false_eq_true, if_false]
  unfold phaseBegin
  rw [copied]

/-- The only PHASE of a partition: v is the state in which it has left the coordinator's list. -/
theorem phase_spec (alone : (getPart s p).phases = []) (stands : resettingPart s p = false)
    (found : (getPart s p).coord.find? (fun t => t.op == some .phase) = some t) (good : admissionFailure (phaseFails s t) = none)
    (due : stepWhen (getPart s p) t.step ≠ .next)
    (hv : v = setPart s p { getPart s p with coord := (getPart s p).coord.filter fun u => !sameTask u t }) :
    (phaseGenOk (getPart s p) t.mapGen = false → ∃ u, exec (.phase p) s = .next u ∧ besideRecords u = besideRecords v) ∧
    (∀ m, phaseGenOk (getPart s p) t.mapGen = true → mapAreaUsable v p (getPart s p).mapArea = true → readMap v p t = some m → mapChecks v p m = true →
      serveStatus v (cornerTile (getPart s p)) false (pendingHalf (getPart s p)) m.length = none →
      rangePoisoned s (pendingHalf (getPart s p)) m.length = false →
      ∃ u, exec (.phase p) s = .next u ∧
        getPart u p = { getPart v p with phases := [{ task := t, step := 4, map := m }], drainMark := true } ∧
        (∀ q, q ≠ p → getPart u q = getPart s q) ∧
        (∀ a, memByte u a = if pendingHalf (getPart s p) ≤ a ∧ a < pendingHalf (getPart s p) + m.length
          then m.getD (a - pendingHalf (getPart s p)) 0 else memByte s a) ∧
        besideMemory { u with parts := s.parts } = besideMemory s) := by
  have run := exec_phase alone stands found good due
  rw [← hv] at run
  have part : getPart v p = { getPart s p with coord := (getPart s p).coord.filter fun u => !sameTask u t } := by rw [hv, getPart_same]
  have vWork : besideWork v = besideWork s := by rw [hv]; rfl
  refine ⟨fun stale => ?_, fun m gen area read checks serves clean => ?_⟩
  · have ended := phaseBegin_stale (v := v) (p := p) (t := t) (by rw [part]; exact stale)
    rw [ended] at run
    exact ⟨_, run.trans (finish_of_work ((besideWork_rejectTask ..).trans vWork)), besideRecords_rejectTask ..⟩
  · have half : pendingHalf (getPart v p) = pendingHalf (getPart s p) := by rw [part]; rfl
    have vClean : rangePoisoned v (pendingHalf (getPart s p)) m.length = false := by rw [hv]; exact clean
    have begun := phaseBegin_copied (v := v) (p := p) (t := t) (by rw [part]; exact gen) (by rw [part]; exact area) read checks
      (by rw [half, part]; exact serves) (by rw [half]; exact vClean)
    have empty : (getPart v p).phases = [] := by rw [part]; exact alone
    rw [half, empty] at begun
    rw [begun] at run
    obtain ⟨-, -, bytes⟩ := writeMem_clean v (pendingHalf (getPart s p)) m vClean
    have rest := besideMemory_writeMem v (pendingHalf (getPart s p)) m
    generalize (writeMem v (pendingHalf (getPart s p)) m).1 = w at run bytes rest
    refine ⟨_, run.trans (finish_of_work ((besideWork_of_memory rest).trans vWork)), getPart_same .., fun q hq => ?_, fun a => ?_, ?_⟩
    · rw [getPart_other _ _ hq, getPart_of v w q (congrArg (fun x : State => x.parts) rest :), hv, getPart_other _ _ hq]
    · refine (bytes a).trans ?_
      rw [hv]
      rfl
    · exact (congrArg (fun x : State => { x with parts := s.parts }) rest :).trans (by rw [hv]; rfl)

end

/-! Marks, held descriptors and node slots at a switch (R192, step 8). -/

theorem nodes_mapTasks (s : State) (p : PartNo) (f : Task → Task) (n : TileNo) : (getTile (mapTasks s p f) n).nodes = (getTile s n).nodes := by
  unfold getTile mapTasks
  dsimp only
  rw [tget_tmap _ _ _ _ rfl]

theorem nodes_clearMarks (s : State) (p : PartNo) (n : TileNo) : (getTile (clearMarks s p) n).nodes = (getTile s n).nodes := nodes_mapTasks ..

theorem getPart_clearMarks (s : State) (p : PartNo) : getPart (clearMarks s p) p = { getPart s p with drainMark := false } := getPart_same ..

theorem nodes_releaseHeld (s : State) (p : PartNo) (n : TileNo) : (getTile (releaseHeld s p) n).nodes = (getTile s n).nodes := by
  unfold getTile releaseHeld
  dsimp only
  rw [tget_tmap _ _ _ _ rfl]

theorem held_releaseHeld (s : State) (p : PartNo) (c : CoreNo) : (getCore (releaseHeld s p) c).held = (getCore s c).held.filter fun t => !(t.part == p) := by
  unfold getCore releaseHeld
  dsimp only
  rw [tget_tmap _ _ _ _ rfl]

theorem besideWork_releaseHeld (s : State) (p : PartNo) : besideWork (releaseHeld s p) = besideWork s := rfl

/-- The node slots of tiles are emptied. -/
def nodesCleared (s : State) (l : List TileNo) : State := l.foldl (fun s t => setTile s t { getTile s t with nodes := [] }) s

theorem nodes_nodesCleared (l : List TileNo) (s : State) (n : TileNo) : (getTile (nodesCleared s l) n).nodes = if n ∈ l then [] else (getTile s n).nodes := by
  induction l generalizing s with
  | nil => rfl
  | cons m l ih =>
    refine (ih _).trans ?_
    by_cases e : n = m
    · subst e; simp
    · rw [getTile_other _ _ e]; simp [e]

theorem parts_nodesCleared (s : State) (l : List TileNo) : (nodesCleared s l).parts = s.parts :=
  foldl_keeps (fun u : State => u.parts = s.parts) _ l s rfl fun _ _ _ h => h

theorem besideWork_nodesCleared (s : State) (l : List TileNo) : besideWork (nodesCleared s l) = besideWork s :=
  besideWork_foldl _ _ _ fun _ _ => rfl

/-! The switch (R192, steps 6 to 8; R193). -/

section
variable {s : State} {p : PartNo} {h : PendingPhase} {r : List PendingPhase}

/-- The partition with its next map in force. -/
def partSwitched (s : State) (p : PartNo) (h : PendingPhase) (r : List PendingPhase) : Partition :=
  { getPart s p with
    phases := r, map := h.map, gen := if (getPart s p).gen == 0 then BitVec.ofNat 32 h.task.mapGen else (getPart s p).gen + 1
    secondHalf := !(getPart s p).secondHalf, phaseTime := now s, phaseQuality := quality s }

/-- The state at the end of step 8, but for the record. -/
def mapSwitched (s : State) (p : PartNo) (h : PendingPhase) (r : List PendingPhase) : State :=
  releaseHeld (clearMarks (nodesCleared (setPart s p (partSwitched s p h r)) (partTiles (setPart s p (partSwitched s p h r)) p)) p) p

theorem phaseSwitch_eq (front : (getPart s p).phases = h :: r) (stands : h.lost = false) (cores : checkCores s p h.map = true)
    (trees : checkTrees s p h.map = true) : phaseSwitch s p = complete (mapSwitched s p h r) h.task stOk := by
  unfold phaseSwitch
  simp only [front, stands, cores, trees, Bool.and_self, Bool.not_true, Bool.or_false, Bool.false_eq_true, if_false]
  rfl

/-- A unit of the map was lost: the PHASE ends, its mark withdrawn. -/
theorem phaseSwitch_lost (front : (getPart s p).phases = h :: r) (lost : h.lost = true) (step : h.step = 5) :
    phaseSwitch s p = rejectTask (clearMarks (setPart s p { getPart s p with phases := r }) p) h.task stPhaseMap (phaseDetail stPhaseMap) := by
  unfold phaseSwitch
  simp only [front, lost, Bool.true_or, if_true]
  unfold endPhase
  simp [front, step]

theorem partTiles_partSwitched : partTiles (setPart s p (partSwitched s p h r)) p = partTiles s p := by
  unfold partTiles partHasTile
  rw [getPart_same]
  rfl

theorem getPart_mapSwitched : getPart (mapSwitched s p h r) p = { partSwitched s p h r with drainMark := false } := by
  unfold mapSwitched
  generalize hz : nodesCleared _ _ = z
  have part : getPart z p = partSwitched s p h r := by rw [← hz, getPart_of _ _ _ (parts_nodesCleared ..), getPart_same]
  refine (getPart_clearMarks z p).trans ?_
  rw [part]

theorem nodes_mapSwitched {n : TileNo} (hn : n ∈ partTiles s p) : (getTile (mapSwitched s p h r) n).nodes = [] := by
  unfold mapSwitched
  rw [nodes_releaseHeld, nodes_clearMarks, nodes_nodesCleared, partTiles_partSwitched, if_pos hn]

theorem held_mapSwitched {c : CoreNo} {t : Task} (ht : t ∈ (getCore (mapSwitched s p h r) c).held) : t.part ≠ p := by
  unfold mapSwitched at ht
  rw [held_releaseHeld] at ht
  simpa using (List.mem_filter.mp ht).2

theorem besideWork_mapSwitched : besideWork (mapSwitched s p h r) = besideWork s := by
  unfold mapSwitched
  rw [besideWork_releaseHeld, besideWork_clearMarks, besideWork_nodesCleared, besideWork_setPart]

theorem exec_notBeforeReached (front : (getPart s p).phases = h :: r) (stands : resettingPart s p = false) (step : h.step = 5)
    (time : phNotBefore h.task ≤ (now s).toNat) : exec (.notBeforeReached (.phase p)) s = finish s (phaseSwitch s p) := by
  show execNotBeforeReached (.phase p) s = _
  unfold execNotBeforeReached phaseReached
  simp only [front, stands, step, time, decide_true, Bool.not_false, Bool.and_self, if_true]

theorem notBeforeReached_switches (front : (getPart s p).phases = h :: r) (stands : resettingPart s p = false) (step : h.step = 5)
    (time : phNotBefore h.task ≤ (now s).toNat) (kept : h.lost = false) (cores : checkCores s p h.map = true) (trees : checkTrees s p h.map = true) :
    ∃ u, exec (.notBeforeReached (.phase p)) s = .next u ∧ (getPart u p).phases = r ∧ (getPart u p).map = h.map ∧
      (getPart u p).gen = (if (getPart s p).gen = 0 then BitVec.ofNat 32 h.task.mapGen else (getPart s p).gen + 1) ∧
      (getPart u p).secondHalf = !(getPart s p).secondHalf ∧ (getPart u p).phaseTime = now s ∧ (getPart u p).phaseQuality = quality s ∧
      (getPart u p).drainMark = false ∧ (∀ n ∈ partTiles s p, (getTile u n).nodes = []) ∧
      (∀ c, ∀ t ∈ (getCore u c).held, t.part ≠ p) ∧ besideWork u = besideWork s := by
  have run := exec_notBeforeReached front stands step time
  rw [phaseSwitch_eq front kept cores trees] at run
  have work := (besideWork_complete (mapSwitched s p h r) h.task stOk).trans besideWork_mapSwitched
  have part : getPart (complete (mapSwitched s p h r) h.task stOk) p = { partSwitched s p h r with drainMark := false } :=
    (getPart_of _ _ p (parts_of_records (besideRecords_complete ..))).trans getPart_mapSwitched
  refine ⟨_, run.trans (finish_of_work work), ?_, ?_, ?_, ?_, ?_, ?_, ?_, fun n hn => ?_, fun c t ht => ?_, work⟩
  · rw [part]; rfl
  · rw [part]; rfl
  · rw [part]
    show (if ((getPart s p).gen == 0) = true then _ else _) = _
    simp only [beq_iff_eq]
  · rw [part]; rfl
  · rw [part]; rfl
  · rw [part]; rfl
  · rw [part]
  · exact (nodes_outcome ..).trans (nodes_mapSwitched hn)
  · have held : (getCore (complete (mapSwitched s p h r) h.task stOk) c).held = (getCore (mapSwitched s p h r) c).held :=
      congrArg (fun x => x.2.1) (waits_outcome ..)
    rw [held] at ht
    exact held_mapSwitched ht

theorem notBeforeReached_lost (front : (getPart s p).phases = h :: r) (stands : resettingPart s p = false) (step : h.step = 5)
    (time : phNotBefore h.task ≤ (now s).toNat) (lost : h.lost = true) :
    ∃ u, exec (.notBeforeReached (.phase p)) s = .next u ∧ (getPart u p).phases = r ∧ (getPart u p).map = (getPart s p).map ∧
      (getPart u p).gen = (getPart s p).gen ∧ (getPart u p).drainMark = false ∧ besideWork u = besideWork s := by
  have run := exec_notBeforeReached front stands step time
  rw [phaseSwitch_lost front lost step] at run
  generalize hz : clearMarks (setPart s p { getPart s p with phases := r }) p = z at run
  have zPart : getPart z p = { getPart s p with phases := r, drainMark := false } := by rw [← hz, getPart_clearMarks, getPart_same]
  have zWork : besideWork z = besideWork s := by rw [← hz]; rfl
  have work := (besideWork_rejectTask z h.task stPhaseMap (phaseDetail stPhaseMap)).trans zWork
  have part := (getPart_of _ _ p (parts_of_records (besideRecords_rejectTask z h.task stPhaseMap (phaseDetail stPhaseMap)))).trans zPart
  refine ⟨_, run.trans (finish_of_work work), ?_, ?_, ?_, ?_, work⟩ <;> rw [part]

/-- PHASE_DRAINED before the not-before time (R192, step 4; R381). -/
theorem phaseDrained_waits (front : (getPart s p).phases = h :: r) (stands : resettingPart s p = false) (step : h.step = 4)
    (drained : oldGenerationDone s p = true) (early : (now s).toNat < phNotBefore h.task) :
    exec (.phaseDrained p) s = .next (setPart s p { getPart s p with phases := { h with step := 5 } :: r }) := by
  show execPhaseDrained p s = _
  unfold execPhaseDrained
  have later : ¬ phNotBefore h.task ≤ (now (setPart s p { getPart s p with phases := { h with step := 5 } :: r })).toNat := Nat.not_le.mpr early
  simp only [front, stands, step, drained, ne_eq, not_true_eq_false, decide_false, Bool.not_true, Bool.or_self, Bool.false_eq_true, if_false, if_neg later]
  exact finish_of_work rfl

end

end Sys2Proof.Proofs.Phases

/-!
SUPPORT. The end of a step (R77, R78, R227 to R232), and what the rings then send.
-/
namespace Sys2Proof.Proofs.Steps
open Sys2Proof Sys2Proof.Machine Sys2Proof.Proofs.Outcomes Sys2Proof.Proofs.Ends Sys2Proof.Proofs.RecordEnds Sys2Proof.Proofs.Phases
open Sys2Proof.Proofs.LossScales (onlyReports_lsChanged)

/-! A write clears poison markers and sets none (R270, R271); so does a report. -/

/-- Every marker of t stands in s. -/
structure MarkersFall (s t : State) : Prop where
  within : ∀ e ∈ t.poison, e ∈ s.poison

theorem MarkersFall.refl (s : State) : MarkersFall s s := ⟨fun _ he => he⟩
theorem MarkersFall.trans {s t u : State} (h : MarkersFall s t) (k : MarkersFall t u) : MarkersFall s u := ⟨fun e he => h.within e (k.within e he)⟩

theorem markersFall_of_poison {s t : State} (h : t.poison = s.poison) : MarkersFall s t := ⟨fun e he => by rwa [h] at he⟩

/-- Putting the default lists nothing new. -/
theorem mem_of_mem_tput_default {α : Type} [DecidableEq α] (d : α) (l : Tbl α) (k : Nat) (e : Nat × α) (h : e ∈ tput d l k d) : e ∈ l := by
  induction l with
  | nil => simp [tput] at h
  | cons x l ih =>
    obtain ⟨j, w⟩ := x
    unfold tput at h
    rw [if_pos rfl, if_pos rfl] at h
    split at h
    · exact (List.mem_cons.mp h).elim (fun e => e ▸ List.mem_cons_self ..) fun k => List.mem_cons_of_mem _ (ih k)
    · split at h
      · exact List.mem_cons_of_mem _ (ih h)
      · exact (List.mem_cons.mp h).elim (fun e => e ▸ List.mem_cons_self ..) fun k => List.mem_cons_of_mem _ (ih k)

theorem markersFall_clear (s : State) (l : Nat) : MarkersFall s (setPoison s l false) := ⟨mem_of_mem_tput_default false s.poison l⟩

theorem markersFall_putBytes (s : State) (a : Nat) (bs : List Byte) : MarkersFall s (putBytes s a bs) :=
  markersFall_of_poison (by rw [putBytes_rest])

theorem markersFall_writeLine (s : State) (l a : Nat) (bs : List Byte) : MarkersFall s (writeLine s l a bs).1 := by
  unfold writeLine
  dsimp only
  have start : MarkersFall s { s with writeback := tput false s.writeback l false } := markersFall_of_poison rfl
  split
  · exact start.trans (markersFall_putBytes ..)
  · split
    · exact (start.trans (markersFall_clear ..)).trans (markersFall_putBytes ..)
    · split
      · refine MarkersFall.trans ?_ (markersFall_putBytes ..)
        split
        · exact markersFall_of_poison rfl
        · refine MarkersFall.trans (markersFall_of_poison ?_) (markersFall_clear ..)
          rw [freeBytes_rest]
          rfl
      · exact .refl s

theorem markersFall_writeMem (s : State) (a : Nat) (bs : List Byte) : MarkersFall s (writeMem s a bs).1 := by
  unfold writeMem
  split
  · exact .refl s
  · exact foldl_keeps (fun r : State × Bool => MarkersFall s r.1) _ _ (s, true) (.refl s) fun r i _ h => h.trans (markersFall_writeLine ..)

theorem markersFall_raiseMsix (s : State) (n : Nat) : MarkersFall s (raiseMsix s n) := by
  refine markersFall_of_poison ?_
  unfold raiseMsix
  dsimp only
  repeat' split
  all_goals rfl

theorem markersFall_setRing (s : State) (n : Nat) (v : Machine.Ring) : MarkersFall s (setRing s n v) := markersFall_of_poison rfl

theorem markersFall_putEvent (s : State) (ev : Event) (n : Nat) : MarkersFall s (putEvent s ev n).1 := by
  unfold putEvent
  dsimp only
  split
  · exact markersFall_setRing ..
  · split
    · exact markersFall_setRing ..
    · have written := markersFall_writeMem s ((getRing s n).slotAddr (getRing s n).tail)
        (bytesOf 64 (eventRecord s ev ((getRing s n).pass (getRing s n).tail) (getRing s n).eventSeq))
      generalize writeMem s ((getRing s n).slotAddr (getRing s n).tail) _ = w at written ⊢
      split
      · exact (written.trans (markersFall_setRing ..)).trans (markersFall_raiseMsix ..)
      · exact written.trans (markersFall_setRing ..)

theorem markersFall_logEvent (s : State) (ev : Event) : MarkersFall s (logEvent s ev) := by
  unfold logEvent
  split
  · exact .refl s
  · exact markersFall_of_poison rfl

theorem markersFall_deliver (fuel : Nat) (s : State) (ev : Event) : MarkersFall s (deliver fuel s ev) := by
  have logged (s : State) (ev : Event) : MarkersFall s (if ev.platform then logEvent s ev else s) := by
    split
    · exact markersFall_logEvent ..
    · exact .refl s
  induction fuel generalizing s ev with
  | zero => exact logged s ev
  | succ fuel ih =>
    unfold deliver
    refine foldl_keeps (MarkersFall s) _ _ _ (logged s ev) fun t e _ h => ?_
    dsimp only
    split
    · have put := h.trans (markersFall_putEvent t ev e.1)
      split
      · exact put
      · exact put.trans (ih ..)
    · exact h

theorem markersFall_raise (s : State) (ev : Event) : MarkersFall s (raise s ev) := by
  unfold raise
  dsimp only
  split
  · exact (markersFall_deliver ..).trans (markersFall_of_poison rfl)
  · exact markersFall_deliver ..

theorem MarkersFall.clean {s t : State} (h : MarkersFall s t) {a n : Nat} (clean : rangePoisoned s a n = false) : rangePoisoned t a n = false := by
  unfold rangePoisoned at clean ⊢
  split
  · rfl
  · rename_i some
    rw [if_neg some, List.any_eq_false] at clean
    exact List.any_eq_false.mpr fun e he => clean e (h.within e he)

/-! A report leaves what a write meets (R94, R259 to R261, R348, R349). -/

theorem transferStatus_write_besideReports (s : State) (src : TileNo) (ctx : CtxNo) (a n : Nat) :
    transferStatus (besideReports s) src ctx .write a n = transferStatus s src ctx .write a n := rfl

theorem transferStatus_write_of_reports {s t : State} (h : OnlyReports s t) (src : TileNo) (ctx : CtxNo) (a n : Nat) :
    transferStatus t src ctx .write a n = transferStatus s src ctx .write a n := by
  rw [← transferStatus_write_besideReports t, h.rest, transferStatus_write_besideReports]

/-! What the rings send reaches partitions only as descriptors for their coordinators (R312, R332). -/

/-- From s to t no partition changes but for its coordinator's list. -/
structure CoordOnly (s t : State) : Prop where
  parts : ∀ p, { getPart t p with coord := [] } = { getPart s p with coord := [] }

theorem CoordOnly.refl (s : State) : CoordOnly s s := ⟨fun _ => rfl⟩
theorem CoordOnly.trans {s t u : State} (h : CoordOnly s t) (k : CoordOnly t u) : CoordOnly s u := ⟨fun p => (k.parts p).trans (h.parts p)⟩

theorem coordOnly_of_parts {s t : State} (h : t.parts = s.parts) : CoordOnly s t := ⟨fun p => by rw [getPart_of s t p h]⟩

theorem parts_complete (s : State) (t : Task) (st : BitVec 8) : (complete s t st).parts = s.parts := parts_of_records (besideRecords_complete ..)

theorem parts_skipUnread (rn n : Nat) (s : State) : (skipUnread s rn n).parts = s.parts := by
  induction n generalizing s with
  | zero => rfl
  | succ n ih =>
    unfold skipUnread
    dsimp only
    split
    · rfl
    · split
      · rfl
      · exact parts_of_records (besideRecords_faultRing ..)
      · exact (ih _).trans (parts_complete ..)

theorem parts_ringSkip (s : State) (rn : Nat) (g : Task) (st : BitVec 8) : (ringSkip s rn g st).parts = s.parts := by
  unfold ringSkip
  dsimp only
  split
  · rfl
  · rw [raise_parts, parts_skipUnread]
    exact foldl_keeps (fun u : State => u.parts = s.parts) _ _ _ rfl fun u t _ h => (parts_complete u t stSkipped).trans h

theorem parts_gateFailed (s : State) (rn : Nat) (t : Task) (st : BitVec 8) : (gateFailed s rn t st).parts = s.parts := by
  unfold gateFailed
  split
  · exact parts_ringSkip ..
  · rfl

theorem coordOnly_deliverTask (s : State) (t : Task) : CoordOnly s (deliverTask s t) := by
  unfold deliverTask
  dsimp only
  split
  · split <;> exact coordOnly_of_parts rfl
  · exact coordOnly_of_parts rfl
  · exact coordOnly_of_parts rfl
  · refine ⟨fun p => ?_⟩
    by_cases e : p = t.part
    · rw [e, getPart_same]
    · rw [getPart_other _ _ e]

theorem coordOnly_sendOne {s u : State} {rn : Nat} (h : sendOne s rn = some u) : CoordOnly s u := by
  unfold sendOne at h
  dsimp only at h
  split at h
  · cases h
  · rename_i t _ _
    split at h
    · cases h
    · split at h
      · cases h
        exact coordOnly_of_parts ((parts_gateFailed ..).trans (parts_of_records (besideRecords_rejectTask ..)))
      · split at h
        · cases h
        · split at h
          · cases h
            exact coordOnly_of_parts ((parts_gateFailed ..).trans (parts_complete ..))
          · cases h
            have popped : CoordOnly s (popSend s rn) := coordOnly_of_parts rfl
            refine popped.trans ((coordOnly_deliverTask (popSend s rn) t).trans (coordOnly_of_parts ?_))
            split <;> rfl

theorem coordOnly_ringTurns (p : HostPort) (n : Nat) (s : State) : CoordOnly s (ringTurns p n s) := by
  induction n generalizing s with
  | zero => exact .refl s
  | succ n ih =>
    unfold ringTurns
    split
    · exact .refl s
    · rename_i rn found
      have sends := List.find?_some found
      obtain ⟨u, hu⟩ := Option.isSome_iff_exists.mp sends
      have turned : CoordOnly u (takeTurn u p rn) := coordOnly_of_parts rfl
      rw [hu]
      exact ((coordOnly_sendOne hu).trans turned).trans (ih (takeTurn u p rn))

theorem coordOnly_pumpAll (s : State) : CoordOnly s (pumpAll s) :=
  foldl_keeps (CoordOnly s) _ _ s (.refl s) fun _ _ _ h => h.trans (coordOnly_ringTurns ..)

/-! STEP_CLOSE (R229, step 1). -/

section
variable {s : State} {p : PartNo} {t : Task}

theorem stepClose_marks (stands : resettingPart s p = false) (found : (getPart s p).coord.find? (fun t => t.op == some .stepClose) = some t)
    (good : admissionFailure (stepCloseFails s t) = none) : exec (.stepClose p) s =
      .next (setPart s p { getPart s p with coord := (getPart s p).coord.filter (fun u => !sameTask u t), closing := some t }) := by
  show execStepClose p s = _
  unfold execStepClose
  simp only [stands, found, good, Bool.false_eq_true, if_false]
  exact finish_of_work rfl

theorem stepClose_rejected {st : BitVec 8} {d : BitVec 16} (stands : resettingPart s p = false)
    (found : (getPart s p).coord.find? (fun t => t.op == some .stepClose) = some t) (bad : admissionFailure (stepCloseFails s t) = some (st, d)) :
    ∃ u, exec (.stepClose p) s = .next u ∧
      besideRecords u = besideRecords (setPart s p { getPart s p with coord := (getPart s p).coord.filter fun u => !sameTask u t }) := by
  have run : exec (.stepClose p) s = execStepClose p s := rfl
  unfold execStepClose at run
  simp only [stands, found, bad, Bool.false_eq_true, if_false] at run
  exact ⟨_, run.trans (finish_of_work (besideWork_rejectTask ..)), besideRecords_rejectTask ..⟩

/-! CENSUS_FINAL (R229, steps 3 to 5). -/

/-- The loss scale of the next step (R77). -/
def scaleNext (s : State) (p : PartNo) : LossScale := lsCensus (getPart s p).ls (decide (0 < (getPart s p).census.values))

/-- The partition in its next step. -/
def partClosed (s : State) (p : PartNo) : Partition :=
  { getPart s p with
    ls := scaleNext s p, cur := (getPart s p).cur + 1, census := {}, closing := none, lastNonfinite := decide (0 < (getPart s p).census.values) }

/-- The step is closed and its change of the loss scale reported. -/
def stepClosed (s : State) (p : PartNo) : State :=
  lsChanged (setPart s p (partClosed s p)) p (getPart s p).ls.expNow (scaleNext s p).expNow ((getPart s p).cur + 1)

/-- The census record is stored where the descriptor asks for one, and what the step held goes on. -/
def censusStored (s : State) (p : PartNo) (t : Task) : State × Option (BitVec 8) :=
  let w := if scAddr t = 0 then (stepClosed s p, none)
    else writeFor (stepClosed s p) (cornerTile (getPart s p)) t.ctx (scAddr t) (bytesOf 32 (censusRecord s (getPart s p) (scaleNext s p).expNow))
  (releaseStep w.1 p, w.2)

/-- The completion of the STEP_CLOSE. -/
def closeEnded (s : State) (p : PartNo) (t : Task) : State :=
  let w := censusStored s p t
  (outcome w.1 t (w.2.getD stOk) 0 (decide (0 < (getPart s p).census.values)) (now w.1) (quality w.1)).1

theorem exec_censusFinal (closing : (getPart s p).closing = some t) (done : stepDone s p = true) (stands : resettingPart s p = false) :
    exec (.censusFinal p) s = finish s (pumpAll (closeEnded s p t)) := by
  show execCensusFinal p s = _
  unfold execCensusFinal
  dsimp only
  rw [closing]
  dsimp only
  rw [done, stands, if_neg (by decide)]
  rfl

theorem onlyReports_stepClosed : OnlyReports (setPart s p (partClosed s p)) (stepClosed s p) := onlyReports_lsChanged ..

theorem besideRecords_failHeld (s : State) (p : PartNo) : besideRecords (failHeld s p) = besideRecords s := by
  unfold failHeld
  refine besideRecords_foldl _ _ _ fun s e => besideRecords_foldl _ _ _ fun s f => ?_
  split
  · rfl
  · split
    · split
      · exact besideRecords_endSlot ..
      · rfl
    · rfl

theorem besideRecords_releaseStep (s : State) (p : PartNo) : besideRecords (releaseStep s p) = besideRecords s := besideRecords_failHeld s p

theorem besideRecords_censusStored : besideRecords (censusStored s p t).1 = besideRecords (setPart s p (partClosed s p)) := by
  have closed := besideRecords_of_reports (onlyReports_stepClosed (s := s) (p := p))
  unfold censusStored
  dsimp only
  rw [besideRecords_releaseStep]
  split
  · exact closed
  · rw [besideRecords_writeFor, closed]

theorem besideRecords_closeEnded : besideRecords (closeEnded s p t) = besideRecords (setPart s p (partClosed s p)) :=
  (besideRecords_outcome ..).trans besideRecords_censusStored

/-- The partition after CENSUS_FINAL: descriptors may have reached its coordinator since. -/
theorem getPart_censusFinal : (getPart (pumpAll (closeEnded s p t)) p).ls = scaleNext s p ∧
    (getPart (pumpAll (closeEnded s p t)) p).cur = (getPart s p).cur + 1 ∧ (getPart (pumpAll (closeEnded s p t)) p).closing = none ∧
    (getPart (pumpAll (closeEnded s p t)) p).census = {} ∧
    (getPart (pumpAll (closeEnded s p t)) p).lastNonfinite = decide (0 < (getPart s p).census.values) := by
  have part := (coordOnly_pumpAll (closeEnded s p t)).parts p
  rw [getPart_of _ _ p (parts_of_records besideRecords_closeEnded), getPart_same] at part
  generalize getPart (pumpAll (closeEnded s p t)) p = x at part ⊢
  exact ⟨(congrArg Partition.ls part :), (congrArg Partition.cur part :), (congrArg Partition.closing part :), (congrArg Partition.census part :),
    (congrArg Partition.lastNonfinite part :)⟩

theorem besideWork_censusFinal : besideWork (pumpAll (closeEnded s p t)) = besideWork s := by
  rw [besideWork_pumpAll, besideWork_of_records besideRecords_closeEnded, besideWork_setPart]

/-! The census record (R231). -/

/-- With nothing held for a step, none of it fails. -/
theorem failHeld_of_free (free : ∀ e ∈ s.cores, ∀ f ∈ e.2.slots, f.2.stepHeld = false) : failHeld s p = s := by
  unfold failHeld
  refine foldl_keeps (fun u : State => u = s) _ _ s rfl fun u e he hu => foldl_keeps (fun u : State => u = s) _ _ u hu fun v f hf hv => ?_
  split
  · exact hv
  · rw [free e he f hf]
    exact hv

/-- Releasing a step then changes cores alone. -/
theorem releaseStep_of_free (free : ∀ e ∈ s.cores, ∀ f ∈ e.2.slots, f.2.stepHeld = false) :
    (releaseStep s p).rings = s.rings ∧ (releaseStep s p).mem = s.mem := by
  unfold releaseStep
  rw [failHeld_of_free free]
  exact ⟨rfl, rfl⟩

section
variable (idle : RingsIdle s) (free : ∀ e ∈ s.cores, ∀ f ∈ e.2.slots, f.2.stepHeld = false) (asked : scAddr t ≠ 0)
  (allowed : transferStatus s (cornerTile (getPart s p)) t.ctx .write (scAddr t) 32 = none) (clean : rangePoisoned s (scAddr t) 32 = false)
include free asked allowed clean

/-- The record stands at its address, and the rings are as the report has left them. -/
theorem censusStored_spec : (censusStored s p t).1.rings = (stepClosed s p).rings ∧
    ∀ i, i < 32 → memByte (censusStored s p t).1 (scAddr t + i) = (bytesOf 32 (censusRecord s (getPart s p) (scaleNext s p).expNow)).getD i 0 := by
  have closed : OnlyReports (setPart s p (partClosed s p)) (stepClosed s p) := onlyReports_stepClosed
  have served : transferStatus (stepClosed s p) (cornerTile (getPart s p)) t.ctx .write (scAddr t) 32 = none :=
    (transferStatus_write_of_reports closed ..).trans allowed
  have unmarked : rangePoisoned (stepClosed s p) (scAddr t) 32 = false := by
    have falls : MarkersFall (setPart s p (partClosed s p)) (stepClosed s p) := by
      unfold stepClosed lsChanged
      split
      · exact .refl _
      · exact markersFall_raise ..
    exact falls.clean clean
  have cores : (stepClosed s p).cores = s.cores := (congrArg (fun x : State => x.cores) closed.rest :)
  unfold censusStored
  rw [if_neg asked]
  generalize hb : bytesOf 32 (censusRecord s (getPart s p) (scaleNext s p).expNow) = bytes
  have long : bytes.length = 32 := by rw [← hb, bytesOf_length]
  unfold writeFor
  rw [long, served]
  dsimp only
  have rest := besideMemory_writeMem (stepClosed s p) (scAddr t) bytes
  obtain ⟨-, -, stored⟩ := writeMem_clean (stepClosed s p) (scAddr t) bytes (by rw [long]; exact unmarked)
  generalize (writeMem (stepClosed s p) (scAddr t) bytes).1 = w at rest stored
  obtain ⟨rings, mem⟩ := releaseStep_of_free (s := w) (p := p) (by
    rw [show w.cores = s.cores from ((congrArg (fun x : State => x.cores) rest :).trans cores)]; exact free)
  refine ⟨rings.trans (rings_of_memory rest), fun i hi => ?_⟩
  unfold memByte at stored ⊢
  rw [mem, stored, if_pos (by omega), Nat.add_sub_cancel_left]

include idle

theorem memByte_censusFinal (silent : t.sigMode = 0) {i : Nat} (hi : i < 32) (out : outsideRings s (scAddr t + i)) :
    memByte (pumpAll (closeEnded s p t)) (scAddr t + i) = (bytesOf 32 (censusRecord s (getPart s p) (scaleNext s p).expNow)).getD i 0 := by
  have closed : OnlyReports (setPart s p (partClosed s p)) (stepClosed s p) := onlyReports_stepClosed
  obtain ⟨rings, record⟩ := censusStored_spec (p := p) free asked allowed clean
  have still : RingsIdle (censusStored s p t).1 := fun n => by
    rw [getRing_of _ _ n rings]
    exact (workEnds_of_reports closed).rings idle n
  have apart : outsideRings (censusStored s p t).1 (scAddr t + i) :=
    outsideRings_of_entries (fun n => by rw [getRing_of _ _ n rings]) (closed.outside (s := setPart s p (partClosed s p)) out)
  rw [← record i hi]
  unfold closeEnded
  generalize censusStored s p t = w at still apart
  dsimp only
  have ended : RingsIdle (outcome w.1 t (w.2.getD stOk) 0 (decide (0 < (getPart s p).census.values)) (now w.1) (quality w.1)).1 :=
    (workEnds_outcome ..).rings still
  rw [pumpAll_of_idle ended]
  exact (recorded_outcome_silent _ _ _ _ _ _ _ silent).memory _ apart

end

end

/-- Settles O35: a PHASE step by step to its switch, and the close of a step with its record. -/
theorem phasesAndSteps : Obligations.PhasesAndSteps := by
  unfold Obligations.PhasesAndSteps
  refine ⟨⟨fun s v p t => phase_spec, fun s p h r front stands => ⟨phaseDrained_waits front stands, notBeforeReached_switches front stands,
    notBeforeReached_lost front stands⟩⟩, fun s p t stands found => ⟨stepClose_marks stands found, fun st d => stepClose_rejected stands found⟩,
    fun s p t closing done stands => ?_⟩
  obtain ⟨ls, cur, closed, census, nonfinite⟩ := getPart_censusFinal (s := s) (p := p) (t := t)
  exact ⟨_, (exec_censusFinal closing done stands).trans (finish_of_work besideWork_censusFinal), ls, cur, closed, census, nonfinite,
    besideWork_censusFinal, fun idle free silent asked allowed clean i hi out =>
      memByte_censusFinal (ringsIdle_of_entries idle) free asked allowed clean silent hi out⟩

end Sys2Proof.Proofs.Steps

/-!
SUPPORT. The sequencer and the slots of a core (R83 to R85): who owns the sequencer, what a switch changes, and all that it leaves alone.
-/
namespace Sys2Proof.Proofs.Sequencer
open Sys2Proof Sys2Proof.Machine Sys2Proof.Proofs.Outcomes

/-! Slots as they are set. -/

theorem coreSlot_putSlot_other (c : Core) {j k : SlotNo} (x : Slot) (h : j ≠ k) : coreSlot (putSlot c k x) j = coreSlot c j :=
  tget_tput_other _ _ _ fun e => h (Fin.ext e)

theorem getSlot_setCore_same (s : State) (c : CoreNo) (v : Core) (k : SlotNo) : getSlot (setCore s c v) c k = coreSlot v k := by
  unfold getSlot
  rw [getCore_same]
  rfl

theorem setSlot_eq_setCore (s : State) (c : CoreNo) (k : SlotNo) (v : Slot) : setSlot s c k v = setCore s c (putSlot (getCore s c) k v) := rfl

/-- An entry of a table that is not the default is listed. -/
theorem mem_of_tget_ne {α : Type} (d : α) (t : Tbl α) (k : Nat) (h : tget d t k ≠ d) : (k, tget d t k) ∈ t := by
  induction t with
  | nil => exact absurd rfl h
  | cons e r ih =>
    obtain ⟨j, w⟩ := e
    unfold tget at h ⊢
    split
    · rename_i e; exact e ▸ List.mem_cons_self ..
    · rename_i e; rw [if_neg e] at h; exact List.mem_cons_of_mem _ (ih h)

/-! The choice of the next slot (R85). -/

/-- Everything of a core but its slots and who owns its sequencer. -/
def besideSequencer (c : Core) : Core := { c with current := none, lastRan := none, minRun := false, sliceDone := false, slots := [] }

/-- A slot of a core takes the free sequencer. -/
def giveSequencer (c : Core) (k : SlotNo) : Core :=
  { putSlot c k { coreSlot c k with state := .running } with current := some k, lastRan := some k, minRun := false, sliceDone := false }

theorem reschedule_cases (c : Core) :
    reschedule c = c ∨ ∃ k, c.current = none ∧ (coreSlot c k).state = .ready ∧ reschedule c = giveSequencer c k := by
  unfold reschedule
  split
  · exact .inl rfl
  · rename_i free
    dsimp only
    split
    · exact .inl rfl
    · rename_i k found
      exact .inr ⟨k, free, by simpa [coreSlot] using List.find?_some found, rfl⟩

/-- In the cyclic order after a slot that slot comes last. -/
theorem cyclic_finds_other : ∀ (k : SlotNo) (p : SlotNo → Bool), (∃ j, j ≠ k ∧ p j = true) →
    ∃ j, j ≠ k ∧ p j = true ∧ ((List.range 4).map fun i => (Fin.ofNat 4 (k.val + 1 + i) : SlotNo)).find? p = some j := by decide

/-- A free sequencer goes to another READY slot than the one it last ran, where there is one. -/
theorem reschedule_other {c : Core} {k : SlotNo} (free : c.current = none) (ran : c.lastRan = some k)
    (other : ∃ j, j ≠ k ∧ (coreSlot c j).state = .ready) :
    ∃ j, j ≠ k ∧ (coreSlot c j).state = .ready ∧ reschedule c = giveSequencer c j := by
  obtain ⟨j, ne, ready, found⟩ := cyclic_finds_other k (fun j => (coreSlot c j).state == .ready) (by simpa using other)
  refine ⟨j, ne, by simpa using ready, ?_⟩
  unfold coreSlot at found
  unfold reschedule
  rw [free, ran]
  dsimp only
  rw [found]
  rfl

theorem besideSequencer_reschedule (c : Core) : besideSequencer (reschedule c) = besideSequencer c := by
  rcases reschedule_cases c with h | ⟨k, -, -, h⟩
  · rw [h]
  · rw [h]; rfl

theorem besideSequencer_leaveSequencer (c : Core) (k : SlotNo) : besideSequencer (leaveSequencer c k) = besideSequencer c := by
  unfold leaveSequencer; split <;> rfl

theorem current_leaveSequencer (c : Core) (k : SlotNo) : (leaveSequencer c k).current ≠ some k := by
  unfold leaveSequencer
  split
  · simp
  · rename_i h; simpa using h

/-- A slot that has left the sequencer and is not READY does not get it. -/
theorem current_reschedule_ne {c : Core} {k : SlotNo} (left : c.current ≠ some k) (idle : (coreSlot c k).state ≠ .ready) :
    (reschedule c).current ≠ some k := by
  rcases reschedule_cases c with h | ⟨j, -, ready, h⟩
  · rw [h]; exact left
  · rw [h]
    intro e
    obtain rfl : j = k := Option.some.inj e
    exact idle ready

theorem besideSequencer_judge (c : Core) : besideSequencer (judge c) = besideSequencer c := by
  unfold judge
  split
  · exact besideSequencer_reschedule c
  · rename_i k _
    dsimp only
    split
    · rfl
    · split
      · exact (besideSequencer_reschedule _).trans (besideSequencer_leaveSequencer c k)
      · split
        · refine (besideSequencer_reschedule _).trans ?_
          split <;> exact besideSequencer_leaveSequencer c k
        · rfl

/-! What a switch does to a slot. -/

/-- The states between which the sequencer moves a slot. -/
def runnable (x : SlotState) : Prop := x = .ready ∨ x = .running

/-- A slot before and after a judgement: as it was, or still READY or running. -/
def Judged (x y : Slot) : Prop := y = x ∨ runnable x.state ∧ ∃ st, runnable st ∧ y = { x with state := st }

theorem Judged.refl (x : Slot) : Judged x x := .inl rfl

theorem Judged.trans {x y z : Slot} (h : Judged x y) (k : Judged y z) : Judged x z := by
  rcases h with rfl | ⟨run, st, hst, rfl⟩
  · exact k
  · rcases k with rfl | ⟨-, st', hst', rfl⟩
    · exact .inr ⟨run, st, hst, rfl⟩
    · exact .inr ⟨run, st', hst', rfl⟩

theorem judged_reschedule (c : Core) (k : SlotNo) : Judged (coreSlot c k) (coreSlot (reschedule c) k) := by
  rcases reschedule_slot c k with h | ⟨ready, h⟩
  · exact .inl h
  · exact .inr ⟨.inl ready, .running, .inr rfl, h⟩

theorem judged_judge (c : Core) (k : SlotNo) : Judged (coreSlot c k) (coreSlot (judge c) k) := by
  have left (j : SlotNo) : Judged (coreSlot c k) (coreSlot (leaveSequencer c j) k) := .inl (coreSlot_leaveSequencer ..)
  unfold judge
  split
  · exact judged_reschedule c k
  · rename_i j _
    dsimp only
    split
    · exact .refl _
    · split
      · exact (left j).trans (judged_reschedule _ k)
      · split
        · refine Judged.trans ?_ (judged_reschedule _ k)
          split
          · rename_i run
            by_cases e : k = j
            · subst e
              rw [coreSlot_putSlot_same]
              exact .inr ⟨.inr (by simpa using run), .ready, .inl rfl, rfl⟩
            · rw [coreSlot_putSlot_other _ _ e]
              exact left j
          · exact left j
        · exact .refl _

/-- A judgement takes or leaves a slot that can run; any other it leaves alone. -/
theorem Judged.of_runnable {x y : Slot} (h : Judged x y) (run : runnable x.state) : ∃ st, runnable st ∧ y = { x with state := st } := by
  rcases h with rfl | ⟨-, h⟩
  · exact ⟨_, run, rfl⟩
  · exact h

theorem Judged.of_idle {x y : Slot} (h : Judged x y) (idle : ¬ runnable x.state) : y = x := by
  rcases h with h | ⟨run, -⟩
  · exact h
  · exact absurd run idle

theorem otherReady_of_ready {c : Core} {j k : SlotNo} (ne : j ≠ k) (ready : (coreSlot c j).state = .ready) : otherReady c k = true := by
  have listed := mem_of_tget_ne ({} : Slot) c.slots j.val fun e => by
    have : (coreSlot c j).state = .empty := congrArg Slot.state e
    rw [ready] at this
    cases this
  unfold otherReady
  rw [List.any_eq_true]
  refine ⟨_, listed, ?_⟩
  simp only [Bool.and_eq_true, bne_iff_ne, ne_eq, beq_iff_eq]
  exact ⟨fun e => ne (Fin.ext e), ready⟩

/-! Switches (R85). -/

section
variable {s : State} {c : CoreNo} {k : SlotNo}

/-- From s to u the sequencer of a core has gone from slot k to slot j, and k stands as x. -/
structure Switched (s u : State) (c : CoreNo) (k j : SlotNo) (x : Slot) : Prop where
  owner : (getCore u c).current = some j
  gets : getSlot u c j = { getSlot s c j with state := .running }
  gives : getSlot u c k = x
  slots : ∀ i, i ≠ j → i ≠ k → getSlot u c i = getSlot s c i
  rest : { u with cores := s.cores } = s
  others : ∀ m, m ≠ c → getCore u m = getCore s m

/-- A core whose sequencer is free after slot k: another READY slot gets it. -/
theorem switched_reschedule {d : Core} {x : Slot} (free : d.current = none) (ran : d.lastRan = some k)
    (gave : coreSlot d k = x) (slots : ∀ i, i ≠ k → coreSlot d i = getSlot s c i) (other : ∃ j, j ≠ k ∧ (getSlot s c j).state = .ready) :
    ∃ j, j ≠ k ∧ (getSlot s c j).state = .ready ∧ Switched s (setCore s c (reschedule d)) c k j x := by
  obtain ⟨i, hi, hr⟩ := other
  obtain ⟨j, ne, ready, chosen⟩ := reschedule_other free ran ⟨i, hi, by rw [slots i hi]; exact hr⟩
  rw [slots j ne] at ready
  refine ⟨j, ne, ready, ?_⟩
  rw [chosen]
  refine ⟨by rw [getCore_same]; rfl, ?_, ?_, fun i hij hik => ?_, rfl, fun m hm => getCore_other _ _ hm⟩
  all_goals rw [getSlot_setCore_same]
  · exact (coreSlot_putSlot_same ..).trans (by rw [slots j ne])
  · exact (coreSlot_putSlot_other _ _ ne.symm).trans gave
  · exact (coreSlot_putSlot_other _ _ hij).trans (slots i hik)

theorem leaveSequencer_owner {d : Core} (owner : d.current = some k) :
    leaveSequencer d k = { d with current := none, minRun := false, sliceDone := false } := by
  unfold leaveSequencer
  rw [if_pos (by simp [owner])]

/-- A running slot that has run for SLICE, while another is READY. -/
theorem judge_sliced {d : Core} (owner : d.current = some k) (waits : otherReady d k = true) (running : (coreSlot d k).state = .running)
    (done : d.sliceDone = true) (slice : ctlSlice d ≠ 0) :
    judge d = reschedule (putSlot (leaveSequencer d k) k { coreSlot d k with state := .ready }) := by
  unfold judge
  simp [owner, waits, running, done, slice]

/-- A LATE slot that has run for MIN_RUN, where switches are allowed and another slot is READY. -/
theorem judge_late {d : Core} (owner : d.current = some k) (waits : otherReady d k = true) (late : (coreSlot d k).state = .late)
    (may : ctlSwitch d = true) (done : d.minRun = true) : judge d = reschedule (leaveSequencer d k) := by
  unfold judge
  simp [owner, waits, late, may, done]

theorem exec_sliceExpiry (owner : (getCore s c).current = some k) (slice : ctlSlice (getCore s c) ≠ 0) :
    exec (.sliceExpiry c) s = finish s (setCore s c (judge { getCore s c with sliceDone := true })) :=
  congrArg (finish s) (if_pos (by simp [owner, slice]))

theorem exec_minRunExpiry (owner : (getCore s c).current = some k) :
    exec (.minRunExpiry c) s = finish s (setCore s c (judge { getCore s c with minRun := true })) :=
  congrArg (finish s) (if_pos (by simp [owner]))

theorem sliceExpiry_switches (owner : (getCore s c).current = some k) (ran : (getCore s c).lastRan = some k)
    (running : (getSlot s c k).state = .running) (slice : ctlSlice (getCore s c) ≠ 0) (other : ∃ j, j ≠ k ∧ (getSlot s c j).state = .ready) :
    ∃ u j, exec (.sliceExpiry c) s = .next u ∧ j ≠ k ∧ (getSlot s c j).state = .ready ∧ (getCore u c).current = some j ∧
      getSlot u c j = { getSlot s c j with state := .running } ∧ getSlot u c k = { getSlot s c k with state := .ready } ∧
      (∀ i, i ≠ j → i ≠ k → getSlot u c i = getSlot s c i) ∧ { u with cores := s.cores } = s ∧ ∀ m, m ≠ c → getCore u m = getCore s m := by
  obtain ⟨i, hi, hr⟩ := other
  have waits : otherReady { getCore s c with sliceDone := true } k = true := otherReady_of_ready hi hr
  have run := exec_sliceExpiry owner slice
  have left := leaveSequencer_owner (d := { getCore s c with sliceDone := true }) owner
  rw [judge_sliced (d := { getCore s c with sliceDone := true }) owner waits running rfl slice, left] at run
  obtain ⟨j, ne, ready, sw⟩ := switched_reschedule (s := s) (c := c) (k := k)
    (d := putSlot { getCore s c with current := none, minRun := false, sliceDone := false } k { getSlot s c k with state := .ready })
    rfl ran (coreSlot_putSlot_same ..) (fun i hi => coreSlot_putSlot_other _ _ hi) ⟨i, hi, hr⟩
  exact ⟨_, j, run.trans (finish_of_work rfl), ne, ready, sw.owner, sw.gets, sw.gives, sw.slots, sw.rest, sw.others⟩

theorem minRunExpiry_switches (owner : (getCore s c).current = some k) (ran : (getCore s c).lastRan = some k)
    (late : (getSlot s c k).state = .late) (may : ctlSwitch (getCore s c) = true) (other : ∃ j, j ≠ k ∧ (getSlot s c j).state = .ready) :
    ∃ u j, exec (.minRunExpiry c) s = .next u ∧ j ≠ k ∧ (getSlot s c j).state = .ready ∧ (getCore u c).current = some j ∧
      getSlot u c j = { getSlot s c j with state := .running } ∧ (∀ i, i ≠ j → getSlot u c i = getSlot s c i) ∧
      { u with cores := s.cores } = s ∧ ∀ m, m ≠ c → getCore u m = getCore s m := by
  obtain ⟨i, hi, hr⟩ := other
  have waits : otherReady { getCore s c with minRun := true } k = true := otherReady_of_ready hi hr
  have run := exec_minRunExpiry owner
  have left := leaveSequencer_owner (d := { getCore s c with minRun := true }) owner
  rw [judge_late (d := { getCore s c with minRun := true }) owner waits late may rfl, left] at run
  obtain ⟨j, ne, ready, sw⟩ := switched_reschedule (s := s) (c := c) (k := k)
    (d := { getCore s c with current := none, minRun := false, sliceDone := false }) rfl ran rfl (fun _ _ => rfl) ⟨i, hi, hr⟩
  refine ⟨_, j, run.trans (finish_of_work rfl), ne, ready, sw.owner, sw.gets, fun i hij => ?_, sw.rest, sw.others⟩
  by_cases e : i = k
  · rw [e]; exact sw.gives
  · exact sw.slots i hij e

/-- With no other slot READY a judgement changes nothing. -/
theorem judge_alone {d : Core} (owner : d.current = some k) (alone : otherReady d k = false) : judge d = d := by
  unfold judge
  rw [owner]
  simp [alone]

theorem expiry_alone (owner : (getCore s c).current = some k) (alone : otherReady (getCore s c) k = false) :
    (ctlSlice (getCore s c) ≠ 0 → exec (.sliceExpiry c) s = .next (setCore s c { getCore s c with sliceDone := true })) ∧
      exec (.minRunExpiry c) s = .next (setCore s c { getCore s c with minRun := true }) := by
  refine ⟨fun slice => ?_, ?_⟩
  · rw [exec_sliceExpiry owner slice, judge_alone (d := { getCore s c with sliceDone := true }) owner alone]
    exact finish_of_work rfl
  · rw [exec_minRunExpiry owner, judge_alone (d := { getCore s c with minRun := true }) owner alone]
    exact finish_of_work rfl

end

/-! Admission (R84, R227, R330). -/

section
variable {s : State} {c : CoreNo} {k : SlotNo} {t : Task} {rest : List Task}

/-- What R191 makes of the first descriptor that waits at a core. -/
def admitGen (s : State) (t : Task) : GenWhen :=
  if (match t.op with | some op => op.usesMapGen | none => false) = true then genWhen (getPart s t.part) t.mapGen t.afterMark else .run

/-- A descriptor whose checks pass, with a slot and units for it, takes the slot. -/
theorem admitFirst_takes (waits : admitGen s t = .hold → coreAvailable s c = false)
    (good : admissionFailure (need (coreAvailable s c) stCore 3 ++ genFails (admitGen s t) ++ coreFails s c t) = none)
    (free : emptySlot (getCore s c) = some k) (fits : unitsHeld (getCore s c) + t.footprint ≤ coreUnits s c) :
    admitFirst s c t = takeSlot s c k t := by
  have now : ¬ ((decide (admitGen s t = .hold) && coreAvailable s c) = true) := by
    intro h
    simp only [Bool.and_eq_true, decide_eq_true_eq] at h
    rw [waits h.1] at h
    exact Bool.false_ne_true h.2
  unfold admitFirst
  dsimp only
  change (if (decide (admitGen s t = .hold) && coreAvailable s c) = true then _ else
    match admissionFailure (need (coreAvailable s c) stCore 3 ++ genFails (admitGen s t) ++ coreFails s c t), emptySlot (getCore s c) with
    | some (st, d), _ => refuseFirst s c t st d
    | none, none => s
    | none, some k => if unitsHeld (getCore s c) + t.footprint ≤ coreUnits s c then takeSlot s c k t else s) = _
  rw [if_neg now, good, free]
  exact if_pos fits

/-- The slot that a descriptor takes. -/
def admitted (s : State) (c : CoreNo) (t : Task) : Slot :=
  let next := stepWhen (getPart s t.part) t.step == .next
  { task := some { admitMark s t with exp := if next then none else some (stepExp (getPart s t.part) t.step) }
    footprint := t.footprint, dest := destRanges s c t, state := if next || t.isGate then .blocked else .ready, stepHeld := next }

theorem takeSlot_eq : takeSlot s c k t = setCore s c (judge (putSlot { getCore s c with queue := (getCore s c).queue.tail } k (admitted s c t))) := rfl

/-- What a slot's new task finds: BLOCKED stays, READY may run at once. -/
theorem getSlot_takeSlot : Judged (admitted s c t) (getSlot (takeSlot s c k t) c k) := by
  have judged := judged_judge (putSlot { getCore s c with queue := (getCore s c).queue.tail } k (admitted s c t)) k
  rwa [coreSlot_putSlot_same, ← getSlot_setCore_same s c, ← takeSlot_eq] at judged

theorem besideSequencer_takeSlot : besideSequencer (getCore (takeSlot s c k t) c) = besideSequencer { getCore s c with queue := (getCore s c).queue.tail } := by
  rw [takeSlot_eq, getCore_same, besideSequencer_judge]
  rfl

theorem exec_taskAdmit (front : (getCore s c).queue = t :: rest) (stands : resettingCore s c = false) (whole : changingCore s c = false)
    (runs : clockStopped s c = false) : exec (.taskAdmit c) s = finish s (admitFirst s c t) := by
  show execTaskAdmit c s = _
  simp only [execTaskAdmit, front, stands, whole, runs, Bool.or_self, Bool.false_eq_true, if_false]

end

/-- Settles O17: admission fills the slot and judges the core; an expiry gives the sequencer to another READY slot, where there is one. -/
theorem slotsAndSequencer : Obligations.SlotsAndSequencer := by
  unfold Obligations.SlotsAndSequencer
  refine ⟨fun s c k t rest front stands whole runs checks free fits => ?_,
    fun s c k => sliceExpiry_switches, fun s c k => minRunExpiry_switches, fun s c k => expiry_alone⟩
  have run := (exec_taskAdmit front stands whole runs).trans (congrArg (finish s) (admitFirst_takes checks.1 checks.2 free fits))
  have slot : Judged (admitted s c t) (getSlot (takeSlot s c k t) c k) := getSlot_takeSlot
  have core := besideSequencer_takeSlot (s := s) (c := c) (k := k) (t := t)
  have fields : (getSlot (takeSlot s c k t) c k).task = (admitted s c t).task ∧ (getSlot (takeSlot s c k t) c k).footprint = t.footprint ∧
      (getSlot (takeSlot s c k t) c k).stepHeld = (admitted s c t).stepHeld := by
    rcases slot with h | ⟨-, st, -, h⟩
    · rw [h]; exact ⟨rfl, rfl, rfl⟩
    · rw [h]; exact ⟨rfl, rfl, rfl⟩
  refine ⟨_, run.trans (finish_of_work (besideWork_setCore ..)), ⟨fields.1, fields.2.1, fields.2.2, ?_⟩, ?_,
    (congrArg (fun d : Core => d.held) core :), rfl, fun m hm => getCore_other _ _ hm⟩
  · have state : (admitted s c t).state = if (stepWhen (getPart s t.part) t.step == .next || t.isGate) = true then .blocked else .ready := rfl
    change if (stepWhen (getPart s t.part) t.step == .next || t.isGate) = true then _ else _
    split
    · rename_i blocked
      rw [if_pos blocked] at state
      rw [slot.of_idle (by rw [state]; rintro (h | h) <;> cases h), state]
    · rename_i ready
      rw [if_neg ready] at state
      obtain ⟨st, hst, h⟩ := slot.of_runnable (.inl state)
      rw [h]
      exact hst
  · have queue : (getCore (takeSlot s c k t) c).queue = (getCore s c).queue.tail := (congrArg (fun d : Core => d.queue) core :)
    rw [queue, front]
    rfl

end Sys2Proof.Proofs.Sequencer

/-!
SUPPORT. The fetch and the store engine of a core (R92): what a granted tag changes, and all that it leaves alone.
-/
namespace Sys2Proof.Proofs.Engines
open Sys2Proof Sys2Proof.Machine Sys2Proof.Proofs.Outcomes Sys2Proof.Proofs.Sequencer

/-! Tags in use. -/

/-- What an entry that is not the default adds to a table, where it keeps what the entry before it had. -/
theorem mem_flatMap_tput {α β : Type} [DecidableEq α] (d : α) (f : α → List β) (v : α) (hv : v ≠ d) (x : β) (t : Tbl α) (k : Nat)
    (keeps : ∀ y, y ∈ f (tget d t k) → y ∈ f v) :
    x ∈ (tput d t k v).flatMap (fun e => f e.2) ↔ x ∈ t.flatMap (fun e => f e.2) ∨ x ∈ f v := by
  induction t with
  | nil => simp [tput, hv]
  | cons e r ih =>
    obtain ⟨j, w⟩ := e
    unfold tput
    by_cases before : k < j
    · simp only [before, hv, if_true, if_false, List.flatMap_cons, List.mem_append]
      tauto
    · by_cases same : k = j
      · subst same
        have old := keeps x
        simp only [tget, if_true] at old
        simp only [before, hv, if_true, if_false, List.flatMap_cons, List.mem_append]
        tauto
      · have old := ih fun y hy => keeps y (by rwa [tget, if_neg (Ne.symm same)])
        simp only [before, same, if_false, List.flatMap_cons, List.mem_append, old]
        tauto

theorem mem_fetchInUse_putSlot (c : Core) (k : SlotNo) (v : Slot) (hv : v ≠ {}) (keeps : ∀ f ∈ (coreSlot c k).fetchTags, f ∈ v.fetchTags) (n : Nat) :
    n ∈ fetchInUse (putSlot c k v) ↔ n ∈ fetchInUse c ∨ n ∈ v.fetchTags.map (·.tag) := by
  have slots := mem_flatMap_tput ({} : Slot) (fun sl : Slot => sl.fetchTags.map (·.tag)) v hv n c.slots k.val fun y hy => by
    obtain ⟨f, hf, rfl⟩ := List.mem_map.mp hy
    exact List.mem_map_of_mem (keeps f hf)
  unfold fetchInUse
  rw [List.mem_append, List.mem_append]
  change n ∈ (tput {} c.slots k.val v).flatMap _ ∨ _ ↔ _
  rw [slots]
  tauto

theorem mem_storeInUse_putSlot (c : Core) (k : SlotNo) (v : Slot) (hv : v ≠ {}) (keeps : ∀ f ∈ (coreSlot c k).storeTags, f ∈ v.storeTags) (n : Nat) :
    n ∈ storeInUse (putSlot c k v) ↔ n ∈ storeInUse c ∨ n ∈ v.storeTags.map (·.tag) :=
  mem_flatMap_tput ({} : Slot) (fun sl : Slot => sl.storeTags.map StoreTag.tag) v hv n c.slots k.val fun y hy => by
    obtain ⟨f, hf, rfl⟩ := List.mem_map.mp hy
    exact List.mem_map_of_mem (keeps f hf)

/-- A slot's tags stay in use where it keeps them. -/
theorem mem_storeInUse_of_kept {d : Core} {k : SlotNo} {v : Slot} (hv : v ≠ {}) (same : v.storeTags = (coreSlot d k).storeTags) (n : Nat) :
    n ∈ storeInUse (putSlot d k v) ↔ n ∈ storeInUse d := by
  rw [mem_storeInUse_putSlot d k v hv (fun f hf => by rwa [same])]
  refine ⟨fun h => h.elim id fun h => ?_, .inl⟩
  rw [same] at h
  obtain ⟨f, hf, rfl⟩ := List.mem_map.mp h
  have listed := mem_of_tget_ne ({} : Slot) d.slots k.val fun e => by
    have : coreSlot d k = {} := e
    rw [this] at hf
    cases hf
  exact List.mem_flatMap.mpr ⟨_, listed, List.mem_map_of_mem hf⟩

theorem freeTags_congr {u v : List Nat} (h : ∀ n, n ∈ u ↔ n ∈ v) : freeTags u = freeTags v := by
  unfold freeTags
  refine List.filter_congr fun n _ => ?_
  rw [Bool.eq_iff_iff]
  simp [h n]

/-- The lowest free tag given away, the others stay free. -/
theorem freeTags_after {u v : List Nat} {tag : Nat} {more : List Nat} (free : freeTags u = tag :: more) (h : ∀ n, n ∈ v ↔ n ∈ u ∨ n = tag) :
    freeTags v = more := by
  have fewer : freeTags v = (freeTags u).filter fun n => n ≠ tag := by
    unfold freeTags
    rw [List.filter_filter]
    refine List.filter_congr fun n _ => ?_
    rw [Bool.eq_iff_iff]
    simp [h n]
    tauto
  have nodup : (freeTags u).Nodup := List.nodup_range.filter _
  rw [free] at nodup fewer
  obtain ⟨new, -⟩ := List.nodup_cons.mp nodup
  rw [fewer, List.filter_cons_of_neg (by simp), List.filter_eq_self]
  rintro n hn
  simpa using fun e : n = tag => new (e ▸ hn)

/-! What a grant can change. -/

/-- A slot without its tags. -/
def tagless (sl : Slot) : Slot := { sl with fetchTags := [], storeTags := [] }

/-- From s to u an engine of core n has granted tags: requests have entered the mesh, tags are in use, and nothing else has changed. -/
structure Granted (n : CoreNo) (s u : State) : Prop where
  rest : { u with cores := s.cores, packets := s.packets } = s
  others : ∀ m, m ≠ n → getCore u m = getCore s m
  slots : ∀ k, tagless (getSlot u n k) = tagless (getSlot s n k)
  stores : ∀ k, (getSlot s n k).storeTags <+: (getSlot u n k).storeTags
  idle : ∀ k, (getSlot s n k).task = none → getSlot u n k = getSlot s n k
  owner : (getCore u n).current = (getCore s n).current

section
variable {n : CoreNo} {s t u : State}

theorem Granted.refl (s : State) : Granted n s s :=
  ⟨rfl, fun _ _ => rfl, fun _ => rfl, fun _ => List.prefix_refl _, fun _ _ => rfl, rfl⟩

theorem rest_trans (h : { t with cores := s.cores, packets := s.packets } = s) (k : { u with cores := t.cores, packets := t.packets } = t) :
    { u with cores := s.cores, packets := s.packets } = s := by
  rw [← k] at h
  exact h

theorem Granted.trans (h : Granted n s t) (k : Granted n t u) : Granted n s u := by
  refine ⟨rest_trans h.rest k.rest, fun m hm => (k.others m hm).trans (h.others m hm), fun j => (k.slots j).trans (h.slots j),
    fun j => (h.stores j).trans (k.stores j), fun j none => ?_, k.owner.trans h.owner⟩
  have same := h.idle j none
  exact (k.idle j (by rw [same]; exact none)).trans same

/-- A core that stands as d, and packets sent. -/
theorem granted_send {d : Core} (ps : List Packet) (slots : ∀ k, tagless (coreSlot d k) = tagless (getSlot s n k))
    (stores : ∀ k, (getSlot s n k).storeTags <+: (coreSlot d k).storeTags) (idle : ∀ k, (getSlot s n k).task = none → coreSlot d k = getSlot s n k)
    (owner : d.current = (getCore s n).current) : Granted n s (send (setCore s n d) ps) := by
  have slot (k : SlotNo) : getSlot (send (setCore s n d) ps) n k = coreSlot d k := getSlot_setCore_same s n d k
  refine ⟨rfl, fun m hm => getCore_other s d hm, fun k => ?_, fun k => ?_, fun k hk => ?_, ?_⟩
  · rw [slot]; exact slots k
  · rw [slot]; exact stores k
  · rw [slot]; exact idle k hk
  · exact (congrArg Core.current (getCore_same s n d)).trans owner

/-- A queue of requests may change with no tag granted. -/
theorem granted_queue {d : Core} (slots : d.slots = (getCore s n).slots) (owner : d.current = (getCore s n).current) : Granted n s (setCore s n d) := by
  have same (k : SlotNo) : coreSlot d k = getSlot s n k := by unfold coreSlot getSlot; rw [slots]
  have h := granted_send (n := n) (s := s) (d := d) [] (fun k => by rw [same]) (fun k => by rw [same]) (fun k _ => same k) owner
  rwa [send, List.append_nil] at h

/-- One slot with its task has new tags. -/
theorem granted_slot {d : Core} {k : SlotNo} {x : Slot} {t : Task} (ps : List Packet) (task : (getSlot s n k).task = some t)
    (bare : tagless x = tagless (getSlot s n k)) (stores : (getSlot s n k).storeTags <+: x.storeTags) (slots : d.slots = (getCore s n).slots)
    (owner : d.current = (getCore s n).current) : Granted n s (send (setCore s n (putSlot d k x)) ps) := by
  have other (j : SlotNo) (h : j ≠ k) : coreSlot (putSlot d k x) j = getSlot s n j := by
    rw [coreSlot_putSlot_other _ _ h]
    unfold coreSlot getSlot
    rw [slots]
  refine granted_send ps (fun j => ?_) (fun j => ?_) (fun j hj => ?_) owner
  · by_cases e : j = k
    · subst e; rw [coreSlot_putSlot_same]; exact bare
    · rw [other j e]
  · by_cases e : j = k
    · subst e; rw [coreSlot_putSlot_same]; exact stores
    · rw [other j e]
  · refine other j fun e => ?_
    rw [e, task] at hj
    cases hj

/-! The engines. -/

/-- A fetch tag as it is granted, and a store tag. -/
def newFetch (n : CoreNo) (t : Task) (tag : Nat) (x : Xfer) : FetchTag := { tag := tag, xfer := x, left := (fetchPackets n t tag x).length }
def newStore (n : CoreNo) (t : Task) (tag : Nat) (p : List (Nat × List Byte)) : StoreTag :=
  { tag := tag, parts := p.map fun e => (e.1, e.2.length), left := (storePackets n t tag p).length }

/-- The fetch engine has granted a tag for transfer x of slot k, with other requests still waiting. -/
def fetchSent (s : State) (n : CoreNo) (k : SlotNo) (t : Task) (tag : Nat) (x : Xfer) (rest : List (SlotNo × Xfer)) : State :=
  send (setCore s n (putSlot { getCore s n with fetchQueue := rest } k
    { getSlot s n k with fetchTags := (getSlot s n k).fetchTags ++ [newFetch n t tag x] })) (fetchPackets n t tag x)

/-- The store engine has granted a tag for transfer p of slot k, with other requests still waiting. -/
def storeSent (s : State) (n : CoreNo) (k : SlotNo) (t : Task) (tag : Nat) (p : List (Nat × List Byte)) (rest : List (SlotNo × List (Nat × List Byte))) :
    State :=
  send (setCore s n (putSlot { getCore s n with storeQueue := rest } k
    { getSlot s n k with storeTags := (getSlot s n k).storeTags ++ [newStore n t tag p] })) (storePackets n t tag p)

theorem grantFetches_succ (n : CoreNo) (fuel : Nat) (s : State) :
    grantFetches n (fuel + 1) s =
      match (getCore s n).fetchQueue, freeTags (fetchInUse (getCore s n)) with
      | (k, x) :: rest, tag :: _ =>
        match (getSlot s n k).task with
        | none => grantFetches n fuel (setCore s n { getCore s n with fetchQueue := rest })
        | some t => if resettingCore s n then s else grantFetches n fuel (fetchSent s n k t tag x rest)
      | _, _ => s := rfl

theorem grantStores_succ (n : CoreNo) (fuel : Nat) (s : State) :
    grantStores n (fuel + 1) s =
      match (getCore s n).storeQueue, freeTags (storeInUse (getCore s n)) with
      | (k, p) :: rest, tag :: _ =>
        match (getSlot s n k).task with
        | none => grantStores n fuel (setCore s n { getCore s n with storeQueue := rest })
        | some t => if resettingCore s n then s else grantStores n fuel (storeSent s n k t tag p rest)
      | _, _ => s := rfl

section
variable {k : SlotNo} {t : Task} {tag : Nat}

theorem granted_fetchSent {x : Xfer} {rest : List (SlotNo × Xfer)} (task : (getSlot s n k).task = some t) : Granted n s (fetchSent s n k t tag x rest) :=
  granted_slot (d := { getCore s n with fetchQueue := rest }) _ task rfl (List.prefix_refl _) rfl rfl

theorem granted_storeSent {p : List (Nat × List Byte)} {rest : List (SlotNo × List (Nat × List Byte))} (task : (getSlot s n k).task = some t) :
    Granted n s (storeSent s n k t tag p rest) :=
  granted_slot (d := { getCore s n with storeQueue := rest }) _ task rfl (List.prefix_append ..) rfl rfl

theorem getCore_fetchSent {x : Xfer} {rest : List (SlotNo × Xfer)} : getCore (fetchSent s n k t tag x rest) n =
    putSlot { getCore s n with fetchQueue := rest } k { getSlot s n k with fetchTags := (getSlot s n k).fetchTags ++ [newFetch n t tag x] } :=
  getCore_same s n _

theorem getCore_storeSent {p : List (Nat × List Byte)} {rest : List (SlotNo × List (Nat × List Byte))} : getCore (storeSent s n k t tag p rest) n =
    putSlot { getCore s n with storeQueue := rest } k { getSlot s n k with storeTags := (getSlot s n k).storeTags ++ [newStore n t tag p] } :=
  getCore_same s n _

end

theorem getSlot_eq_coreSlot (s : State) (n : CoreNo) (k : SlotNo) : getSlot s n k = coreSlot (getCore s n) k := rfl

theorem granted_grantFetches (n : CoreNo) (fuel : Nat) (s : State) : Granted n s (grantFetches n fuel s) := by
  induction fuel generalizing s with
  | zero => exact .refl s
  | succ fuel ih =>
    rw [grantFetches_succ]
    split
    · rename_i k x rest tag _ _ _
      split
      · exact Granted.trans (granted_queue (d := { getCore s n with fetchQueue := rest }) rfl rfl) (ih _)
      · rename_i task
        split
        · exact .refl s
        · exact (granted_fetchSent task).trans (ih _)
    · exact .refl s

theorem granted_grantStores (n : CoreNo) (fuel : Nat) (s : State) : Granted n s (grantStores n fuel s) := by
  induction fuel generalizing s with
  | zero => exact .refl s
  | succ fuel ih =>
    rw [grantStores_succ]
    split
    · rename_i k x rest tag _ _ _
      split
      · exact Granted.trans (granted_queue (d := { getCore s n with storeQueue := rest }) rfl rfl) (ih _)
      · rename_i task
        split
        · exact .refl s
        · exact (granted_storeSent task).trans (ih _)
    · exact .refl s

/-- With no request nothing is granted. -/
theorem grantFetches_none (n : CoreNo) (fuel : Nat) (s : State) (h : (getCore s n).fetchQueue = []) : grantFetches n fuel s = s := by
  cases fuel with
  | zero => rfl
  | succ fuel => rw [grantFetches_succ, h]

theorem grantStores_none (n : CoreNo) (fuel : Nat) (s : State) (h : (getCore s n).storeQueue = []) : grantStores n fuel s = s := by
  cases fuel with
  | zero => rfl
  | succ fuel => rw [grantStores_succ, h]

/-- A slot that has no request with the fetch engine stands. -/
theorem grantFetches_unasked {k : SlotNo} (fuel : Nat) (s : State) (h : ∀ e ∈ (getCore s n).fetchQueue, e.1 ≠ k) :
    getSlot (grantFetches n fuel s) n k = getSlot s n k := by
  induction fuel generalizing s with
  | zero => rfl
  | succ fuel ih =>
    rw [grantFetches_succ]
    split
    · rename_i j x rest tag _ queue _
      rw [queue] at h
      obtain ⟨first, later⟩ := List.forall_mem_cons.mp h
      split
      · refine (ih _ ?_).trans (getSlot_setCore_same ..)
        rw [getCore_same]; exact later
      · split
        · rfl
        · refine (ih _ ?_).trans ?_
          · rw [getCore_fetchSent]; exact later
          · rw [getSlot_eq_coreSlot, getCore_fetchSent]; exact coreSlot_putSlot_other _ _ first.symm
    · rfl

/-- A slot that has no request with the store engine stands, and none comes up. -/
theorem grantStores_unasked {k : SlotNo} (fuel : Nat) (s : State) (h : ∀ e ∈ (getCore s n).storeQueue, e.1 ≠ k) :
    getSlot (grantStores n fuel s) n k = getSlot s n k ∧ ∀ e ∈ (getCore (grantStores n fuel s) n).storeQueue, e.1 ≠ k := by
  induction fuel generalizing s with
  | zero => exact ⟨rfl, h⟩
  | succ fuel ih =>
    rw [grantStores_succ]
    split
    · rename_i j p rest tag _ queue _
      obtain ⟨first, later⟩ := List.forall_mem_cons.mp (queue ▸ h)
      split
      · obtain ⟨slot, none⟩ := ih (setCore s n { getCore s n with storeQueue := rest }) (by rw [getCore_same]; exact later)
        exact ⟨slot.trans (getSlot_setCore_same ..), none⟩
      · split
        · exact ⟨rfl, h⟩
        · rename_i t _ _
          obtain ⟨slot, none⟩ := ih (storeSent s n j t tag p rest) (by rw [getCore_storeSent]; exact later)
          refine ⟨slot.trans ?_, none⟩
          rw [getSlot_eq_coreSlot, getCore_storeSent]
          exact coreSlot_putSlot_other _ _ first.symm
    · exact ⟨rfl, h⟩

/-- The engine's one request gets the lowest free tag. -/
theorem grantFetches_single {k : SlotNo} {t : Task} {tag : Nat} {more : List Nat} {x : Xfer} (fuel : Nat) (queue : (getCore s n).fetchQueue = [(k, x)])
    (free : freeTags (fetchInUse (getCore s n)) = tag :: more) (task : (getSlot s n k).task = some t) (stands : resettingCore s n = false) :
    grantFetches n (fuel + 1) s = fetchSent s n k t tag x [] := by
  rw [grantFetches_succ, queue, free]
  dsimp only
  rw [task]
  dsimp only
  rw [stands, if_neg Bool.false_ne_true]
  exact grantFetches_none n fuel _ (by rw [getCore_fetchSent]; rfl)

theorem grantStores_single {k : SlotNo} {t : Task} {tag : Nat} {more : List Nat} {p : List (Nat × List Byte)} (fuel : Nat)
    (queue : (getCore s n).storeQueue = [(k, p)]) (free : freeTags (storeInUse (getCore s n)) = tag :: more) (task : (getSlot s n k).task = some t)
    (stands : resettingCore s n = false) : grantStores n (fuel + 1) s = storeSent s n k t tag p [] := by
  rw [grantStores_succ, queue, free]
  dsimp only
  rw [task]
  dsimp only
  rw [stands, if_neg Bool.false_ne_true]
  exact grantStores_none n fuel _ (by rw [getCore_storeSent]; rfl)

/-- The store engine with a free tag grants its first request. -/
theorem grantStores_first {k : SlotNo} {t : Task} {tag : Nat} {more : List Nat} {p : List (Nat × List Byte)}
    {rest : List (SlotNo × List (Nat × List Byte))} (fuel : Nat) (queue : (getCore s n).storeQueue = (k, p) :: rest)
    (free : freeTags (storeInUse (getCore s n)) = tag :: more) (task : (getSlot s n k).task = some t) (stands : resettingCore s n = false) :
    (getSlot (grantStores n (fuel + 1) s) n k).storeTags ≠ [] := by
  rw [grantStores_succ, queue, free]
  dsimp only
  rw [task]
  dsimp only
  rw [stands, if_neg Bool.false_ne_true]
  intro none
  have kept := (granted_grantStores n fuel (storeSent s n k t tag p rest)).stores k
  rw [none, getSlot_eq_coreSlot, getCore_storeSent, coreSlot_putSlot_same] at kept
  simp at kept

end

end Sys2Proof.Proofs.Engines

/-!
SUPPORT. What a slot asks its core's engines for (R92, R94): its transfers to fetch, and its output to store.
-/
namespace Sys2Proof.Proofs.SlotRequests
open Sys2Proof Sys2Proof.Machine Sys2Proof.Proofs.Outcomes Sys2Proof.Proofs.Sequencer Sys2Proof.Proofs.Engines

section
variable {s u : State} {n : CoreNo} {k : SlotNo} {t : Task}

theorem resettingCore_of (h : { u with cores := s.cores, packets := s.packets } = s) (n : CoreNo) : resettingCore u n = resettingCore s n := by
  rw [← h]
  rfl

theorem rangeOk_of (h : { u with cores := s.cores, packets := s.packets } = s) (x : CtxNo) (r : Right) (a b : Nat) :
    rangeOk u x r a b = rangeOk s x r a b := by
  rw [← h]
  rfl

/-! Stores. -/

/-- The slot's first transfer is with the store engine. -/
def storeAsked (s : State) (n : CoreNo) (k : SlotNo) (p : List (Nat × List Byte)) (rest : List Out) : State :=
  setCore s n { putSlot (getCore s n) k { getSlot s n k with outs := rest } with storeQueue := (getCore s n).storeQueue ++ [(k, p)] }

theorem getCore_storeAsked (s : State) (n : CoreNo) (k : SlotNo) (p : List (Nat × List Byte)) (rest : List Out) : getCore (storeAsked s n k p rest) n =
    { putSlot (getCore s n) k { getSlot s n k with outs := rest } with storeQueue := (getCore s n).storeQueue ++ [(k, p)] } := getCore_same ..

theorem getSlot_storeAsked (s : State) (n : CoreNo) (k : SlotNo) (p : List (Nat × List Byte)) (rest : List Out) :
    getSlot (storeAsked s n k p rest) n k = { getSlot s n k with outs := rest } := by
  rw [getSlot_eq_coreSlot, getCore_storeAsked]
  exact coreSlot_putSlot_same ..

/-- A slot with nothing put out asks for nothing. -/
theorem requestStores_none (fuel : Nat) (h : (getSlot s n k).outs = []) : requestStores n k fuel s = s := by
  cases fuel with
  | zero => rfl
  | succ fuel =>
    have none : (coreSlot (getCore s n) k).outs = [] := h
    unfold requestStores
    dsimp only
    rw [none]
    cases (coreSlot (getCore s n) k).task <;> cases (coreSlot (getCore s n) k).adding <;> rfl

/-- A transfer that the task may write, with less than four under way, goes to the store engine. -/
theorem requestStores_store {p : List (Nat × List Byte)} {rest : List Out} (fuel : Nat) (task : (getSlot s n k).task = some t)
    (adding : (getSlot s n k).adding = none) (outs : (getSlot s n k).outs = .store p :: rest)
    (good : ∀ e ∈ p, rangeOk s t.ctx .write e.1 e.2.length = true) :
    requestStores n k (fuel + 1) s =
      if (getSlot s n k).storeTags.length + ((getCore s n).storeQueue.filter fun e => e.1 == k).length < 4
      then requestStores n k fuel (grantStores n 6 (storeAsked s n k p rest)) else s := by
  have passes : (p.any fun e => !rangeOk s t.ctx .write e.1 e.2.length) = false := by
    rw [List.any_eq_false]
    intro e he
    simp [good e he]
  rw [getSlot_eq_coreSlot] at task adding outs
  conv_lhs => unfold requestStores
  dsimp only
  split
  · rename_i task' _ outs'
    obtain rfl := Option.some.inj (task'.symm.trans task)
    obtain ⟨⟨rfl⟩, rfl⟩ := List.cons.inj (outs'.symm.trans outs)
    rw [passes, if_neg Bool.false_ne_true]
    rfl
  all_goals simp_all

/-- From s to u a slot's transfer p has left under a tag in write requests, and the slot has `rest` still to store. -/
structure StoreLeft (s u : State) (n : CoreNo) (k : SlotNo) (t : Task) (tag : Nat) (p : List (Nat × List Byte)) (rest : List Out) : Prop where
  packets : u.packets = s.packets ++ storePackets n t tag p
  slot : getSlot u n k = { getSlot s n k with outs := rest, storeTags := (getSlot s n k).storeTags ++ [newStore n t tag p] }
  queue : (getCore u n).storeQueue = []
  owner : (getCore u n).current = (getCore s n).current
  used : ∀ x, x ∈ storeInUse (getCore u n) ↔ x ∈ storeInUse (getCore s n) ∨ x = tag
  others : ∀ m, m ≠ n → getCore u m = getCore s m
  rest : { u with cores := s.cores, packets := s.packets } = s

theorem slot_ne_empty {x : Slot} (task : x.task = some t) : x ≠ {} := by
  rintro rfl
  cases task

theorem mem_storeInUse_storeAsked {p : List (Nat × List Byte)} {rest : List Out} (task : (getSlot s n k).task = some t) (x : Nat) :
    x ∈ storeInUse (getCore (storeAsked s n k p rest) n) ↔ x ∈ storeInUse (getCore s n) := by
  rw [getCore_storeAsked]
  exact mem_storeInUse_of_kept (d := getCore s n) (v := { getSlot s n k with outs := rest }) (slot_ne_empty task) rfl x

/-- With the store engine free a slot's first transfer leaves at once under the lowest free tag. -/
theorem storeLeft_of_store {p : List (Nat × List Byte)} {rest : List Out} {tag : Nat} {more : List Nat} (task : (getSlot s n k).task = some t)
    (queue : (getCore s n).storeQueue = []) (free : freeTags (storeInUse (getCore s n)) = tag :: more) (stands : resettingCore s n = false) :
    StoreLeft s (grantStores n 6 (storeAsked s n k p rest)) n k t tag p rest := by
  have slot := getSlot_storeAsked s n k p rest
  have single := grantStores_single (s := storeAsked s n k p rest) (n := n) (p := p) (k := k) (t := t) 5
    (by rw [getCore_storeAsked]; exact congrArg (· ++ [(k, p)]) queue)
    ((freeTags_congr (mem_storeInUse_storeAsked task)).trans free) (by rw [slot]; exact task) stands
  rw [single]
  have core := getCore_storeAsked s n k p rest
  generalize hv : storeAsked s n k p rest = v at slot core
  have after : getSlot (storeSent v n k t tag p []) n k =
      { getSlot s n k with outs := rest, storeTags := (getSlot s n k).storeTags ++ [newStore n t tag p] } := by
    rw [getSlot_eq_coreSlot, getCore_storeSent, coreSlot_putSlot_same, slot]
  refine ⟨?_, after, ?_, ?_, fun x => ?_, fun m hm => ?_, ?_⟩
  · rw [← hv]; rfl
  · rw [getCore_storeSent]; rfl
  · rw [getCore_storeSent]
    exact (congrArg Core.current core :)
  · have granted := mem_storeInUse_putSlot { getCore v n with storeQueue := [] } k
      { getSlot v n k with storeTags := (getSlot v n k).storeTags ++ [newStore n t tag p] }
      (slot_ne_empty (t := t) (by rw [slot]; exact task)) (fun f hf => List.mem_append_left _ hf) x
    have before : x ∈ storeInUse { getCore v n with storeQueue := [] } ↔ x ∈ storeInUse (getCore s n) := by
      rw [← mem_storeInUse_storeAsked (p := p) (rest := rest) task x, hv]
      rfl
    rw [getCore_storeSent, granted, before, List.map_append, List.mem_append]
    refine ⟨fun h => ?_, fun h => ?_⟩
    · rcases h with h | h | h
      · exact .inl h
      · obtain ⟨f, hf, rfl⟩ := List.mem_map.mp h
        rw [slot] at hf
        exact .inl (List.mem_flatMap.mpr ⟨_, mem_of_tget_ne ({} : Slot) (getCore s n).slots k.val (slot_ne_empty task), List.mem_map_of_mem hf⟩)
      · exact .inr (List.mem_singleton.mp h)
    · exact h.elim .inl fun e => .inr (.inr (List.mem_singleton.mpr e))
  · exact (getCore_other v _ hm).trans (by rw [← hv]; exact getCore_other s _ hm)
  · rw [← hv]; rfl

theorem drainSlot_ready (ready : (getSlot s n k).outsReady = true) (stands : resettingCore s n = false) :
    drainSlot s n k = requestStores n k ((getSlot s n k).outs.length + 1) s := by
  unfold drainSlot
  simp [ready, stands]

theorem drainSlot_none (h : (getSlot s n k).outs = []) : drainSlot s n k = s := by
  unfold drainSlot
  dsimp only
  split
  · exact requestStores_none _ h
  · rfl

/-- A slot whose one transfer may be written sends it. -/
theorem drainSlot_single {p : List (Nat × List Byte)} {tag : Nat} {more : List Nat} (ready : (getSlot s n k).outsReady = true)
    (task : (getSlot s n k).task = some t) (adding : (getSlot s n k).adding = none) (outs : (getSlot s n k).outs = [.store p])
    (tags : (getSlot s n k).storeTags = []) (queue : (getCore s n).storeQueue = []) (free : freeTags (storeInUse (getCore s n)) = tag :: more)
    (stands : resettingCore s n = false) (good : ∀ e ∈ p, rangeOk s t.ctx .write e.1 e.2.length = true) :
    StoreLeft s (drainSlot s n k) n k t tag p [] := by
  have left := storeLeft_of_store (p := p) (rest := []) task queue free stands
  rw [drainSlot_ready ready stands, outs, requestStores_store _ task adding outs good, if_pos (by simp [tags, queue]),
    requestStores_none _ (by rw [left.slot])]
  exact left

/-! The end of an ended task waits for its stores (R94). -/

theorem settleSlot_waits (h : storesOut (getCore s n) k = true) : settleSlot s n k = s := by
  unfold settleSlot
  simp [h]

theorem settleSlot_unended (h : (getSlot s n k).ended = false) : settleSlot s n k = s := by
  unfold settleSlot
  simp [h]

theorem settleSlot_over (ended : (getSlot s n k).ended = true) (held : (getSlot s n k).recordHeld = false) (h : storesOut (getCore s n) k = false) :
    settleSlot s n k = endSlot s n k (getSlot s n k).status (getSlot s n k).detail := by
  unfold settleSlot
  simp [ended, held, h]

theorem storesOut_getCore (s : State) (n : CoreNo) (k : SlotNo) : storesOut (getCore s n) k =
    (!(getSlot s n k).storeTags.isEmpty || !(getSlot s n k).outs.isEmpty || (getSlot s n k).adding.isSome ||
      (getCore s n).storeQueue.any fun e => e.1 == k) := rfl

theorem storesOut_of_tags (h : (getSlot s n k).storeTags ≠ []) : storesOut (getCore s n) k = true := by
  rw [storesOut_getCore]
  simp [h]

theorem storesOut_eq_false (tags : (getSlot s n k).storeTags = []) (outs : (getSlot s n k).outs = []) (adding : (getSlot s n k).adding = none)
    (queue : ∀ e ∈ (getCore s n).storeQueue, e.1 ≠ k) : storesOut (getCore s n) k = false := by
  rw [storesOut_getCore, tags, outs, adding]
  simpa using fun x b h => queue (x, b) h

/-! Fetches. -/

/-- A slot with room for all its transfers asks for all of them. -/
theorem requestFetches_all
    (room : (getSlot s n k).toFetch.length ≤ 4 - ((getSlot s n k).fetchTags.length + ((getCore s n).fetchQueue.filter fun e => e.1 == k).length)) :
    requestFetches s n k = grantFetches n 6 (setCore s n { putSlot (getCore s n) k { getSlot s n k with toFetch := [] } with
      fetchQueue := (getCore s n).fetchQueue ++ (getSlot s n k).toFetch.map fun x => (k, x) }) := by
  rw [getSlot_eq_coreSlot] at room
  unfold requestFetches
  dsimp only
  rw [List.drop_of_length_le room, List.take_of_length_le room]
  rfl

/-- With nothing to fetch a slot asks for nothing, and with no request the engine grants nothing. -/
theorem requestFetches_none (fetch : (getSlot s n k).toFetch = []) (queue : (getCore s n).fetchQueue = []) :
    requestFetches s n k = setCore s n { putSlot (getCore s n) k (getSlot s n k) with fetchQueue := [] } := by
  have same : { getSlot s n k with toFetch := [] } = getSlot s n k := by rw [← fetch]
  rw [requestFetches_all (by rw [fetch]; exact Nat.zero_le _), fetch, queue, same]
  exact grantFetches_none n 6 _ (by rw [getCore_same]; rfl)

end

end Sys2Proof.Proofs.SlotRequests

/-!
SUPPORT. Tags that complete, swaps, and transfers that fail (R88 to R94).
-/
namespace Sys2Proof.Proofs.Transfers
open Sys2Proof Sys2Proof.Machine Sys2Proof.Proofs.Outcomes Sys2Proof.Proofs.RecordEnds Sys2Proof.Proofs.Sequencer Sys2Proof.Proofs.Engines
  Sys2Proof.Proofs.SlotRequests

/-! The end of a slot's task, seen from the state before. -/

section
variable {s u v w : State} {c : CoreNo} {k : SlotNo} {t t' : Task} {st : BitVec 8} {b : Bool}

/-- An end that began in state v, where what an end leaves alone stood as in s. -/
theorem endsAtOnce_of_start (h : EndsAtOnce v u c k t' st b) (mem : ∀ a, memByte v a = memByte s a) (rings : v.rings = s.rings)
    (dest : (getSlot v c k).dest = (getSlot s c k).dest) (silent : t.sigMode = 0 → t'.sigMode = 0) (rest : besideEnds v = besideEnds s) :
    EndsAtOnce s u c k t st b := by
  refine ⟨h.slot, fun mode a out spoils => ?_, h.rest.trans rest⟩
  have ring (n : Nat) : (getRing v n).entry = (getRing s n).entry := congrArg Machine.Ring.entry (getRing_of s v n rings)
  refine (h.memory (silent mode) a (outsideRings_of_entries ring out) fun hb => ?_).trans (mem a)
  unfold outsideDest
  rw [dest]
  exact spoils hb

theorem endsAtOnce_spoiled (h : EndsAtOnce s u c k t st b) : EndsAtOnce s u c k t st true :=
  ⟨h.slot, fun silent a out spoils => h.memory silent a out fun _ => spoils rfl, h.rest⟩

theorem besideEnds_of_rest (h : { u with cores := s.cores, packets := s.packets } = s) : besideEnds u = besideEnds s := (congrArg besideEnds h :)

theorem rest_of_cores (h : { u with cores := s.cores } = s) : { u with cores := s.cores, packets := s.packets } = s :=
  (congrArg (fun x : State => { x with packets := s.packets }) h :)

/-- The tags that an end frees may go to other slots. -/
theorem endsAtOnce_granted (h : EndsAtOnce s w c k t st b) (g : Granted c w u) : EndsAtOnce s u c k t st b := by
  refine ⟨?_, fun silent a out spoils => ?_, (besideEnds_of_rest g.rest).trans h.rest⟩
  · rcases h.slot with empty | ⟨held, ended, status, late⟩
    · exact .inl ((g.idle k (by rw [empty])).trans empty)
    · have same := g.slots k
      exact .inr ⟨(congrArg Slot.recordHeld same :).trans held, (congrArg Slot.ended same :).trans ended, (congrArg Slot.status same :).trans status,
        (congrArg Slot.state same :).trans late⟩
  · have mem : memByte u a = memByte w a := (congrArg (fun x : State => memByte x a) g.rest :)
    exact mem.trans (h.memory silent a out spoils)

/-! Slots as they are set. -/

@[simp] theorem getCore_setSlot (s : State) (c : CoreNo) (k : SlotNo) (x : Slot) : getCore (setSlot s c k x) c = putSlot (getCore s c) k x := getCore_same ..

/-- The slot of a task with stores outstanding is LATE until they are over (R94). -/
theorem endSlot_waits (st : BitVec 8) (d : BitVec 16) (task : (getSlot s c k).task = some t) (stores : storesOut (getCore s c) k = true) :
    endSlot s c k st d = setCore (setCore s c (putSlot (cancelFetches (leaveSequencer (getCore s c) k) k) k (slotEnded s c k st d))) c
      (reschedule (putSlot (cancelFetches (leaveSequencer (getCore s c) k) k) k (slotEnded s c k st d))) := by
  unfold endSlot
  rw [task]
  dsimp only
  rw [storesOut_cancelFetches, stores, if_pos rfl, getCore_same]
  rfl

/-! A completed fetch (R92). -/

/-- A slot that can go on is READY or runs. -/
theorem resumeSlot_slot (d : Core) (k : SlotNo) : ∃ st, runnable st ∧ coreSlot (resumeSlot d k) k = { coreSlot d k with state := st } := by
  have judged := judged_judge (putSlot d k { coreSlot d k with state := if d.current == some k then .running else .ready }) k
  rw [coreSlot_putSlot_same] at judged
  refine judged.of_runnable ?_
  dsimp only
  split
  · exact .inr rfl
  · exact .inl rfl

/-- A slot without its transfers under way and still to be requested. -/
def besideFetches (x : Slot) : Slot := { tagless x with toFetch := [] }

/-- From s to u slot k of core n has asked for transfers. -/
structure Asked (s u : State) (n : CoreNo) (k : SlotNo) : Prop where
  rest : { u with cores := s.cores, packets := s.packets } = s
  others : ∀ m, m ≠ n → getCore u m = getCore s m
  slot : besideFetches (getSlot u n k) = besideFetches (getSlot s n k)

theorem asked_requestFetches (s : State) (n : CoreNo) (k : SlotNo) : Asked s (requestFetches s n k) n k := by
  unfold requestFetches
  dsimp only
  generalize hd : ({ putSlot (getCore s n) k _ with fetchQueue := _ } : Core) = d
  have slot : besideFetches (coreSlot d k) = besideFetches (getSlot s n k) := by
    rw [← hd]
    exact (congrArg besideFetches (coreSlot_putSlot_same (getCore s n) k _) :)
  have granted := granted_grantFetches n 6 (setCore s n d)
  refine ⟨rest_trans (t := setCore s n d) rfl granted.rest, fun m hm => (granted.others m hm).trans (getCore_other _ _ hm), ?_⟩
  have same := congrArg (fun x : Slot => { x with toFetch := [] }) (granted.slots k)
  rw [getSlot_setCore_same] at same
  exact Eq.trans same slot

/-- A slot that waits for nothing but its fetches, with all of them over (R85). -/
def canResume (s : State) (n : CoreNo) (k : SlotNo) : Bool :=
  fetchesOver (getCore s n) k && !(getSlot s n k).swapPending && !(getSlot s n k).ahead && (getSlot s n k).state == .late && !(getSlot s n k).ended

/-- A slot goes on where it can. -/
def resumeIfDue (s : State) (n : CoreNo) (k : SlotNo) : State := if canResume s n k then setCore s n (resumeSlot (getCore s n) k) else s

/-- From s to u one core has changed, and of its slot k the state alone. -/
theorem resumeIfDue_spec (s : State) (n : CoreNo) (k : SlotNo) :
    (∃ st, getSlot (resumeIfDue s n k) n k = { getSlot s n k with state := st } ∧ (canResume s n k = true → runnable st)) ∧
    { resumeIfDue s n k with cores := s.cores } = s ∧ ∀ m, m ≠ n → getCore (resumeIfDue s n k) m = getCore s m := by
  unfold resumeIfDue
  split
  · obtain ⟨st, run, stands⟩ := resumeSlot_slot (getCore s n) k
    exact ⟨⟨st, (getSlot_setCore_same ..).trans stands, fun _ => run⟩, rfl, fun m hm => getCore_other _ _ hm⟩
  · rename_i no
    exact ⟨⟨_, rfl, fun yes => absurd yes no⟩, rfl, fun _ _ => rfl⟩

/-- A slot when the transfer of its fetch tag f, number n, has landed. -/
def landedSlot (x : Slot) (n : Nat) (f : FetchTag) : Slot :=
  { x with fetchTags := x.fetchTags.filter fun g => g.tag != n, landed := x.landed ++ f.xfer.ranges }

section
variable {n : Nat} {f : FetchTag} (found : (getSlot s c k).fetchTags.find? (fun g => g.tag == n && g.left == 0) = some f)
include found

theorem fetchLanded_eq : fetchLanded s c k n = resumeIfDue (requestFetches (setSlot s c k (landedSlot (getSlot s c k) n f)) c k) c k := by
  unfold fetchLanded
  dsimp only
  rw [found]
  rfl

/-- What stands of the slot, and all else. -/
theorem fetchLanded_spec : (∃ st, besideFetches (getSlot (fetchLanded s c k n) c k) = { besideFetches (landedSlot (getSlot s c k) n f) with state := st }) ∧
    { fetchLanded s c k n with cores := s.cores, packets := s.packets } = s ∧ ∀ m, m ≠ c → getCore (fetchLanded s c k n) m = getCore s m := by
  rw [fetchLanded_eq found]
  generalize hv : setSlot s c k (landedSlot (getSlot s c k) n f) = v
  obtain ⟨⟨st, stands, -⟩, rest, others⟩ := resumeIfDue_spec (requestFetches v c k) c k
  have asked := asked_requestFetches v c k
  have slot : getSlot v c k = landedSlot (getSlot s c k) n f := by rw [← hv, getSlot_same]
  have first : { v with cores := s.cores, packets := s.packets } = s := by rw [← hv]; rfl
  refine ⟨⟨st, ?_⟩, rest_trans first (rest_trans asked.rest (rest_of_cores rest)), fun m hm => (others m hm).trans ((asked.others m hm).trans ?_)⟩
  · rw [stands, ← slot, ← asked.slot]
    rfl
  · rw [← hv]
    exact getCore_other s _ hm

/-- With nothing more to fetch at the core the tag is free, and a slot that waits for nothing else goes on. -/
theorem fetchLanded_last (fetch : (getSlot s c k).toFetch = []) (queue : (getCore s c).fetchQueue = []) :
    (fetchLanded s c k n).packets = s.packets ∧
    (getSlot (fetchLanded s c k n) c k).fetchTags = (getSlot s c k).fetchTags.filter (fun g => g.tag != n) ∧
    ((getSlot s c k).fetchTags.filter (fun g => g.tag != n) = [] → (getSlot s c k).swapPending = false → (getSlot s c k).ahead = false →
      (getSlot s c k).state = .late → (getSlot s c k).ended = false → runnable (getSlot (fetchLanded s c k n) c k).state) := by
  rw [fetchLanded_eq found]
  generalize hx : landedSlot (getSlot s c k) n f = x
  have none : requestFetches (setSlot s c k x) c k = setCore (setSlot s c k x) c { putSlot (putSlot (getCore s c) k x) k x with fetchQueue := [] } := by
    rw [requestFetches_none (by rw [getSlot_same, ← hx]; exact fetch) (by rw [getCore_setSlot]; exact queue), getCore_setSlot, getSlot_same]
  generalize hw : requestFetches (setSlot s c k x) c k = w at none
  have core : getCore w c = { putSlot (putSlot (getCore s c) k x) k x with fetchQueue := [] } := by rw [none]; exact getCore_same ..
  have same : getSlot w c k = x := by rw [getSlot_eq_coreSlot, core]; exact coreSlot_putSlot_same ..
  obtain ⟨⟨st, stands, resumes⟩, rest, -⟩ := resumeIfDue_spec w c k
  refine ⟨?_, ?_, fun landed swap ahead late going => ?_⟩
  · have packets : (resumeIfDue w c k).packets = w.packets := (congrArg State.packets rest :)
    rw [packets, none]
    rfl
  · rw [stands, same, ← hx]
    rfl
  · rw [stands]
    refine resumes ?_
    have over_ : fetchesOver (getCore w c) k = true := by
      unfold fetchesOver
      dsimp only
      rw [← getSlot_eq_coreSlot, same, core, ← hx]
      simp [landedSlot, landed, fetch]
    unfold canResume
    rw [over_, same, ← hx]
    simp [landedSlot, swap, ahead, late, going]

end

end

/-! A completed store (R92, R94). -/

section
variable {s u : State} {c : CoreNo} {k : SlotNo} {t : Task} {n : Nat} {x : StoreTag}

/-- A slot when its store tag x, number n, has completed. -/
def storedSlot (y : Slot) (n : Nat) (x : StoreTag) : Slot :=
  { y with storeTags := y.storeTags.filter fun z => z.tag != n, stored := y.stored ++ x.parts }

theorem storeDone_eq (found : (getSlot s c k).storeTags.find? (fun y => y.tag == n && y.left == 0) = some x) :
    storeDone s c k n = settleSlot (drainSlot (grantStores c 6 (setSlot s c k (storedSlot (getSlot s c k) n x))) c k) c k := by
  unfold storeDone
  dsimp only
  rw [found]
  rfl

/-- A slot that has not ended and has put out nothing. -/
theorem storeDone_runs (found : (getSlot s c k).storeTags.find? (fun y => y.tag == n && y.left == 0) = some x) (runs : (getSlot s c k).ended = false)
    (outs : (getSlot s c k).outs = []) :
    (getSlot (storeDone s c k n) c k).stored = (getSlot s c k).stored ++ x.parts ∧
    ((getCore s c).storeQueue = [] → (storeDone s c k n).packets = s.packets ∧
      (getSlot (storeDone s c k n) c k).storeTags = (getSlot s c k).storeTags.filter fun y => y.tag != n) ∧
    { storeDone s c k n with cores := s.cores, packets := s.packets } = s ∧ ∀ m, m ≠ c → getCore (storeDone s c k n) m = getCore s m := by
  generalize hv : setSlot s c k (storedSlot (getSlot s c k) n x) = v
  have slot : getSlot v c k = storedSlot (getSlot s c k) n x := by rw [← hv, getSlot_same]
  have granted := granted_grantStores c 6 v
  have bare := granted.slots k
  rw [slot] at bare
  have eq : storeDone s c k n = grantStores c 6 v := by
    rw [storeDone_eq found, hv, drainSlot_none ((congrArg Slot.outs bare :).trans outs), settleSlot_unended ((congrArg Slot.ended bare :).trans runs)]
  rw [eq]
  refine ⟨(congrArg Slot.stored bare :), fun queue => ?_, rest_trans (t := v) (by rw [← hv]; rfl) granted.rest, fun m hm => (granted.others m hm).trans ?_⟩
  · rw [grantStores_none c 6 v (by rw [← hv, getCore_setSlot]; exact queue), slot, ← hv]
    exact ⟨rfl, rfl⟩
  · rw [← hv]
    exact getCore_other s _ hm

/-- A slot whose ended task had this store outstanding alone: its outcome is decided. -/
theorem storeDone_last (found : (getSlot s c k).storeTags.find? (fun y => y.tag == n && y.left == 0) = some x) (task : (getSlot s c k).task = some t)
    (tags : (getSlot s c k).storeTags = [x]) (outs : (getSlot s c k).outs = []) (adding : (getSlot s c k).adding = none)
    (queue : ∀ e ∈ (getCore s c).storeQueue, e.1 ≠ k) (ended : (getSlot s c k).ended = true) (held : (getSlot s c k).recordHeld = false) :
    EndsAtOnce s (storeDone s c k n) c k t (getSlot s c k).status (getSlot s c k).spoilt := by
  generalize hv : setSlot s c k (storedSlot (getSlot s c k) n x) = v
  have slot : getSlot v c k = storedSlot (getSlot s c k) n x := by rw [← hv, getSlot_same]
  have granted := granted_grantStores c 6 v
  obtain ⟨same, unasked⟩ := grantStores_unasked (n := c) (k := k) 6 v (by rw [← hv, getCore_setSlot]; exact queue)
  have eq := storeDone_eq found
  rw [hv] at eq
  generalize grantStores c 6 v = w at eq granted same unasked
  rw [slot] at same
  have number : x.tag = n := by have := List.find?_some found; simp at this; exact this.1
  have none : (getSlot w c k).storeTags = [] := by rw [same]; simp [storedSlot, tags, number]
  have over_ : storesOut (getCore w c) k = false := storesOut_eq_false none (by rw [same]; exact outs) (by rw [same]; exact adding) unasked
  rw [drainSlot_none (by rw [same]; exact outs), settleSlot_over (by rw [same]; exact ended) (by rw [same]; exact held) over_] at eq
  have ends := endsAtOnce_endSlot (getSlot w c k).status (getSlot w c k).detail (by rw [same]; exact task) over_
  rw [← eq, same] at ends
  have rest : { w with cores := s.cores, packets := s.packets } = s := rest_trans (t := v) (by rw [← hv]; rfl) granted.rest
  exact endsAtOnce_of_start ends (fun a => (congrArg (fun x : State => memByte x a) rest :)) (congrArg (fun x : State => x.rings) rest :)
    (by rw [same]; rfl) id (besideEnds_of_rest rest)

end

/-! Swaps (R88 to R90). -/

section
variable {s : State} {c : CoreNo} {k : SlotNo} {t : Task}

/-- The task goes on with the regions' roles changed. -/
theorem swapDone_runs (runs : (getSlot s c k).ended = false) :
    ∃ st, runnable st ∧ getSlot (swapDone s c k) c k = { swapRegions (getSlot s c k) with state := st } ∧ { swapDone s c k with cores := s.cores } = s ∧
      ∀ m, m ≠ c → getCore (swapDone s c k) m = getCore s m := by
  have eq : swapDone s c k = setCore s c (resumeSlot (putSlot (getCore s c) k (swapRegions (getSlot s c k))) k) := by
    unfold swapDone
    dsimp only
    rw [← getSlot_eq_coreSlot, runs]
    rfl
  obtain ⟨st, run, slot⟩ := resumeSlot_slot (putSlot (getCore s c) k (swapRegions (getSlot s c k))) k
  rw [coreSlot_putSlot_same] at slot
  rw [eq]
  exact ⟨st, run, (getSlot_setCore_same ..).trans slot, rfl, fun m hm => getCore_other _ _ hm⟩

/-! A slot that gives up the sequencer and waits for its stores (R85, R94). -/

/-- A core whose slot k stands as x and has left the sequencer. -/
def retired (d : Core) (k : SlotNo) (x : Slot) : Core := reschedule (leaveSequencer (putSlot d k x) k)

theorem coreSlot_retired (d : Core) (k : SlotNo) (x : Slot) (late : x.state = .late) : coreSlot (retired d k x) k = x :=
  reschedule_keeps _ k _ (by rw [coreSlot_leaveSequencer, coreSlot_putSlot_same]) (by simp [late])

theorem current_retired (d : Core) (k : SlotNo) (x : Slot) (late : x.state = .late) : (retired d k x).current ≠ some k :=
  current_reschedule_ne (current_leaveSequencer _ k) (by rw [coreSlot_leaveSequencer, coreSlot_putSlot_same]; simp [late])

theorem storeQueue_retired (d : Core) (k : SlotNo) (x : Slot) : (retired d k x).storeQueue = d.storeQueue := by
  have first : (reschedule (leaveSequencer (putSlot d k x) k)).storeQueue = (leaveSequencer (putSlot d k x) k).storeQueue :=
    (congrArg (fun x : Core => x.storeQueue) (besideSequencer_reschedule _) :)
  exact first.trans (congrArg (fun x : Core => x.storeQueue) (besideSequencer_leaveSequencer (putSlot d k x) k) :)

theorem mem_storeInUse_reschedule (d : Core) (n : Nat) : n ∈ storeInUse (reschedule d) ↔ n ∈ storeInUse d := by
  rcases reschedule_cases d with h | ⟨j, -, -, h⟩
  · rw [h]
  · rw [h]
    exact mem_storeInUse_of_kept (d := d) (v := { coreSlot d j with state := .running }) (by intro e; cases (congrArg Slot.state e :)) rfl n

theorem freeTags_retired {d : Core} {x : Slot} (task : x.task = some t) (same : x.storeTags = (coreSlot d k).storeTags) :
    freeTags (storeInUse (retired d k x)) = freeTags (storeInUse d) := by
  have left : storeInUse (leaveSequencer (putSlot d k x) k) = storeInUse (putSlot d k x) := by unfold leaveSequencer; split <;> rfl
  refine freeTags_congr fun n => ?_
  unfold retired
  rw [mem_storeInUse_reschedule, left]
  exact mem_storeInUse_of_kept (slot_ne_empty task) same n

/-- The output of an ended task that lies in the transfer region. -/
def swappedOut (x : Slot) : Slot := { swapRegions x with outsReady := true }

/-- After the swap of an ended task its one transfer leaves. -/
theorem swapDone_stores {p : List (Nat × List Byte)} {tag : Nat} {more : List Nat} (due : swapDue (getCore s c) k = true)
    (ended : (getSlot s c k).ended = true) (task : (getSlot s c k).task = some t) (outs : (getSlot s c k).outs = [.store p])
    (adding : (getSlot s c k).adding = none) (tags : (getSlot s c k).storeTags = []) (queue : (getCore s c).storeQueue = [])
    (free : freeTags (storeInUse (getCore s c)) = tag :: more) (stands : resettingCore s c = false)
    (good : ∀ e ∈ p, rangeOk s t.ctx .write e.1 e.2.length = true) :
    (swapDone s c k).packets = s.packets ++ storePackets c t tag p ∧ (getSlot (swapDone s c k) c k).storeTags = [newStore c t tag p] ∧
      (getSlot (swapDone s c k) c k).outs = [] ∧ (getSlot (swapDone s c k) c k).computeB = !(getSlot s c k).computeB ∧
      (getCore (swapDone s c k) c).current ≠ some k ∧ { swapDone s c k with cores := s.cores, packets := s.packets } = s ∧
      ∀ m, m ≠ c → getCore (swapDone s c k) m = getCore s m := by
  have late : (swappedOut (getSlot s c k)).state = .late := by
    unfold swapDue at due
    simp only [Bool.and_eq_true, beq_iff_eq] at due
    exact due.2
  generalize hd : retired (getCore s c) k (swappedOut (getSlot s c k)) = d
  have slot : getSlot (setCore s c d) c k = swappedOut (getSlot s c k) := by
    rw [getSlot_setCore_same, ← hd]
    exact coreSlot_retired _ k _ late
  have sent := drainSlot_single (s := setCore s c d) (n := c) (k := k) (t := t) (p := p) (tag := tag) (more := more)
    (by rw [slot]; rfl) (by rw [slot]; exact task) (by rw [slot]; exact adding) (by rw [slot]; exact outs) (by rw [slot]; exact tags)
    (by rw [getCore_same, ← hd, storeQueue_retired]; exact queue)
    (by rw [getCore_same, ← hd, freeTags_retired (x := swappedOut (getSlot s c k)) (t := t) task rfl]; exact free) stands good
  have eq : swapDone s c k = drainSlot (setCore s c d) c k := by
    have tag : (getSlot (drainSlot (setCore s c d) c k) c k).storeTags ≠ [] := by rw [sent.slot]; simp
    rw [← settleSlot_waits (storesOut_of_tags tag)]
    unfold swapDone
    dsimp only
    rw [← getSlot_eq_coreSlot, ended, ← hd]
    rfl
  rw [eq]
  generalize drainSlot (setCore s c d) c k = u at sent
  have now := sent.slot
  rw [slot] at now
  refine ⟨sent.packets, ?_, by rw [now], by rw [now]; rfl, ?_, rest_trans (t := setCore s c d) rfl sent.rest,
    fun m hm => (sent.others m hm).trans (getCore_other _ _ hm)⟩
  · rw [now]
    exact congrArg (· ++ [newStore c t tag p]) tags
  · rw [sent.owner, getCore_same, ← hd]
    exact current_retired _ k _ late

end

/-! Transfers that fail (R94, R132). -/

/-- A descriptor without its signal keeps every bit but those of SIG_MODE. -/
theorem getLsbD_keptBits (i : Nat) : (~~~(3 <<< 13 : BitVec 2048)).getLsbD i = (decide (i < 2048) && !(24576 : Nat).testBit i) := by
  rw [BitVec.getLsbD_not, BitVec.natCast_eq_ofNat, BitVec.getLsbD_ofNat]
  by_cases h : i < 2048 <;> simp [h]

theorem f_unsignalled (t : Task) (lo n : Nat) : t.unsignalled.f lo n = (t.raw.extractLsb' lo n &&& (~~~(3 <<< 13 : BitVec 2048)).extractLsb' lo n).toNat := by
  rw [← BitVec.extractLsb'_and, BitVec.extractLsb'_toNat]
  rfl

theorem op_unsignalled (t : Task) : t.unsignalled.op = t.op := by
  have kept : (~~~(3 <<< 13 : BitVec 2048)).extractLsb' 0 8 = BitVec.allOnes 8 := by
    refine BitVec.eq_of_getLsbD_eq fun i hi => ?_
    have clear : ∀ i < 8, (24576 : Nat).testBit i = false := by decide
    rw [BitVec.getLsbD_extractLsb', getLsbD_keptBits, Nat.zero_add, clear i hi, BitVec.getLsbD_allOnes]
    simp [hi, show i < 2048 by omega]
  have code : t.unsignalled.f 0 8 = t.f 0 8 := by
    rw [f_unsignalled, kept, BitVec.and_allOnes, BitVec.extractLsb'_toNat]
    rfl
  exact congrArg opOf code

theorem sigMode_unsignalled (t : Task) : t.unsignalled.sigMode = 0 := by
  have none : (~~~(3 <<< 13 : BitVec 2048)).extractLsb' 13 2 = 0#2 := by
    refine BitVec.eq_of_getLsbD_eq fun i hi => ?_
    have set : ∀ i < 2, (24576 : Nat).testBit (13 + i) = true := by decide
    rw [BitVec.getLsbD_extractLsb', getLsbD_keptBits, set i hi]
    simp
  refine (f_unsignalled t 13 2).trans ?_
  rw [none, BitVec.and_zero]
  rfl

section
variable {s : State} {c : CoreNo} {k : SlotNo} {t : Task} {st : BitVec 8}

/-- A task that gives up: nothing more of it is stored. -/
theorem failSlot_eq (task : (getSlot s c k).task = some t) (runs : (getSlot s c k).ended = false)
    (unbegun : t.op = some .reduce → (getSlot s c k).started = false) :
    failSlot s c k st = grantFetches c 6 (endSlot (setSlot s c k { getSlot s c k with outs := [], adding := none }) c k st 0) := by
  have uncut : cutReduce s c k st = s := by
    unfold cutReduce
    dsimp only
    rw [task]
    dsimp only
    refine if_neg fun h => ?_
    simp only [Bool.and_eq_true, beq_iff_eq] at h
    rw [unbegun h.1] at h
    exact Bool.false_ne_true h.2
  unfold failSlot
  dsimp only
  rw [task, runs, uncut]
  rfl

/-- A slot x whose task gives up. -/
def givesUp (x : Slot) (t : Task) (spoilt : Bool) : Slot := { x with task := some t, spoilt := spoilt, outs := [], adding := none }

/-- A failed transfer ends the task, in the check pass as one that signals nothing. -/
theorem transferFails_eq (task : (getSlot s c k).task = some t) (runs : (getSlot s c k).ended = false)
    (unbegun : t.op = some .reduce → (getSlot s c k).started = false) :
    ∃ t' b v, (t.sigMode = 0 → t'.sigMode = 0) ∧ getSlot v c k = givesUp (getSlot s c k) t' b ∧ { v with cores := s.cores } = s ∧
      (∀ m, m ≠ c → getCore v m = getCore s m) ∧ (getCore v c).storeQueue = (getCore s c).storeQueue ∧
      transferFails s c k st = grantFetches c 6 (endSlot v c k st 0) := by
  have fails (t' : Task) (b : Bool) (op : t'.op = t.op) : ∃ v, getSlot v c k = givesUp (getSlot s c k) t' b ∧ { v with cores := s.cores } = s ∧
      (∀ m, m ≠ c → getCore v m = getCore s m) ∧ (getCore v c).storeQueue = (getCore s c).storeQueue ∧
      failSlot (setSlot s c k { getSlot s c k with task := some t', spoilt := b }) c k st = grantFetches c 6 (endSlot v c k st 0) := by
    generalize hw : setSlot s c k { getSlot s c k with task := some t', spoilt := b } = w
    have slot : getSlot w c k = { getSlot s c k with task := some t', spoilt := b } := by rw [← hw, getSlot_same]
    have core : (getCore w c).storeQueue = (getCore s c).storeQueue := by rw [← hw, getCore_setSlot]; rfl
    refine ⟨_, ?_, ?_, fun m hm => ?_, ?_, failSlot_eq (t := t') (by rw [slot]) (by rw [slot]; exact runs) (fun h => by rw [slot]; exact unbegun (op ▸ h))⟩
    · rw [getSlot_same, slot]; rfl
    · rw [← hw]; rfl
    · exact (getCore_other w _ hm).trans (by rw [← hw]; exact getCore_other s _ hm)
    · rw [getCore_setSlot]; exact core
  unfold transferFails checkFails
  dsimp only
  split
  · obtain ⟨v, slot, rest, others, queue, eq⟩ := fails t.unsignalled (getSlot s c k).spoilt (op_unsignalled t)
    refine ⟨t.unsignalled, (getSlot s c k).spoilt, v, fun _ => sigMode_unsignalled t, slot, rest, others, queue, ?_⟩
    rw [task]
    exact eq
  · obtain ⟨v, slot, rest, others, queue, eq⟩ := fails t true rfl
    refine ⟨t, true, v, id, slot, rest, others, queue, ?_⟩
    rw [← task] at eq
    exact eq

/-- A task that is no collective's ends by itself (R205). -/
theorem taskFails_alone (task : (getSlot s c k).task = some t) (alone : isCollective t = false) : taskFails s c k st = transferFails s c k st := by
  unfold taskFails
  rw [task]
  dsimp only
  rw [alone]
  rfl

variable (task : (getSlot s c k).task = some t) (runs : (getSlot s c k).ended = false) (alone : isCollective t = false)
  (unbegun : t.op = some .reduce → (getSlot s c k).started = false)
include task runs alone unbegun

/-- With no store requested the outcome is decided at once. -/
theorem taskFails_ends (tags : (getSlot s c k).storeTags = []) (queue : ∀ e ∈ (getCore s c).storeQueue, e.1 ≠ k) :
    EndsAtOnce s (taskFails s c k st) c k t st true := by
  obtain ⟨t', b, v, silent, slot, rest, -, asks, eq⟩ := transferFails_eq (st := st) task runs unbegun
  rw [taskFails_alone task alone, eq]
  have over_ : storesOut (getCore v c) k = false :=
    storesOut_eq_false (by rw [slot]; exact tags) (by rw [slot]; rfl) (by rw [slot]; rfl) (by rw [asks]; exact queue)
  have ends := endsAtOnce_granted (endsAtOnce_endSlot (t := t') st 0 (by rw [slot]; rfl) over_) (granted_grantFetches c 6 _)
  exact endsAtOnce_spoiled (endsAtOnce_of_start ends (fun a => (congrArg (fun x : State => memByte x a) rest :)) (congrArg (fun x : State => x.rings) rest :)
    (by rw [slot]; rfl) silent (besideEnds_of_rest (rest_of_cores rest)))

/-- With stores under way the slot waits for them. -/
theorem taskFails_waits (tags : (getSlot s c k).storeTags ≠ []) :
    (getSlot (taskFails s c k st) c k).ended = true ∧ (getSlot (taskFails s c k st) c k).status = st ∧
      (getSlot (taskFails s c k st) c k).state = .late ∧ (getSlot (taskFails s c k st) c k).fetchTags = [] ∧
      (getSlot (taskFails s c k st) c k).toFetch = [] ∧ (getSlot (taskFails s c k st) c k).outs = [] ∧
      (getSlot (taskFails s c k st) c k).storeTags = (getSlot s c k).storeTags ∧
      { taskFails s c k st with cores := s.cores, packets := s.packets } = s ∧ ∀ m, m ≠ c → getCore (taskFails s c k st) m = getCore s m := by
  obtain ⟨t', b, v, -, slot, rest, others, -, eq⟩ := transferFails_eq (st := st) task runs unbegun
  rw [taskFails_alone task alone, eq]
  have waits := endSlot_waits (s := v) (c := c) (k := k) (t := t') st 0 (by rw [slot]; rfl) (storesOut_of_tags (by rw [slot]; exact tags))
  generalize hd : putSlot (cancelFetches (leaveSequencer (getCore v c) k) k) k (slotEnded v c k st 0) = d at waits
  have lies : coreSlot (reschedule d) k = slotEnded v c k st 0 :=
    reschedule_keeps d k _ (by rw [← hd, coreSlot_putSlot_same]) (by unfold slotEnded; simp)
  have unasked : ∀ e ∈ (getCore (endSlot v c k st 0) c).fetchQueue, e.1 ≠ k := by
    have kept : (reschedule d).fetchQueue = d.fetchQueue := (congrArg (fun x : Core => x.fetchQueue) (besideSequencer_reschedule d) :)
    rw [waits, getCore_same, kept, ← hd]
    intro e he
    simpa using (List.mem_filter.mp he).2
  have now : getSlot (grantFetches c 6 (endSlot v c k st 0)) c k = slotEnded v c k st 0 := by
    rw [grantFetches_unasked 6 _ unasked, waits]
    exact (getSlot_setCore_same ..).trans lies
  have ended : slotEnded v c k st 0 = { getSlot v c k with
      fetchTags := [], toFetch := [], transfer := [], landed := [], ahead := false, swapPending := false
      ended := true, status := st, detail := 0, state := .late } := by
    unfold slotEnded
    rw [tget_cancelFetches]
    rfl
  have granted := granted_grantFetches c 6 (endSlot v c k st 0)
  generalize grantFetches c 6 (endSlot v c k st 0) = w at now granted
  rw [now, ended, slot]
  refine ⟨rfl, rfl, rfl, rfl, rfl, rfl, rfl, rest_trans (t := v) (rest_of_cores rest) (rest_trans (t := endSlot v c k st 0) ?_ granted.rest),
    fun m hm => (granted.others m hm).trans ?_⟩
  · rw [waits]; rfl
  · rw [waits]
    exact (getCore_other _ _ hm).trans ((getCore_other _ _ hm).trans (others m hm))

end

/-! The rows. -/

section
variable {s : State} {c : CoreNo} {k : SlotNo} {n : Nat}

theorem wakeNap_awake {tile : TileNo} (h : awake s tile = true) : wakeNap s tile = s := by
  unfold awake at h
  unfold wakeNap
  dsimp only
  refine if_neg fun nap => ?_
  simp_all

theorem exec_fetchTagComplete {f : FetchTag} (wakes : awake s (coreTile c) = true)
    (found : (getSlot s c k).fetchTags.find? (fun g => g.tag == n && g.left == 0) = some f) :
    exec (.fetchTagComplete c k n) s = .next (fetchLanded s c k n) := by
  have hit := List.find?_some found
  have due : fetchDue (getSlot s c k) n = true := List.any_eq_true.mpr ⟨f, List.mem_of_find?_eq_some found, hit⟩
  have run : exec (.fetchTagComplete c k n) s = finish s (fetchLanded (wakeNap s (coreTile c)) c k n) := congrArg (finish s) (if_pos due)
  rw [run, wakeNap_awake wakes]
  exact finish_of_work (by simp)

theorem exec_storeTagComplete {x : StoreTag} (wakes : awake s (coreTile c) = true)
    (found : (getSlot s c k).storeTags.find? (fun g => g.tag == n && g.left == 0) = some x) :
    exec (.storeTagComplete c k n) s = .next (storeDone s c k n) := by
  have hit := List.find?_some found
  have due : storeDue (getSlot s c k) n = true := List.any_eq_true.mpr ⟨x, List.mem_of_find?_eq_some found, hit⟩
  have run : exec (.storeTagComplete c k n) s = finish s (storeDone (wakeNap s (coreTile c)) c k n) := congrArg (finish s) (if_pos due)
  rw [run, wakeNap_awake wakes]
  exact finish_of_work (by simp)

theorem exec_swapComplete (wakes : awake s (coreTile c) = true) (clock : clockStopped s c = false) (due : swapDue (getCore s c) k = true) :
    exec (.swapComplete c k) s = .next (swapDone s c k) := by
  show execSwapComplete c k s = _
  unfold execSwapComplete
  simp only [due, wakeNap_awake wakes, clock, Bool.not_true, Bool.false_eq_true, if_false]
  exact finish_of_work (by simp)

theorem exec_fetchFailure (st : BitVec 8) (due : fetchesOver (getCore s c) k = false) :
    exec (.fetchFailure c k st) s = .next (taskFails s c k st) := by
  have run : exec (.fetchFailure c k st) s = finish s (taskFails s c k st) := congrArg (finish s) (if_neg (by simp [due]))
  rw [run]
  exact finish_of_work (by simp)

end

/-- Settles O18: each row is the engine's step that it names, on a slot whose other fields stand. -/
theorem tagsSwapsAndFailures : Obligations.TagsSwapsAndFailures := by
  unfold Obligations.TagsSwapsAndFailures
  refine ⟨⟨fun s c k n f wakes found => ?_, fun s c k n x wakes found => ⟨fun runs outs => ?_, fun t tags outs adding queue ended held task => ?_⟩,
    fun s c k wakes clock due => ⟨fun runs => ?_, fun t p tag more ended task outs adding tags queue free stands good => ?_⟩⟩,
    fun s c k t st due task runs alone unbegun => ⟨fun tags queue => ?_, fun tags => ?_⟩⟩
  · obtain ⟨⟨st, slot⟩, rest, others⟩ := fetchLanded_spec found
    exact ⟨_, exec_fetchTagComplete wakes found, (congrArg Slot.landed slot :), (congrArg Slot.transfer slot :), (congrArg Slot.compute slot :),
      (congrArg Slot.ended slot :), fetchLanded_last found, rest, others⟩
  · exact ⟨_, exec_storeTagComplete wakes found, storeDone_runs found runs outs⟩
  · exact ⟨_, exec_storeTagComplete wakes found, storeDone_last found task tags outs adding queue ended held⟩
  · obtain ⟨st, run, slot, rest, others⟩ := swapDone_runs runs
    exact ⟨_, st, exec_swapComplete wakes clock due, slot, run, rest, others⟩
  · exact ⟨_, exec_swapComplete wakes clock due, swapDone_stores due ended task outs adding tags queue free stands good⟩
  · exact ⟨_, exec_fetchFailure st due, taskFails_ends task runs alone unbegun tags queue⟩
  · exact ⟨_, exec_fetchFailure st due, taskFails_waits task runs alone unbegun tags⟩

end Sys2Proof.Proofs.Transfers

/-!
SUPPORT. A task at work (R88, R92): what it finds in its operand store, what it asks for, and its end.
-/
namespace Sys2Proof.Proofs.Works
open Sys2Proof Sys2Proof.Machine Sys2Proof.Proofs.Outcomes Sys2Proof.Proofs.Sequencer Sys2Proof.Proofs.Engines Sys2Proof.Proofs.Transfers

/-! The task that runs. -/

section
variable {s : State} {c : CoreNo} {k : SlotNo} {t : Task} {op : Op}

/-- What a slot's running task says of the slot and its core. -/
structure Running (s : State) (c : CoreNo) (k : SlotNo) (op : Op) (t : Task) : Prop where
  task : (getSlot s c k).task = some t
  op : t.op = some op
  state : (getSlot s c k).state = .running
  owner : (getCore s c).current = some k
  unended : (getSlot s c k).ended = false
  stands : resettingCore s c = false
  clock : clockStopped s c = false

theorem running_of_runningTask (h : runningTask s c k op = some t) : Running s c k op t := by
  unfold runningTask at h
  dsimp only at h
  split at h
  · cases h
  · rename_i u found
    split at h
    · rename_i holds
      obtain rfl : u = t := Option.some.inj h
      simp only [Bool.and_eq_true, beq_iff_eq, Bool.not_eq_true'] at holds
      obtain ⟨⟨⟨⟨⟨code, state⟩, owner⟩, unended⟩, stands⟩, clock⟩ := holds
      exact ⟨found, code, state, owner, unended, stands, clock⟩
    · cases h

theorem runTask_running (h : runningTask s c k op = some t) (work : State → Task → State) : runTask s c k op work = work s t := by
  unfold runTask
  rw [h]

/-! Fetches. -/

theorem startWork_fields (s : State) (c : CoreNo) (k : SlotNo) (t : Task) :
    (startWork s c k t).s = s ∧ (startWork s c k t).t = t ∧ (startWork s c k t).stop = none ∧ (startWork s c k t).want = [] ∧
      (startWork s c k t).outs = [] ∧ (startWork s c k t).census = 0 := by
  unfold startWork
  dsimp only
  split <;> exact ⟨rfl, rfl, rfl, rfl, rfl, rfl⟩

@[simp] theorem startWork_s : (startWork s c k t).s = s := (startWork_fields s c k t).1
@[simp] theorem startWork_t : (startWork s c k t).t = t := (startWork_fields s c k t).2.1
@[simp] theorem startWork_stop : (startWork s c k t).stop = none := (startWork_fields s c k t).2.2.1
@[simp] theorem startWork_want : (startWork s c k t).want = [] := (startWork_fields s c k t).2.2.2.1
@[simp] theorem startWork_outs : (startWork s c k t).outs = [] := (startWork_fields s c k t).2.2.2.2.1
@[simp] theorem startWork_census : (startWork s c k t).census = 0 := (startWork_fields s c k t).2.2.2.2.2

/-- Every task but a COPY works on its compute region. -/
theorem startWork_got (h : t.op ≠ some .copy) : (startWork s c k t).got = (getSlot s c k).got := by
  unfold startWork
  dsimp only
  rw [if_neg (by simpa using h)]

end

section
variable {w : Work} {x : Xfer} {a n : Nat}

theorem halted_eq_false (stop : w.stop = none) (want : w.want = []) : w.halted = false := by
  unfold Work.halted
  simp [stop, want]

/-- A block that is all there is not fetched. -/
theorem fetchBlock_there (allowed : rangeOk w.s w.t.ctx .read x.addr x.extent = true)
    (there : x.bytes = 0 ∨ ∀ r ∈ x.ranges, covered w.got r.1 r.2 = true) : w.fetchBlock x = w := by
  unfold Work.fetchBlock
  rw [allowed]
  split
  · rfl
  · rw [if_neg (by simp)]
    refine if_pos ?_
    rcases there with none | all
    · simp [none]
    · simpa using .inr fun a b h => all (a, b) h

/-- A range is one row. -/
theorem extent_range (a n : Nat) : ({ addr := a, len := n } : Xfer).extent = n := by
  unfold Xfer.extent Xfer.bytes
  dsimp only
  split <;> omega

theorem bytes_range (a n : Nat) : ({ addr := a, len := n } : Xfer).bytes = n := Nat.one_mul n

theorem ranges_range (a n : Nat) : ({ addr := a, len := n } : Xfer).ranges = [(a, n)] := by simp [Xfer.ranges]

theorem fetch_there (allowed : rangeOk w.s w.t.ctx .read a n = true) (there : n = 0 ∨ covered w.got a n = true) : w.fetch a n = w := by
  refine fetchBlock_there (x := { addr := a, len := n }) (by rw [extent_range]; exact allowed) ?_
  rw [bytes_range, ranges_range]
  simpa using there

/-- A range that is not all there is fetched. -/
theorem fetch_missing (going : w.stop = none) (allowed : rangeOk w.s w.t.ctx .read a n = true) (some_ : n ≠ 0) (missing : covered w.got a n = false) :
    w.fetch a n = { w with want := w.want ++ [{ addr := a, len := n }] } := by
  unfold Work.fetch Work.fetchBlock
  rw [going, extent_range, allowed, bytes_range, ranges_range]
  simp [some_, missing]

/-- The ranges that a work has not got. -/
def missingOf (w : Work) (l : List (Nat × Nat)) : List (Nat × Nat) := l.filter fun r => r.2 != 0 && !covered w.got r.1 r.2

/-- Ranges that the task may read: those that are not there are fetched, in order. -/
theorem fetchAll_eq (l : List (Nat × Nat)) (w : Work) (going : w.stop = none) (allowed : ∀ r ∈ l, rangeOk w.s w.t.ctx .read r.1 r.2 = true) :
    w.fetchAll l = { w with want := w.want ++ (missingOf w l).map fun r => { addr := r.1, len := r.2 } } := by
  induction l generalizing w with
  | nil => simp [Work.fetchAll, missingOf]
  | cons r l ih =>
    obtain ⟨first, others⟩ := List.forall_mem_cons.mp allowed
    change (w.fetch r.1 r.2).fetchAll l = _
    by_cases there : r.2 = 0 ∨ covered w.got r.1 r.2 = true
    · have skip : missingOf w (r :: l) = missingOf w l := List.filter_cons_of_neg (by simpa [or_iff_not_imp_left] using there)
      rw [fetch_there first there, ih w going others, skip]
    · have none : r.2 ≠ 0 ∧ covered w.got r.1 r.2 = false := by simpa using there
      have counts : missingOf w (r :: l) = r :: missingOf w l := List.filter_cons_of_pos (by simpa using none)
      have next := ih { w with want := w.want ++ [{ addr := r.1, len := r.2 }] } going others
      rw [fetch_missing going first none.1 none.2, next, counts]
      simp [missingOf]

theorem fetchAll_there (l : List (Nat × Nat)) (w : Work)
    (supplied : ∀ r ∈ l, rangeOk w.s w.t.ctx .read r.1 r.2 = true ∧ (r.2 = 0 ∨ covered w.got r.1 r.2 = true)) : w.fetchAll l = w := by
  induction l with
  | nil => rfl
  | cons r l ih =>
    obtain ⟨⟨allowed, there⟩, others⟩ := List.forall_mem_cons.mp supplied
    change (w.fetch r.1 r.2).fetchAll l = w
    rw [fetch_there allowed there, ih others]

/-! Output. -/

theorem andThen_going (f : Work → Work) (h : w.halted = false) : w.andThen f = f w := by
  unfold Work.andThen
  rw [h]
  rfl

theorem andThen_halted (f : Work → Work) (h : w.halted = true) : w.andThen f = w := by
  unfold Work.andThen
  rw [h]
  rfl

theorem storeRows_going (l : List (Nat × List Byte)) (h : w.halted = false) : w.storeRows l = { w with outs := w.outs ++ putOut l } :=
  andThen_going _ h

theorem store_going (a : Nat) (bs : List Byte) (h : w.halted = false) : w.store a bs = { w with outs := w.outs ++ putOut [(a, bs)] } :=
  storeRows_going _ h

/-! The end of an instruction. -/

/-- What it lacks is asked for. -/
theorem finishWork_wants (s : State) (c : CoreNo) (k : SlotNo) (f : CensusFrom) (going : w.stop = none) (lacks : w.want ≠ []) :
    finishWork s w c k f = issueFetches s c k w.want (w.t.op != some .copy) := by
  have some_ : w.want.isEmpty = false := by simpa using lacks
  unfold finishWork
  dsimp only
  rw [going, some_]
  rfl

/-- It has all it needs and is over. -/
theorem finishWork_over (s : State) (c : CoreNo) (k : SlotNo) (f : CensusFrom) (going : w.stop = none) (has : w.want = []) :
    finishWork s w c k f = endTask (countCensus w.s c k f w.census) c k stOk 0 w.outs (w.t.op != some .copy) := by
  unfold finishWork
  dsimp only
  rw [going, has]
  rfl

theorem countCensus_zero (s : State) (c : CoreNo) (k : SlotNo) (f : CensusFrom) : countCensus s c k f 0 = s := rfl

end

end Sys2Proof.Proofs.Works

/-!
SUPPORT. How transfers are cut into pieces of up to 4 MiB and packets of up to 4 KiB (R92, R142, log 63).
-/
namespace Sys2Proof.Proofs.Cuts
open Sys2Proof Sys2Proof.Machine Sys2Proof.Proofs.Works

/-! Pieces. -/

/-- A piece of a range lies in it. -/
theorem mem_rangePieces {a n : Nat} {r : Nat × Nat} (h : r ∈ rangePieces a n) : a ≤ r.1 ∧ r.1 + r.2 ≤ a + n := by
  obtain ⟨i, hi, rfl⟩ := List.mem_map.mp h
  have := List.mem_range.mp hi
  dsimp only
  omega

/-- A range of no more than 4 MiB is one piece. -/
theorem rangePieces_single {a n : Nat} (some_ : n ≠ 0) (small : n ≤ 2 ^ 22) : rangePieces a n = [(a, n)] := by
  have one : (n + 2 ^ 22 - 1) / 2 ^ 22 = 1 := by omega
  unfold rangePieces
  rw [one, List.range_one, List.map_singleton, Nat.zero_mul, Nat.add_zero, Nat.sub_zero, Nat.min_eq_right small]

theorem rangePieces_ne_nil {a n : Nat} (some_ : n ≠ 0) : rangePieces a n ≠ [] := by
  unfold rangePieces
  rw [ne_eq, List.map_eq_nil_iff, List.range_eq_nil]
  omega

/-- The pieces of a block of one small range: itself. -/
theorem pieces_range {a n : Nat} (some_ : n ≠ 0) (small : n ≤ 2 ^ 22) : ({ addr := a, len := n } : Xfer).pieces = [{ addr := a, len := n }] := by
  have whole : 0 < 2 ^ 22 / n := Nat.div_pos small (Nat.pos_of_ne_zero some_)
  have rows : (1 + 2 ^ 22 / n - 1) / (2 ^ 22 / n) = 1 := by rw [Nat.add_sub_cancel_left, Nat.div_self whole]
  unfold Xfer.pieces
  rw [bytes_range, if_neg some_, if_neg (Nat.not_lt.mpr small)]
  dsimp only
  rw [rows, List.range_one, List.map_singleton, Nat.zero_mul, Nat.zero_mul, Nat.add_zero, Nat.sub_zero, Nat.min_eq_right whole]

/-- One row cut to the pieces of its range. -/
def cutRow (e : Nat × List Byte) : List (Nat × List Byte) :=
  (rangePieces e.1 e.2.length).map fun r => (r.1, (e.2.drop (r.1 - e.1)).take r.2)

/-- Whole transfers and the one being filled, with another row. -/
def fillPiece (acc : List (List (Nat × List Byte)) × List (Nat × List Byte)) (e : Nat × List Byte) :
    List (List (Nat × List Byte)) × List (Nat × List Byte) :=
  if partsBytes acc.2 + e.2.length ≤ 2 ^ 22 then (acc.1, acc.2 ++ [e]) else (acc.1 ++ [acc.2], [e])

theorem storePieces_eq (l : List (Nat × List Byte)) :
    storePieces l = ((((l.flatMap cutRow).foldl fillPiece ([], [])).1 ++ [((l.flatMap cutRow).foldl fillPiece ([], [])).2]).filter fun p => !p.isEmpty) := rfl

/-- What the transfers hold is what was cut. -/
theorem mem_storePieces {l : List (Nat × List Byte)} {p : List (Nat × List Byte)} {e : Nat × List Byte} (hp : p ∈ storePieces l) (he : e ∈ p) :
    e ∈ l.flatMap cutRow := by
  rw [storePieces_eq] at hp
  generalize l.flatMap cutRow = cut at hp ⊢
  have held := foldl_keeps (fun acc : List (List (Nat × List Byte)) × List (Nat × List Byte) => ∀ q ∈ acc.1 ++ [acc.2], ∀ x ∈ q, x ∈ cut) fillPiece cut
    ([], []) (by simp) fun acc y hy ih => by
      have first (q) (hq : q ∈ acc.1) : ∀ x ∈ q, x ∈ cut := ih q (List.mem_append_left _ hq)
      have last : ∀ x ∈ acc.2, x ∈ cut := ih acc.2 (by simp)
      unfold fillPiece
      split
      · intro q hq x hx
        rcases List.mem_append.mp hq with h | h
        · exact first q h x hx
        · rw [List.mem_singleton.mp h] at hx
          rcases List.mem_append.mp hx with h | h
          · exact last x h
          · rw [List.mem_singleton.mp h]; exact hy
      · intro q hq x hx
        rcases List.mem_append.mp hq with h | h
        · rcases List.mem_append.mp h with h | h
          · exact first q h x hx
          · rw [List.mem_singleton.mp h] at hx; exact last x hx
        · rw [List.mem_singleton.mp h] at hx
          rw [List.mem_singleton.mp hx]
          exact hy
  exact held p (List.mem_filter.mp hp).1 e he

/-- The bytes of one row lie within it in every transfer. -/
theorem storePieces_within {a : Nat} {bs : List Byte} {p : List (Nat × List Byte)} {e : Nat × List Byte} (hp : p ∈ storePieces [(a, bs)]) (he : e ∈ p) :
    a ≤ e.1 ∧ e.1 + e.2.length ≤ a + bs.length := by
  have cut := mem_storePieces hp he
  rw [List.flatMap_singleton] at cut
  obtain ⟨r, hr, rfl⟩ := List.mem_map.mp cut
  have inside := mem_rangePieces hr
  have short : ((bs.drop (r.1 - a)).take r.2).length ≤ r.2 := List.length_take_le _ _
  dsimp only at inside ⊢
  omega

/-- A row with bytes is stored in some transfer. -/
theorem storePieces_ne_nil {a : Nat} {bs : List Byte} (some_ : bs ≠ []) : storePieces [(a, bs)] ≠ [] := by
  have long : bs.length ≠ 0 := fun h => some_ (List.eq_nil_of_length_eq_zero h)
  have cut : cutRow (a, bs) ≠ [] := by
    unfold cutRow
    simpa using rangePieces_ne_nil long
  have fills (l : List (Nat × List Byte)) (acc) (h : acc.2 ≠ [] ∨ l ≠ []) : (l.foldl fillPiece acc).2 ≠ [] := by
    induction l generalizing acc with
    | nil => exact h.resolve_right fun e => e rfl
    | cons x l ih =>
      refine ih _ (.inl ?_)
      unfold fillPiece
      split
      · simp
      · simp
  have last := fills (cutRow (a, bs)) ([], []) (.inr cut)
  rw [storePieces_eq, List.flatMap_singleton]
  intro none
  rw [List.filter_eq_nil_iff] at none
  have := none _ (List.mem_append_right _ (List.mem_singleton.mpr rfl))
  simp [last] at this

/-- A row of no more than 4 MiB is one transfer. -/
theorem storePieces_single {a : Nat} {bs : List Byte} (some_ : bs ≠ []) (small : bs.length ≤ 2 ^ 22) : storePieces [(a, bs)] = [[(a, bs)]] := by
  have long : bs.length ≠ 0 := fun h => some_ (List.eq_nil_of_length_eq_zero h)
  have cut : cutRow (a, bs) = [(a, bs)] := by
    unfold cutRow
    rw [rangePieces_single long small]
    simp
  have fills : fillPiece ([], []) (a, bs) = ([], [(a, bs)]) := if_pos (by simpa [partsBytes] using small)
  rw [storePieces_eq, List.flatMap_singleton, cut, List.foldl_cons, List.foldl_nil, fills]
  rfl

/-! Packets. -/

/-- A packet's payload lies in its range, in one block of 4 KiB. -/
theorem mem_packetCuts {a n : Nat} {r : Nat × Nat} (h : r ∈ packetCuts a n) : a ≤ r.1 ∧ r.1 < a + n ∧ r.2 ≤ 4096 := by
  unfold packetCuts at h
  split at h
  · cases h
  · obtain ⟨i, hi, rfl⟩ := List.mem_map.mp h
    have := List.mem_range.mp hi
    dsimp only
    omega

theorem transferCuts_single (a n : Nat) : transferCuts [(a, n)] = (packetCuts a n).map fun e => (e.1, e.2, e.1 - a) := by simp [transferCuts]

/-- A write request of one row: what it carries lies as far from the row's first byte as its address. -/
theorem mem_storePackets {c : CoreNo} {t : Task} {tag a : Nat} {bs : List Byte} {p : Packet} (h : p ∈ storePackets c t tag [(a, bs)])
    (top : a + bs.length ≤ 2 ^ 56) :
    p.typ = 1 ∧ p.payload.length ≤ 4096 ∧ a ≤ p.addr.toNat ∧
      ∀ i, i < p.payload.length → p.addr.toNat - a + i < bs.length ∧ p.payload.getD i 0 = bs.getD (p.addr.toNat - a + i) 0 := by
  unfold storePackets at h
  simp only [List.map_cons, List.map_nil, List.flatMap_singleton, transferCuts_single] at h
  obtain ⟨⟨e, i⟩, he, rfl⟩ := List.mem_map.mp h
  obtain ⟨r, hr, eq⟩ := List.mem_map.mp (List.fst_mem_of_mem_zipIdx he)
  dsimp only at eq
  subst eq
  obtain ⟨low, high, short⟩ := mem_packetCuts hr
  have addr : (BitVec.ofNat 56 r.1).toNat = r.1 := by
    rw [BitVec.toNat_ofNat]
    exact Nat.mod_eq_of_lt (by omega)
  have payload : ((bs.drop (r.1 - a)).take r.2).length ≤ r.2 := List.length_take_le _ _
  refine ⟨rfl, payload.trans short, ?_, fun i hi => ?_⟩
  · change a ≤ (BitVec.ofNat 56 r.1).toNat
    rw [addr]
    exact low
  · change (BitVec.ofNat 56 r.1).toNat - a + i < bs.length ∧ ((bs.drop (r.1 - a)).take r.2).getD i 0 = bs.getD ((BitVec.ofNat 56 r.1).toNat - a + i) 0
    change i < ((bs.drop (r.1 - a)).take r.2).length at hi
    rw [List.length_take, List.length_drop] at hi
    rw [addr]
    refine ⟨by omega, ?_⟩
    simp only [List.getD_eq_getElem?_getD]
    rw [List.getElem?_take_of_lt (by omega), List.getElem?_drop]

end Sys2Proof.Proofs.Cuts

/-!
SUPPORT. COPY (R318): its bytes leave from the transfer region.
-/
namespace Sys2Proof.Proofs.Copies
open Sys2Proof Sys2Proof.Machine Sys2Proof.Proofs.Outcomes Sys2Proof.Proofs.Sequencer Sys2Proof.Proofs.Engines Sys2Proof.Proofs.SlotRequests
  Sys2Proof.Proofs.Transfers Sys2Proof.Proofs.Works Sys2Proof.Proofs.Cuts

/-! An output of transfers alone. -/

/-- A slot without its tags and what it has still to store. -/
def besideOuts (x : Slot) : Slot := { tagless x with outs := [] }

/-- From s to u slot k of core n has stored some of its output. -/
structure Storing (n : CoreNo) (k : SlotNo) (s u : State) : Prop where
  rest : { u with cores := s.cores, packets := s.packets } = s
  others : ∀ m, m ≠ n → getCore u m = getCore s m
  slot : besideOuts (getSlot u n k) = besideOuts (getSlot s n k)
  stores : (getSlot s n k).storeTags <+: (getSlot u n k).storeTags
  owner : (getCore u n).current = (getCore s n).current

section
variable {n : CoreNo} {k : SlotNo} {s v u : State} {t : Task}

theorem Storing.trans (h : Storing n k s v) (g : Storing n k v u) : Storing n k s u :=
  ⟨rest_trans h.rest g.rest, fun m hm => (g.others m hm).trans (h.others m hm), g.slot.trans h.slot, h.stores.trans g.stores, g.owner.trans h.owner⟩

theorem storing_of_granted (h : Granted n s u) : Storing n k s u :=
  ⟨h.rest, h.others, congrArg (fun x : Slot => { x with outs := [] }) (h.slots k), h.stores k, h.owner⟩

theorem storing_storeAsked (s : State) (n : CoreNo) (k : SlotNo) (p : List (Nat × List Byte)) (rest : List Out) :
    Storing n k s (storeAsked s n k p rest) := by
  have slot := getSlot_storeAsked s n k p rest
  exact ⟨rfl, fun m hm => getCore_other _ _ hm, by rw [slot]; rfl, by rw [slot], (congrArg Core.current (getCore_storeAsked s n k p rest) :)⟩

/-- Transfers that the task may write go on their way. -/
theorem storing_requestStores (fuel : Nat) (ps : List (List (Nat × List Byte))) (s : State) (task : (getSlot s n k).task = some t)
    (adding : (getSlot s n k).adding = none) (outs : (getSlot s n k).outs = ps.map .store)
    (good : ∀ p ∈ ps, ∀ e ∈ p, rangeOk s t.ctx .write e.1 e.2.length = true) : Storing n k s (requestStores n k fuel s) := by
  induction fuel generalizing s ps with
  | zero => exact storing_of_granted (.refl s)
  | succ fuel ih =>
    cases ps with
    | nil =>
      rw [requestStores_none _ outs]
      exact storing_of_granted (.refl s)
    | cons p ps =>
      obtain ⟨first, others⟩ := List.forall_mem_cons.mp good
      rw [requestStores_store fuel task adding outs first]
      split
      · have granted := granted_grantStores n 6 (storeAsked s n k p (ps.map .store))
        have bare := granted.slots k
        rw [getSlot_storeAsked] at bare
        have step := (storing_storeAsked s n k p (ps.map .store)).trans (storing_of_granted granted)
        refine step.trans (ih ps _ ((congrArg Slot.task bare :).trans task) ((congrArg Slot.adding bare :).trans adding) (congrArg Slot.outs bare :)
          fun q hq e he => ?_)
        rw [rangeOk_of step.rest]
        exact others q hq e he
      · exact storing_of_granted (.refl s)

/-- With the engine free the first transfer at least is under way. -/
theorem storing_drainSlot {p : List (Nat × List Byte)} {ps : List (List (Nat × List Byte))} {tag : Nat} {more : List Nat}
    (ready : (getSlot s n k).outsReady = true) (task : (getSlot s n k).task = some t) (adding : (getSlot s n k).adding = none)
    (outs : (getSlot s n k).outs = (p :: ps).map .store) (tags : (getSlot s n k).storeTags = []) (queue : (getCore s n).storeQueue = [])
    (free : freeTags (storeInUse (getCore s n)) = tag :: more) (stands : resettingCore s n = false)
    (good : ∀ q ∈ p :: ps, ∀ e ∈ q, rangeOk s t.ctx .write e.1 e.2.length = true) :
    Storing n k s (drainSlot s n k) ∧ (getSlot (drainSlot s n k) n k).storeTags ≠ [] := by
  obtain ⟨first, others⟩ := List.forall_mem_cons.mp good
  have left := storeLeft_of_store (p := p) (rest := ps.map .store) task queue free stands
  have step : Storing n k s (grantStores n 6 (storeAsked s n k p (ps.map .store))) :=
    (storing_storeAsked s n k p _).trans (storing_of_granted (granted_grantStores n 6 _))
  rw [drainSlot_ready ready stands, requestStores_store _ task adding outs first, if_pos (by simp [tags, queue])]
  generalize grantStores n 6 (storeAsked s n k p (ps.map .store)) = v at left step
  have later := storing_requestStores (t := t) (getSlot s n k).outs.length ps v (by rw [left.slot]; exact task) (by rw [left.slot]; exact adding)
    (by rw [left.slot]) fun q hq e he => by rw [rangeOk_of step.rest]; exact others q hq e he
  refine ⟨step.trans later, fun none => ?_⟩
  have kept := later.stores
  rw [none, left.slot] at kept
  simp at kept

/-- A slot whose task is over with its output in the transfer region. -/
def overStored (x : Slot) (st : BitVec 8) (outs : List Out) : Slot :=
  { x with outs := outs, ended := true, status := st, detail := 0, swapPending := false, outsReady := true, state := .late }

/-- The state in which a task that needs no swap begins to store its output. -/
theorem endTask_unswapped (st : BitVec 8) {outs : List Out} (some_ : outs ≠ []) :
    ∃ v, endTask s n k st 0 outs false = settleSlot (drainSlot v n k) n k ∧ { v with cores := s.cores } = s ∧ (∀ m, m ≠ n → getCore v m = getCore s m) ∧
      getCore v n = retired (getCore s n) k (overStored (getSlot s n k) st outs) := by
  have more : outs.isEmpty = false := by simpa using some_
  refine ⟨setCore (setSlot s n k (overStored (getSlot s n k) st outs)) n (retired (getCore s n) k (overStored (getSlot s n k) st outs)), ?_, rfl,
    fun m hm => (getCore_other _ _ hm).trans (getCore_other _ _ hm), getCore_same ..⟩
  unfold endTask
  dsimp only
  rw [more, retired, ← getCore_setSlot]
  rfl

/-- A task that is over with transfers to store, from a free engine: it waits for them. -/
theorem endTask_stores {st : BitVec 8} {p : List (Nat × List Byte)} {ps : List (List (Nat × List Byte))} {tag : Nat} {more : List Nat}
    (task : (getSlot s n k).task = some t) (adding : (getSlot s n k).adding = none) (tags : (getSlot s n k).storeTags = [])
    (queue : (getCore s n).storeQueue = []) (free : freeTags (storeInUse (getCore s n)) = tag :: more) (stands : resettingCore s n = false)
    (good : ∀ q ∈ p :: ps, ∀ e ∈ q, rangeOk s t.ctx .write e.1 e.2.length = true) :
    ∃ u, endTask s n k st 0 ((p :: ps).map .store) false = u ∧ (getSlot u n k).ended = true ∧ (getSlot u n k).status = st ∧
      (getCore u n).current ≠ some k ∧ { u with cores := s.cores, packets := s.packets } = s ∧ (∀ m, m ≠ n → getCore u m = getCore s m) ∧
      (ps = [] → u.packets = s.packets ++ storePackets n t tag p) := by
  obtain ⟨v, eq, rest, others, core⟩ := endTask_unswapped (s := s) (n := n) (k := k) st (outs := (p :: ps).map .store) (by simp)
  have slot : getSlot v n k = overStored (getSlot s n k) st ((p :: ps).map .store) := by
    rw [getSlot_eq_coreSlot, core]
    exact coreSlot_retired _ _ _ rfl
  have whole := rest_of_cores rest
  have vFree : freeTags (storeInUse (getCore v n)) = tag :: more := by
    rw [core, freeTags_retired (x := overStored (getSlot s n k) st ((p :: ps).map .store)) (t := t) task rfl]
    exact free
  have vQueue : (getCore v n).storeQueue = [] := by
    rw [core, storeQueue_retired]
    exact queue
  have vGood (q) (hq : q ∈ p :: ps) (e) (he : e ∈ q) : rangeOk v t.ctx .write e.1 e.2.length = true := by
    rw [rangeOk_of whole]
    exact good q hq e he
  have vStands : resettingCore v n = false := (resettingCore_of whole n).trans stands
  obtain ⟨storing, under⟩ := storing_drainSlot (t := t) (by rw [slot]; rfl) (by rw [slot]; exact task) (by rw [slot]; exact adding) (by rw [slot]; rfl)
    (by rw [slot]; exact tags) vQueue vFree vStands vGood
  rw [settleSlot_waits (storesOut_of_tags under)] at eq
  have bare := storing.slot
  rw [slot] at bare
  refine ⟨_, eq, (congrArg Slot.ended bare :), (congrArg Slot.status bare :), ?_, rest_trans whole storing.rest,
    fun m hm => (storing.others m hm).trans (others m hm), fun single => ?_⟩
  · rw [storing.owner, core]
    exact current_retired _ k _ rfl
  · subst single
    have sent := drainSlot_single (p := p) (t := t) (by rw [slot]; rfl) (by rw [slot]; exact task) (by rw [slot]; exact adding) (by rw [slot]; rfl)
      (by rw [slot]; exact tags) vQueue vFree vStands (vGood p (List.mem_singleton.mpr rfl))
    have packets : v.packets = s.packets := (congrArg State.packets rest :)
    rw [sent.packets, packets]

end

/-! The row. -/

section
variable {s : State} {c : CoreNo} {k : SlotNo} {t : Task}

/-- The bytes of a COPY's source in the transfer region. -/
def copyData (s : State) (c : CoreNo) (k : SlotNo) (t : Task) : List Byte :=
  (List.range (cpBytes t)).map fun i => tget 0 (getSlot s c k).transfer (cpSrc t + i)

theorem length_copyData : (copyData s c k t).length = cpBytes t := by simp [copyData]

/-- A COPY works on its transfer region. -/
theorem startWork_copy (h : t.op = some .copy) :
    startWork s c k t = { s := s, tile := coreTile c, t := t, mem := (getSlot s c k).transfer, got := (getSlot s c k).landed } := by
  unfold startWork
  dsimp only
  rw [if_pos (by simp [h])]

theorem copyWork_eq (op : t.op = some .copy) (allowed : rangeOk s t.ctx .read (cpSrc t) (cpBytes t) = true)
    (landed : covered (getSlot s c k).landed (cpSrc t) (cpBytes t) = true) :
    copyWork c k s t = endTask s c k stOk 0 (putOut [(cpDst t, copyData s c k t)]) false := by
  have there : (startWork s c k t).fetch (cpSrc t) (cpBytes t) = startWork s c k t :=
    fetch_there (by simpa using allowed) (.inr (by rw [startWork_copy op]; exact landed))
  have going : (startWork s c k t).halted = false := halted_eq_false startWork_stop startWork_want
  have data : memBytes (startWork s c k t).view (cpSrc t) (cpBytes t) = copyData s c k t := by rw [startWork_copy op]; rfl
  unfold copyWork copyRun
  rw [there, andThen_going _ going, store_going _ _ going, data]
  refine (finishWork_over _ _ _ _ ?_ ?_).trans ?_
  · exact startWork_stop
  · exact startWork_want
  dsimp only
  rw [startWork_s, startWork_t, startWork_census, startWork_outs, countCensus_zero, op, List.nil_append, bne_self_eq_false]

end

/-- Settles O22: with its source landed a COPY is over, and what it puts out is the source's bytes at the destination. -/
theorem copyMovesBytes : Obligations.CopyMovesBytes := by
  unfold Obligations.CopyMovesBytes
  intro s c k t tag more running some_ top allowed landed writes adding tags queue free
  obtain ⟨task, op, -, -, -, stands, -⟩ := running_of_runningTask running
  have bytes : copyData s c k t ≠ [] := fun none => by
    have := congrArg List.length none
    rw [length_copyData] at this
    exact absurd this (by simpa using Nat.ne_of_gt some_)
  obtain ⟨p, ps, pieces⟩ := List.exists_cons_of_ne_nil (storePieces_ne_nil (a := cpDst t) bytes)
  have good (q) (hq : q ∈ p :: ps) (e) (he : e ∈ q) : rangeOk s t.ctx .write e.1 e.2.length = true := by
    obtain ⟨low, high⟩ := storePieces_within (pieces ▸ hq) he
    rw [length_copyData] at high
    exact writes e.1 e.2.length low high
  obtain ⟨u, eq, ended, status, left, rest, others, packets⟩ := endTask_stores (st := stOk) task adding tags queue free stands good
  have run : exec (.copy c k) s = finish s u := by
    rw [← eq, ← pieces]
    exact congrArg (finish s) ((runTask_running running _).trans (copyWork_eq op allowed landed))
  refine ⟨u, run.trans (finish_of_work (congrArg besideWork rest :)), ended, status, left, rest, others, fun small => ?_⟩
  change u.packets = s.packets ++ storePackets c t tag [(cpDst t, copyData s c k t)] ∧ ∀ p ∈ storePackets c t tag [(cpDst t, copyData s c k t)], _
  have single := storePieces_single (a := cpDst t) bytes (by rw [length_copyData]; exact small)
  obtain ⟨rfl, rfl⟩ := List.cons.inj (pieces.symm.trans single)
  refine ⟨packets rfl, fun x hx => ?_⟩
  obtain ⟨typ, short, low, carries⟩ := mem_storePackets hx (by rw [length_copyData]; exact top)
  refine ⟨typ, short, low, fun i hi => ?_⟩
  obtain ⟨inside, byte⟩ := carries i hi
  rw [length_copyData] at inside
  rw [byte, Nat.add_assoc, copyData, List.getD_eq_getElem?_getD, List.getElem?_map, List.getElem?_range inside]
  rfl

end Sys2Proof.Proofs.Copies

/-!
SUPPORT. What a task lacks is asked for before it works (R88 to R92).
-/
namespace Sys2Proof.Proofs.Operands
open Sys2Proof Sys2Proof.Machine Sys2Proof.Proofs.Outcomes Sys2Proof.Proofs.Sequencer Sys2Proof.Proofs.Engines Sys2Proof.Proofs.SlotRequests
  Sys2Proof.Proofs.Transfers Sys2Proof.Proofs.Works Sys2Proof.Proofs.Cuts

/-! The rows. -/

section
variable {s : State} {c : CoreNo} {k : SlotNo} {t : Task} {op : Op} {l : List (Nat × Nat)}

/-- The transfers of ranges. -/
def rangeXfers (l : List (Nat × Nat)) : List Xfer := l.map fun r => { addr := r.1, len := r.2 }

/-- A slot that asks for the ranges of a list that it lacks. -/
def asks (s : State) (c : CoreNo) (k : SlotNo) (t : Task) (op : Op) (l : List (Nat × Nat)) : State :=
  issueFetches s c k (rangeXfers (missingOf (startWork s c k t) l)) (op != .copy)

/-- The work of a task that has fetched the ranges of a list. -/
def fetched (s : State) (c : CoreNo) (k : SlotNo) (t : Task) (l : List (Nat × Nat)) : Work := (startWork s c k t).fetchAll l

section
variable (allowed : ∀ r ∈ l, rangeOk s t.ctx .read r.1 r.2 = true) (lacks : missingOf (startWork s c k t) l ≠ [])
include allowed

theorem fetched_eq : fetched s c k t l = { startWork s c k t with want := rangeXfers (missingOf (startWork s c k t) l) } := by
  unfold fetched
  rw [fetchAll_eq l _ startWork_stop (by simpa using fun a b => allowed (a, b)), startWork_want]
  rfl

include lacks

theorem fetched_halted : (fetched s c k t l).halted = true := by
  rw [fetched_eq allowed]
  unfold Work.halted rangeXfers
  simp [lacks]

/-- Its instruction ends there, and what it lacks is asked for. -/
theorem finishWork_fetched (code : t.op = some op) (f : CensusFrom) : finishWork s (fetched s c k t l) c k f = asks s c k t op l := by
  have want : (fetched s c k t l).want = rangeXfers (missingOf (startWork s c k t) l) := by rw [fetched_eq allowed]
  have task : (fetched s c k t l).t = t := by rw [fetched_eq allowed]; exact startWork_t
  rw [finishWork_wants s c k f (by rw [fetched_eq allowed]; exact startWork_stop) (by rw [want]; simpa [rangeXfers] using lacks), want, task, code]
  unfold asks
  cases op <;> rfl

/-- What would follow with the ranges there does not. -/
theorem finishWork_andThen (code : t.op = some op) (g : Work → Work) (f : CensusFrom) :
    finishWork s ((fetched s c k t l).andThen g) c k f = asks s c k t op l := by
  rw [andThen_halted _ (fetched_halted allowed lacks)]
  exact finishWork_fetched allowed lacks code f

end

/-- The records of a COMBINE, and its residual or incoming gradient (R207, R208). -/
def combineRecords (s : State) (t : Task) : List (Nat × Nat) :=
  [(coPlace t, 8 * coT t * coK t), (coRoute t, 8 * coT t * coK t)]
    ++ if coT t != 0 && coK t < 8 && rangeOk s t.ctx .read (coRoute t) (min (8 * (8 * coT t)) 64) then [(coRoute t, min (8 * (8 * coT t)) 64)] else []
def combineOther (t : Task) : List (Nat × Nat) :=
  if t.bwd then [(coY t, coT t * coYrow t)] else if coResid t = 0 then [] else [(coResid t, coT t * coYrow t)]

theorem firstReads_combine (s : State) (c : CoreNo) (h : t.op = some .combine) : firstReads s c t = combineRecords s t ++ combineOther t := by
  simp only [firstReads, h]
  rfl

theorem firstReads_dispatch (s : State) (c : CoreNo) (h : t.op = some .dispatch) (forward : t.bwd = false) : firstReads s c t =
    [(diRoute t, 8 * (diT t * (diK t + diKalt t))), (diSrc t, diT t * diRow t)].filter fun r => rangeOk s t.ctx .read r.1 r.2 := by
  simp only [firstReads, h, forward, Bool.false_eq_true, if_false]

/-- What a COMBINE begins with. -/
theorem combineStart_eq (s : State) (c : CoreNo) (k : SlotNo) (t : Task) : combineStart c k s t =
    ((fetched s c k t (combineRecords s t)).andThen fun w => w.fetch (coRoute t) (8 * coT t * coStride w.view t)).fetchAll (combineOther t) := by
  unfold combineStart fetched combineRecords combineOther
  dsimp only
  generalize (coT t != 0 && decide (coK t < 8) && rangeOk s t.ctx .read (coRoute t) (min (8 * (8 * coT t)) 64)) = known
  by_cases none : coResid t = 0
  · rw [if_pos none, if_pos none]
    cases known <;> cases t.bwd <;> rfl
  · rw [if_neg none, if_neg none]
    cases known <;> cases t.bwd <;> rfl

section
variable (code : t.op = some op) (allowed : ∀ r ∈ firstReads s c t, rangeOk s t.ctx .read r.1 r.2 = true)
  (lacks : missingOf (startWork s c k t) (firstReads s c t) ≠ [])
include code allowed lacks

theorem copyWork_asks (h : op = .copy) : copyWork c k s t = asks s c k t op (firstReads s c t) := by
  subst h
  have reads : firstReads s c t = [(cpSrc t, cpBytes t)] := by simp [firstReads, code]
  rw [reads] at allowed lacks ⊢
  exact finishWork_andThen allowed lacks code _ _

theorem attnStart_asks (h : op = .attn) (unjoined : (getSlot s c k).joined = false) : attnStart t.bwd c k s t = asks s c k t op (firstReads s c t) := by
  subst h
  have reads : firstReads s c t = attnReads t := by simp [firstReads, code]
  rw [reads] at allowed lacks ⊢
  have halted : ((startWork s c k t).fetchAll (attnReads t)).halted = true := fetched_halted allowed lacks
  unfold attnStart
  simp only [unjoined, bne_self_eq_false, Bool.not_false, Bool.false_eq_true, if_false, if_true, halted]
  exact finishWork_fetched allowed lacks code _

theorem routeWork_asks (h : op = .route) (forward : t.bwd = false) : routeWork c k s t = asks s c k t op (firstReads s c t) := by
  subst h
  have reads : routeRun c k s t = (fetched s c k t (firstReads s c t)).andThen fun w =>
      let w := { w with census := if roCensus t then nonFinites ((routeTokens w.view t).map Prod.snd).flatten else 0 }
      w.store (roOut t) (routeBytes w.view t) := by
    unfold routeRun fetched
    simp only [firstReads, code, forward, Bool.false_eq_true, if_false]
    split <;> rfl
  unfold routeWork
  rw [forward, if_neg Bool.false_ne_true, reads]
  exact finishWork_andThen allowed lacks code _ _

theorem routeBwdWork_asks (h : op = .route) (backward : t.bwd = true) : routeBwdWork c k s t = asks s c k t op (firstReads s c t) := by
  subst h
  have reads : firstReads s c t = [(roZ t, 4 * roT t * roE t), (roOut t, 8 * roT t * roStride t), (roDw t, 4 * roT t * roK t)] := by
    simp [firstReads, code, backward]
  rw [reads] at allowed lacks ⊢
  unfold routeBwdWork
  rw [backward, Bool.not_true, if_neg Bool.false_ne_true]
  exact finishWork_andThen allowed lacks code _ _

theorem dispatchJoin_asks (h : op = .dispatch) (forward : t.bwd = false) (unjoined : (getSlot s c k).joined = false) (right : summaryWrong s c t = false) :
    dispatchJoin c k s t = asks s c k t op (firstReads s c t) := by
  subst h
  rw [firstReads_dispatch s c code forward] at allowed lacks ⊢
  have halted := fetched_halted allowed lacks
  unfold fetched at halted
  unfold dispatchJoin
  simp only [forward, unjoined, right, Bool.or_self, Bool.false_eq_true, if_false, halted, if_true]
  exact finishWork_fetched allowed lacks code _

theorem dispatchBwdWork_asks (h : op = .dispatch) (backward : t.bwd = true) : dispatchBwdWork c k s t = asks s c k t op (firstReads s c t) := by
  subst h
  have reads : firstReads s c t = [(diPlace t, 8 * diT t * diK t)] := by simp [firstReads, code, backward]
  rw [reads] at allowed lacks ⊢
  unfold dispatchBwdWork
  rw [backward, Bool.not_true, if_neg Bool.false_ne_true]
  exact finishWork_andThen allowed lacks code _ _

theorem rotateStart_asks (h : op = .rotate) (unjoined : (getSlot s c k).joined = false) : rotateStart c k s t = asks s c k t op (firstReads s c t) := by
  subst h
  have reads : firstReads s c t = rotateReads c t (collCores s t).length := by simp [firstReads, code]
  rw [reads] at allowed lacks ⊢
  have halted : ((startWork s c k t).fetchAll (rotateReads c t (collCores s t).length)).halted = true := fetched_halted allowed lacks
  unfold rotateStart
  simp only [unjoined, Bool.not_false, if_true, halted]
  exact finishWork_fetched allowed lacks code _

omit lacks in
/-- A COMBINE that lacks its placement records cannot know its stride, and asks for all else that it reads first. -/
theorem combineStart_asks (h : op = .combine) (unplaced : 8 * coT t * coK t ≠ 0 ∧ covered (startWork s c k t).got (coPlace t) (8 * coT t * coK t) = false) :
    combineStart c k s t = fetched s c k t (firstReads s c t) := by
  subst h
  rw [firstReads_combine s c code] at allowed ⊢
  have lacking : missingOf (startWork s c k t) (combineRecords s t) ≠ [] := by
    refine List.ne_nil_of_mem (a := (coPlace t, 8 * coT t * coK t)) (List.mem_filter.mpr ⟨by simp [combineRecords], ?_⟩)
    simpa using unplaced
  rw [combineStart_eq, andThen_halted _ (fetched_halted (fun r hr => allowed r (List.mem_append_left _ hr)) lacking)]
  exact List.foldl_append.symm

theorem combineWork_asks (h : op = .combine)
    (unplaced : 8 * coT t * coK t ≠ 0 ∧ covered (startWork s c k t).got (coPlace t) (8 * coT t * coK t) = false) (forward : t.bwd = false) :
    combineWork c k s t = asks s c k t op (firstReads s c t) := by
  unfold combineWork combineRun
  rw [combineStart_asks code allowed h unplaced, if_neg (by simp [forward])]
  exact finishWork_andThen allowed lacks code _ _

theorem combineBwdWork_asks (h : op = .combine)
    (unplaced : 8 * coT t * coK t ≠ 0 ∧ covered (startWork s c k t).got (coPlace t) (8 * coT t * coK t) = false) (backward : t.bwd = true) :
    combineBwdWork c k s t = asks s c k t op (firstReads s c t) := by
  unfold combineBwdWork combineBwdRun
  rw [combineStart_asks code allowed h unplaced, if_neg (by simp [backward])]
  exact finishWork_andThen allowed lacks code _ _

end
end

/-! One transfer from a free engine (R92). -/

section
variable {s : State} {n : CoreNo} {k : SlotNo} {t : Task}

/-- Fetch tags stay in use where a slot keeps them. -/
theorem mem_fetchInUse_of_kept {d : Core} {v : Slot} (hv : v ≠ {}) (same : v.fetchTags = (coreSlot d k).fetchTags) (m : Nat) :
    m ∈ fetchInUse (putSlot d k v) ↔ m ∈ fetchInUse d := by
  rw [mem_fetchInUse_putSlot d k v hv (fun f hf => by rwa [same])]
  refine ⟨fun h => h.elim id fun h => ?_, .inl⟩
  rw [same] at h
  obtain ⟨f, hf, rfl⟩ := List.mem_map.mp h
  have listed := mem_of_tget_ne ({} : Slot) d.slots k.val fun e => by
    have : coreSlot d k = {} := e
    rw [this] at hf
    cases hf
  exact List.mem_append_left _ (List.mem_flatMap.mpr ⟨_, listed, List.mem_map_of_mem hf⟩)

/-- With nothing else asked for, a slot's one transfer gets the lowest free tag. -/
theorem requestFetches_single {x : Xfer} {tag : Nat} {more : List Nat} (task : (getSlot s n k).task = some t) (tags : (getSlot s n k).fetchTags = [])
    (fetch : (getSlot s n k).toFetch = [x]) (queue : (getCore s n).fetchQueue = []) (free : freeTags (fetchInUse (getCore s n)) = tag :: more)
    (stands : resettingCore s n = false) :
    ∃ u, requestFetches s n k = u ∧ u.packets = s.packets ++ fetchPackets n t tag x ∧
      getSlot u n k = { getSlot s n k with toFetch := [], fetchTags := [newFetch n t tag x] } ∧ { u with cores := s.cores, packets := s.packets } = s ∧
      ∀ m, m ≠ n → getCore u m = getCore s m := by
  generalize hd : ({ putSlot (getCore s n) k { getSlot s n k with toFetch := [] } with fetchQueue := [(k, x)] } : Core) = d
  have asked : requestFetches s n k = grantFetches n 6 (setCore s n d) := by
    rw [requestFetches_all (by rw [tags, fetch, queue]; simp), fetch, queue, ← hd]
    rfl
  have slot : getSlot (setCore s n d) n k = { getSlot s n k with toFetch := [] } := by
    rw [getSlot_setCore_same, ← hd]
    exact coreSlot_putSlot_same ..
  have same : freeTags (fetchInUse (getCore (setCore s n d) n)) = tag :: more := by
    rw [getCore_same, ← hd, ← free]
    exact freeTags_congr fun m => mem_fetchInUse_of_kept (d := getCore s n) (v := { getSlot s n k with toFetch := [] }) (slot_ne_empty task) rfl m
  have single := grantFetches_single (s := setCore s n d) (n := n) (k := k) (x := x) (t := t) 5 (by rw [getCore_same, ← hd]) same
    (by rw [slot]; exact task) stands
  refine ⟨_, asked.trans single, rfl, ?_, rfl, fun m hm => (getCore_other _ _ hm).trans (getCore_other _ _ hm)⟩
  rw [getSlot_eq_coreSlot, getCore_fetchSent, coreSlot_putSlot_same, slot, tags]
  rfl

/-- A slot that asks for one range of up to 4 MiB waits, LATE, with its read requests in the mesh. -/
theorem issueFetches_single {a b tag : Nat} {more : List Nat} (swap : Bool) (task : (getSlot s n k).task = some t) (some_ : b ≠ 0) (small : b ≤ 2 ^ 22)
    (tags : (getSlot s n k).fetchTags = []) (fetch : (getSlot s n k).toFetch = []) (queue : (getCore s n).fetchQueue = [])
    (free : freeTags (fetchInUse (getCore s n)) = tag :: more) (stands : resettingCore s n = false) :
    ∃ u, issueFetches s n k [{ addr := a, len := b }] swap = u ∧ u.packets = s.packets ++ fetchPackets n t tag { addr := a, len := b } ∧
      getSlot u n k = { getSlot s n k with fetchTags := [newFetch n t tag { addr := a, len := b }], swapPending := swap, state := .late } ∧
      { u with cores := s.cores, packets := s.packets } = s ∧ ∀ m, m ≠ n → getCore u m = getCore s m := by
  generalize hx : ({ getSlot s n k with toFetch := [{ addr := a, len := b }], swapPending := swap, state := .late } : Slot) = x
  have asks_ : issueFetches s n k [{ addr := a, len := b }] swap = judgeCore (requestFetches (setSlot s n k x) n k) n := by
    unfold issueFetches
    dsimp only
    rw [fetch, List.nil_append, List.flatMap_singleton, pieces_range some_ small, hx]
  have same : freeTags (fetchInUse (getCore (setSlot s n k x) n)) = tag :: more := by
    rw [getCore_setSlot, ← free]
    exact freeTags_congr fun m => mem_fetchInUse_of_kept (by rw [← hx]; exact slot_ne_empty task) (by rw [← hx]; rfl) m
  obtain ⟨v, eq, packets, slot, rest, others⟩ := requestFetches_single (s := setSlot s n k x) (n := n) (k := k) (t := t) (x := { addr := a, len := b })
    (by rw [getSlot_same, ← hx]; exact task) (by rw [getSlot_same, ← hx]; exact tags) (by rw [getSlot_same, ← hx])
    (by rw [getCore_setSlot]; exact queue) same stands
  rw [getSlot_same, ← hx] at slot
  rw [eq] at asks_
  refine ⟨_, asks_, packets, ?_, rest_trans (t := v) (rest_trans (t := setSlot s n k x) rfl rest) rfl,
    fun m hm => (getCore_other _ _ hm).trans ((others m hm).trans (getCore_other _ _ hm))⟩
  have kept : coreSlot (judge (getCore v n)) k = coreSlot (getCore v n) k := judge_keeps _ _ (by rw [← getSlot_eq_coreSlot, slot])
  refine (getSlot_setCore_same ..).trans (kept.trans ?_)
  rw [← getSlot_eq_coreSlot, slot, ← fetch]

end

/-! The rows, one by one. -/

section
variable {s : State} {c : CoreNo} {k : SlotNo} {t : Task} {op : Op}

theorem exec_work {i : Instr} {work : State → Task → State} (running : runningTask s c k op = some t)
    (row : exec i s = finish s (runTask s c k op work)) : exec i s = finish s (work s t) := by
  rw [row, runTask_running running]

/-- Every row that runs a task other than a GAUNTLET asks for what the task lacks. -/
theorem exec_asks {i : Instr} (row : taskRow i = some (c, k, op)) (running : runningTask s c k op = some t) (other : op ≠ .gauntlet)
    (way : t.bwd = bwdRow i t) (unjoined : (getSlot s c k).joined = false) (right : i = .dispatch c k → summaryWrong s c t = false)
    (allowed : ∀ r ∈ firstReads s c t, rangeOk s t.ctx .read r.1 r.2 = true)
    (unplaced : op = .combine → 8 * coT t * coK t ≠ 0 ∧ covered (startWork s c k t).got (coPlace t) (8 * coT t * coK t) = false)
    (lacks : missingOf (startWork s c k t) (firstReads s c t) ≠ []) : exec i s = .next (asks s c k t op (firstReads s c t)) := by
  have code := (running_of_runningTask running).op
  refine Eq.trans (b := finish s (asks s c k t op (firstReads s c t))) ?_ (finish_of_work (by simp [asks]))
  cases i <;> simp only [taskRow, Option.some.injEq, Prod.mk.injEq, reduceCtorEq] at row
  all_goals
    obtain ⟨rfl, rfl, rfl⟩ := row
  case gauntlet => exact absurd rfl other
  case copy => exact (exec_work running rfl).trans (congrArg (finish s) (copyWork_asks code allowed lacks rfl))
  case attn =>
    have start := attnStart_asks code allowed lacks rfl unjoined
    rw [way] at start
    exact (exec_work running rfl).trans (congrArg (finish s) start)
  case attnBwd =>
    have start := attnStart_asks code allowed lacks rfl unjoined
    rw [way] at start
    exact (exec_work running rfl).trans (congrArg (finish s) start)
  case route => exact (exec_work running rfl).trans (congrArg (finish s) (routeWork_asks code allowed lacks rfl way))
  case routeBwd => exact (exec_work running rfl).trans (congrArg (finish s) (routeBwdWork_asks code allowed lacks rfl way))
  case dispatch => exact (exec_work running rfl).trans (congrArg (finish s) (dispatchJoin_asks code allowed lacks rfl way unjoined (right rfl)))
  case dispatchBwd => exact (exec_work running rfl).trans (congrArg (finish s) (dispatchBwdWork_asks code allowed lacks rfl way))
  case combine => exact (exec_work running rfl).trans (congrArg (finish s) (combineWork_asks code allowed lacks rfl (unplaced rfl) way))
  case combineBwd => exact (exec_work running rfl).trans (congrArg (finish s) (combineBwdWork_asks code allowed lacks rfl (unplaced rfl) way))
  case rotate => exact (exec_work running rfl).trans (congrArg (finish s) (rotateStart_asks code allowed lacks rfl unjoined))

/-- The row of a GAUNTLET whose next K-slice is to be fetched. -/
theorem exec_gauntlet_slice {xs : List Xfer} (running : runningTask s c k .gauntlet = some t) (checked : metaWaits s c k t = false) (direct : gAsrc t ≠ 2)
    (rows : gM t ≠ 0) (whole : hasStage t 5 = false) (ok : (getSlot s c k).status = stOk) (ahead : (getSlot s c k).ahead = false)
    (slice : (gauntletSlices s c t (rowSource (startWork s c k t).view c t))[(getSlot s c k).slice]? = some xs)
    (allowed : ∀ x ∈ xs, rangeOk s t.ctx .read x.addr x.extent = true) (single : t.dbuf = false ∨ (getSlot s c k).slice = 0) :
    exec (.gauntlet c k) s =
      .next (issueFetches (setSlot s c k { getSlot s c k with slice := (getSlot s c k).slice + 1 }) c k xs true) := by
  have there : readDirectory (startWork s c k t) = startWork s c k t := by
    unfold readDirectory
    dsimp only
    rw [startWork_t, if_pos (by simpa using direct)]
  have source : (rowSource (startWork s c k t).view c t).m ≠ 0 := by
    unfold rowSource
    rw [if_pos (by simpa using direct)]
    exact rows
  have header : firstHeader s c k t (rowSource (startWork s c k t).view c t) = s := by
    have none : stageOf t 5 = none := by simpa [hasStage] using whole
    unfold firstHeader
    rw [none]
  have next : nextSlice s c k t xs = issueFetches (setSlot s c k { getSlot s c k with slice := (getSlot s c k).slice + 1 }) c k xs true := by
    have passes : (xs.any fun x => !rangeOk s t.ctx .read x.addr x.extent) = false := by
      rw [List.any_eq_false]
      intro x hx
      simp [allowed x hx]
    have waits : ¬ ((t.dbuf && (getSlot s c k).slice != 0) = true) := by
      rcases single with h | h <;> simp [h]
    unfold nextSlice
    dsimp only
    rw [passes, if_neg Bool.false_ne_true, if_neg waits]
  have work : gauntletWork c k s t = nextSlice s c k t xs := by
    unfold gauntletWork
    dsimp only
    rw [checked, there, halted_eq_false startWork_stop startWork_want, if_neg Bool.false_ne_true, if_neg Bool.false_ne_true, if_neg source, header, ok, ahead,
      if_neg (by simp), if_neg Bool.false_ne_true, slice]
  rw [exec_work running rfl, work, next]
  exact finish_of_work (by simp)

end

/-- Settles O19: the first reads that the operand store lacks are asked for, and nothing else is done. -/
theorem operandsComeFirst : Obligations.OperandsComeFirst := by
  unfold Obligations.OperandsComeFirst
  refine ⟨fun i s c k op t missing row running other way unjoined right allowed unplaced lacking lacks => ?_,
    fun s c k t xs running checked direct rows whole ok ahead slice allowed single =>
      exec_gauntlet_slice running checked direct rows whole ok ahead slice allowed single⟩
  obtain rfl : missing = missingOf (startWork s c k t) (firstReads s c t) := lacking
  have run := exec_asks row running other way unjoined right allowed unplaced lacks
  obtain ⟨task, -, -, -, -, stands, -⟩ := running_of_runningTask running
  refine ⟨run, fun a n tag more one small tags fetch queue free => ?_⟩
  have some_ : n ≠ 0 := by
    have listed : (a, n) ∈ missingOf (startWork s c k t) (firstReads s c t) := by rw [one]; exact List.mem_singleton.mpr rfl
    have := (List.mem_filter.mp listed).2
    simp only [Bool.and_eq_true, bne_iff_ne] at this
    exact this.1
  obtain ⟨u, eq, packets, slot, rest, others⟩ := issueFetches_single (a := a) (op != .copy) task some_ small tags fetch queue free stands
  refine ⟨u, ?_, packets, slot, rest, others⟩
  rw [run, asks, one, ← eq]
  rfl

end Sys2Proof.Proofs.Operands

/-!
SUPPORT. A collective's first member opens it (R111, R198, R215, R217).
-/
namespace Sys2Proof.Proofs.Opening
open Sys2Proof Sys2Proof.Machine Sys2Proof.Proofs.Outcomes Sys2Proof.Proofs.Sequencer Sys2Proof.Proofs.Transfers Sys2Proof.Proofs.Works
  Sys2Proof.Proofs.Operands

section
variable {s : State} {c : CoreNo} {k : SlotNo} {t : Task}

/-- A collective with one member. -/
def openedColl (c : CoreNo) (k : SlotNo) (t : Task) : Coll :=
  { opcode := BitVec.ofNat 8 t.opcode, key := collKey t, first := t, members := [(c, k, t)] }

/-- The state with a task's collective listed. -/
def withColl (s : State) (c : CoreNo) (k : SlotNo) (t : Task) : State :=
  setPart s t.part { getPart s t.part with colls := (getPart s t.part).colls ++ [openedColl c k t] }

/-- Which cores take part follows from the map. -/
theorem collCores_of {u : State} (h : (getPart u t.part).map = (getPart s t.part).map) : collCores u t = collCores s t := by
  unfold collCores
  rw [h]

/-- With others still to come a collective waits. -/
theorem settleColl_waits {u : State} {x : Coll} (h : x.members.length ≠ (collCores u t).length) : settleColl u t x = u := if_neg h

/-- The first of several members. -/
theorem joinColl_opens (corner : isHole s (cornerTile (getPart s t.part)) = false) (fresh : findColl s t = none) (unended : findEnded s t = none)
    (room : (getPart s t.part).colls.length < 256) (several : 1 < (collCores s t).length) : joinColl s c k t = slotWait (withColl s c k t) c k := by
  have map : (getPart (slotWait (withColl s c k t) c k) t.part).map = (getPart s t.part).map := by
    have same : getPart (slotWait (withColl s c k t) c k) t.part = getPart (withColl s c k t) t.part := rfl
    rw [same, withColl, getPart_same]
  have opens : openColl s c k t = settleColl (slotWait (withColl s c k t) c k) t (openedColl c k t) := if_neg (Nat.not_le.mpr room)
  unfold joinColl
  rw [corner, if_neg Bool.false_ne_true, fresh, unended]
  dsimp only
  rw [opens, settleColl_waits]
  rw [collCores_of map]
  exact Nat.ne_of_lt several

/-- A slot that waits for other cores is LATE. -/
theorem getSlot_slotWait (u : State) (c : CoreNo) (k : SlotNo) : getSlot (slotWait u c k) c k = { getSlot u c k with state := .late, joined := true } := by
  have kept := judge_keeps (putSlot (getCore u c) k { getSlot u c k with state := .late, joined := true }) k (by rw [coreSlot_putSlot_same])
  exact (getSlot_setCore_same ..).trans (kept.trans (coreSlot_putSlot_same ..))

/-- The rows that take a task with its operands at hand to its collective. -/
theorem exec_joins {i : Instr} {op : Op} (row : taskRow i = some (c, k, op)) (running : runningTask s c k op = some t)
    (which : i = .attn c k ∧ t.bwd = false ∨ i = .attnBwd c k ∧ t.bwd = true ∨ i = .dispatch c k ∧ t.bwd = false ∧ summaryWrong s c t = false ∨
      i = .rotate c k)
    (supplied : ∀ r ∈ firstReads s c t, Supplied s c k t r.1 r.2) (unjoined : (getSlot s c k).joined = false) :
    exec i s = finish s (joinColl s c k t) := by
  have code := (running_of_runningTask running).op
  have there (l : List (Nat × Nat)) (reads : firstReads s c t = l) (other : op ≠ .copy) :
      ((startWork s c k t).fetchAll l).halted = false := by
    rw [fetchAll_there l _ fun r hr => ?_]
    · exact halted_eq_false startWork_stop startWork_want
    · rw [startWork_s, startWork_t, startWork_got (by rw [code]; simpa using other)]
      exact supplied r (reads ▸ hr)
  have attn (b : Bool) (way : t.bwd = b) (h : op = .attn) : attnStart b c k s t = joinColl s c k t := by
    subst h way
    have none := there (attnReads t) (by simp [firstReads, code]) (by decide)
    unfold attnStart
    simp only [unjoined, bne_self_eq_false, Bool.not_false, Bool.false_eq_true, if_false, if_true, none]
  rcases which with ⟨rfl, way⟩ | ⟨rfl, way⟩ | ⟨rfl, way, right⟩ | rfl
  · obtain rfl : Op.attn = op := by simpa [taskRow] using row
    exact (exec_work running rfl).trans (congrArg (finish s) (attn false way rfl))
  · obtain rfl : Op.attn = op := by simpa [taskRow] using row
    exact (exec_work running rfl).trans (congrArg (finish s) (attn true way rfl))
  · obtain rfl : Op.dispatch = op := by simpa [taskRow] using row
    have none := there _ (firstReads_dispatch s c code way) (by decide)
    have joins : dispatchJoin c k s t = joinColl s c k t := by
      unfold dispatchJoin
      simp only [way, unjoined, right, Bool.or_self, Bool.false_eq_true, if_false, none]
    exact (exec_work running rfl).trans (congrArg (finish s) joins)
  · obtain rfl : Op.rotate = op := by simpa [taskRow] using row
    have none := there (rotateReads c t (collCores s t).length) (by simp [firstReads, code]) (by decide)
    have joins : rotateStart c k s t = joinColl s c k t := by
      unfold rotateStart
      simp only [unjoined, Bool.not_false, Bool.false_eq_true, if_false, if_true, none]
    exact (exec_work running rfl).trans (congrArg (finish s) joins)

end

/-- Settles O23: the collective is listed with the task as its one member, and the slot waits. -/
theorem collectiveOpens : Obligations.CollectiveOpens := by
  unfold Obligations.CollectiveOpens
  intro s c k t i op row running which supplied unjoined corner fresh unended room several
  have run := exec_joins row running which supplied unjoined
  rw [joinColl_opens corner fresh unended room several] at run
  have same (p : PartNo) : getPart (slotWait (withColl s c k t) c k) p = getPart (withColl s c k t) p := rfl
  refine ⟨_, run.trans (finish_of_work rfl), ?_, getSlot_slotWait (withColl s c k t) c k, rfl, fun m hm => getCore_other _ _ hm, fun p hp => ?_⟩
  · rw [same, withColl, getPart_same]
    rfl
  · rw [same]
    exact getPart_other _ _ hp

end Sys2Proof.Proofs.Opening

/-!
SUPPORT. Packets that a destination router delivers to a unit's engines (R92, R94, R108, R143, R234, R238), and the mesh copies of a burst (R171).
-/
namespace Sys2Proof.Proofs.Arrivals
open Sys2Proof Sys2Proof.Machine Sys2Proof.Proofs.Outcomes Sys2Proof.Proofs.RecordEnds Sys2Proof.Proofs.Sequencer Sys2Proof.Proofs.Engines
  Sys2Proof.Proofs.SlotRequests Sys2Proof.Proofs.Transfers Sys2Proof.Proofs.Cuts

section
variable {s : State} {p : Packet} {c : CoreNo} {k : SlotNo} {t : Task}

theorem arrive_delivered (h : Delivered s p) (deliver : State → State) : arrive s p deliver = deliver (taken s p) := by
  obtain ⟨hand, good, owned, stands⟩ := h
  unfold arrive
  simp only [hand, good, Bool.not_true, Bool.false_eq_true, if_false]
  have owned' : ownerOk (taken s p) p = true := owned
  have stands' : absorbs (taken s p) p = false := stands
  unfold taken at owned' stands'
  simp only [owned', stands', Bool.not_true, Bool.false_eq_true, if_false]
  rfl

/-- A row that delivers a packet and leaves unit work alone. -/
theorem exec_delivered {i : Instr} {deliver : State → State} (h : Delivered s p) (row : exec i s = finish s (arrive s p deliver))
    (work : besideWork (deliver (taken s p)) = besideWork s) : exec i s = .next (deliver (taken s p)) := by
  rw [row, arrive_delivered h]
  exact finish_of_work work

theorem rest_taken (s : State) (p : Packet) : { taken s p with cores := s.cores, packets := s.packets } = s := rfl

theorem dstUnit_of_core (h : unitCore p.dstTile p.dstUnit = some c) : p.dstUnit.toNat < 4 := by
  unfold unitCore at h
  split at h
  · assumption
  · cases h

theorem dstUnit_ne (h : unitCore p.dstTile p.dstUnit = some c) {u : BitVec 4} (hu : 4 ≤ u.toNat) : (p.dstUnit == u) = false := by
  have low := dstUnit_of_core h
  rw [beq_eq_false_iff_ne]
  intro e
  rw [e] at low
  omega

/-! Responses (R92, R94, R143). -/

/-- One more free byte. -/
def moreFresh (acc : List Byte × State) : List Byte × State := (acc.1 ++ [(freshByte acc.2).1], (freshByte acc.2).2)

theorem moreFresh_spec (l : List Nat) (acc : List Byte × State) :
    (l.foldl (fun a _ => moreFresh a) acc).1.length = acc.1.length + l.length ∧
      { (l.foldl (fun a _ => moreFresh a) acc).2 with freeCtr := acc.2.freeCtr } = acc.2 := by
  induction l generalizing acc with
  | nil => exact ⟨rfl, rfl⟩
  | cons x l ih =>
    obtain ⟨long, rest⟩ := ih (moreFresh acc)
    refine ⟨?_, (congrArg (fun u : State => { u with freeCtr := acc.2.freeCtr }) rest :)⟩
    rw [List.foldl_cons, long]
    simp only [moreFresh, List.length_append, List.length_cons, List.length_nil]
    omega

/-- MG_REQ is answered by as many bytes as it asks for. -/
theorem mgReq_spec (h : Delivered s p) :
    ∃ u x, exec (.mgReq p) s = .next u ∧ u.packets = (taken s p).packets ++ [x] ∧ x.typ = 0x0A ∧ x.cls = 4 ∧ x.dstTile = p.srcTile ∧
      x.dstUnit = p.srcUnit ∧ x.payload.length = p.length.toNat ∧ { u with packets := s.packets, freeCtr := s.freeCtr } = s := by
  obtain ⟨long, rest⟩ := moreFresh_spec (List.range p.length.toNat) ([], taken s p)
  have run : exec (.mgReq p) s = finish s (arrive s p fun s =>
      let r := (List.range p.length.toNat).foldl (fun a _ => moreFresh a) ([], s)
      send r.2 [{ answer p 0x0A r.1 with cls := 4, origClass := 4 }]) := rfl
  rw [arrive_delivered h] at run
  dsimp only at run
  generalize (List.range p.length.toNat).foldl (fun a _ => moreFresh a) ([], taken s p) = r at run long rest
  refine ⟨_, { answer p 0x0A r.1 with cls := 4, origClass := 4 }, run.trans (finish_of_work ?_), ?_, rfl, rfl, rfl, rfl, ?_, ?_⟩
  · exact (congrArg besideWork rest :)
  · have packets : r.2.packets = (taken s p).packets := (congrArg State.packets rest :)
    rw [← packets]
    rfl
  · simpa [answer] using long
  · exact (congrArg (fun u : State => { u with packets := s.packets }) rest :)

/-- RD_RSP's bytes enter the transfer region of the slot that holds the tag. -/
theorem rdRsp_spec (h : Delivered s p) (unit : unitCore p.dstTile p.dstUnit = some c) {f : FetchTag}
    (slot : slotOfFetch (getCore s c) p.tag.toNat = some k) (found : (getSlot s c k).fetchTags.find? (fun g => g.tag == p.tag.toNat) = some f) :
    exec (.rdRsp p) s = .next (setSlot (taken s p) c k { getSlot s c k with
      transfer := landBytes (getSlot s c k).transfer f.xfer p.offset.toNat p.payload
      fetchTags := (getSlot s c k).fetchTags.map fun g => if g.tag == p.tag.toNat then { g with left := g.left - 1 } else g }) := by
  have landed : landData (taken s p) c k p.tag.toNat p.offset.toNat p.payload = setSlot (taken s p) c k { getSlot s c k with
      transfer := landBytes (getSlot s c k).transfer f.xfer p.offset.toNat p.payload
      fetchTags := (getSlot s c k).fetchTags.map fun g => if g.tag == p.tag.toNat then { g with left := g.left - 1 } else g } := by
    have found' : (getSlot (taken s p) c k).fetchTags.find? (fun g => g.tag == p.tag.toNat) = some f := found
    unfold landData
    dsimp only
    rw [found']
    rfl
  have slot' : slotOfFetch (getCore (taken s p) c) p.tag.toNat = some k := slot
  show execRdRsp p s = _
  unfold execRdRsp
  rw [arrive_delivered h]
  dsimp only
  rw [dstUnit_ne unit (by decide), if_neg Bool.false_ne_true, unit]
  dsimp only
  rw [slot']
  dsimp only
  rw [landed]
  exact finish_of_work rfl

/-- WR_ACK is one response fewer for its store tag. -/
theorem wrAck_spec (h : Delivered s p) (unit : unitCore p.dstTile p.dstUnit = some c) (slot : slotOfStore (getCore s c) (p.tag.toNat - 128) = some k) :
    exec (.wrAck p) s = .next (setSlot (taken s p) c k { getSlot s c k with
      storeTags := (getSlot s c k).storeTags.map fun x => if x.tag == p.tag.toNat - 128 then { x with left := x.left - 1 } else x }) := by
  have slot' : slotOfStore (getCore (taken s p) c) (p.tag.toNat - 128) = some k := slot
  show execWrAck p s = _
  unfold execWrAck
  rw [arrive_delivered h]
  dsimp only
  rw [unit]
  dsimp only
  rw [slot']
  exact finish_of_work rfl

/-! A frame that has its place (R108). -/

/-- A frame's transfers: its bytes, and its index entry. -/
def frameOuts (f : Frame) (old : Nat) : List Out :=
  [.store [(f.data + old * 2048, f.bytes)], .store [(f.entryAt, bytesOf 16 (indexEntry old f.units f.enc f.fmt f.count (crc32c f.bytes)))]]

/-- Where the area is not full the frame and its index entry are to be stored, and the area's data base is noted. -/
theorem placeFrame_fits {f : Frame} {old : Nat} (adding : (getSlot s c k).adding = some f) (fits : old + f.units ≤ f.limit)
    (outs : (getSlot s c k).outs = []) (some_ : f.bytes ≠ []) (small : f.bytes.length ≤ 2 ^ 22) :
    placeFrame s c k old = settleSlot (drainSlot { setSlot s c k { getSlot s c k with adding := none, outs := frameOuts f old } with
      liners := tput 0 s.liners f.entryAt (f.data + 1) } c k) c k := by
  unfold placeFrame
  dsimp only
  rw [adding]
  dsimp only
  rw [if_neg (Nat.not_lt.mpr fits), outs, storePieces_single some_ small]
  rfl

/-- The frame and then its entry leave under the two lowest tags. -/
theorem placeFrame_spec {f : Frame} {old a b : Nat} {more : List Nat} (task : (getSlot s c k).task = some t) (adding : (getSlot s c k).adding = some f)
    (fits : old + f.units ≤ f.limit) (outs : (getSlot s c k).outs = []) (ready : (getSlot s c k).outsReady = true)
    (tags : (getSlot s c k).storeTags = []) (queue : (getCore s c).storeQueue = []) (free : freeTags (storeInUse (getCore s c)) = a :: b :: more)
    (stands : resettingCore s c = false) (some_ : 1 ≤ f.bytes.length) (small : f.bytes.length ≤ 2 ^ 22)
    (dataOk : rangeOk s t.ctx .write (f.data + old * 2048) f.bytes.length = true) (entryOk : rangeOk s t.ctx .write f.entryAt 16 = true) :
    (placeFrame s c k old).packets = s.packets ++ storePackets c t a [(f.data + old * 2048, f.bytes)] ++
        storePackets c t b [(f.entryAt, bytesOf 16 (indexEntry old f.units f.enc f.fmt f.count (crc32c f.bytes)))] ∧
      (getSlot (placeFrame s c k old) c k).adding = none ∧ (getSlot (placeFrame s c k old) c k).outs = [] ∧
      (placeFrame s c k old).liners = tput 0 s.liners f.entryAt (f.data + 1) ∧
      { placeFrame s c k old with cores := s.cores, packets := s.packets, liners := s.liners } = s ∧
      ∀ m, m ≠ c → getCore (placeFrame s c k old) m = getCore s m := by
  have bytes : f.bytes ≠ [] := fun e => by rw [e] at some_; exact absurd some_ (by decide)
  have eq := placeFrame_fits adding fits outs bytes small
  generalize hx : ({ getSlot s c k with adding := none, outs := frameOuts f old } : Slot) = x at eq
  generalize hv : ({ setSlot s c k x with liners := tput 0 s.liners f.entryAt (f.data + 1) } : State) = v at eq
  have core : getCore v c = putSlot (getCore s c) k x := by rw [← hv]; exact getCore_setSlot s c k x
  have slot : getSlot v c k = x := by rw [getSlot_eq_coreSlot, core, coreSlot_putSlot_same]
  have vTask : (getSlot v c k).task = some t := by rw [slot, ← hx]; exact task
  have vFree : freeTags (storeInUse (getCore v c)) = a :: b :: more := by
    rw [core, ← free]
    exact freeTags_congr fun n => mem_storeInUse_of_kept (by rw [← hx]; exact slot_ne_empty task) (by rw [← hx]; rfl) n
  have vQueue : (getCore v c).storeQueue = [] := by rw [core]; exact queue
  have vStands : resettingCore v c = false := by rw [← hv]; exact stands
  have vOk (y n : Nat) : rangeOk v t.ctx .write y n = rangeOk s t.ctx .write y n := by rw [← hv]; rfl
  have first := storeLeft_of_store (p := [(f.data + old * 2048, f.bytes)])
    (rest := [.store [(f.entryAt, bytesOf 16 (indexEntry old f.units f.enc f.fmt f.count (crc32c f.bytes)))]]) vTask vQueue vFree vStands
  have drains : drainSlot v c k = requestStores c k 2 (grantStores c 6 (storeAsked v c k [(f.data + old * 2048, f.bytes)]
      [.store [(f.entryAt, bytesOf 16 (indexEntry old f.units f.enc f.fmt f.count (crc32c f.bytes)))]])) := by
    have two : (getSlot v c k).outs = frameOuts f old := by rw [slot, ← hx]
    rw [drainSlot_ready (by rw [slot, ← hx]; exact ready) vStands, two, requestStores_store _ vTask (by rw [slot, ← hx]) two
      (by simpa [vOk] using dataOk), if_pos (by rw [vQueue, slot, ← hx]; simp [tags])]
    rfl
  generalize grantStores c 6 (storeAsked v c k _ _) = w at first drains
  have wTask : (getSlot w c k).task = some t := by rw [first.slot]; exact vTask
  have wOk (y n : Nat) : rangeOk w t.ctx .write y n = rangeOk v t.ctx .write y n := rangeOk_of first.rest ..
  have second := storeLeft_of_store (p := [(f.entryAt, bytesOf 16 (indexEntry old f.units f.enc f.fmt f.count (crc32c f.bytes)))]) (rest := []) wTask
    first.queue (freeTags_after vFree first.used) ((resettingCore_of first.rest c).trans vStands)
  have one : ((getSlot w c k).storeTags.length + ((getCore w c).storeQueue.filter fun e => e.1 == k).length) < 4 := by
    rw [first.queue, first.slot, slot, ← hx]
    simp [tags]
  rw [requestStores_store _ wTask (by rw [first.slot, slot, ← hx]) (by rw [first.slot])
    (by rw [List.forall_mem_singleton, wOk, vOk, bytesOf_length]; exact entryOk), if_pos one, requestStores_none _ (by rw [second.slot])] at drains
  generalize grantStores c 6 (storeAsked w c k _ _) = u at second drains
  rw [drains, settleSlot_waits (storesOut_of_tags (by rw [second.slot]; simp))] at eq
  rw [eq]
  have rest := rest_trans first.rest second.rest
  refine ⟨?_, ?_, by rw [second.slot], ?_, ?_, fun m hm => (second.others m hm).trans ((first.others m hm).trans ?_)⟩
  · rw [second.packets, first.packets, ← hv]
    rfl
  · rw [second.slot, first.slot, slot, ← hx]
  · have liners : u.liners = v.liners := (congrArg State.liners rest :)
    rw [liners, ← hv]
  · have whole := congrArg (fun y : State => { y with cores := s.cores, packets := s.packets, liners := s.liners }) rest
    rw [← hv] at whole
    exact whole
  · rw [← hv]
    exact getCore_other s _ hm

/-- ADD_RSP to a unit's fetch or store tag is no frame's. -/
theorem addRsp_small (h : Delivered s p) (low : p.tag.toNat < 192) : exec (.addRsp p) s = .next (taken s p) := by
  show execAddRsp p s = _
  unfold execAddRsp
  rw [arrive_delivered h]
  cases unitCore p.dstTile p.dstUnit with
  | none => exact finish_of_work rfl
  | some c =>
    dsimp only
    rw [if_neg (Nat.not_le.mpr low)]
    exact finish_of_work rfl

theorem addRsp_frame (h : Delivered s p) (unit : unitCore p.dstTile p.dstUnit = some c) (tag : p.tag = 192 + BitVec.ofNat 8 k.val)
    (work : besideWork (placeFrame (taken s p) c k (natOfBytes (p.payload.take 8))) = besideWork s) :
    exec (.addRsp p) s = .next (placeFrame (taken s p) c k (natOfBytes (p.payload.take 8))) := by
  have number : p.tag.toNat = 192 + k.val := by
    have := k.isLt
    rw [tag, BitVec.toNat_add, BitVec.toNat_ofNat]
    change (192 + k.val % 256) % 256 = 192 + k.val
    omega
  have same : (Fin.ofNat 4 (p.tag.toNat - 192) : SlotNo) = k := by
    rw [number, Nat.add_sub_cancel_left]
    exact Fin.ext (Nat.mod_eq_of_lt k.isLt)
  show execAddRsp p s = _
  unfold execAddRsp
  rw [arrive_delivered h, unit]
  dsimp only
  rw [if_pos (by omega), same]
  exact finish_of_work work

/-! ERR_RSP at a fetch (R94). -/

/-- A response to a slot's fetch changes its tags and its transfer region. -/
theorem landData_spec (s : State) (c : CoreNo) (k : SlotNo) (tag off : Nat) (data : List Byte) :
    (∃ tags region, getSlot (landData s c k tag off data) c k = { getSlot s c k with fetchTags := tags, transfer := region }) ∧
      { landData s c k tag off data with cores := s.cores } = s ∧ (∀ m, m ≠ c → getCore (landData s c k tag off data) m = getCore s m) ∧
      (getCore (landData s c k tag off data) c).storeQueue = (getCore s c).storeQueue := by
  unfold landData
  dsimp only
  split
  · exact ⟨⟨_, _, rfl⟩, rfl, fun _ _ => rfl, rfl⟩
  · exact ⟨⟨_, _, getSlot_same ..⟩, rfl, fun m hm => getCore_other _ _ hm, by rw [getCore_setSlot]; rfl⟩

theorem errRsp_spec (h : Delivered s p) (unit : unitCore p.dstTile p.dstUnit = some c) (low : p.tag.toNat < 64)
    (slot : slotOfFetch (getCore s c) p.tag.toNat = some k) (task : (getSlot s c k).task = some t) (runs : (getSlot s c k).ended = false)
    (alone : isCollective t = false) (unbegun : t.op = some .reduce → (getSlot s c k).started = false) :
    ∃ u, exec (.errRsp p) s = .next u ∧
      (storesOut (getCore s c) k = false → EndsAtOnce (taken s p) u c k t (ofFabric p.status.toNat) true) ∧
      ((getSlot s c k).storeTags ≠ [] →
        (getSlot u c k).ended = true ∧ (getSlot u c k).status = ofFabric p.status.toNat ∧ (getSlot u c k).state = .late ∧
        (getSlot u c k).fetchTags = [] ∧ (getSlot u c k).outs = [] ∧ (getSlot u c k).storeTags = (getSlot s c k).storeTags ∧
        { u with cores := s.cores, packets := s.packets } = s ∧ ∀ m, m ≠ c → getCore u m = getCore s m) := by
  obtain ⟨⟨tags, region, lands⟩, rest, others, queue⟩ := landData_spec (taken s p) c k p.tag.toNat 0 []
  have run : exec (.errRsp p) s = finish s (taskFails (landData (taken s p) c k p.tag.toNat 0 []) c k (ofFabric p.status.toNat)) := by
    have slot' : slotOfFetch (getCore (taken s p) c) p.tag.toNat = some k := slot
    show execErrRsp p s = _
    unfold execErrRsp coreError
    rw [arrive_delivered h]
    dsimp only
    rw [dstUnit_ne unit (by decide), dstUnit_ne unit (by decide), if_neg Bool.false_ne_true, if_neg Bool.false_ne_true, unit]
    dsimp only
    rw [if_neg (by omega), if_neg (by omega), if_neg (by omega), slot']
  generalize landData (taken s p) c k p.tag.toNat 0 [] = v at lands rest others queue run
  have same : getSlot (taken s p) c k = getSlot s c k := rfl
  rw [same] at lands
  have vTask : (getSlot v c k).task = some t := by rw [lands]; exact task
  have vRuns : (getSlot v c k).ended = false := by rw [lands]; exact runs
  have vUnbegun (op : t.op = some .reduce) : (getSlot v c k).started = false := by rw [lands]; exact unbegun op
  refine ⟨_, run.trans (finish_of_work ?_), fun stored => ?_, fun tags => ?_⟩
  · rw [besideWork_taskFails]
    exact (congrArg besideWork rest :)
  · rw [storesOut_getCore] at stored
    simp only [Bool.or_eq_false_iff, Bool.not_eq_false', List.isEmpty_iff, List.any_eq_false, beq_iff_eq] at stored
    obtain ⟨⟨⟨none, -⟩, -⟩, unasked⟩ := stored
    have ends := taskFails_ends (st := ofFabric p.status.toNat) vTask vRuns alone vUnbegun (by rw [lands]; exact none) (by rw [queue]; exact unasked)
    exact endsAtOnce_of_start ends (fun a => (congrArg (fun x : State => memByte x a) rest :)) (congrArg (fun x : State => x.rings) rest :)
      (by rw [lands]; rfl) id (besideEnds_of_rest (rest_of_cores rest))
  · obtain ⟨ended, status, late, fetches, -, outs, kept, whole, still⟩ :=
      taskFails_waits (st := ofFabric p.status.toNat) vTask vRuns alone vUnbegun (by rw [lands]; exact tags)
    refine ⟨ended, status, late, fetches, outs, by rw [kept, lands], ?_, fun m hm => (still m hm).trans (others m hm)⟩
    exact rest_trans (rest_taken s p) (rest_trans (rest_of_cores rest) whole)

/-! Roots (R238). -/

section
variable {n : CuffNo}

theorem redData_root (h : Delivered s p) (room : chunkRoom s p = true) (unit : p.dstUnit ≠ 0xC) (root : rootOf p = some n) :
    exec (.redData p) s = finish s (rootArrival (taken s p) n p) := by
  show execRedData p s = _
  unfold execRedData
  rw [room, Bool.not_true, if_neg Bool.false_ne_true, arrive_delivered h]
  dsimp only
  rw [if_neg (by simpa using unit), root]

theorem rootArrival_joins {b : RootBuf} (kept : (getCuff s n).discarded.contains p.tree = false)
    (found : (getCuff s n).roots.find? (fun b => b.tree == p.tree) = some b) :
    rootArrival s n p = setCuff s n
      { getCuff s n with roots := (getCuff s n).roots.map fun x => if x.tree == p.tree then { x with chunks := b.chunks ++ [p] } else x } := by
  unfold rootArrival
  dsimp only
  rw [kept, if_neg Bool.false_ne_true, found]

theorem rootArrival_first (kept : (getCuff s n).discarded.contains p.tree = false)
    (none : (getCuff s n).roots.find? (fun b => b.tree == p.tree) = none) (free : (getCuff s n).roots.length < 32) :
    rootArrival s n p = setCuff s n { getCuff s n with roots := (getCuff s n).roots ++ [{ tree := p.tree, chunks := [p] }] } := by
  unfold rootArrival
  dsimp only
  rw [kept, if_neg Bool.false_ne_true, none]
  dsimp only
  rw [if_pos free]

end

/-! Leaf credits (R225, R234). -/

/-- The slot that a chunk's TAG names. -/
def creditSlot (p : Packet) : SlotNo := Fin.ofNat 4 (p.tag.toNat - 64)

theorem redCredit_leaf (h : Delivered s p) (unit : unitCore p.dstTile p.dstUnit = some c) (task : (getSlot s c (creditSlot p)).task = some t)
    (op : t.op = some .reduce) :
    exec (.redCredit p) s = finish s (reduceGo (setSlot (taken s p) c (creditSlot p)
      { getSlot s c (creditSlot p) with outstanding := (getSlot s c (creditSlot p)).outstanding - 1 }) c (creditSlot p) t) := by
  have task' : (getSlot (taken s p) c (Fin.ofNat 4 (p.tag.toNat - 64))).task = some t := task
  show execRedCredit p s = _
  unfold execRedCredit
  rw [arrive_delivered h]
  dsimp only
  rw [dstUnit_ne unit (by decide), if_neg Bool.false_ne_true, unit]
  dsimp only
  split
  · rename_i found
    obtain rfl := Option.some.inj (found.symm.trans task')
    rw [op, if_pos (by simp)]
    rfl
  · rename_i none
    rw [task'] at none
    cases none

section
variable (started : (getSlot s c k).started = true) (runs : (getSlot s c k).ended = false) (stands : resettingCore s c = false)
  (sent : (getSlot s c k).sent = reChunks t)
include started runs stands sent

/-- With every chunk sent a REDUCE sends no more; once all are credited it is over, and its Palm goes on. -/
theorem reduceGo_sent : reduceGo s c k t =
    if (getSlot s c k).outstanding = 0 then endSlot (palmEnd (send (setSlot s c k (getSlot s c k)) []) c (rePalm t) false) c k stOk 0
    else send (setSlot s c k (getSlot s c k)) [] := by
  have goes : ¬ (!(getSlot s c k).started || (getSlot s c k).ended || resettingCore s c) = true := by simp [started, runs, stands]
  have none : min (8 - (getSlot s c k).outstanding) (reChunks t - (getSlot s c k).sent) = 0 := by rw [sent, Nat.sub_self, Nat.min_zero]
  unfold reduceGo
  dsimp only
  rw [if_neg goes, none]
  by_cases over_ : (getSlot s c k).outstanding = 0
  · rw [if_pos over_]
    exact if_pos ⟨sent, over_⟩
  · rw [if_neg over_]
    exact if_neg fun h => over_ h.2

end

/-- The credits of a leaf with every chunk sent: all but the last only count. -/
theorem redCredit_spec (h : Delivered s p) (unit : unitCore p.dstTile p.dstUnit = some c) (task : (getSlot s c (creditSlot p)).task = some t)
    (op : t.op = some .reduce) (started : (getSlot s c (creditSlot p)).started = true) (runs : (getSlot s c (creditSlot p)).ended = false)
    (stands : resettingCore s c = false) (sent : (getSlot s c (creditSlot p)).sent = reChunks t) (stored : storesOut (getCore s c) (creditSlot p) = false) :
    (1 < (getSlot s c (creditSlot p)).outstanding → ∃ u, exec (.redCredit p) s = .next u ∧
      getSlot u c (creditSlot p) = { getSlot s c (creditSlot p) with outstanding := (getSlot s c (creditSlot p)).outstanding - 1 } ∧
      { u with cores := s.cores } = taken s p ∧ ∀ m, m ≠ c → getCore u m = getCore s m) ∧
    ((getSlot s c (creditSlot p)).outstanding = 1 → ∃ u, exec (.redCredit p) s = .next u ∧
      EndsAtOnce (palmEnd (taken s p) c (rePalm t) false) u c (creditSlot p) t stOk (getSlot s c (creditSlot p)).spoilt) := by
  have run := redCredit_leaf h unit task op
  generalize creditSlot p = k at *
  generalize hx : ({ getSlot s c k with outstanding := (getSlot s c k).outstanding - 1 } : Slot) = x at run
  generalize hv : setSlot (taken s p) c k x = v at run
  have slot : getSlot v c k = x := by rw [← hv, getSlot_same]
  have goes := reduceGo_sent (s := v) (c := c) (k := k) (t := t) (by rw [slot, ← hx]; exact started) (by rw [slot, ← hx]; exact runs)
    (by rw [← hv]; exact stands) (by rw [slot, ← hx]; exact sent)
  generalize hw : send (setSlot v c k (getSlot v c k)) [] = w at goes
  have wSlot : getSlot w c k = x := by rw [← hw, ← slot]; exact getSlot_same v c k _
  have wQueue : (getCore w c).storeQueue = (getCore s c).storeQueue := by
    have core : getCore w c = putSlot (getCore v c) k (getSlot v c k) := by rw [← hw]; exact getCore_setSlot v c k _
    rw [core, ← hv]
    exact (congrArg Core.storeQueue (getCore_setSlot (taken s p) c k x) :)
  have rest : { w with cores := s.cores } = taken s p := by
    rw [← hw, ← hv]
    exact congrArg (fun l => { s with packets := l }) (List.append_nil (s.packets.erase p))
  have left : x.outstanding = (getSlot s c k).outstanding - 1 := by rw [← hx]
  rw [goes, slot, left] at run
  refine ⟨fun more => ?_, fun last => ?_⟩
  · rw [if_neg (by omega)] at run
    refine ⟨w, run.trans (finish_of_work (congrArg besideWork rest :)), wSlot, rest, fun m hm => ?_⟩
    rw [← hw, ← hv]
    exact (getCore_other _ _ hm).trans (getCore_other _ _ hm)
  · rw [if_pos (by omega)] at run
    generalize hz : palmEnd w c (rePalm t) false = z at run
    have zSlot : getSlot z c k = x := by rw [← hz]; exact wSlot
    have over_ : storesOut (getCore z c) k = false := by
      have queue : (getCore z c).storeQueue = (getCore s c).storeQueue := by rw [← hz]; exact wQueue
      rw [storesOut_getCore] at stored ⊢
      rw [zSlot, queue, ← hx]
      exact stored
    have ends := endsAtOnce_endSlot (s := z) (c := c) (k := k) (t := t) stOk 0 (by rw [zSlot, ← hx]; exact task) over_
    have spoilt : (getSlot z c k).spoilt = (getSlot s c k).spoilt := by rw [zSlot, ← hx]
    rw [spoilt] at ends
    refine ⟨_, run.trans (finish_of_work ?_), endsAtOnce_of_start ends (fun a => ?_) ?_ (by rw [zSlot, ← hx]; rfl) id ?_⟩
    · rw [besideWork_endSlot, ← hz]
      exact (congrArg besideWork rest :)
    · rw [← hz]
      exact (congrArg (fun y : State => memByte y a) rest :)
    · rw [← hz]
      exact (congrArg (fun y : State => y.rings) rest :)
    · rw [← hz]
      exact (congrArg (fun y : State => besideEnds (palmEnd y c (rePalm t) false)) rest :)

end

/-! Mesh copies of a burst (R165, R171). -/

section
variable {s : State} {p : Packet} {c : CoreNo} {off : Nat} {r : StreamRun}

/-- Bytes of a STREAM that goes on have been written. -/
theorem streamDone_written {src : TileNo} {n : Nat} (running : (getTile s src).station.running = some r) (more : n < r.remaining) :
    streamDone s src n stOk = setRun s src { r with remaining := r.remaining - n } := by
  have status : (if r.status == stOk then stOk else r.status) = r.status := by
    split
    · rename_i ok
      exact (beq_iff_eq.mp ok).symm
    · rfl
  unfold streamDone
  rw [running]
  dsimp only
  rw [status]
  have now : (getTile (setRun s src { r with remaining := r.remaining - n }) src).station.running = some { r with remaining := r.remaining - n } := by
    unfold setRun
    rw [getTile_same]
  unfold endStream
  rw [now]
  dsimp only
  rw [if_pos]
  have left : r.remaining - n ≠ 0 := by omega
  simp [left]

/-- The core's one copy of a chunk is written at the slot's place, and counted as delivered. -/
theorem deliverCopy_written {src tile : TileNo} {q : PartNo} {g o : Nat} {data : List Byte}
    (slots : (groupSlots (getPart s q).map g).filter (fun sl => coreTile sl.1 == tile) = [(c, off)]) (stands : resettingCore s c = false)
    (mapped : cmemMapped s tile (Fin.ofNat 4 (coreCluster c)) = true) (running : (getTile s src).station.running = some r)
    (more : data.length < r.remaining) :
    deliverCopy s src q g tile o data =
      setRun (storeMem s (cmemBase c + off + o) data) src { r with remaining := r.remaining - data.length } := by
  have tiles : getTile (storeMem s (cmemBase c + off + o) data) src = getTile s src :=
    getTile_of _ _ _ (congrArg (fun x : State => x.tiles) (besideMemory_storeMem s (cmemBase c + off + o) data) :)
  have one := streamDone_written (s := storeMem s (cmemBase c + off + o) data) (by rw [tiles]; exact running) more
  unfold deliverCopy
  rw [slots, List.foldl_cons, List.foldl_nil]
  dsimp only
  rw [stands, mapped, if_neg Bool.false_ne_true, Bool.not_true, if_neg Bool.false_ne_true, one]

theorem bcastData_spec (h : Delivered s p)
    (slots : (groupSlots (getPart s (Fin.ofNat 64 p.partition.toNat)).map p.tree.toNat).filter (fun sl => coreTile sl.1 == p.dstTile) = [(c, off)])
    (stands : resettingCore s c = false) (mapped : cmemMapped s p.dstTile (Fin.ofNat 4 (coreCluster c)) = true)
    (running : (getTile s p.srcTile).station.running = some r) (more : p.payload.length < r.remaining)
    (clean : rangePoisoned s (cmemBase c + off + p.offset.toNat) p.payload.length = false) :
    ∃ u, exec (.bcastData p) s = .next u ∧
      (∀ a, memByte u a = if cmemBase c + off + p.offset.toNat ≤ a ∧ a < cmemBase c + off + p.offset.toNat + p.payload.length
        then p.payload.getD (a - (cmemBase c + off + p.offset.toNat)) 0 else memByte s a) ∧
      (getTile u p.srcTile).station.running = some { r with remaining := r.remaining - p.payload.length } ∧
      (∀ n, n ≠ p.srcTile → getTile u n = getTile s n) ∧
      besideMemory { u with tiles := s.tiles, packets := s.packets } = besideMemory s := by
  have run : exec (.bcastData p) s = finish s (deliverCopy (taken s p) p.srcTile (Fin.ofNat 64 p.partition.toNat) p.tree.toNat p.dstTile
      p.offset.toNat p.payload) := by
    show execBcastData p s = _
    unfold execBcastData
    rw [arrive_delivered h]
  rw [deliverCopy_written (s := taken s p) slots stands mapped running more] at run
  generalize cmemBase c + off + p.offset.toNat = at_ at *
  obtain ⟨-, -, stored⟩ := writeMem_clean (taken s p) at_ p.payload clean
  have beside := besideMemory_storeMem (taken s p) at_ p.payload
  have tile (n : TileNo) : getTile (storeMem (taken s p) at_ p.payload) n = getTile s n := getTile_of _ _ _ (congrArg (fun x : State => x.tiles) beside :)
  unfold storeMem at run tile beside
  generalize (writeMem (taken s p) at_ p.payload).1 = v at run stored beside tile
  refine ⟨_, run.trans (finish_of_work ?_), fun a => stored a, ?_, fun n hn => ?_, ?_⟩
  · exact (congrArg besideWork beside :)
  · unfold setRun
    rw [getTile_same]
  · unfold setRun
    rw [getTile_other _ _ hn, tile]
  · exact (congrArg (fun x : State => { x with tiles := s.tiles, packets := s.packets }) beside :)

end

/-- Settles O33: each packet is taken off the mesh and handed to the engine, root, leaf or cluster memory that it is for. -/
theorem responsesAndCopiesLand : Obligations.ResponsesAndCopiesLand := by
  unfold Obligations.ResponsesAndCopiesLand
  refine ⟨fun s p h => ⟨addRsp_small h, exec_delivered (deliver := fun s => s) h rfl rfl, mgReq_spec h, fun c k unit => ⟨fun f slot found => rdRsp_spec h unit slot found,
      fun slot => wrAck_spec h unit slot, ?_, fun t low slot task runs alone unbegun => errRsp_spec h unit low slot task runs alone unbegun⟩⟩,
    fun s p n h room unit root kept => ⟨fun b found => ?_, fun none free => ?_⟩,
    fun s p c t h unit task op started runs stands sent stored => redCredit_spec h unit task op started runs stands sent stored,
    fun s p c off r h slots stands mapped running more clean => bcastData_spec h slots stands mapped running more clean⟩
  · rintro t f old a b more tag task adding rfl fits outs ready tags queue free stands some_ small dataOk entryOk
    obtain ⟨packets, placed, none, liners, rest, others⟩ := placeFrame_spec (s := taken s p) task adding fits outs ready tags queue free stands some_ small
      dataOk entryOk
    exact ⟨_, addRsp_frame h unit tag (congrArg besideWork rest :), packets, placed, none, liners,
      (congrArg (fun x : State => { x with packets := s.packets }) rest :), others⟩
  · rw [redData_root h room unit root, rootArrival_joins (s := taken s p) kept found]
    exact finish_of_work rfl
  · rw [redData_root h room unit root, rootArrival_first (s := taken s p) kept none free]
    exact finish_of_work rfl

end Sys2Proof.Proofs.Arrivals

/-!
SUPPORT. What the work of a task leaves of the state while it reads, computes and puts out (R88, R94, R95 to R101).
-/
namespace Sys2Proof.Proofs.Stages
open Sys2Proof Sys2Proof.Machine Sys2Proof.Proofs.Works

/-- From work w to work v of a core: the same task, over a state of which at most that core's counters have changed. -/
structure Onward (c : CoreNo) (w v : Work) : Prop where
  task : v.t = w.t
  slots : (getCore v.s c).slots = (getCore w.s c).slots
  others : ∀ m, m ≠ c → getCore v.s m = getCore w.s m
  rest : { v.s with cores := w.s.cores } = w.s

section
variable {c : CoreNo} {u v w : Work}

theorem onward_of_same (task : v.t = w.t) (state : v.s = w.s) : Onward c w v := by
  refine ⟨task, ?_, fun m _ => ?_, ?_⟩
  all_goals rw [state]

theorem Onward.refl (w : Work) : Onward c w w := onward_of_same rfl rfl

theorem Onward.trans (h : Onward c u v) (k : Onward c v w) : Onward c u w :=
  ⟨k.task.trans h.task, k.slots.trans h.slots, fun m hm => (k.others m hm).trans (h.others m hm),
    Eq.trans (congrArg (fun x : State => { x with cores := u.s.cores }) k.rest :) h.rest⟩

/-! Reading and putting out. -/

theorem onward_andThen {f : Work → Work} (h : ∀ w, Onward c w (f w)) (w : Work) : Onward c w (w.andThen f) := by
  unfold Work.andThen
  split
  · exact .refl w
  · exact h w

theorem onward_fail (w : Work) (st : BitVec 8) (d : BitVec 16) : Onward c w (w.fail st d) := by
  unfold Work.fail
  split <;> exact onward_of_same rfl rfl

theorem onward_refuse (w : Work) (st : BitVec 8) (d : BitVec 16) : Onward c w (w.refuse st d) := by
  unfold Work.refuse
  split <;> exact onward_of_same rfl rfl

theorem onward_fetchBlock (w : Work) (x : Xfer) : Onward c w (w.fetchBlock x) := by
  unfold Work.fetchBlock
  split
  · exact .refl w
  · split
    · exact onward_fail ..
    · split <;> exact onward_of_same rfl rfl

theorem onward_fetch (w : Work) (a n : Nat) : Onward c w (w.fetch a n) := onward_fetchBlock ..

theorem onward_foldl {α : Type} {f : Work → α → Work} (h : ∀ w x, Onward c w (f w x)) (l : List α) (w : Work) : Onward c w (l.foldl f w) :=
  foldl_keeps (fun v => Onward c w v) f l w (.refl w) fun v x _ hv => hv.trans (h v x)

theorem onward_fetchAll (w : Work) (l : List (Nat × Nat)) : Onward c w (w.fetchAll l) := onward_foldl (fun w r => onward_fetch w r.1 r.2) l w

/-- Output put out by work that goes on. -/
theorem onward_outs (f : Work → List Out) (w : Work) : Onward c w (w.andThen fun w => { w with outs := f w }) :=
  onward_andThen (f := fun w => { w with outs := f w }) (fun _ => onward_of_same rfl rfl) w

theorem onward_storeRows (w : Work) (l : List (Nat × List Byte)) : Onward c w (w.storeRows l) := by
  unfold Work.storeRows
  exact onward_outs _ w

theorem onward_store (w : Work) (a : Nat) (bs : List Byte) : Onward c w (w.store a bs) := onward_storeRows ..

theorem onward_storeLast (w : Work) (a : Nat) (bs : List Byte) : Onward c w (w.storeLast a bs) := by
  unfold Work.storeLast
  exact onward_outs _ w

/-! Operands. -/

theorem onward_readRows (w : Work) (f : Fmt) (base ld scaleBase rows cols : Nat) : Onward c w (readRows w f base ld scaleBase rows cols).1 := by
  unfold readRows
  dsimp only
  split
  · exact (onward_fetchBlock ..).trans (onward_fetchBlock ..)
  · exact onward_fetchBlock ..

theorem onward_readLiner (w : Work) (index first last : Nat) (f : Fmt) (M W : Nat) : Onward c w (readLiner w index first last f M W).1 := by
  have entries : Onward c w (w.fetch (index + 16 * first) (16 * (last + 1 - first))) := onward_fetch ..
  unfold readLiner
  dsimp only
  split
  · exact entries
  · split
    · exact entries.trans (onward_fail ..)
    · split
      · exact entries.trans (onward_fetchAll ..)
      · split
        · exact entries.trans ((onward_fetchAll ..).trans (onward_fail ..))
        · exact entries.trans (onward_fetchAll ..)

theorem onward_linerRows (w : Work) (index first last : Nat) (f : Fmt) (rows cols : Nat) : Onward c w (linerRows w index first last f rows cols).1 :=
  onward_readLiner ..

theorem onward_sparseFetch (w : Work) (a : SparseA) : Onward c w (sparseFetch w a) := by
  refine (onward_fetch w a.headerAt 32).trans (onward_andThen (fun w => ?_) _)
  have dense : Onward c w ((w.fetchBlock (a.records (a.kdense w.view))).fetchBlock (a.values (a.kdense w.view))) :=
    (onward_fetchBlock ..).trans (onward_fetchBlock ..)
  have codes (w : Work) : Onward c w (w.andThen fun w => if a.codesGood w.view then w else w.fail stSparseMeta) := by
    refine onward_andThen (fun w => ?_) w
    split
    · exact .refl w
    · exact onward_fail ..
  dsimp only
  split
  · exact dense.trans ((onward_fetchBlock ..).trans (codes _))
  · exact dense.trans (codes _)

theorem onward_readA (w : Work) (src : RowSource) : Onward c w (readA w src).1 := by
  unfold readA
  dsimp only
  split
  · exact onward_linerRows ..
  · split
    · exact onward_sparseFetch ..
    · exact onward_readRows ..

theorem onward_readB (w : Work) : Onward c w (readB w).1 := by
  unfold readB
  dsimp only
  split
  · exact onward_linerRows ..
  · exact onward_readRows ..

theorem onward_readC (w : Work) (src : RowSource) : Onward c w (readC w src).1 := by
  unfold readC
  dsimp only
  split
  · exact .refl w
  · exact onward_readRows ..

theorem onward_readX (w : Work) (m width addr fmt : Nat) (liner : Bool) (first last : Nat) : Onward c w (readX w m width addr fmt liner first last).1 := by
  unfold readX
  dsimp only
  split
  · exact onward_linerRows ..
  · exact onward_readRows ..

/-- The saved rows of a stage, where it takes any. -/
theorem onward_saved (b : Bool) (w : Work) (rows : List (List F32)) (m width addr fmt : Nat) (liner : Bool) (first last : Nat) :
    Onward c w (if b then readX w m width addr fmt liner first last else (w, rows)).1 := by
  split
  · exact onward_readX ..
  · exact .refl w

theorem onward_dropIds (w : Work) (src : RowSource) : Onward c w (dropIds w src).1 := by
  unfold dropIds
  dsimp only
  split
  · exact .refl w
  · exact onward_fetch ..

/-! Stages. -/

theorem onward_lsCensusRows (t : Task) (g : Stage) {r : GRun} (h : Onward c w r.w) : Onward c w (lsCensusRows t g r).w := by
  refine h.trans ?_
  unfold lsCensusRows
  dsimp only
  split <;> exact onward_of_same rfl rfl

theorem onward_compressStores (kd p : Nat) (f : Fmt) (vals meta_ scales : Nat) (b : List (Nat × Nat × List CompBlock)) (w : Work) :
    Onward c w (compressStores kd p f vals meta_ scales b w) := by
  unfold compressStores
  dsimp only
  split
  · exact (onward_storeRows ..).trans ((onward_storeRows ..).trans (onward_storeRows ..))
  · exact (onward_storeRows ..).trans (onward_storeRows ..)

/-- A core's counters may change. -/
theorem onward_count {d : Core} (h : d.slots = (getCore w.s c).slots) : Onward c w { w with s := setCore w.s c d } :=
  ⟨rfl, by rw [getCore_same, h], fun m hm => getCore_other _ _ hm, rfl⟩

theorem onward_sparseFault (w : Work) : Onward c w { w with s := countSparseFault w.s c } := onward_count rfl

theorem onward_pruned (w : Work) (n : Nat) :
    Onward c w { w with s := setCore w.s c { getCore w.s c with pruned := satAdd (getCore w.s c).pruned n } } := onward_count rfl

theorem onward_compressStage (cols kd p : Nat) (fault : Bool) (f : Fmt) (vals meta_ scales : Nat) (w : Work) (rows : List (List F32)) :
    Onward c w (compressStage c cols kd p fault f vals meta_ scales w rows) := by
  refine onward_andThen (fun w => ?_) w
  dsimp only
  generalize (if fault = true then _ else _ : List (List (Nat × Nat × List CompBlock))) = good
  have stored := onward_foldl (c := c) (fun w b => onward_compressStores kd p f vals meta_ scales b w) good w
  split
  · exact stored.trans ((onward_store ..).trans ((onward_sparseFault _).trans (onward_fail ..)))
  · exact stored.trans ((onward_pruned _ _).trans (onward_storeLast ..))

theorem onward_saveStage (M W : Nat) (a : SaveArea) (mx8 : Bool) (f : Fmt) (w : Work) (rows : List (List F32)) :
    Onward c w (saveStage M W a mx8 f w rows) := by
  unfold saveStage
  exact onward_outs _ w

/-- A stage's store of a sum, where it makes one. -/
theorem onward_storeIf (b : Prop) [Decidable b] (w : Work) (a : Nat) (bs : List Byte) : Onward c w (if b then w.store a bs else w) := by
  split
  · exact onward_store ..
  · exact .refl w

theorem onward_fetchIf (b : Prop) [Decidable b] (w : Work) (a n : Nat) : Onward c w (if b then w.fetch a n else w) := by
  split
  · exact onward_fetch ..
  · exact .refl w

/-- What a COMPRESS stores waits for its first header. -/
theorem onward_barrier (w : Work) : Onward c w { w with outs := w.outs ++ [.barrier] } := onward_of_same rfl rfl

theorem onward_runStage (src : RowSource) (t : Task) (r : GRun) (g : Stage) : Onward c r.w (runStage c src t r g).w := by
  unfold runStage
  split
  · exact .refl _
  · dsimp only
    split
    · have operands : Onward c r.w (readC (readB r.w).1 src).1 := (onward_readB ..).trans (onward_readC ..)
      split
      · exact operands
      · exact onward_lsCensusRows t g operands
    · have saved := onward_saved (c := c) (decide (8 ≤ g.func)) r.w r.rows src.m (savedWidth t) (eX t) (eXfmt t) (eXliner t) (eXfirst t) (eXlast t)
      generalize (if decide (8 ≤ g.func) = true then readX r.w src.m (savedWidth t) (eX t) (eXfmt t) (eXliner t) (eXfirst t) (eXlast t)
        else (r.w, r.rows)) = x at saved ⊢
      split
      · exact saved
      · exact onward_lsCensusRows t g saved
    · have saved := onward_saved (c := c) (decide (8 ≤ g.func)) r.w r.rows src.m (nL t) (nX t) (nXfmt t) (nXliner t) (nXfirst t) (nXlast t)
      generalize (if decide (8 ≤ g.func) = true then readX r.w src.m (nL t) (nX t) (nXfmt t) (nXliner t) (nXfirst t) (nXlast t)
        else (r.w, r.rows)) = x at saved ⊢
      have vectors := (saved.trans (onward_fetch _ (nGamma t) (4 * nL t))).trans (onward_fetchIf (g.func = 1) _ (nBeta t) (4 * nL t))
      generalize (if g.func = 1 then (x.1.fetch (nGamma t) (4 * nL t)).fetch (nBeta t) (4 * nL t) else x.1.fetch (nGamma t) (4 * nL t)) = w at vectors ⊢
      split
      · exact vectors
      · refine onward_lsCensusRows t g (vectors.trans ?_)
        exact (onward_storeIf (decide (8 ≤ g.func) = true) w (nDgamma t) _).trans (onward_storeIf (g.func = 9) _ (nDbeta t) _)
    · exact onward_lsCensusRows t g (.refl r.w)
    · exact ((onward_lsCensusRows t g (.refl r.w)).trans (onward_barrier _)).trans (onward_compressStage ..)
    · exact (onward_lsCensusRows t g (.refl r.w)).trans ((onward_storeRows ..).trans (onward_storeRows ..))
    · exact onward_lsCensusRows t g (onward_saveStage ..)

/-- The check of a DROPOUT's row identifiers comes before any stage (R104). -/
theorem onward_dropCheck (b : Bool) (bad : Work × (Nat → Nat) → Bool) (src : RowSource) (w : Work) (d : BitVec 16) :
    Onward c w ((if b then dropIds w src else (w, fun _ => 0)).1.andThen fun v =>
      if b && bad (if b then dropIds w src else (w, fun _ => 0)) then v.refuse stParam d else v) := by
  have ids : Onward c w (if b then dropIds w src else (w, fun _ => 0)).1 := by
    split
    · exact onward_dropIds ..
    · exact .refl w
  generalize (if b then dropIds w src else (w, fun _ => 0)) = x at ids ⊢
  refine ids.trans (onward_andThen (fun v => ?_) _)
  split
  · exact onward_refuse ..
  · exact .refl v

theorem onward_runStages (w : Work) (src : RowSource) : Onward c w (runStages w c src).w := by
  have checked := onward_dropCheck (c := c) (hasStage w.t 4) (fun x => !dropoutFits w.t src.m x.2) src w (BitVec.ofNat 16 ((blockBit w.t 4 + 320) / 8))
  unfold runStages
  dsimp only
  generalize Work.andThen _ _ = v at checked ⊢
  have operands : Onward c w (if v.halted then (v, []) else readA v src).1 := by
    split
    · exact checked
    · exact checked.trans (onward_readA ..)
  exact foldl_keeps (fun r : GRun => Onward c w r.w) (runStage c src w.t) _ _ operands fun r g _ h => h.trans (onward_runStage src w.t r g)

theorem onward_readDirectory (w : Work) : Onward c w (readDirectory w) := by
  unfold readDirectory
  dsimp only
  split
  · exact .refl w
  · refine (onward_fetch ..).trans (onward_andThen (fun w => ?_) _)
    split
    · exact onward_refuse ..
    · exact onward_fetch ..

end

end Sys2Proof.Proofs.Stages

/-!
SUPPORT. The tasks that work alone end with what they put out (R88, R94, R194 to R197, R207 to R209).
-/
namespace Sys2Proof.Proofs.AloneTasks
open Sys2Proof Sys2Proof.Machine Sys2Proof.Proofs.Outcomes Sys2Proof.Proofs.RecordEnds Sys2Proof.Proofs.Palms Sys2Proof.Proofs.Sequencer
  Sys2Proof.Proofs.Engines Sys2Proof.Proofs.Transfers Sys2Proof.Proofs.Works Sys2Proof.Proofs.Operands Sys2Proof.Proofs.Stages

/-! The end of the work. -/

section
variable {s : State} {c : CoreNo} {k : SlotNo} {t : Task} {w : Work}

/-- Counting values changes no other core. -/
theorem getCore_countCensus (s : State) (c : CoreNo) (k : SlotNo) (f : CensusFrom) (n : Nat) {m : CoreNo} (h : m ≠ c) :
    getCore (countCensus s c k f n) m = getCore s m := by
  have marked (x : Slot) : getCore (setSlot s c k x) m = getCore s m := getCore_other _ _ h
  unfold countCensus
  dsimp only
  split
  · rfl
  · rfl
  · generalize hv : setSlot s c k _ = v
    have same : getCore v m = getCore s m := by rw [← hv]; exact marked _
    split
    · have late (b : Bool) (p : Partition) (q : PartNo) : getCore (if b then setPart v q p else v) m = getCore v m := by split <;> rfl
      split
      · exact (late ..).trans same
      · exact ((getCore_of _ _ m (raise_cores _ _)).trans (late ..)).trans same
    · exact same

/-- Work on a core that leaves its slots leaves every slot. -/
theorem slot_of_onward (h : Onward c (startWork s c k t) w) (j : SlotNo) : getSlot w.s c j = getSlot s c j := by
  have same := h.slots
  rw [startWork_s] at same
  unfold getSlot
  rw [same]

theorem state_of_onward (h : Onward c (startWork s c k t) w) : { w.s with cores := s.cores } = s := by
  have same := h.rest
  rwa [startWork_s] at same

/-- Work that is over with output: the slot keeps OK, and the output waits. -/
theorem endsUnstored_finishWork (onward : Onward c (startWork s c k t) w) (f : CensusFrom) (task : (getSlot s c k).task = some t)
    (other : t.op ≠ some .copy) (going : w.stop = none) (has : w.want = []) (outs : w.outs ≠ []) :
    EndsUnstored s (finishWork s w c k f) c k stOk 0 w.outs := by
  have swaps : (w.t.op != some .copy) = true := by rw [onward.task, startWork_t]; simpa using other
  rw [finishWork_over s c k f going has, swaps]
  have state := state_of_onward onward
  have counted := counted_countCensus w.s c k t f w.census (by rw [slot_of_onward onward]; exact task)
  have cores (m : CoreNo) (hm : m ≠ c) : getCore (countCensus w.s c k f w.census) m = getCore s m := by
    rw [getCore_countCensus _ _ _ _ _ hm, onward.others m hm, startWork_s]
  have work := besideWork_countCensus w.s c k f w.census
  generalize countCensus w.s c k f w.census = v at counted cores work
  obtain ⟨slot, rest, others⟩ := endTask_outstanding v c k stOk 0 w.outs outs
  refine ⟨by rw [slot], by rw [slot], by rw [slot], by rw [slot], by rw [slot], by rw [slot]; exact ⟨rfl, rfl⟩, fun m hm => (others m hm).trans (cores m hm),
    fun a out => ?_, ?_⟩
  · have ended : memByte (endTask v c k stOk 0 w.outs true) a = memByte v a := (congrArg (fun x : State => memByte x a) rest :)
    have entries (n : Nat) : (getRing w.s n).entry = (getRing s n).entry := (congrArg (fun x : State => (getRing x n).entry) state :)
    exact ended.trans ((counted.recorded.memory a (outsideRings_of_entries entries out)).trans (congrArg (fun x : State => memByte x a) state :))
  · rw [besideWork_endTask, work]
    exact (congrArg besideWork state :)

theorem exec_unstored {i : Instr} {f : CensusFrom} {outs : List Out} (onward : Onward c (startWork s c k t) w)
    (run : exec i s = finish s (finishWork s w c k f)) (task : (getSlot s c k).task = some t) (other : t.op ≠ some .copy) (going : w.stop = none)
    (has : w.want = []) (output : w.outs = outs) (some_ : outs ≠ []) : ∃ u, exec i s = .next u ∧ EndsUnstored s u c k stOk 0 outs := by
  subst output
  have ends := endsUnstored_finishWork onward f task other going has some_
  exact ⟨_, run.trans (finish_of_work ends.rest), ends⟩

/-- Work that is over with no output ends its task at once. -/
theorem exec_atOnce {i : Instr} {f : CensusFrom} (run : exec i s = finish s (finishWork s w c k f)) (state : w.s = s) (task : (getSlot s c k).task = some t)
    (going : w.stop = none) (has : w.want = []) (none : w.outs = []) (uncounted : w.census = 0) (stored : storesOut (getCore s c) k = false) :
    ∃ u, exec i s = .next u ∧ EndsAtOnce s u c k t stOk (getSlot s c k).spoilt := by
  have over_ : finishWork s w c k f = endSlot s c k stOk 0 := by
    rw [finishWork_over s c k f going has, uncounted, countCensus_zero, none, state]
    rfl
  rw [over_] at run
  exact ⟨_, run.trans (finish_of_work (besideWork_endSlot ..)), endsAtOnce_endSlot stOk 0 task stored⟩

end

/-! Output piece by piece. -/

/-- Work that has put out more. -/
def putOn (w : Work) (o : List Out) : Work := { w with outs := w.outs ++ o }

theorem putOn_nil (w : Work) : putOn w [] = w := by
  unfold putOn
  rw [List.append_nil]

theorem putOn_putOn (w : Work) (a b : List Out) : putOn (putOn w a) b = putOn w (a ++ b) := by
  unfold putOn
  rw [List.append_assoc]

/-- Steps that each put out something. -/
theorem foldl_putOn {α : Type} {f : Work → α → Work} {g : α → List Out} {w : Work} {l : List α}
    (h : ∀ o, ∀ x ∈ l, f (putOn w o) x = putOn (putOn w o) (g x)) (o : List Out) : l.foldl f (putOn w o) = putOn w (o ++ l.flatMap g) := by
  induction l generalizing o with
  | nil => simp
  | cons x l ih =>
    rw [List.foldl_cons, h o x (List.mem_cons_self ..), putOn_putOn, ih fun o y hy => h o y (List.mem_cons_of_mem _ hy), List.flatMap_cons,
      List.append_assoc]

theorem foldl_putOn_all {α : Type} {f : Work → α → Work} {g : α → List Out} {w : Work} {l : List α}
    (h : ∀ o, ∀ x ∈ l, f (putOn w o) x = putOn (putOn w o) (g x)) : l.foldl f w = putOn w (l.flatMap g) := by
  have all := foldl_putOn h []
  rwa [putOn_nil] at all

section
variable {s : State} {c : CoreNo} {k : SlotNo} {t : Task}

theorem onward_putOn (w : Work) (o : List Out) : Onward c w (putOn w o) := onward_of_same rfl rfl

theorem going_putOn (o : List Out) : (putOn (startWork s c k t) o).halted = false := halted_eq_false startWork_stop startWork_want

/-- What the compute region supplies is not fetched. -/
theorem fetch_supplied {a n : Nat} (other : t.op ≠ some .copy) (o : List Out) (h : Supplied s c k t a n) :
    (putOn (startWork s c k t) o).fetch a n = putOn (startWork s c k t) o := by
  refine fetch_there ?_ ?_
  · change rangeOk (startWork s c k t).s (startWork s c k t).t.ctx .read a n = true
    rw [startWork_s, startWork_t]
    exact h.1
  · change n = 0 ∨ covered (startWork s c k t).got a n = true
    rw [startWork_got other]
    exact h.2

theorem fetchAll_supplied {l : List (Nat × Nat)} (other : t.op ≠ some .copy) (o : List Out) (h : ∀ r ∈ l, Supplied s c k t r.1 r.2) :
    (putOn (startWork s c k t) o).fetchAll l = putOn (startWork s c k t) o := by
  induction l with
  | nil => rfl
  | cons r l ih =>
    obtain ⟨first, others⟩ := List.forall_mem_cons.mp h
    change ((putOn (startWork s c k t) o).fetch r.1 r.2).fetchAll l = _
    rw [fetch_supplied other o first, ih others]

/-- A store of work that goes on. -/
theorem store_putOn (o : List Out) (a : Nat) (bs : List Byte) :
    (putOn (startWork s c k t) o).store a bs = putOn (putOn (startWork s c k t) o) (putOut [(a, bs)]) := store_going a bs (going_putOn o)

/-- Several stores of work that goes on. -/
theorem stores_putOn (o : List Out) (l : List (Nat × List Byte)) :
    l.foldl (fun w e => w.store e.1 e.2) (putOn (startWork s c k t) o) = putOn (putOn (startWork s c k t) o) (l.flatMap fun e => putOut [e]) := by
  rw [putOn_putOn]
  exact foldl_putOn (fun o e _ => store_putOn o e.1 e.2) o

/-! ROUTE (R194 to R197, R209). -/

theorem routeRun_supplied (other : t.op ≠ some .copy) (bias : roBias t ≠ 0 → Supplied s c k t (roBias t) (4 * roE t))
    (logits : Supplied s c k t (roZ t) (4 * roT t * roE t)) :
    ∃ n, routeRun c k s t = { putOn (startWork s c k t) (putOut [(roOut t, routeBytes (startWork s c k t).view t)]) with census := n } := by
  have fetchedBias : (if roBias t = 0 then startWork s c k t else (startWork s c k t).fetch (roBias t) (4 * roE t)) = startWork s c k t := by
    split
    · rfl
    · rename_i some_
      have there := fetch_supplied other [] (bias some_)
      rwa [putOn_nil] at there
  have there := fetch_supplied other [] logits
  rw [putOn_nil] at there
  have going : (startWork s c k t).halted = false := halted_eq_false startWork_stop startWork_want
  refine ⟨if roCensus t then nonFinites ((routeTokens (startWork s c k t).view t).map Prod.snd).flatten else 0, ?_⟩
  unfold routeRun
  dsimp only
  rw [fetchedBias, there, andThen_going _ going]
  exact store_going _ _ (halted_eq_false startWork_stop startWork_want)

theorem routeBwdRun_supplied (other : t.op ≠ some .copy) (logits : Supplied s c k t (roZ t) (4 * roT t * roE t))
    (records : Supplied s c k t (roOut t) (8 * roT t * roStride t)) (grads : Supplied s c k t (roDw t) (4 * roT t * roK t)) :
    routeBwdRun c k s t = putOn (startWork s c k t) (putOut [(roDz t, routeBwdBytes (startWork s c k t).view t)]) := by
  have there := fetchAll_supplied (l := [(roZ t, 4 * roT t * roE t), (roOut t, 8 * roT t * roStride t), (roDw t, 4 * roT t * roK t)]) other []
    (by simpa using ⟨logits, records, grads⟩)
  rw [putOn_nil] at there
  have going : (startWork s c k t).halted = false := halted_eq_false startWork_stop startWork_want
  unfold routeBwdRun
  rw [there, andThen_going _ going]
  exact store_going _ _ going

/-! DISPATCH with BWD set (R208). -/

theorem dispatchBwdRun_supplied (other : t.op ≠ some .copy) (places : Supplied s c k t (diPlace t) (8 * diT t * diK t))
    (rows : ∀ i, i < diT t → ∀ a ∈ gatherPlaces t (startWork s c k t).view i, Supplied s c k t a (diRow t)) :
    dispatchBwdRun c k s t = putOn (startWork s c k t)
      ((List.range (diT t)).flatMap fun i => putOut [(diSrc t + i * diRow t, gatherRow t (startWork s c k t).view i)]) := by
  have there := fetch_supplied other [] places
  rw [putOn_nil] at there
  have token (o : List Out) (i : Nat) (hi : i ∈ List.range (diT t)) : gatherToken t (putOn (startWork s c k t) o) i =
      putOn (putOn (startWork s c k t) o) (putOut [(diSrc t + i * diRow t, gatherRow t (startWork s c k t).view i)]) := by
    have fetched : (putOn (startWork s c k t) o).fetchAll ((gatherPlaces t (putOn (startWork s c k t) o).view i).map fun a => (a, diRow t)) =
        putOn (startWork s c k t) o := by
      refine fetchAll_supplied other o fun r hr => ?_
      obtain ⟨a, ha, rfl⟩ := List.mem_map.mp hr
      exact rows i (List.mem_range.mp hi) a ha
    unfold gatherToken
    rw [fetched, andThen_going _ (going_putOn o)]
    exact store_putOn o _ _
  unfold dispatchBwdRun
  rw [there, andThen_going _ (halted_eq_false startWork_stop startWork_want), foldl_putOn_all token]

/-! COMBINE (R207, R208). -/

section
variable (other : t.op ≠ some .copy) (supplied : CombineSupplied s c k t)
include other supplied

theorem combineStart_supplied : combineStart c k s t = startWork s c k t := by
  obtain ⟨places, routes, first, strides, grads, resid, -⟩ := supplied
  have records : fetched s c k t (combineRecords s t) = startWork s c k t := by
    have all := fetchAll_supplied (l := combineRecords s t) other [] fun r hr => by
      unfold combineRecords at hr
      rcases List.mem_append.mp hr with h | h
      · simp only [List.mem_cons, List.not_mem_nil, or_false] at h
        rcases h with rfl | rfl
        · exact places
        · exact routes
      · split at h
        · rename_i known
          simp only [Bool.and_eq_true, bne_iff_ne, decide_eq_true_eq] at known
          rw [List.mem_singleton.mp h]
          exact first known.1.1 known.1.2 known.2
        · cases h
    rwa [putOn_nil] at all
  have stride := fetch_supplied other [] strides
  have others := fetchAll_supplied (l := combineOther t) other [] fun r hr => by
    unfold combineOther at hr
    split at hr
    · rename_i backward
      rw [List.mem_singleton.mp hr]
      exact grads backward
    · rename_i forward
      split at hr
      · cases hr
      · rename_i some_
        rw [List.mem_singleton.mp hr]
        exact resid (by simpa using forward) some_
  rw [putOn_nil] at stride others
  rw [combineStart_eq, records, andThen_going _ (halted_eq_false startWork_stop startWork_want), stride, others]

/-- A token's choices are at hand. -/
theorem fetchChoices_supplied (o : List Out) {i : Nat} (hi : i ∈ List.range (coT t)) :
    fetchChoices t (tokenChoices (startWork s c k t).view t (coStride (startWork s c k t).view t) i) (putOn (startWork s c k t) o) =
      putOn (startWork s c k t) o := by
  obtain ⟨-, -, -, -, -, -, rows⟩ := supplied
  refine fetchAll_supplied other o fun r hr => ?_
  obtain ⟨e, he, rfl⟩ := List.mem_map.mp hr
  obtain ⟨listed, kept⟩ := List.mem_filter.mp he
  exact rows i (List.mem_range.mp hi) e listed (by simpa using kept)

theorem combineRun_supplied : combineRun c k s t = putOn (startWork s c k t) ((List.range (coT t)).flatMap fun i =>
    putOut [(coY t + i * coYrow t, combineRow t (coStride (startWork s c k t).view t) (startWork s c k t).view i)]) := by
  have token (o : List Out) (i : Nat) (hi : i ∈ List.range (coT t)) :
      combineToken t (coStride (startWork s c k t).view t) (putOn (startWork s c k t) o) i = putOn (putOn (startWork s c k t) o)
        (putOut [(coY t + i * coYrow t, combineRow t (coStride (startWork s c k t).view t) (startWork s c k t).view i)]) := by
    have fetched := fetchChoices_supplied other supplied o hi
    unfold combineToken
    change (fetchChoices t (tokenChoices (startWork s c k t).view t _ i) _).andThen _ = _
    rw [fetched, andThen_going _ (going_putOn o)]
    exact store_putOn o _ _
  unfold combineRun
  rw [combineStart_supplied other supplied, andThen_going _ (halted_eq_false startWork_stop startWork_want), foldl_putOn_all token]

theorem scatterToken_supplied (o : List Out) {i : Nat} (hi : i ∈ List.range (coT t)) :
    scatterToken t (coStride (startWork s c k t).view t) (putOn (startWork s c k t) o) i = putOn (putOn (startWork s c k t) o)
      ((scatterStores t (coStride (startWork s c k t).view t) (startWork s c k t).view i).flatMap fun e => putOut [e]) := by
  have fetched := fetchChoices_supplied other supplied o hi
  unfold scatterToken
  change (fetchChoices t (tokenChoices (startWork s c k t).view t _ i) _).andThen _ = _
  rw [fetched, andThen_going _ (going_putOn o)]
  exact stores_putOn o _

theorem combineBwdRun_supplied : combineBwdRun c k s t = putOn (startWork s c k t) ((List.range (coT t)).flatMap fun i =>
    (scatterStores t (coStride (startWork s c k t).view t) (startWork s c k t).view i).flatMap fun e => putOut [e]) := by
  unfold combineBwdRun
  rw [combineStart_supplied other supplied, andThen_going _ (halted_eq_false startWork_stop startWork_want)]
  exact foldl_putOn_all fun o i hi => scatterToken_supplied other supplied o hi

end

end

end Sys2Proof.Proofs.AloneTasks

/-!
SUPPORT. The end of a GAUNTLET's stages (R95, R97, R210, R223).
-/
namespace Sys2Proof.Proofs.GauntletEnds
open Sys2Proof Sys2Proof.Machine Sys2Proof.Proofs.Outcomes Sys2Proof.Proofs.RecordEnds Sys2Proof.Proofs.Palms Sys2Proof.Proofs.Sequencer
  Sys2Proof.Proofs.Engines Sys2Proof.Proofs.SlotRequests Sys2Proof.Proofs.Transfers Sys2Proof.Proofs.Works Sys2Proof.Proofs.Operands
  Sys2Proof.Proofs.Stages Sys2Proof.Proofs.AloneTasks

/-! Work that goes on after it has read has all that it read. -/

section
variable {w : Work}

theorem halted_of_stop (h : w.stop.isSome) : w.halted = true := by
  unfold Work.halted
  rw [h]
  rfl

theorem halted_fail (w : Work) (st : BitVec 8) (d : BitVec 16) : (w.fail st d).halted = true := by
  unfold Work.fail
  split
  · rename_i stop
    exact halted_of_stop (by rw [stop]; rfl)
  · rfl

theorem halted_refuse (w : Work) (st : BitVec 8) (d : BitVec 16) : (w.refuse st d).halted = true := by
  unfold Work.refuse
  split
  · rename_i stop
    exact halted_of_stop (by rw [stop]; rfl)
  · rfl

theorem fetchBlock_going {x : Xfer} (h : (w.fetchBlock x).halted = false) : w.fetchBlock x = w := by
  unfold Work.fetchBlock at h ⊢
  split
  · rfl
  · split
    · rename_i running refused
      rw [if_neg running, if_pos refused, halted_fail] at h
      cases h
    · split
      · rfl
      · rename_i running allowed lacks
        rw [if_neg running, if_neg allowed, if_neg lacks] at h
        simp [Work.halted] at h

theorem fetch_going {a n : Nat} (h : (w.fetch a n).halted = false) : w.fetch a n = w := fetchBlock_going h

/-- A directory that has been read. -/
theorem readDirectory_going (h : (readDirectory w).halted = false) : readDirectory w = w := by
  unfold readDirectory at h ⊢
  dsimp only at h ⊢
  split
  · rfl
  · rename_i named
    rw [if_neg named] at h
    by_cases stops : (w.fetch (gA w.t) 64).halted = true
    · rw [andThen_halted _ stops, stops] at h
      cases h
    · have going := Bool.not_eq_true _ ▸ stops
      rw [andThen_going _ going, fetch_going going] at h ⊢
      split
      · rename_i incomplete
        rw [if_pos incomplete, halted_refuse] at h
        cases h
      · rename_i complete
        rw [if_neg complete] at h
        exact fetch_going h

theorem going_iff : w.halted = false ↔ w.stop = none ∧ w.want = [] := by
  unfold Work.halted
  simp

end

/-! The work of a GAUNTLET. -/

section
variable {s : State} {c : CoreNo} {k : SlotNo} {t : Task} {src : RowSource} {r : GRun} {g : Stage}

section
variable (checked : metaWaits s c k t = false) (read : (readDirectory (startWork s c k t)).halted = false)
include checked read

/-- A directory entry with no rows. -/
theorem gauntletWork_empty (rows : (rowSource (startWork s c k t).view c t).m = 0) (plain : gPalm t = false) :
    gauntletWork c k s t = finishWork s (startWork s c k t) c k .stages := by
  unfold gauntletWork
  dsimp only
  rw [checked, readDirectory_going read, halted_eq_false startWork_stop startWork_want, if_neg Bool.false_ne_true, if_neg Bool.false_ne_true, if_pos rows,
    plain, if_neg Bool.false_ne_true]

/-- All K-slices fetched. -/
theorem gauntletWork_stages (source : src = rowSource (startWork s c k t).view c t) (rows : src.m ≠ 0)
    (header : stageOf t 5 = none ∨ (getSlot s c k).headerOut = true) (ok : (getSlot s c k).status = stOk) (ahead : (getSlot s c k).ahead = false)
    (slices : (gauntletSlices s c t src).length ≤ (getSlot s c k).slice) :
    gauntletWork c k s t = gauntletEnd s c k src (runStages (startWork s c k t) c src) := by
  have stands : firstHeader s c k t src = s := by
    unfold firstHeader
    split
    · rfl
    · rename_i found
      rcases header with none | out
      · cases none.symm.trans found
      · exact if_pos out
  have last : (gauntletSlices s c t src)[(getSlot s c k).slice]? = none := List.getElem?_eq_none slices
  unfold gauntletWork
  dsimp only
  rw [checked, readDirectory_going read, halted_eq_false startWork_stop startWork_want, if_neg Bool.false_ne_true, if_neg Bool.false_ne_true, ← source,
    if_neg rows, stands, ok, ahead, if_neg (by simp), if_neg Bool.false_ne_true, last]
  rfl

end

/-! The end. -/

theorem gauntletEnd_stored (last : lastStage t = some g) (same : r.w.t = t) (stores : g.kind = 5 ∨ g.kind = 6) :
    gauntletEnd s c k src r = finishWork s r.w c k .stages := by
  unfold gauntletEnd
  dsimp only
  rw [same, last]
  refine if_pos ?_
  simpa [or_assoc] using Or.inr stores

section
variable (last : lastStage t = some g) (same : r.w.t = t) (going : r.w.halted = false) (h5 : g.kind ≠ 5) (h6 : g.kind ≠ 6)
include last same going h5 h6

theorem gauntletEnd_rows (plain : gPalm t = false) : gauntletEnd s c k src r = finishWork s (gauntletStores src r) c k .stages := by
  unfold gauntletEnd
  dsimp only
  rw [same, last, going, plain, if_neg (by simp [h5, h6]), if_neg Bool.false_ne_true]

theorem gauntletEnd_palm (palm : gPalm t = true) : gauntletEnd s c k src r = palmKeep r.w.s c k src r := by
  unfold gauntletEnd
  dsimp only
  rw [same, last, going, palm, if_neg (by simp [h5, h6]), if_pos rfl]

end

/-- The rows of a contribution are kept, and the slot waits. -/
theorem palmKeep_keeps (task : (getSlot s c k).task = some t) (none : r.w.outs = []) : (getSlot (palmKeep s c k src r) c k).outRows = r.rows ∧
    (getSlot (palmKeep s c k src r) c k).outRow0 = src.first ∧ (getSlot (palmKeep s c k src r) c k).started = true ∧
    (getSlot (palmKeep s c k src r) c k).state = .late ∧ (getSlot (palmKeep s c k src r) c k).ended = (getSlot s c k).ended := by
  obtain ⟨census, slot⟩ := (counted_countCensus s c k t .stages r.w.census task).slot
  unfold palmKeep
  dsimp only
  generalize countCensus s c k .stages r.w.census = v at slot ⊢
  have unended : (getSlot v c k).ended = (getSlot s c k).ended := by rw [slot]
  generalize hx : ({ getSlot v c k with
    outRows := r.rows, outRow0 := src.first, outs := r.w.outs, outsReady := true, started := true, state := .late } : Slot) = x
  have kept : coreSlot (getCore (setSlot v c k x) c) k = x := (getSlot_eq_coreSlot ..).symm.trans (getSlot_same v c k x)
  have judged : getSlot (judgeCore (setSlot v c k x) c) c k = x :=
    (getSlot_setCore_same ..).trans ((judge_keeps _ _ (by rw [kept, ← hx])).trans kept)
  rw [drainSlot_none (by rw [getSlot_same, ← hx]; exact none), judged, ← hx]
  exact ⟨rfl, rfl, rfl, rfl, unended⟩

theorem besideWork_palmKeep (s : State) : besideWork (palmKeep s c k src r) = besideWork s := by
  unfold palmKeep
  simp

/-- The stores of the last output are put out by work that goes on. -/
theorem onward_gauntletStores (h : Onward c (startWork s c k t) r.w) : Onward c (startWork s c k t) (gauntletStores src r) :=
  h.trans (onward_storeRows ..)

theorem gauntletStores_going (going : r.w.halted = false) : (gauntletStores src r).stop = none ∧ (gauntletStores src r).want = [] := by
  have stored : gauntletStores src r = _ := storeRows_going _ going
  rw [stored]
  exact going_iff.mp going

theorem onward_run (stages : r = runStages (startWork s c k t) c src) : Onward c (startWork s c k t) r.w := stages ▸ onward_runStages ..

/-! The row. -/

section
variable (running : runningTask s c k .gauntlet = some t) (checked : metaWaits s c k t = false)
  (read : (readDirectory (startWork s c k t)).halted = false) (source : src = rowSource (readDirectory (startWork s c k t)).view c t)
include running checked read source

theorem exec_gauntlet_empty (rows : src.m = 0) (plain : gPalm t = false) (stored : storesOut (getCore s c) k = false) :
    ∃ u, exec (.gauntlet c k) s = .next u ∧ EndsAtOnce s u c k t stOk (getSlot s c k).spoilt := by
  rw [readDirectory_going read] at source
  have run : exec (.gauntlet c k) s = finish s (gauntletWork c k s t) := exec_work running rfl
  rw [gauntletWork_empty checked read (source ▸ rows) plain] at run
  exact exec_atOnce run startWork_s (running_of_runningTask running).task startWork_stop startWork_want startWork_outs startWork_census stored

section
variable (rows : src.m ≠ 0) (header : stageOf t 5 = none ∨ (getSlot s c k).headerOut = true) (ok : (getSlot s c k).status = stOk)
  (ahead : (getSlot s c k).ahead = false) (slices : (gauntletSlices s c t src).length ≤ (getSlot s c k).slice)
  (stages : r = runStages (startWork s c k t) c src) (going : r.w.halted = false) (last : lastStage t = some g)
include rows header ok ahead slices stages

theorem exec_gauntlet_end : exec (.gauntlet c k) s = finish s (gauntletEnd s c k src r) := by
  rw [readDirectory_going read] at source
  rw [exec_work running rfl, gauntletWork_stages checked read source rows header ok ahead slices, stages]

include going last

/-- The last stage stores by itself. -/
theorem exec_gauntlet_stored (stores : g.kind = 5 ∨ g.kind = 6) (some_ : r.w.outs ≠ []) :
    ∃ u, exec (.gauntlet c k) s = .next u ∧ EndsUnstored s u c k stOk 0 r.w.outs := by
  have run := exec_gauntlet_end running checked read source rows header ok ahead slices stages
  have onward := onward_run stages
  obtain ⟨stop, want⟩ := going_iff.mp going
  rw [gauntletEnd_stored last (onward.task.trans startWork_t) stores] at run
  obtain ⟨task, op, -⟩ := running_of_runningTask running
  exact exec_unstored onward run task (by simp [op]) stop want rfl some_

section
variable (h5 : g.kind ≠ 5) (h6 : g.kind ≠ 6)
include h5 h6

/-- The last output goes to memory. -/
theorem exec_gauntlet_rows (plain : gPalm t = false) (some_ : (gauntletStores src r).outs ≠ []) :
    ∃ u, exec (.gauntlet c k) s = .next u ∧ EndsUnstored s u c k stOk 0 (gauntletStores src r).outs := by
  have run := exec_gauntlet_end running checked read source rows header ok ahead slices stages
  have onward := onward_run stages
  obtain ⟨stop, want⟩ := gauntletStores_going (src := src) going
  rw [gauntletEnd_rows last (onward.task.trans startWork_t) going h5 h6 plain] at run
  obtain ⟨task, op, -⟩ := running_of_runningTask running
  exact exec_unstored (onward_gauntletStores onward) run task (by simp [op]) stop want rfl some_

/-- The last output is kept for its Palm. -/
theorem exec_gauntlet_palm (palm : gPalm t = true) (none : r.w.outs = []) : ∃ u, exec (.gauntlet c k) s = .next u ∧
    (getSlot u c k).outRows = r.rows ∧ (getSlot u c k).outRow0 = src.first ∧ (getSlot u c k).started = true ∧ (getSlot u c k).state = .late ∧
    (getSlot u c k).ended = (getSlot s c k).ended ∧ besideWork u = besideWork s := by
  have run := exec_gauntlet_end running checked read source rows header ok ahead slices stages
  have onward := onward_run stages
  rw [gauntletEnd_palm last (onward.task.trans startWork_t) going h5 h6 palm] at run
  have same := slot_of_onward onward k
  obtain ⟨outRows, first, started, late, ended⟩ := palmKeep_keeps (s := r.w.s) (src := src)
    (by rw [same]; exact (running_of_runningTask running).task) none
  have work : besideWork (palmKeep r.w.s c k src r) = besideWork s :=
    (besideWork_palmKeep r.w.s).trans (congrArg besideWork (state_of_onward onward) :)
  exact ⟨_, run.trans (finish_of_work work), outRows, first, started, late, ended.trans (congrArg Slot.ended same), work⟩

end

end

end

end

end Sys2Proof.Proofs.GauntletEnds

/-!
SUPPORT. A GAUNTLET of one vector stage (R95, R98, R99), and the tasks that work alone.
-/
namespace Sys2Proof.Proofs.AloneEnds
open Sys2Proof Sys2Proof.Machine Sys2Proof.Proofs.Outcomes Sys2Proof.Proofs.Sequencer Sys2Proof.Proofs.Engines Sys2Proof.Proofs.Transfers
  Sys2Proof.Proofs.Works Sys2Proof.Proofs.Operands Sys2Proof.Proofs.Stages Sys2Proof.Proofs.AloneTasks Sys2Proof.Proofs.GauntletEnds

/-! One vector stage. -/

section
variable {s : State} {c : CoreNo} {k : SlotNo} {t : Task} {w : Work} {src : RowSource} {r : GRun} {g : Stage}

/-- What the census of a stage leaves of its work. -/
theorem lsCensusRows_work (t : Task) (g : Stage) (r : GRun) : ∃ n, (lsCensusRows t g r).w = { r.w with census := n } := by
  unfold lsCensusRows
  dsimp only
  split
  · exact ⟨_, rfl⟩
  · exact ⟨_, rfl⟩

/-- An ELEMENTWISE stage that takes no saved rows. -/
theorem runStage_elementwise (kind : g.kind = 2) (forward : g.func < 8) (going : r.w.halted = false) : runStage c src t r g =
    lsCensusRows t g { r with rows := r.rows.map fun x => elementwiseRow r.w.s.weala.generation g.func x x } := by
  have own : decide (8 ≤ g.func) = false := by simpa using forward
  have pairs : ((r.rows.zip r.rows).map fun e => elementwiseRow r.w.s.weala.generation g.func e.1 e.2) =
      r.rows.map fun x => elementwiseRow r.w.s.weala.generation g.func x x := by
    rw [List.zip, List.zipWith_self, List.map_map]
    rfl
  unfold runStage
  rw [going, if_neg Bool.false_ne_true, kind]
  dsimp only
  rw [own, if_neg Bool.false_ne_true]
  dsimp only
  rw [going, if_neg Bool.false_ne_true, pairs]
  rfl

/-- A GAUNTLET of one stage that is no DROPOUT. -/
theorem runStages_single (single : gStages w.t = [g]) (plain : g.kind ≠ 4) (going : w.halted = false) : runStages w c src =
    runStage c src w.t { w := (readA w src).1, rows := (readA w src).2.map fun e => rowF32 (fmtD (gAfmt w.t)) e.1 e.2
                         a := (readA w src).2.map fun e => opRow (fmtD (gAfmt w.t)) e.1 e.2 } g := by
  have keeps : hasStage w.t 4 = false := by
    unfold hasStage stageOf
    rw [single]
    simp [plain]
  unfold runStages
  dsimp only
  rw [keeps, if_neg Bool.false_ne_true]
  dsimp only
  rw [andThen_going _ going, Bool.false_and, if_neg Bool.false_ne_true, going, if_neg Bool.false_ne_true, single]
  rfl

theorem fetchBlock_supplied {x : Xfer} (other : t.op ≠ some .copy) (h : BlockSupplied s c k t x) :
    (startWork s c k t).fetchBlock x = startWork s c k t := by
  refine fetchBlock_there ?_ ?_
  · rw [startWork_s, startWork_t]
    exact h.1
  · rw [startWork_got other]
    exact h.2

/-- A dense A operand that is at hand. -/
theorem readA_supplied (other : t.op ≠ some .copy) (direct : gAsrc t = 0) (dense : gPattern t = 0)
    (elements : BlockSupplied s c k t (rowBlock (fmtD (gAfmt t)) src.a (gLda t) src.m 0 (inputWidth t)))
    (scales : (fmtD (gAfmt t)).isMx = true → BlockSupplied s c k t (scaleBlock (gAscale t) (gLda t) src.m 0 (inputWidth t))) :
    readA (startWork s c k t) src = (startWork s c k t, (List.range src.m).map fun i =>
      (rowCodes (startWork s c k t).view (fmtD (gAfmt t)) src.a (gLda t) i (inputWidth t),
       rowScales (startWork s c k t).view (fmtD (gAfmt t)) (gAscale t) (gLda t) i (inputWidth t))) := by
  have all : (if (fmtD (gAfmt t)).isMx = true then (startWork s c k t).fetchBlock (scaleBlock (gAscale t) (gLda t) src.m 0 (inputWidth t))
      else startWork s c k t) = startWork s c k t := by
    split
    · rename_i mx
      exact fetchBlock_supplied other (scales mx)
    · rfl
  unfold readA
  dsimp only
  rw [startWork_t, direct, dense, if_neg (by decide), bne_self_eq_false, if_neg Bool.false_ne_true]
  unfold readRows
  dsimp only
  rw [fetchBlock_supplied other elements, all, halted_eq_false startWork_stop startWork_want, if_neg Bool.false_ne_true]

/-- Row i of A, as values. -/
def rowOfA (s : State) (c : CoreNo) (k : SlotNo) (t : Task) (a i : Nat) : List F32 :=
  rowF32 (fmtD (gAfmt t)) (rowCodes (startWork s c k t).view (fmtD (gAfmt t)) a (gLda t) i (inputWidth t))
    (rowScales (startWork s c k t).view (fmtD (gAfmt t)) (gAscale t) (gLda t) i (inputWidth t))

section
variable (single : gStages t = [g]) (kind : g.kind = 2) (forward : g.func < 8) (other : t.op ≠ some .copy) (direct : gAsrc t = 0) (dense : gPattern t = 0)
  (elements : BlockSupplied s c k t (rowBlock (fmtD (gAfmt t)) src.a (gLda t) src.m 0 (inputWidth t)))
  (scales : (fmtD (gAfmt t)).isMx = true → BlockSupplied s c k t (scaleBlock (gAscale t) (gLda t) src.m 0 (inputWidth t)))
include single kind forward other direct dense elements scales

/-- A GAUNTLET of one ELEMENTWISE stage: each row of A through the function, its loss scale applied. -/
theorem runStages_elementwise : (∃ n, (runStages (startWork s c k t) c src).w = { startWork s c k t with census := n }) ∧
    (runStages (startWork s c k t) c src).rows = lsRows g.ls (t.exp.getD 0) ((List.range src.m).map fun i =>
      elementwiseRow s.weala.generation g.func (rowOfA s c k t src.a i) (rowOfA s c k t src.a i)) := by
  have going := halted_eq_false (startWork_stop (s := s) (c := c) (k := k) (t := t)) startWork_want
  rw [runStages_single (by rw [startWork_t]; exact single) (by rw [kind]; decide) going, readA_supplied other direct dense elements scales, startWork_t,
    runStage_elementwise kind forward going]
  refine ⟨lsCensusRows_work .., ?_⟩
  unfold lsCensusRows
  dsimp only
  rw [startWork_s, List.map_map, List.map_map]
  rfl

/-- What such a GAUNTLET stores. -/
theorem gauntletStores_elementwise : (gauntletStores src (runStages (startWork s c k t) c src)).outs =
    putOut (rowStores (fmtD (gDfmt t)) t.saturate (rowAddr (fmtD (gDfmt t)) (gD t) (gLdd t) src.first) (gLdd t)
      (lsRows g.ls (t.exp.getD 0) ((List.range src.m).map fun i =>
        elementwiseRow s.weala.generation g.func (rowOfA s c k t src.a i) (rowOfA s c k t src.a i)))) := by
  obtain ⟨⟨n, work⟩, rows⟩ := runStages_elementwise single kind forward other direct dense elements scales
  have going : (runStages (startWork s c k t) c src).w.halted = false := by
    rw [work]
    exact halted_eq_false startWork_stop startWork_want
  have task : (runStages (startWork s c k t) c src).w.t = t := by
    rw [work]
    exact startWork_t
  have put : (runStages (startWork s c k t) c src).w.outs = [] := by
    rw [work]
    exact startWork_outs
  unfold gauntletStores
  dsimp only
  rw [storeRows_going _ going]
  dsimp only
  rw [put, task, rows, List.nil_append]

end

/-- The row of such a GAUNTLET. -/
theorem exec_gauntlet_elementwise {outs : List Out} (running : runningTask s c k .gauntlet = some t) (single : gStages t = [g]) (kind : g.kind = 2)
    (forward : g.func < 8) (direct : gAsrc t = 0) (dense : gPattern t = 0) (plain : gPalm t = false) (rows : gM t ≠ 0)
    (ok : (getSlot s c k).status = stOk) (ahead : (getSlot s c k).ahead = false)
    (slices : (gauntletSlices s c t (rowSource (startWork s c k t).view c t)).length ≤ (getSlot s c k).slice)
    (elements : BlockSupplied s c k t (rowBlock (fmtD (gAfmt t)) (gA t) (gLda t) (gM t) 0 (inputWidth t)))
    (scales : (fmtD (gAfmt t)).isMx = true → BlockSupplied s c k t (scaleBlock (gAscale t) (gLda t) (gM t) 0 (inputWidth t)))
    (output : outs = putOut (rowStores (fmtD (gDfmt t)) t.saturate (gD t) (gLdd t) (lsRows g.ls (t.exp.getD 0) ((List.range (gM t)).map fun i =>
      elementwiseRow s.weala.generation g.func (rowOfA s c k t (gA t) i) (rowOfA s c k t (gA t) i))))) (some_ : outs ≠ []) :
    ∃ u, exec (.gauntlet c k) s = .next u ∧ EndsUnstored s u c k stOk 0 outs := by
  have other : t.op ≠ some .copy := by simp [(running_of_runningTask running).op]
  have source : rowSource (startWork s c k t).view c t = { m := gM t, a := gA t } := by
    unfold rowSource
    rw [direct]
    exact if_pos (by decide)
  have read : readDirectory (startWork s c k t) = startWork s c k t := by
    unfold readDirectory
    dsimp only
    rw [startWork_t, direct]
    exact if_pos (by decide)
  have checked : metaWaits s c k t = false := by
    unfold metaWaits
    rw [dense, bne_self_eq_false, Bool.false_and, Bool.false_and]
  have header : stageOf t 5 = none := by
    unfold stageOf
    rw [single]
    simp [kind]
  have last : lastStage t = some g := by
    unfold lastStage
    rw [single]
    rfl
  rw [source] at slices
  generalize hsrc : ({ m := gM t, a := gA t } : RowSource) = src at source slices
  obtain ⟨m, first, a⟩ : src.m = gM t ∧ src.first = 0 ∧ src.a = gA t := by
    rw [← hsrc]
    exact ⟨rfl, rfl, rfl⟩
  rw [← m, ← a] at elements output
  rw [← m] at scales
  obtain ⟨⟨n, work⟩, -⟩ := runStages_elementwise single kind forward other direct dense elements scales
  have stores := gauntletStores_elementwise single kind forward other direct dense elements scales
  have base : rowAddr (fmtD (gDfmt t)) (gD t) (gLdd t) 0 = gD t := by simp [rowAddr]
  rw [first, base] at stores
  have going : (startWork s c k t).halted = false := halted_eq_false startWork_stop startWork_want
  rw [output, ← stores] at some_ ⊢
  exact exec_gauntlet_rows running checked (by rw [read]; exact going) (by rw [read]; exact source.symm) (by rw [m]; exact rows) (.inl header) ok ahead slices
    rfl (by rw [work]; exact going) last (by rw [kind]; decide) (by rw [kind]; decide) plain some_

end

/-! The tasks that work alone. -/

section
variable {s : State} {c : CoreNo} {k : SlotNo} {t : Task} {i : Instr} {f : CensusFrom} {outs : List Out}

/-- Work that has only put out. -/
theorem exec_putOn (run : exec i s = finish s (finishWork s (putOn (startWork s c k t) outs) c k f)) (task : (getSlot s c k).task = some t)
    (other : t.op ≠ some .copy) (some_ : outs ≠ []) : ∃ u, exec i s = .next u ∧ EndsUnstored s u c k stOk 0 outs :=
  exec_unstored (onward_putOn ..) run task other startWork_stop startWork_want (congrArg (· ++ outs) startWork_outs) some_

/-- Work that has put out nothing. -/
theorem exec_idle (run : exec i s = finish s (finishWork s (startWork s c k t) c k f)) (task : (getSlot s c k).task = some t)
    (stored : storesOut (getCore s c) k = false) : ∃ u, exec i s = .next u ∧ EndsAtOnce s u c k t stOk (getSlot s c k).spoilt :=
  exec_atOnce run startWork_s task startWork_stop startWork_want startWork_outs startWork_census stored

theorem exec_route (running : runningTask s c k .route = some t) (forward : t.bwd = false)
    (bias : roBias t ≠ 0 → Supplied s c k t (roBias t) (4 * roE t)) (logits : Supplied s c k t (roZ t) (4 * roT t * roE t))
    (output : outs = putOut [(roOut t, routeBytes (startWork s c k t).view t)]) (some_ : outs ≠ []) :
    ∃ u, exec (.route c k) s = .next u ∧ EndsUnstored s u c k stOk 0 outs := by
  obtain ⟨task, op, -⟩ := running_of_runningTask running
  have other : t.op ≠ some .copy := by simp [op]
  obtain ⟨n, work⟩ := routeRun_supplied other bias logits
  have run : exec (.route c k) s = finish s (routeWork c k s t) := exec_work running rfl
  unfold routeWork at run
  rw [forward, if_neg Bool.false_ne_true, work, ← output] at run
  exact exec_unstored (w := { putOn (startWork s c k t) outs with census := n }) (onward_of_same rfl rfl) run task other startWork_stop startWork_want
    (congrArg (· ++ outs) startWork_outs) some_

theorem exec_routeBwd (running : runningTask s c k .route = some t) (backward : t.bwd = true) (logits : Supplied s c k t (roZ t) (4 * roT t * roE t))
    (records : Supplied s c k t (roOut t) (8 * roT t * roStride t)) (grads : Supplied s c k t (roDw t) (4 * roT t * roK t))
    (output : outs = putOut [(roDz t, routeBwdBytes (startWork s c k t).view t)]) (some_ : outs ≠ []) :
    ∃ u, exec (.routeBwd c k) s = .next u ∧ EndsUnstored s u c k stOk 0 outs := by
  obtain ⟨task, op, -⟩ := running_of_runningTask running
  have other : t.op ≠ some .copy := by simp [op]
  have run : exec (.routeBwd c k) s = finish s (routeBwdWork c k s t) := exec_work running rfl
  unfold routeBwdWork at run
  rw [backward, Bool.not_true, if_neg Bool.false_ne_true, routeBwdRun_supplied other logits records grads, ← output] at run
  exact exec_putOn run task other some_

/-- The row of a DISPATCH with BWD set, with what its tokens put out. -/
theorem exec_dispatchBwd (running : runningTask s c k .dispatch = some t) (backward : t.bwd = true)
    (places : Supplied s c k t (diPlace t) (8 * diT t * diK t))
    (rows : ∀ i, i < diT t → ∀ a ∈ gatherPlaces t (startWork s c k t).view i, Supplied s c k t a (diRow t)) : exec (.dispatchBwd c k) s =
      finish s (finishWork s (putOn (startWork s c k t)
        ((List.range (diT t)).flatMap fun i => putOut [(diSrc t + i * diRow t, gatherRow t (startWork s c k t).view i)])) c k .route) := by
  rw [exec_work running rfl]
  unfold dispatchBwdWork
  rw [backward, Bool.not_true, if_neg Bool.false_ne_true, dispatchBwdRun_supplied (by simp [(running_of_runningTask running).op]) places rows]

section
variable (running : runningTask s c k .combine = some t) (supplied : CombineSupplied s c k t)
include running supplied

theorem exec_combine (forward : t.bwd = false) : exec (.combine c k) s =
      finish s (finishWork s (putOn (startWork s c k t) ((List.range (coT t)).flatMap fun i => putOut [(coY t + i * coYrow t,
        combineRow t (coStride (startWork s c k t).view t) (startWork s c k t).view i)])) c k .route) := by
  rw [exec_work running rfl]
  unfold combineWork
  rw [forward, if_neg Bool.false_ne_true, combineRun_supplied (by simp [(running_of_runningTask running).op]) supplied]

theorem exec_combineBwd (backward : t.bwd = true) : exec (.combineBwd c k) s =
      finish s (finishWork s (putOn (startWork s c k t) ((List.range (coT t)).flatMap fun i =>
        (scatterStores t (coStride (startWork s c k t).view t) (startWork s c k t).view i).flatMap fun e => putOut [e])) c k .route) := by
  rw [exec_work running rfl]
  unfold combineBwdWork
  rw [backward, Bool.not_true, if_neg Bool.false_ne_true, combineBwdRun_supplied (by simp [(running_of_runningTask running).op]) supplied]

end

theorem exec_dispatchBwd_empty (running : runningTask s c k .dispatch = some t) (backward : t.bwd = true) (tokens : diT t = 0)
    (places : rangeOk s t.ctx .read (diPlace t) 0 = true) (stored : storesOut (getCore s c) k = false) :
    ∃ u, exec (.dispatchBwd c k) s = .next u ∧ EndsAtOnce s u c k t stOk (getSlot s c k).spoilt := by
  have bytes : 8 * diT t * diK t = 0 := by rw [tokens, Nat.mul_zero, Nat.zero_mul]
  have run := exec_dispatchBwd running backward (by rw [bytes]; exact ⟨places, .inl rfl⟩) (by simp [tokens])
  rw [tokens, List.range_zero, List.flatMap_nil, putOn_nil] at run
  exact exec_idle run (running_of_runningTask running).task stored

theorem exec_combine_empty (which : i = .combine c k ∧ t.bwd = false ∨ i = .combineBwd c k ∧ t.bwd = true) (running : runningTask s c k .combine = some t)
    (tokens : coT t = 0) (supplied : CombineSupplied s c k t) (stored : storesOut (getCore s c) k = false) :
    ∃ u, exec i s = .next u ∧ EndsAtOnce s u c k t stOk (getSlot s c k).spoilt := by
  have run : exec i s = finish s (finishWork s (startWork s c k t) c k .route) := by
    rcases which with ⟨rfl, forward⟩ | ⟨rfl, backward⟩
    · rw [exec_combine running supplied forward, tokens, List.range_zero, List.flatMap_nil, putOn_nil]
    · rw [exec_combineBwd running supplied backward, tokens, List.range_zero, List.flatMap_nil, putOn_nil]
  exact exec_idle run (running_of_runningTask running).task stored

end

/-- Settles O21: each task's work, with its operands at hand, is what it puts out, and its end follows from that. -/
theorem tasksEndWithTheirStores : Obligations.TasksEndWithTheirStores := by
  unfold Obligations.TasksEndWithTheirStores
  refine ⟨fun s c k t v outs view some_ => ?_, fun s c k t stored places => ⟨fun running backward tokens => ?_, fun i which running tokens supplied => ?_⟩,
    fun s c k t src r g running checked read source => ⟨fun rows plain stored => ?_, fun rows header ok ahead slices stages going last => ⟨?_, fun h5 h6 =>
      ⟨fun plain output => ?_, fun palm none => ?_⟩⟩⟩, fun s c k t g running single kind forward direct dense plain rows ok ahead slices => ?_⟩
  · subst view
    refine ⟨fun running forward bias logits output => exec_route running forward bias logits output some_,
      fun running backward logits records grads output => exec_routeBwd running backward logits records grads output some_,
      fun running backward places rows output => ?_, fun running supplied => ⟨fun forward output => ?_, fun backward output => ?_⟩⟩
    all_goals
      obtain ⟨task, op, -⟩ := running_of_runningTask running
    · exact exec_putOn (output ▸ exec_dispatchBwd running backward places rows) task (by simp [op]) some_
    · exact exec_putOn (output ▸ exec_combine running supplied forward) task (by simp [op]) some_
    · exact exec_putOn (output ▸ exec_combineBwd running supplied backward) task (by simp [op]) some_
  · exact exec_dispatchBwd_empty running backward tokens places stored
  · exact exec_combine_empty which running tokens supplied stored
  · exact exec_gauntlet_empty running checked read source rows plain stored
  · exact fun stores some_ => exec_gauntlet_stored running checked read source rows header ok ahead slices stages going last stores some_
  · exact exec_gauntlet_rows running checked read source rows header ok ahead slices stages going last h5 h6 plain output
  · exact exec_gauntlet_palm running checked read source rows header ok ahead slices stages going last h5 h6 palm none
  · intro f v rows_ outs elements scales some_
    exact exec_gauntlet_elementwise running single kind forward direct dense plain rows ok ahead slices elements scales rfl some_

end Sys2Proof.Proofs.AloneEnds

/-!
SUPPORT. The check pass of a sparse operand (R132, R133).
-/
namespace Sys2Proof.Proofs.SparseChecks
open Sys2Proof Sys2Proof.Machine Sys2Proof.Proofs.Outcomes Sys2Proof.Proofs.Ends Sys2Proof.Proofs.RecordEnds Sys2Proof.Proofs.Sequencer Sys2Proof.Proofs.Engines
  Sys2Proof.Proofs.SlotRequests Sys2Proof.Proofs.Transfers Sys2Proof.Proofs.Works Sys2Proof.Proofs.GauntletEnds

/-! The check. -/

section
variable {s : State} {c : CoreNo} {k : SlotNo} {t : Task}

/-- Work that goes on stops where it fails. -/
theorem stop_fail {w : Work} (going : w.stop = none) (st : BitVec 8) (d : BitVec 16) : (w.fail st d).stop = some (st, d) := by
  unfold Work.fail
  rw [going]

/-- With its header there, and one of another array, the check stops there. -/
theorem sparseCheck_header (other : t.op ≠ some .copy) (header : Supplied s c k t (gMeta t) 32)
    (bad : headerOk (sparseA t) (memNat (startWork s c k t).view (gMeta t) 32) = false) :
    (sparseCheck (startWork s c k t) (sparseA t)).stop = some (stSparseMeta, 0) := by
  have there : (startWork s c k t).fetch (sparseA t).headerAt 32 = startWork s c k t :=
    fetch_there (by rw [startWork_s, startWork_t]; exact header.1) (by rw [startWork_got other]; exact header.2)
  have refused : headerOk (sparseA t) (memNat (startWork s c k t).view (sparseA t).headerAt 32) = false := bad
  unfold sparseCheck
  rw [there, andThen_going _ (halted_eq_false startWork_stop startWork_want), refused]
  exact stop_fail startWork_stop _ _

/-! The row. -/

section
variable (running : runningTask s c k .gauntlet = some t) (waits : metaWaits s c k t = true)
include running waits

theorem exec_sparseMetaCheck_good (good : (sparseCheck (startWork s c k t) (sparseA t)).halted = false) :
    exec (.sparseMetaCheck c k) s = .next (metaGood s c k t) := by
  obtain ⟨stop, want⟩ := going_iff.mp good
  have run : exec (.sparseMetaCheck c k) s = finish s (metaGood s c k t) := by
    refine congrArg (finish s) ((runTask_running running _).trans ?_)
    dsimp only
    rw [waits, stop, want]
    rfl
  rw [run]
  exact finish_of_work rfl

theorem exec_sparseMetaCheck_bad {d : BitVec 16} (bad : (sparseCheck (startWork s c k t) (sparseA t)).stop = some (stSparseMeta, d)) :
    exec (.sparseMetaCheck c k) s = .next (checkFails (countSparseFault s c) c k stSparseMeta) := by
  have run : exec (.sparseMetaCheck c k) s = finish s (checkFails (countSparseFault s c) c k stSparseMeta) := by
    refine congrArg (finish s) ((runTask_running running _).trans ?_)
    dsimp only
    rw [waits, bad]
    rfl
  rw [run]
  exact finish_of_work (by simp [checkFails, countSparseFault])

end

/-! A check that fails (R132, R135). -/

/-- The slot of a task whose check fails. -/
theorem checkFails_eq (st : BitVec 8) (task : (getSlot s c k).task = some t) (runs : (getSlot s c k).ended = false)
    (unbegun : t.op = some .reduce → (getSlot s c k).started = false) :
    checkFails s c k st = grantFetches c 6 (endSlot (setSlot (setSlot s c k { getSlot s c k with task := some t.unsignalled }) c k
      (givesUp (getSlot s c k) t.unsignalled (getSlot s c k).spoilt)) c k st 0) := by
  have fails := failSlot_eq (s := setSlot s c k { getSlot s c k with task := some t.unsignalled }) (t := t.unsignalled) (st := st)
    (by rw [getSlot_same]) (by rw [getSlot_same]; exact runs) (fun h => by rw [getSlot_same]; exact unbegun (op_unsignalled t ▸ h))
  rw [getSlot_same] at fails
  unfold checkFails
  dsimp only
  rw [task]
  exact fails

theorem registersOf_checkFails (s : State) (c : CoreNo) (k : SlotNo) (st : BitVec 8) :
    registersOf (getCore (checkFails s c k st) c) = registersOf (getCore s c) := by
  unfold checkFails
  refine ((workEnds_failSlot _ c k st).cores c).registers.trans ?_
  rw [getCore_setSlot]
  rfl

theorem sparseFaults_countSparseFault (s : State) (c : CoreNo) :
    (getCore (countSparseFault s c) c).sparseFaults = satInc (getCore s c).sparseFaults := congrArg Core.sparseFaults (getCore_same ..)

section
variable (st : BitVec 8) (task : (getSlot s c k).task = some t) (runs : (getSlot s c k).ended = false)
  (unbegun : t.op = some .reduce → (getSlot s c k).started = false) (stored : storesOut (getCore s c) k = false)
include task runs unbegun stored

/-- With no store outstanding the task of a check that fails is over at once, and it has no signal. -/
theorem checkFails_unsignalled : EndsAtOnce s (checkFails s c k st) c k t.unsignalled st (getSlot s c k).spoilt := by
  rw [checkFails_eq st task runs unbegun]
  generalize hv : setSlot (setSlot s c k { getSlot s c k with task := some t.unsignalled }) c k
    (givesUp (getSlot s c k) t.unsignalled (getSlot s c k).spoilt) = v
  have slot : getSlot v c k = givesUp (getSlot s c k) t.unsignalled (getSlot s c k).spoilt := by rw [← hv, getSlot_same]
  have queue : (getCore v c).storeQueue = (getCore s c).storeQueue := by rw [← hv, getCore_setSlot, getCore_setSlot]; rfl
  rw [storesOut_getCore] at stored
  simp only [Bool.or_eq_false_iff, Bool.not_eq_false', List.isEmpty_iff] at stored
  obtain ⟨⟨⟨tags, -⟩, -⟩, asks⟩ := stored
  have over_ : storesOut (getCore v c) k = false := by
    rw [storesOut_getCore, slot, queue, asks]
    simp [givesUp, tags]
  have ends := endsAtOnce_endSlot (t := t.unsignalled) st 0 (by rw [slot]; rfl) over_
  have spoils : (getSlot v c k).spoilt = (getSlot s c k).spoilt := by rw [slot]; rfl
  rw [spoils] at ends
  exact endsAtOnce_of_start (endsAtOnce_granted ends (granted_grantFetches c 6 _)) (fun a => by rw [← hv]; rfl) (by rw [← hv]; rfl)
    (by rw [slot]; rfl) id (by rw [← hv]; rfl)

/-- Nothing is signalled, whatever the descriptor asks for (R132). -/
theorem checkFails_ends : EndsAtOnce s (checkFails s c k st) c k t st (getSlot s c k).spoilt ∧
    ((getSlot s c k).spoilt = false → ∀ a, outsideRings s a → memByte (checkFails s c k st) a = memByte s a) := by
  have ends := checkFails_unsignalled st task runs unbegun stored
  have silent := ends.memory (sigMode_unsignalled t)
  exact ⟨⟨ends.slot, fun _ => silent, ends.rest⟩, fun clean a out => silent a out fun spoilt => by simp [clean] at spoilt⟩

end

end

/-- A fault that is counted changes the core's counter alone. -/
theorem getSlot_countSparseFault (s : State) (c : CoreNo) (k : SlotNo) : getSlot (countSparseFault s c) c k = getSlot s c k := by
  unfold countSparseFault getSlot
  dsimp only
  rw [getCore_same]

theorem storesOut_countSparseFault (s : State) (c : CoreNo) (k : SlotNo) :
    storesOut (getCore (countSparseFault s c) c) k = storesOut (getCore s c) k := by
  unfold countSparseFault
  dsimp only
  rw [getCore_same]
  rfl

/-- Settles O20: a check that passes keeps the header in the slot's store; one that meets another array's header ends the task, which then has no signal. -/
theorem sparseCheckPasses : Obligations.SparseCheckPasses := by
  unfold Obligations.SparseCheckPasses
  intro s c k t running waits
  obtain ⟨task, op, -, -, runs, -, -⟩ := running_of_runningTask running
  refine ⟨fun good => ?_, fun header bad stored => ?_⟩
  · have slot : getSlot (metaGood s c k t) c k = _ := getSlot_same ..
    exact ⟨_, exec_sparseMetaCheck_good running waits good, (congrArg Slot.metaChecked slot :), (congrArg Slot.checking slot :),
      (congrArg Slot.got slot :), (congrArg Slot.state slot :), (congrArg Slot.task slot :).trans task, rfl, fun m hm => getCore_other _ _ hm⟩
  · have ends := checkFails_ends (s := countSparseFault s c) (t := t) stSparseMeta (by rw [getSlot_countSparseFault]; exact task)
      (by rw [getSlot_countSparseFault]; exact runs) (fun reduce => by simp [op] at reduce) ((storesOut_countSparseFault s c k).trans stored)
    rw [getSlot_countSparseFault] at ends
    obtain ⟨over_, clean⟩ := ends
    refine ⟨_, exec_sparseMetaCheck_bad running waits (sparseCheck_header (by simp [op]) header bad), ?_, ?_, clean⟩
    · exact (congrArg Core.sparseFaults (registersOf_checkFails ..)).trans (sparseFaults_countSparseFault s c)
    · exact endsAtOnce_of_start over_ (fun _ => rfl) rfl (by rw [getSlot_countSparseFault]) id rfl

end Sys2Proof.Proofs.SparseChecks

/-!
SUPPORT. The frame of a link that partitions share (R155, log 70).
-/
namespace Sys2Proof.Proofs.Frames
open Sys2Proof Sys2Proof.Machine

/-- The slot of a frame of 32 that the j-th of n shares, spread evenly, takes. -/
def shareSlot (n j : Nat) : Nat := j * 32 / n

section
variable {n : Nat} (pos : 0 < n) (fits : n ≤ 32)
include pos fits

theorem shareSlot_strictMono : StrictMono (shareSlot n) := fun i j before =>
  calc i * 32 / n < i * 32 / n + 1 := Nat.lt_succ_self _
    _ = (i * 32 + n) / n := (Nat.add_div_right _ pos).symm
    _ ≤ j * 32 / n := Nat.div_le_div_right (by omega)

omit fits in
theorem shareSlot_lt {j : Nat} (h : j < n) : shareSlot n j < 32 := (Nat.div_lt_iff_lt_mul pos).mpr (by omega)

/-- Each share has a slot of its own, so that a search finds the one share that takes a slot. -/
theorem find?_shareSlot {i j : Nat} : (List.range n).find? (fun j => shareSlot n j == i) = some j ↔ j < n ∧ shareSlot n j = i := by
  constructor
  · intro found
    exact ⟨List.mem_range.mp (List.mem_of_find?_eq_some found), by simpa using List.find?_some found⟩
  · rintro ⟨below, rfl⟩
    obtain ⟨x, found⟩ : ∃ x, (List.range n).find? (fun i => shareSlot n i == shareSlot n j) = some x :=
      Option.isSome_iff_exists.mp (List.find?_isSome.mpr ⟨j, List.mem_range.mpr below, beq_self_eq_true (shareSlot n j)⟩)
    have same : shareSlot n x = shareSlot n j := by simpa using List.find?_some found
    rw [found, (shareSlot_strictMono pos fits).injective same]

end

/-- The slots of the users' frame that belong to them: as many for each (R155). -/
def shareCount (users : List PartNo) : Nat := 32 / users.length * users.length

/-- The partition that slot i of the users' frame belongs to. -/
def slotOwner (users : List PartNo) (i : Nat) : Option PartNo :=
  ((List.range (shareCount users)).find? fun j => shareSlot (shareCount users) j == i).bind fun j => users[j % users.length]?

theorem frameOf_eq (users : List PartNo) : frameOf users = (List.range 32).map fun i => (slotOwner users i).elim 0 fun p => p.val + 1 := by
  unfold frameOf slotOwner shareSlot shareCount
  dsimp only
  refine List.map_congr_left fun i _ => ?_
  cases (List.range (32 / users.length * users.length)).find? fun j => j * 32 / (32 / users.length * users.length) == i with
  | none => rfl
  | some j =>
    dsimp only [Option.bind_some]
    cases users[j % users.length]? <;> rfl

theorem length_frameOf (users : List PartNo) : (frameOf users).length = 32 := by rw [frameOf_eq, List.length_map, List.length_range]

theorem count_frameOf_eq_length (users : List PartNo) (p : PartNo) :
    (frameOf users).count (p.val + 1) = ((List.range 32).filter fun i => slotOwner users i == some p).length := by
  rw [frameOf_eq, List.count_eq_countP, List.countP_map, List.countP_eq_length_filter]
  refine congrArg List.length (List.filter_congr fun i _ => ?_)
  cases owner : slotOwner users i with
  | none => simp [owner]
  | some q => simp [owner, Fin.val_inj]

section
variable {users : List PartNo} (some_ : 1 ≤ users.length) (fits : users.length ≤ 32)
include some_ fits

theorem shareCount_pos : 0 < shareCount users := Nat.mul_pos (Nat.div_pos fits some_) some_

omit some_ fits in
theorem shareCount_le (users : List PartNo) : shareCount users ≤ 32 := Nat.div_mul_le_self ..

theorem slotOwner_eq_some_iff {i : Nat} {p : PartNo} : slotOwner users i = some p ↔
    ∃ j < shareCount users, shareSlot (shareCount users) j = i ∧ users[j % users.length]? = some p := by
  unfold slotOwner
  rw [Option.bind_eq_some_iff]
  simp only [find?_shareSlot (shareCount_pos some_ fits) (shareCount_le users), and_assoc]

variable (nodup : users.Nodup) {r : Nat} (hr : r < users.length)
include nodup hr

/-- A slot belongs to user r where its share is the r-th of a round of users. -/
theorem slotOwner_eq_user_iff {i : Nat} : slotOwner users i = some users[r] ↔
    ∃ q < 32 / users.length, shareSlot (shareCount users) (q * users.length + r) = i := by
  rw [slotOwner_eq_some_iff some_ fits]
  constructor
  · rintro ⟨j, below, rfl, owner⟩
    have own : j % users.length = r := by
      rw [List.getElem?_eq_getElem (Nat.mod_lt _ some_)] at owner
      exact nodup.getElem_inj_iff.mp (Option.some.inj owner)
    refine ⟨j / users.length, Nat.div_lt_of_lt_mul ((Nat.mul_comm ..).symm ▸ below), ?_⟩
    rw [← own, Nat.div_add_mod']
  · rintro ⟨q, hq, rfl⟩
    have next : q * users.length + users.length ≤ shareCount users := Nat.succ_mul q _ ▸ Nat.mul_le_mul_right users.length hq
    refine ⟨_, by omega, rfl, ?_⟩
    rw [Nat.mul_add_mod_of_lt hr, List.getElem?_eq_getElem hr]

/-- Its slots are those of one share in each round. -/
theorem slotsOfUser_perm : ((List.range 32).filter fun i => slotOwner users i == some users[r]).Perm
    ((List.range (32 / users.length)).map fun q => shareSlot (shareCount users) (q * users.length + r)) := by
  have mono := shareSlot_strictMono (shareCount_pos some_ fits) (shareCount_le users)
  refine (List.perm_ext_iff_of_nodup (List.nodup_range.filter _) (List.nodup_range.map fun a b h => ?_)).mpr fun i => ?_
  · exact Nat.eq_of_mul_eq_mul_right some_ (Nat.add_right_cancel (mono.injective h))
  · have inFrame (owned : slotOwner users i = some users[r]) : i < 32 := by
      obtain ⟨j, below, rfl, -⟩ := (slotOwner_eq_some_iff some_ fits).mp owned
      exact shareSlot_lt (shareCount_pos some_ fits) below
    simp only [List.mem_filter, List.mem_map, List.mem_range, beq_iff_eq, and_iff_right_of_imp inFrame]
    exact slotOwner_eq_user_iff some_ fits nodup hr

omit hr in
/-- Each of the users has as many slots of a frame (R155). -/
theorem count_frameOf {p : PartNo} (user : p ∈ users) : (frameOf users).count (p.val + 1) = 32 / users.length := by
  obtain ⟨r, hr, rfl⟩ := List.mem_iff_getElem.mp user
  rw [count_frameOf_eq_length, (slotsOfUser_perm some_ fits nodup hr).length_eq, List.length_map, List.length_range]

end

end Sys2Proof.Proofs.Frames

/-!
SUPPORT. The fabric's registers, links and slot tables (R136, R140, R150, R151, R155, R178).
-/
namespace Sys2Proof.Proofs.FabricRows
open Sys2Proof Sys2Proof.Machine Sys2Proof.Proofs.Outcomes Sys2Proof.Proofs.Frames

/-! Links as they are set. -/

section
variable (s : State) {n m : TileNo} {d e : Fin 4} (v : Link)

theorem getLink_setLink_same : getLink (setLink s n d v) n d = v := by
  unfold getLink setLink
  dsimp only
  rw [getTile_same]
  exact tget_tput_same ..

theorem getLink_setLink_other (h : (m, e) ≠ (n, d)) : getLink (setLink s n d v) m e = getLink s m e := by
  unfold getLink setLink
  dsimp only
  by_cases tile : m = n
  · subst tile
    have dir : e.val ≠ d.val := fun same => h (congrArg (Prod.mk m) (Fin.ext same))
    rw [getTile_same]
    exact tget_tput_other _ _ _ dir
  · rw [getTile_other s _ tile]

end

/-! Registers (R136, R178). -/

section
variable {s : State} {port : HostPort}

theorem exec_tlSparseClear {c : CoreNo} (v : Word64) (isOpen : bar0Open s port false = true) (answers : tlAnswers s (coreTile c) = true) :
    exec (.tlSparseClear port c v) s =
      .next (if v.getLsbD 0 then setCore s c { getCore s c with pruned := 0, sparseFaults := 0 } else s) := by
  have run : exec (.tlSparseClear port c v) s =
      finish s (if v.getLsbD 0 then setCore s c { getCore s c with pruned := 0, sparseFaults := 0 } else s) :=
    congrArg (finish s) (by rw [isOpen, answers, Bool.true_and, Bool.and_true])
  rw [run]
  refine finish_of_work ?_
  split <;> rfl

theorem exec_fbCommit {v : Word64} (isOpen : bar0Open s port false = true) (ok : pairOk v = true) (one : pairVal v = 1)
    (shadows : ∀ e ∈ s.parts, pairOk e.2.quietShadow = true) : exec (.fbCommit port v) s = .next { s with
      parts := tmap {} (fun _ x => { x with quiet := x.quietShadow.toNat.testBit 0 }) s.parts, quietDue := true } := by
  have all : (s.parts.all fun e => pairOk e.2.quietShadow) = true := List.all_eq_true.mpr shadows
  have run : exec (.fbCommit port v) s = finish s { s with
      parts := tmap {} (fun _ x => { x with quiet := x.quietShadow.toNat.testBit 0 }) s.parts, quietDue := true } :=
    congrArg (finish s) (if_pos (by rw [isOpen, ok, one, all]; rfl))
  rw [run]
  exact finish_of_same _ _ rfl rfl rfl rfl rfl

/-- Where some partition's QUIET is in force its slot table is due. -/
theorem requiet_eq (s : State) : requiet s = { s with quietDue := s.quietDue || s.parts.any fun e => e.2.quietTables } := by
  unfold requiet
  split
  · rename_i quiet
    rw [quiet, Bool.or_true]
  · rename_i none
    rw [Bool.eq_false_iff.mpr none, Bool.or_false]

theorem exec_escapeTableLoad (loading : s.escapeLoading = true) : exec .escapeTableLoad s = .next { s with
    escape := escapeTable s, escapeLoading := false, quietDue := s.quietDue || s.parts.any fun e => e.2.quietTables } := by
  have run : exec .escapeTableLoad s = finish s (requiet { s with escape := escapeTable s, escapeLoading := false }) :=
    congrArg (finish s) (if_pos loading)
  rw [run, requiet_eq]
  exact finish_of_same _ _ rfl rfl rfl rfl rfl

end

/-! Replays and losses (R140, R150, R151). -/

section
variable {s : State} {n : TileNo} {d : Fin 4}

/-- A link with one replay more. -/
def replayed (s : State) (l : Link) (good : Bool) : Link :=
  { l with
    replays := satInc l.replays
    failedReplays := if good then 0 else l.failedReplays + 1
    replayTimes := l.replayTimes.filter (withinSecond s) ++ [now s] }

theorem exec_linkReplay (good : Bool) (usable : linkUsable s n d = true) :
    exec (.linkReplay n d good) s = .next (setLink s n d (replayed s (getLink s n d) good)) := by
  have run : exec (.linkReplay n d good) s = finish s (setLink s n d (replayed s (getLink s n d) good)) :=
    congrArg (finish s) (if_neg (by rw [usable]; exact Bool.false_ne_true))
  rw [run]
  exact finish_of_work rfl

/-- What a link's loss leaves: its packets in ESC, and the escape tables to be worked out anew. -/
def linkLost (s : State) (n : TileNo) (d : Fin 4) : State :=
  let far : Packet → Packet := match neighbour n d with | some m => escapeFrom m (opposite d) | none => id
  { setLink s n d { getLink s n d with down := true } with packets := s.packets.map fun p => far (escapeFrom n d p), escapeLoading := true }

/-- A row whose effect is a change z of the state, and then reports. -/
theorem finish_of_reports {s z u : State} (h : OnlyReports z u) (pw : z.pw = s.pw) (fns : z.fns = s.fns) (tb : z.tb = s.tb) (pending : z.pending = s.pending)
    (fuses : z.weala.fuses = s.weala.fuses) : finish s u = .next u :=
  finish_of_same s u ((congrArg (fun x : State => x.pw) h.rest :).trans pw) ((congrArg (fun x : State => x.fns) h.rest :).trans fns)
    ((congrArg (fun x : State => x.tb) h.rest :).trans tb) ((congrArg (fun x : State => x.pending) h.rest :).trans pending)
    ((congrArg (fun x : Weala => x.fuses) h.weala :).trans fuses)

theorem exec_linkDown (up : (getLink s n d).down = false) (fails : 16 ≤ (getLink s n d).failedReplays ∨ 1024 < (getLink s n d).replayTimes.length) :
    ∃ u, exec (.linkDown n d) s = .next u ∧ OnlyReports (linkLost s n d) u := by
  have lost : linkFails (getLink s n d) = true := by
    unfold linkFails
    simpa using fails
  have run : exec (.linkDown n d) s = finish s (raise (linkLost s n d) { code := 0x0040, args := [n.val, d.val] }) :=
    congrArg (finish s) (if_neg (by rw [up, lost]; exact Bool.false_ne_true))
  have reports := onlyReports_raise (linkLost s n d) { code := 0x0040, args := [n.val, d.val] }
  exact ⟨_, run.trans (finish_of_reports reports rfl rfl rfl rfl rfl), reports⟩

end

/-! The slot tables (R155, R178). -/

/-- The links' frames are in the tiles. -/
theorem setFrames_rest (s : State) : setFrames s = { s with tiles := (setFrames s).tiles } := by
  unfold setFrames
  dsimp only
  refine foldl_keeps (fun u : State => u = { s with tiles := u.tiles }) _ _ s rfl fun u l _ h => ?_
  rw [h]
  rfl

theorem onlyReports_raises {α : Type} (ev : α → Event) (l : List α) (s : State) : OnlyReports s (l.foldl (fun u x => raise u (ev x)) s) :=
  foldl_keeps (OnlyReports s) _ l s (.refl s) fun u x _ h => h.trans (onlyReports_raise u (ev x))

/-- Each partition's QUIET bit is in force. -/
def quietInForce (s : State) : State := { s with parts := tmap {} (fun _ x => { x with quietTables := x.quiet }) s.parts, quietDue := false }

theorem exec_quietTablesApplied {s : State} (due : s.quietDue = true) :
    ∃ u, exec .quietTablesApplied s = .next u ∧ OnlyReports (setFrames (quietInForce s)) u := by
  have reports := onlyReports_raises (fun e : Nat × Partition => { code := 0x0041, part := some (Fin.ofNat 64 e.1), args := [e.1] })
    (s.parts.filter fun e => e.2.quiet != e.2.quietTables) (setFrames (quietInForce s))
  have run : exec .quietTablesApplied s = finish s _ := congrArg (finish s) (if_neg (by rw [due]; exact Bool.false_ne_true))
  refine ⟨_, run.trans (finish_of_reports reports ?_ ?_ ?_ ?_ ?_), reports⟩ <;>
    · rw [setFrames_rest]
      rfl

/-- Settles O29: each row is the change that it names, with reports after a loss and after new slot tables; a frame's slots go round its users in turn. -/
theorem fabricRegistersAndLinks : Obligations.FabricRegistersAndLinks := by
  unfold Obligations.FabricRegistersAndLinks
  refine ⟨⟨fun s port c v isOpen answers => exec_tlSparseClear v isOpen answers, fun s n d good usable => ?_, fun s loading => exec_escapeTableLoad loading,
    fun s port v isOpen ok one shadows => exec_fbCommit isOpen ok one shadows⟩, ⟨fun s n d up fails => exec_linkDown up fails,
    fun s due => exec_quietTablesApplied due⟩, fun users nodup some_ fits => ⟨length_frameOf users, fun p user =>
    count_frameOf some_ fits nodup user⟩⟩
  · have link := getLink_setLink_same s (n := n) (d := d) (replayed s (getLink s n d) good)
    refine ⟨_, exec_linkReplay good usable, rfl, ?_, ?_, ?_, ?_, fun m e ne => getLink_setLink_other s _ ne⟩ <;> rw [link] <;> rfl

end Sys2Proof.Proofs.FabricRows

/-!
SUPPORT. A step: the front of the queue, or an edge of CK_TB (R367, log 1).
-/
namespace Sys2Proof.Proofs.QueueFront
open Sys2Proof Sys2Proof.Machine

theorem step_of_front {s : State} {c : Instr} {rest : List Instr} (front : s.pending = c :: rest) : step s = exec c { s with pending := rest } := by
  unfold step
  rw [front]

theorem step_of_empty {s : State} (empty : s.pending = []) : step s = .next (idleTick s) := by
  unfold step
  rw [empty]

theorem idleTick_running {s : State} (h : s.tb.running = true) : idleTick s = { s with tb := { s.tb with now := s.tb.now + 4 } } := if_pos h

theorem idleTick_stopped {s : State} (h : s.tb.running = false) : idleTick s = s := if_neg (by rw [h]; exact Bool.false_ne_true)

/-- Settles O1: the queue's front decides, and an empty queue is one edge of CK_TB. -/
theorem stepRunsFront : Obligations.StepRunsFront := by
  unfold Obligations.StepRunsFront
  refine ⟨fun c rest s front => step_of_front front, fun s empty => ⟨fun running => ?_, fun stopped => ?_⟩⟩
  · rw [step_of_empty empty, idleTick_running running]
  · rw [step_of_empty empty, idleTick_stopped stopped]

end Sys2Proof.Proofs.QueueFront

/-!
SUPPORT. Packets on the mesh: dimension order, the crossing of a link, escape routing, and what a router discards (R143, R147, R149 to R151, R155).
-/
namespace Sys2Proof.Proofs.Hops
open Sys2Proof Sys2Proof.Machine Sys2Proof.Proofs.Outcomes Sys2Proof.Proofs.FabricRows

/-! The way (R149). -/

/-- Between two tiles there is a direction: along the row until the columns agree, then along the column. -/
theorem dimOrder_of_ne {a b : TileNo} (apart : a ≠ b) : ∃ d, dimOrder a b = some d ∧ (d.val = 0 ∨ d.val = 2 → a.val % 8 ≠ b.val % 8) ∧
    (d.val = 1 ∨ d.val = 3 → a.val % 8 = b.val % 8) := by
  have ne : a.val ≠ b.val := fun e => apart (Fin.ext e)
  unfold dimOrder
  split
  · exact ⟨0, rfl, fun _ => by omega, fun h => absurd h (by decide)⟩
  · split
    · exact ⟨2, rfl, fun _ => by omega, fun h => absurd h (by decide)⟩
    · split
      · exact ⟨1, rfl, fun h => absurd h (by decide), fun _ => by omega⟩
      · split
        · exact ⟨3, rfl, fun h => absurd h (by decide), fun _ => by omega⟩
        · omega

theorem opposite_ne (d : Fin 4) : opposite d ≠ d := by
  decide +revert

theorem badPacket_iff {p : Packet} : badPacket p = true ↔ 12 < p.typ.toNat ∨ 5 < p.cls.toNat ∨ p.dstUnit = 0xF ∨ p.srcUnit = 0xF := by
  unfold badPacket
  simp only [Bool.or_eq_true, decide_eq_true_eq, beq_iff_eq, or_assoc]

/-! One hop (R138, R147, R155). -/

theorem linkCycles_eq (p : Packet) : linkCycles p = if p.payload = [] then 1 else max 1 ((p.length.toNat + 2047) / 2048) := by
  unfold linkCycles
  simp only [List.isEmpty_iff]

section
variable {s : State} {i : Nat} {p : Packet} {d : Fin 4} {u : TileNo} {slot : Fin 32}

/-- In a slot that is its partition's, with room ahead, a packet crosses. -/
theorem movePacket_crosses (down : Bool) (corrected : Nat) (allows : slotAllows s (getLink s p.here d) p slot = true) (room : bufferRoom s p d u = true) :
    Crosses s (movePacket s i p d u down slot corrected) i p d u down corrected := by
  have apart : (u, opposite d) ≠ (p.here, d) := fun e => opposite_ne d (congrArg Prod.snd e)
  unfold movePacket
  rw [allows, room, if_pos (Bool.and_self true)]
  generalize hz : ({ s with packets := s.packets.set i { p with here := u, input := inputPort d, descended := down } } : State) = z
  have same (m : TileNo) (e : Fin 4) : getLink z m e = getLink s m e := by rw [← hz]; rfl
  unfold crossLink
  dsimp only
  rw [getLink_setLink_other z _ apart, same, same, linkCycles_eq]
  refine ⟨?_, ?_, ?_, fun m e sender receiver => ?_, ?_⟩
  · rw [← hz]; rfl
  · rw [getLink_setLink_other _ _ apart.symm, getLink_setLink_same]
  · rw [getLink_setLink_same, linkCycles_eq]
  · rw [getLink_setLink_other _ _ receiver, getLink_setLink_other _ _ sender, same]
  · rw [← hz]; rfl

/-- In another slot, or without room ahead, it waits. -/
theorem movePacket_waits (down : Bool) (corrected : Nat) (found : s.packets[i]? = some p)
    (waits : slotAllows s (getLink s p.here d) p slot = false ∨ bufferRoom s p d u = false) : movePacket s i p d u down slot corrected = s := by
  have here : s.packets.set i p = s.packets := by
    obtain ⟨inside, rfl⟩ := List.getElem?_eq_some_iff.mp found
    exact List.set_getElem_self inside
  have stays : ¬ (slotAllows s (getLink s p.here d) p slot && bufferRoom s p d u) = true := by
    rcases waits with h | h <;> simp [h]
  unfold movePacket
  rw [if_neg stays, here]

/-- A crossing is no unit's work. -/
theorem besideWork_movePacket (down : Bool) (corrected : Nat) : besideWork (movePacket s i p d u down slot corrected) = besideWork s := by
  unfold movePacket
  split <;> rfl

end

/-! Escape (R150, R151). -/

/-- A packet in ESC that is discarded is answered where it is a request or a chunk. -/
def deadEnd (q : Packet) : List Packet := if isRequest q || q.typ == 6 then [errTo q q.here 0xD 3] else []

section
variable {s : State} {i : Nat} {q : Packet} {slot : Fin 32} {corrected : Nat}

theorem escapeHop_loading (loading : s.escapeLoading = true) : escapeHop s i q slot corrected = { s with packets := s.packets.set i q } :=
  if_pos loading

variable (loaded : s.escapeLoading = false)
include loaded

theorem escapeHop_stuck (none : escapeNext s q.here q.dstTile q.descended = none) :
    escapeHop s i q slot corrected = { s with packets := s.packets.eraseIdx i ++ deadEnd q } := by
  unfold escapeHop deadEnd
  rw [loaded, if_neg Bool.false_ne_true, none]
  dsimp only
  split
  · rfl
  · rw [List.append_nil]

theorem escapeHop_goes {u : TileNo} {e : Fin 4} (next : escapeNext s q.here q.dstTile q.descended = some u) (dir : directionTo q.here u = some e) :
    escapeHop s i q slot corrected = movePacket s i q e u (!hopUp (levels s) q.here u) slot corrected := by
  unfold escapeHop
  rw [loaded, if_neg Bool.false_ne_true, next]
  dsimp only
  rw [dir]

end

/-! PACKET_HOP. -/

section
variable {s : State} {i : Nat} {p : Packet} {slot : Fin 32} {corrected : Nat} (found : s.packets[i]? = some p)
include found

theorem exec_packetHop_bad (bad : badPacket p = true) :
    exec (.packetHop ⟨i, slot, corrected⟩) s = .next (countProtocol { s with packets := s.packets.eraseIdx i } p.here) := by
  show execPacketHop _ s = _
  unfold execPacketHop
  dsimp only
  rw [found]
  dsimp only
  rw [if_pos bad]
  exact finish_of_work rfl

theorem exec_packetHop_later (good : badPacket p = false) (later : firstOfFlow s i p = false) : exec (.packetHop ⟨i, slot, corrected⟩) s = .next s := by
  show execPacketHop _ s = _
  unfold execPacketHop
  dsimp only
  rw [found]
  dsimp only
  rw [good, if_neg Bool.false_ne_true, later, Bool.not_false, Bool.or_true, if_pos rfl]
  exact finish_of_work rfl

variable (good : badPacket p = false) (first : firstOfFlow s i p = true) (away : p.here ≠ p.dstTile)
include good first away

theorem exec_packetHop_along {d : Fin 4} {u : TileNo} (way : dimOrder p.here p.dstTile = some d) (plain : p.cls ≠ 5) (next : neighbour p.here d = some u)
    (usable : hopUsable s p.here d = true) :
    exec (.packetHop ⟨i, slot, corrected⟩) s = .next (movePacket s i p d u false slot corrected) := by
  have starts : (p.here == p.dstTile || !firstOfFlow s i p) = false := by simp [away, first]
  have other : (p.cls == 5) = false := beq_eq_false_iff_ne.mpr plain
  show execPacketHop _ s = _
  unfold execPacketHop
  dsimp only
  rw [found]
  dsimp only
  rw [good, if_neg Bool.false_ne_true, starts, if_neg Bool.false_ne_true, other, if_neg Bool.false_ne_true, way]
  dsimp only
  rw [next, usable]
  exact finish_of_work (besideWork_movePacket ..)

/-- The packet q that goes by the escape tables: p where it is in ESC, or p that enters ESC before a missing hop. -/
theorem exec_packetHop_escape {d : Fin 4} {q : Packet} (way : dimOrder p.here p.dstTile = some d)
    (enters : p.cls = 5 ∧ q = p ∨ p.cls ≠ 5 ∧ hopUsable s p.here d = false ∧ q = { p with cls := 5, origClass := p.cls }) :
    exec (.packetHop ⟨i, slot, corrected⟩) s = .next (escapeHop s i q slot corrected) := by
  have starts : (p.here == p.dstTile || !firstOfFlow s i p) = false := by simp [away, first]
  have work : besideWork (escapeHop s i q slot corrected) = besideWork s := by
    unfold escapeHop
    split
    · rfl
    · split
      · dsimp only; split <;> rfl
      · split
        · rfl
        · exact besideWork_movePacket ..
  show execPacketHop _ s = _
  unfold execPacketHop
  dsimp only
  rw [found]
  dsimp only
  rw [good, if_neg Bool.false_ne_true, starts, if_neg Bool.false_ne_true]
  rcases enters with ⟨esc, rfl⟩ | ⟨plain, missing, rfl⟩
  · rw [if_pos (beq_iff_eq.mpr esc)]
    exact finish_of_work work
  · rw [if_neg (by simpa using plain), way]
    dsimp only
    rw [missing]
    cases neighbour p.here d <;> exact finish_of_work work

end

/-- Settles O30: by the row and the column while the hop stands, by the tables in ESC, and what neither lets through waits or is discarded. -/
theorem packetsTakeDimensionOrder : Obligations.PacketsTakeDimensionOrder := by
  unfold Obligations.PacketsTakeDimensionOrder
  refine fun s i slot corrected p found => ⟨fun bad => exec_packetHop_bad found (badPacket_iff.mpr bad), fun good later =>
    exec_packetHop_later found good later, fun good first away => ?_⟩
  obtain ⟨d, way, row, column⟩ := dimOrder_of_ne away
  refine ⟨d, way, row, column, fun u plain next usable => ⟨fun allows room => ?_, fun waits => ?_⟩, fun q enters => ?_⟩
  · exact ⟨_, exec_packetHop_along found good first away way plain next usable, movePacket_crosses false corrected allows room⟩
  · rw [exec_packetHop_along found good first away way plain next usable, movePacket_waits false corrected found waits]
  · have run := exec_packetHop_escape (slot := slot) (corrected := corrected) found good first away way enters
    have kept : deadEnd q = if isRequest p || p.typ == 6 then [errTo q p.here 0xD 3] else [] := by
      rcases enters with ⟨-, rfl⟩ | ⟨-, -, rfl⟩ <;> rfl
    refine ⟨fun loading => ?_, fun loaded stuck => ?_, fun u e loaded next dir allows room => ?_⟩
    · rw [run, escapeHop_loading loading]
    · rw [run, escapeHop_stuck loaded stuck, kept]
    · exact ⟨_, by rw [run, escapeHop_goes loaded next dir], movePacket_crosses _ corrected allows room⟩

end Sys2Proof.Proofs.Hops

/-!
SUPPORT. The destination router (R143, R147, R149, R153, R154): what it does with a packet before any unit sees it, at every row alike.
-/
namespace Sys2Proof.Proofs.Routers
open Sys2Proof Sys2Proof.Machine Sys2Proof.Proofs.Outcomes Sys2Proof.Proofs.Hops

/-- What a router sends back for a refused packet: an error to the source of a request or chunk. -/
def refusal (p : Packet) : List Packet := if isRequest p || p.typ == 6 then [errTo p p.dstTile p.dstUnit 1] else []

/-- What it sends back for an absorbed one: an error to the tree's root for a chunk, and to the source of a request. -/
def absorption (s : State) (p : Packet) : List Packet :=
  if p.typ == 6 then [errToRoot s p p.dstTile 2] else if isRequest p then [errTo p p.dstTile p.dstUnit 2] else []

section
variable {s : State} {p : Packet} (deliver : State → State)

theorem send_nil (s : State) : send s [] = s := by
  unfold send
  rw [List.append_nil]

theorem arrive_waits (away : atHand s p = false) : arrive s p deliver = s := by
  unfold arrive
  rw [away]
  rfl

section
variable (hand : atHand s p = true)
include hand

theorem arrive_bad (bad : badPacket p = true) : arrive s p deliver =
    setTile (taken s p) p.dstTile { getTile s p.dstTile with protocol := satInc (getTile s p.dstTile).protocol } := by
  unfold arrive
  rw [hand, bad]
  rfl

variable (good : badPacket p = false)
include good

theorem arrive_refused (foreign : ownerOk s p = false) : arrive s p deliver =
    send (setTile (taken s p) p.dstTile { getTile s p.dstTile with notOwner := satInc (getTile s p.dstTile).notOwner }) (refusal p) := by
  have foreign' : ownerOk { s with packets := s.packets.erase p } p = false := foreign
  unfold arrive refusal
  rw [hand, Bool.not_true, if_neg Bool.false_ne_true]
  dsimp only
  rw [good, if_neg Bool.false_ne_true, foreign', Bool.not_false, if_pos rfl]
  split
  · rfl
  · rw [send_nil]
    rfl

theorem arrive_absorbed (owned : ownerOk s p = true) (covered : absorbs s p = true) : arrive s p deliver =
    send (setTile (taken s p) p.dstTile { getTile s p.dstTile with absorbed := satInc (getTile s p.dstTile).absorbed }) (absorption s p) := by
  have owned' : ownerOk { s with packets := s.packets.erase p } p = true := owned
  have covered' : absorbs { s with packets := s.packets.erase p } p = true := covered
  unfold arrive absorption
  rw [hand, Bool.not_true, if_neg Bool.false_ne_true]
  dsimp only
  rw [good, if_neg Bool.false_ne_true, owned', Bool.not_true, if_neg Bool.false_ne_true, covered', if_pos rfl]
  split
  · rfl
  · split
    · rfl
    · rw [send_nil]
      rfl

end

end

theorem ite_bang {α : Type} (b : Bool) (x y : α) : (if !b then x else y) = if b then y else x := by cases b <;> rfl

/-- A row at which a packet arrives delivers it in some way where its unit has room, and leaves it where it has none. -/
theorem exec_packetRow {i : Instr} {p : Packet} (row : packetRow i = some p) (s : State) :
    ∃ deliver, exec i s = finish s (if packetRoom i s p then arrive s p deliver else s) := by
  cases i with
  | rdReq | wrReq | addReq | addlReq =>
    cases row
    exact ⟨_, rfl⟩
  | redData =>
    cases row
    exact ⟨_, congrArg (finish s) (ite_bang ..)⟩
  | rdRsp | wrAck | addRsp | redCredit | bcastData | mgReq | mgRsp | errRsp =>
    cases row
    exact ⟨_, congrArg (finish s) (if_pos rfl).symm⟩
  | _ => cases row

/-- Settles O31: a packet waits, is counted, refused or absorbed before it is delivered, whatever its row would do with it. -/
theorem routersRefuse : Obligations.RoutersRefuse := by
  unfold Obligations.RoutersRefuse
  intro i s p row
  obtain ⟨deliver, run⟩ := exec_packetRow row s
  refine ⟨fun stays => ?_, fun room hand => ?_⟩
  · have still : (if packetRoom i s p then arrive s p deliver else s) = s := by
      rcases stays with none | away
      · rw [none, if_neg Bool.false_ne_true]
      · rw [arrive_waits deliver away, ite_self]
    rw [run, still]
    exact finish_of_work rfl
  · rw [room, if_pos rfl] at run
    refine ⟨fun bad => ?_, fun good foreign => ?_, fun good owned covered => ?_⟩
    · rw [run, arrive_bad deliver hand (badPacket_iff.mpr bad)]
      exact finish_of_work rfl
    · rw [run, arrive_refused deliver hand good foreign]
      exact finish_of_work rfl
    · rw [run, arrive_absorbed deliver hand good owned covered]
      exact finish_of_work rfl

end Sys2Proof.Proofs.Routers

/-!
SUPPORT. REDUCE before its last credit: its sequence comes due, has passed, or has not come (R161, R225, R234).
-/
namespace Sys2Proof.Proofs.Reductions
open Sys2Proof Sys2Proof.Machine Sys2Proof.Proofs.Outcomes Sys2Proof.Proofs.RecordEnds Sys2Proof.Proofs.Sequencer Sys2Proof.Proofs.Engines
  Sys2Proof.Proofs.SlotRequests Sys2Proof.Proofs.Transfers Sys2Proof.Proofs.Works

section
variable {s : State} {c : CoreNo} {k : SlotNo} {t : Task}

/-! The slot of a REDUCE that waits (R83). -/

theorem reduceStall_idle (h : (getSlot s c k).state ≠ .running) : reduceStall s c k = s := by
  unfold reduceStall
  exact if_neg (by simp [h])

theorem reduceStall_running (running : (getSlot s c k).state = .running) (unended : (getSlot s c k).ended = false) :
    getSlot (reduceStall s c k) c k = { getSlot s c k with state := .late } ∧ { reduceStall s c k with cores := s.cores } = s ∧
      ∀ m, m ≠ c → getCore (reduceStall s c k) m = getCore s m := by
  have stalls : reduceStall s c k = setCore s c (judge (putSlot (getCore s c) k { getSlot s c k with state := .late })) :=
    if_pos (by rw [running, unended]; rfl)
  rw [stalls]
  refine ⟨?_, rfl, fun m hm => getCore_other s _ hm⟩
  rw [getSlot_setCore_same, judge_keeps _ _ (by rw [coreSlot_putSlot_same]), coreSlot_putSlot_same]

/-- A task that ends without outstanding stores leaves nothing to stall. -/
theorem reduceStall_over {u : State} {st : BitVec 8} {b : Bool} (h : EndsAtOnce s u c k t st b) : reduceStall u c k = u := by
  refine reduceStall_idle ?_
  rcases h.slot with empty | ⟨-, -, -, late⟩
  · rw [empty]; decide
  · rw [late]; decide

/-- A task that gives up with no store outstanding ends at once. -/
theorem failSlot_ends (st : BitVec 8) (task : (getSlot s c k).task = some t) (runs : (getSlot s c k).ended = false)
    (unbegun : t.op = some .reduce → (getSlot s c k).started = false) (stored : storesOut (getCore s c) k = false) :
    EndsAtOnce s (failSlot s c k st) c k t st (getSlot s c k).spoilt := by
  rw [failSlot_eq task runs unbegun]
  generalize hx : ({ getSlot s c k with outs := [], adding := none } : Slot) = x
  have slot : getSlot (setSlot s c k x) c k = x := getSlot_same ..
  have over_ : storesOut (getCore (setSlot s c k x) c) k = false := by
    have queue : (getCore (setSlot s c k x) c).storeQueue = (getCore s c).storeQueue := by rw [getCore_setSlot]; rfl
    rw [storesOut_getCore] at stored ⊢
    simp only [Bool.or_eq_false_iff] at stored
    obtain ⟨⟨⟨tags, -⟩, -⟩, unasked⟩ := stored
    rw [slot, queue, unasked, ← hx, tags]
    rfl
  have ends := endsAtOnce_endSlot (s := setSlot s c k x) (t := t) st 0 (by rw [slot, ← hx]; exact task) over_
  have kept : (getSlot (setSlot s c k x) c k).spoilt = (getSlot s c k).spoilt := by rw [slot, ← hx]
  rw [kept] at ends
  exact endsAtOnce_of_start (endsAtOnce_granted ends (granted_grantFetches ..)) (fun _ => rfl) rfl (by rw [slot, ← hx]) id rfl

/-! REDUCE. -/

variable (running : runningTask s c k .reduce = some t) (unstarted : (getSlot s c k).started = false)
  (isOpen : (getPalm s c (rePalm t)).isOpen = true) (own : (getPalm s c (rePalm t)).owner = t.ctx) (whole : (getPalm s c (rePalm t)).broken = false)
include running unstarted isOpen own whole

/-- On a Palm that serves it the sequence decides. -/
theorem exec_reduce : exec (.reduce c k) s = finish s (reduceStall
    (if reSeq t == (getPalm s c (rePalm t)).nextSeq then reduceGo (setSlot s c k { getSlot s c k with started := true }) c k t
     else if seqBefore (reSeq t) (getPalm s c (rePalm t)).nextSeq then failSlot s c k stPalmSeq else s) c k) := by
  have found : reduceTask s c k = some t := by
    unfold reduceTask
    rw [running]
  show execReduce c k s = _
  unfold execReduce reduceWork
  rw [found]
  dsimp only
  rw [unstarted, if_neg Bool.false_ne_true, if_neg (by simp [isOpen, own, whole])]

theorem exec_reduce_passed (passed : seqBefore (reSeq t) (getPalm s c (rePalm t)).nextSeq = true) (stored : storesOut (getCore s c) k = false) :
    exec (.reduce c k) s = .next (failSlot s c k stPalmSeq) ∧ EndsAtOnce s (failSlot s c k stPalmSeq) c k t stPalmSeq (getSlot s c k).spoilt := by
  obtain ⟨task, -, -, -, unended, -, -⟩ := running_of_runningTask running
  have other : (reSeq t == (getPalm s c (rePalm t)).nextSeq) = false := by
    unfold seqBefore at passed
    rw [Bool.and_eq_true] at passed
    simpa using passed.1
  have ends := failSlot_ends stPalmSeq task unended (fun _ => unstarted) stored
  refine ⟨?_, ends⟩
  rw [exec_reduce running unstarted isOpen own whole, other, if_neg Bool.false_ne_true, if_pos passed, reduceStall_over ends]
  exact finish_of_work (besideWork_failSlot ..)

theorem exec_reduce_early (other : reSeq t ≠ (getPalm s c (rePalm t)).nextSeq) (ahead : seqBefore (reSeq t) (getPalm s c (rePalm t)).nextSeq = false) :
    exec (.reduce c k) s = .next (reduceStall s c k) := by
  obtain ⟨-, -, state, -, unended, -, -⟩ := running_of_runningTask running
  rw [exec_reduce running unstarted isOpen own whole, if_neg (by simpa using other), ahead, if_neg Bool.false_ne_true]
  exact finish_of_work (congrArg besideWork (reduceStall_running state unended).2.1 :)

/-- In its turn it sends what its window allows. -/
theorem exec_reduce_due (unsent : (getSlot s c k).sent = 0) (free : (getSlot s c k).outstanding = 0) (some_ : 1 ≤ reCount t)
    (due : reSeq t = (getPalm s c (rePalm t)).nextSeq) :
    ∃ u, exec (.reduce c k) s = .next u ∧ u.packets = s.packets ++ (List.range (min 8 (reChunks t))).map (leafChunk s c k t) ∧
      getSlot u c k = { getSlot s c k with
        started := true, sent := min 8 (reChunks t), outstanding := min 8 (reChunks t), state := .late } ∧
      { u with cores := s.cores, packets := s.packets } = s ∧ ∀ m, m ≠ c → getCore u m = getCore s m := by
  obtain ⟨-, -, state, -, unended, stands, -⟩ := running_of_runningTask running
  have run := exec_reduce running unstarted isOpen own whole
  rw [if_pos (beq_iff_eq.mpr due)] at run
  generalize hv : setSlot s c k { getSlot s c k with started := true } = v at run
  have slot : getSlot v c k = { getSlot s c k with started := true } := by rw [← hv, getSlot_same]
  generalize hn : min 8 (reChunks t) = n
  have chunks : n ≠ 0 := by
    unfold reChunks at hn
    omega
  have goes : reduceGo v c k t = send (setSlot v c k { getSlot s c k with started := true, sent := n, outstanding := n })
      ((List.range n).map (leafChunk s c k t)) := by
    have begun : (!(getSlot v c k).started || (getSlot v c k).ended || resettingCore v c) = false := by
      have vStands : resettingCore v c = false := by rw [← hv]; exact stands
      rw [slot, vStands, unended]
      rfl
    have window : min (8 - (getSlot v c k).outstanding) (reChunks t - (getSlot v c k).sent) = n := by rw [slot, ← hn, free, unsent]; rfl
    have chunk : (fun i => leafChunk v c k t ((getSlot v c k).sent + i)) = leafChunk s c k t := by
      funext i
      rw [slot, unsent, Nat.zero_add, ← hv]
      rfl
    unfold reduceGo
    dsimp only
    rw [begun, if_neg Bool.false_ne_true, window, chunk, slot, unsent, free, Nat.zero_add, if_neg fun h => chunks h.2]
  rw [goes] at run
  generalize hw : setSlot v c k { getSlot s c k with started := true, sent := n, outstanding := n } = w at run
  have wSlot : getSlot (send w ((List.range n).map (leafChunk s c k t))) c k = { getSlot s c k with started := true, sent := n, outstanding := n } := by
    rw [← hw]; exact getSlot_same ..
  obtain ⟨late, rest, others⟩ := reduceStall_running (by rw [wSlot]; exact state) (by rw [wSlot]; exact unended)
  have sent : { send w ((List.range n).map (leafChunk s c k t)) with cores := s.cores } = send s ((List.range n).map (leafChunk s c k t)) := by
    rw [← hw, ← hv]; rfl
  have all : { reduceStall (send w ((List.range n).map (leafChunk s c k t))) c k with cores := s.cores } =
      send s ((List.range n).map (leafChunk s c k t)) := by
    rw [← sent]; exact (congrArg (fun x : State => { x with cores := s.cores }) rest :)
  refine ⟨_, run.trans (finish_of_work (congrArg besideWork all :)), (congrArg State.packets all :), by rw [late, wSlot],
    (congrArg (fun x : State => { x with packets := s.packets }) all :), fun m hm => (others m hm).trans ?_⟩
  rw [← hw, ← hv]
  exact (getCore_other _ _ hm).trans (getCore_other _ _ hm)

end

/-- Settles O28: the sequence that is due sends, one that has passed ends the task, and an early one waits LATE. -/
theorem reduceSends : Obligations.ReduceSends := by
  unfold Obligations.ReduceSends
  refine fun s c k t running unstarted isOpen own whole => ⟨fun unsent free some_ due => ?_, fun passed stored => ?_, fun other ahead => ?_⟩
  · exact exec_reduce_due running unstarted isOpen own whole unsent free some_ due
  · exact ⟨_, exec_reduce_passed running unstarted isOpen own whole passed stored⟩
  · obtain ⟨-, -, state, -, unended, -, -⟩ := running_of_runningTask running
    exact ⟨_, exec_reduce_early running unstarted isOpen own whole other ahead, reduceStall_running state unended⟩

end Sys2Proof.Proofs.Reductions

/-!
SUPPORT. Reduction nodes (R157, R159, R161, R162): chunks that wait for a partner or for the window, sums, passes, credits, timeouts.
-/
namespace Sys2Proof.Proofs.Nodes
open Sys2Proof Sys2Proof.Machine Sys2Proof.Proofs.Outcomes Sys2Proof.Proofs.Arrivals

/-! A node as it is set. -/

section
variable {s : State} {t : TileNo} {k : Nat}

theorem getNode_setNode (s : State) (t : TileNo) (k : Nat) (x : RedNode) : getNode (setNode s t k x) t k = x := by
  unfold getNode setNode
  dsimp only
  rw [getTile_same]
  exact tget_tput_same ..

/-! The work of a node (R159, R161). -/

section
variable {v : Nat} {m : List Byte} {x : RedNode} (node : getNode s t k = x)
include node

/-- A node without the first operand, with its window used up, or without the partner of a sum, does nothing. -/
theorem runNode_waits (fuel : Nat) (h : x.a = [] ∨ 8 ≤ x.outstanding ∨ x.b = [] ∧ ndPass v = false) : runNode t k v m fuel s = s := by
  cases fuel with
  | zero => rfl
  | succ fuel =>
    unfold runNode
    dsimp only
    rw [node]
    split
    · rfl
    · rename_i open_
      rcases h with none | full | ⟨lone, adds⟩
      · rw [none]
      · exact absurd full open_
      · rw [lone]
        cases x.a with
        | nil => rfl
        | cons y r =>
          dsimp only
          rw [adds, if_neg Bool.false_ne_true]

omit node in
theorem runNode_idle (fuel : Nat) (none : (getNode s t k).a = []) : runNode t k v m fuel s = s := runNode_waits rfl fuel (.inl none)

variable (free : x.outstanding < 8) {y : Packet} (first : x.a = [y])
include free first

/-- The last pair of a sum: the result leaves for the parent, and then each child has its credit. -/
theorem runNode_adds {q : Packet} (fuel : Nat) (second : x.b = [q]) (adds : ndPass v = false) (off : y.offset = q.offset) (len : y.length = q.length) :
    runNode t k v m (fuel + 1) s = send (setNode s t k { x with a := [], b := [], outstanding := x.outstanding + 1 })
      [nodeResult m t k v (sumChunk y q), nodeCredit y, nodeCredit q] := by
  unfold runNode
  dsimp only
  rw [node, if_neg (Nat.not_le.mpr free), first, second]
  dsimp only
  rw [adds, if_neg Bool.false_ne_true, if_neg (by simp [off, len])]
  exact runNode_idle fuel (congrArg RedNode.a (getNode_setNode s t k _))

/-- A node that passes sends its last chunk on as it is. -/
theorem runNode_passes (fuel : Nat) (none : x.b = []) (passes : ndPass v = true) :
    runNode t k v m (fuel + 1) s = send (setNode s t k { x with a := [], outstanding := x.outstanding + 1 })
      [nodeResult m t k v y, nodeCredit y] := by
  unfold runNode
  dsimp only
  rw [node, if_neg (Nat.not_le.mpr free), first, none]
  dsimp only
  rw [passes, if_pos rfl]
  exact runNode_idle fuel (congrArg RedNode.a (getNode_setNode s t k _))

end

/-! RED_TIMEOUT (R162). -/

theorem stopNode_eq {n : Nat} (held : (getNode s t k).a.length + (getNode s t k).b.length = n) : stopNode s t k =
    setNode (setTile s t { getTile s t with redDiscard := satAdd (getTile s t).redDiscard n }) t k { stopped := true } := by
  unfold stopNode discardChunks
  dsimp only
  rw [held]

theorem exec_redTimeout {k : Fin 16} {x : Packet} {r : List Packet} (goes : (getNode s t k.val).stopped = false)
    (lone : (getNode s t k.val).a = x :: r ∧ (getNode s t k.val).b = [] ∨ (getNode s t k.val).a = [] ∧ (getNode s t k.val).b = x :: r) :
    exec (.redTimeout t k) s = .next (setNode (setTile (send s [errToRoot s x t 5]) t
      { getTile s t with redDiscard := satAdd (getTile s t).redDiscard (r.length + 1) }) t k.val { stopped := true }) := by
  have held : (getNode (send s [errToRoot s x t 5]) t k.val).a.length + (getNode (send s [errToRoot s x t 5]) t k.val).b.length = r.length + 1 := by
    have same : getNode (send s [errToRoot s x t 5]) t k.val = getNode s t k.val := rfl
    rw [same]
    rcases lone with ⟨a, b⟩ | ⟨a, b⟩ <;> rw [a, b] <;> simp
  have run : exec (.redTimeout t k) s = finish s (stopNode (send s [errToRoot s x t 5]) t k.val) := by
    refine congrArg (finish s) ?_
    dsimp only
    rw [goes]
    rcases lone with ⟨a, b⟩ | ⟨a, b⟩ <;> rw [a, b]
  rw [run, stopNode_eq held]
  exact finish_of_work rfl

end

/-- What a node keeps and sends is in the tiles and packets. -/
theorem rest_setNode (s : State) (t : TileNo) (k : Nat) (x : RedNode) (ps : List Packet) (ts : Tbl Tile) :
    { setNode s t k x with packets := ps, tiles := ts } = { s with packets := ps, tiles := ts } := rfl

theorem rest_nodeSent (s : State) (p : Packet) (t : TileNo) (k : Nat) (x y : RedNode) (l : List Packet) :
    { send (setNode (setNode (taken s p) t k x) t k y) l with packets := s.packets, tiles := s.tiles } = s :=
  (rest_setNode (setNode (taken s p) t k x) t k y s.packets s.tiles).trans (rest_setNode (taken s p) t k x s.packets s.tiles)

theorem besideWork_nodeSent (s : State) (p : Packet) (t : TileNo) (k : Nat) (x y : RedNode) (l : List Packet) :
    besideWork (send (setNode (setNode (taken s p) t k x) t k y) l) = besideWork s :=
  (congrArg besideWork (rest_nodeSent s p t k x y l) :)

/-! RED_DATA (R159). -/

/-- A node with a chunk in the buffer of its operand. -/
def joined (x : RedNode) (p : Packet) : RedNode := if p.role then { x with b := x.b ++ [p] } else { x with a := x.a ++ [p] }

section
variable {s : State} {p : Packet} (h : Delivered s p) (unit : p.dstUnit = 0xC)
include h unit

section
variable {k : Nat} (room : chunkRoom s p = true) (slot : nodeSlotAt (mapOf s p) p.dstTile p.node.toNat = some k)
include room slot

theorem exec_redData_node : exec (.redData p) s = finish s
    (if (getNode s p.dstTile k).stopped then discardChunks (taken s p) p.dstTile 1
     else runNode p.dstTile k (nodeEntry (mapOf s p) p.node.toNat) (mapOf s p) ((joined (getNode s p.dstTile k) p).a.length + 1)
       (setNode (taken s p) p.dstTile k (joined (getNode s p.dstTile k) p))) := by
  have slot' : nodeSlotAt (mapOf (taken s p) p) p.dstTile p.node.toNat = some k := slot
  show execRedData p s = _
  unfold execRedData
  rw [room, Bool.not_true, if_neg Bool.false_ne_true, arrive_delivered h]
  dsimp only
  rw [unit, if_pos (by decide), slot']
  rfl

theorem exec_redData_stopped (stopped : (getNode s p.dstTile k).stopped = true) : exec (.redData p) s = .next (discardChunks (taken s p) p.dstTile 1) := by
  rw [exec_redData_node h unit room slot, if_pos stopped]
  exact finish_of_work rfl

variable (goes : (getNode s p.dstTile k).stopped = false)
include goes

theorem exec_redData_works : exec (.redData p) s = finish s (runNode p.dstTile k (nodeEntry (mapOf s p) p.node.toNat) (mapOf s p)
    ((joined (getNode s p.dstTile k) p).a.length + 1) (setNode (taken s p) p.dstTile k (joined (getNode s p.dstTile k) p))) := by
  rw [exec_redData_node h unit room slot, if_neg (Bool.eq_false_iff.mp goes)]

/-- A chunk is kept where its partner or the window is missing. -/
theorem exec_redData_kept (waits : (joined (getNode s p.dstTile k) p).a = [] ∨ 8 ≤ (joined (getNode s p.dstTile k) p).outstanding ∨
      (joined (getNode s p.dstTile k) p).b = [] ∧ ndPass (nodeEntry (mapOf s p) p.node.toNat) = false) :
    exec (.redData p) s = .next (setNode (taken s p) p.dstTile k (joined (getNode s p.dstTile k) p)) := by
  rw [exec_redData_works h unit room slot goes, runNode_waits (getNode_setNode ..) _ waits]
  exact finish_of_work rfl

variable (first : p.role = false) (none : (getNode s p.dstTile k).a = []) (free : (getNode s p.dstTile k).outstanding < 8)
include first none free

omit h unit room slot goes free in
/-- The node with the chunk as its first operand alone. -/
theorem getNode_joined : getNode (setNode (taken s p) p.dstTile k (joined (getNode s p.dstTile k) p)) p.dstTile k =
    { getNode s p.dstTile k with a := [p] } := by
  rw [getNode_setNode, joined, if_neg (Bool.eq_false_iff.mp first), none]
  rfl

theorem exec_redData_adds {q : Packet} (partner : (getNode s p.dstTile k).b = [q]) (adds : ndPass (nodeEntry (mapOf s p) p.node.toNat) = false)
    (off : p.offset = q.offset) (len : p.length = q.length) : exec (.redData p) s = .next
      (send (setNode (setNode (taken s p) p.dstTile k (joined (getNode s p.dstTile k) p)) p.dstTile k
          { getNode s p.dstTile k with a := [], b := [], outstanding := (getNode s p.dstTile k).outstanding + 1 })
        [nodeResult (mapOf s p) p.dstTile k (nodeEntry (mapOf s p) p.node.toNat) (sumChunk p q), nodeCredit p, nodeCredit q]) := by
  have sum := runNode_adds (m := mapOf s p) (getNode_joined first none) free rfl (joined (getNode s p.dstTile k) p).a.length partner adds off len
  rw [exec_redData_works h unit room slot goes, sum]
  exact finish_of_work (besideWork_nodeSent ..)

theorem exec_redData_passes (lone : (getNode s p.dstTile k).b = []) (passes : ndPass (nodeEntry (mapOf s p) p.node.toNat) = true) :
    exec (.redData p) s = .next
      (send (setNode (setNode (taken s p) p.dstTile k (joined (getNode s p.dstTile k) p)) p.dstTile k
          { getNode s p.dstTile k with a := [], outstanding := (getNode s p.dstTile k).outstanding + 1 })
        [nodeResult (mapOf s p) p.dstTile k (nodeEntry (mapOf s p) p.node.toNat) p, nodeCredit p]) := by
  have pass := runNode_passes (m := mapOf s p) (getNode_joined first none) free rfl (joined (getNode s p.dstTile k) p).a.length lone passes
  rw [exec_redData_works h unit room slot goes, pass]
  exact finish_of_work (besideWork_nodeSent ..)

end

/-! RED_CREDIT (R161). -/

/-- A node with its window open by one more. -/
def credited (x : RedNode) : RedNode := { x with outstanding := x.outstanding - 1 }

section
variable (goes : (getNode s p.dstTile p.tag.toNat).stopped = false)
include goes

theorem exec_redCredit_node : exec (.redCredit p) s = finish s
    (let z := setNode (taken s p) p.dstTile p.tag.toNat (credited (getNode s p.dstTile p.tag.toNat))
     if resettingPart z (Fin.ofNat 64 p.partition.toNat) then z
     else match nodeInSlot (mapOf s p) p.dstTile p.tag.toNat with
       | none => z
       | some v => runNode p.dstTile p.tag.toNat (nodeEntry (mapOf s p) v) (mapOf s p) 9 z) := by
  have goes' : (getNode (taken s p) p.dstTile p.tag.toNat).stopped = false := goes
  show execRedCredit p s = _
  unfold execRedCredit nodeCredited
  rw [arrive_delivered h]
  dsimp only
  rw [unit, if_pos (by decide), if_neg (Bool.eq_false_iff.mp goes')]
  rfl

theorem exec_redCredit_opens (none : (getNode s p.dstTile p.tag.toNat).a = []) :
    exec (.redCredit p) s = .next (setNode (taken s p) p.dstTile p.tag.toNat (credited (getNode s p.dstTile p.tag.toNat))) := by
  rw [exec_redCredit_node h unit goes]
  dsimp only
  split
  · exact finish_of_work rfl
  · split
    · exact finish_of_work rfl
    · rw [runNode_idle 9 (by rw [getNode_setNode]; exact none)]
      exact finish_of_work rfl

theorem exec_redCredit_adds {v : Nat} {y q : Packet} (first : (getNode s p.dstTile p.tag.toNat).a = [y]) (second : (getNode s p.dstTile p.tag.toNat).b = [q])
    (off : y.offset = q.offset) (len : y.length = q.length) (full : (getNode s p.dstTile p.tag.toNat).outstanding = 8)
    (stands : resettingPart s (Fin.ofNat 64 p.partition.toNat) = false) (slot : nodeInSlot (mapOf s p) p.dstTile p.tag.toNat = some v)
    (adds : ndPass (nodeEntry (mapOf s p) v) = false) : exec (.redCredit p) s = .next
      (send (setNode (setNode (taken s p) p.dstTile p.tag.toNat (credited (getNode s p.dstTile p.tag.toNat))) p.dstTile p.tag.toNat
          { getNode s p.dstTile p.tag.toNat with a := [], b := [] })
        [nodeResult (mapOf s p) p.dstTile p.tag.toNat (nodeEntry (mapOf s p) v) (sumChunk y q), nodeCredit y, nodeCredit q]) := by
  have node : getNode (setNode (taken s p) p.dstTile p.tag.toNat (credited (getNode s p.dstTile p.tag.toNat))) p.dstTile p.tag.toNat =
      { getNode s p.dstTile p.tag.toNat with outstanding := 7 } := by
    rw [getNode_setNode]
    unfold credited
    rw [full]
  have sum := runNode_adds (m := mapOf s p) node (show 7 < 8 by decide) first 8 second adds off len
  have stands' : resettingPart (setNode (taken s p) p.dstTile p.tag.toNat (credited (getNode s p.dstTile p.tag.toNat)))
      (Fin.ofNat 64 p.partition.toNat) = false := stands
  rw [exec_redCredit_node h unit goes]
  dsimp only
  rw [stands', if_neg Bool.false_ne_true, slot]
  dsimp only
  have again : ({ getNode s p.dstTile p.tag.toNat with a := [], b := [] } : RedNode) =
      { getNode s p.dstTile p.tag.toNat with a := [], b := [], outstanding := 7 + 1 } := by
    rw [show 7 + 1 = (getNode s p.dstTile p.tag.toNat).outstanding from full.symm]
  rw [sum, again]
  exact finish_of_work (besideWork_nodeSent ..)

end

end

/-- Settles O34: a chunk joins its operand, the node works while its window is open, and what stops it is counted and told to the root. -/
theorem reductionNodes : Obligations.ReductionNodes := by
  unfold Obligations.ReductionNodes
  refine ⟨fun s p k h room unit slot => ⟨fun stopped => exec_redData_stopped h unit room slot stopped, fun goes adds => ⟨fun first waits => ?_,
      fun second waits => ?_, fun q first none partner off len free => ?_⟩, fun goes passes first none lone free => ?_⟩,
    fun s n k x r goes lone => exec_redTimeout goes lone, fun s p h unit goes => ⟨fun none => exec_redCredit_opens h unit goes none, ?_⟩⟩
  · have joins : joined (getNode s p.dstTile k) p = { getNode s p.dstTile k with a := (getNode s p.dstTile k).a ++ [p] } :=
      if_neg (by rw [first]; exact Bool.false_ne_true)
    rw [← joins]
    refine exec_redData_kept h unit room slot goes (.inr ?_)
    rw [joins]
    exact waits.symm.imp_right fun lone => ⟨lone, adds⟩
  · have joins : joined (getNode s p.dstTile k) p = { getNode s p.dstTile k with b := (getNode s p.dstTile k).b ++ [p] } := if_pos second
    rw [← joins]
    refine exec_redData_kept h unit room slot goes ?_
    rw [joins]
    exact waits.imp_right .inl
  · exact ⟨_, _, exec_redData_adds h unit room slot goes first none free partner adds off len, rfl, rfl, rfl, rfl, rfl, rfl, getNode_setNode ..,
      rest_nodeSent ..⟩
  · refine ⟨_, _, exec_redData_passes h unit room slot goes first none free lone passes, rfl, rfl, rfl, rfl, rfl, rfl, (getNode_setNode ..).trans ?_,
      rest_nodeSent ..⟩
    rw [← none]
  · exact fun v y q first second off len full stands slot adds =>
      ⟨_, _, exec_redCredit_adds h unit goes first second off len full stands slot adds, rfl, rfl, rfl, getNode_setNode ..,
      rest_nodeSent ..⟩

end Sys2Proof.Proofs.Nodes

/-!
SUPPORT. Requests at a unit that serves them (R143, R260, R262, R263, R270, R273, R473): what is refused, reads, writes and adds over clean lines.
-/
namespace Sys2Proof.Proofs.Serving
open Sys2Proof Sys2Proof.Machine Sys2Proof.Proofs.Palms Sys2Proof.Proofs.Arrivals

/-! Little-endian numbers (R15). -/

theorem natOfBytes_lt (l : List Byte) : natOfBytes l < 256 ^ l.length := by
  induction l with
  | nil => exact Nat.one_pos
  | cons b r ih =>
    have low := b.isLt
    have eq : natOfBytes (b :: r) = b.toNat + 256 * natOfBytes r := rfl
    rw [eq, List.length_cons, Nat.pow_succ]
    omega

theorem natOfBytes_bytesOf (n v : Nat) : natOfBytes (bytesOf n v) = v % 256 ^ n := by
  induction n generalizing v with
  | zero => rw [Nat.pow_zero, Nat.mod_one]; rfl
  | succ n ih =>
    have eq : natOfBytes (bytesOf (n + 1) v) = v % 256 + 256 * natOfBytes (bytesOf n (v / 256)) := rfl
    rw [eq, ih, Nat.pow_succ', Nat.mod_mul]

theorem bytesOf_natOfBytes (l : List Byte) : bytesOf l.length (natOfBytes l) = l := by
  induction l with
  | nil => rfl
  | cons b r ih =>
    have low := b.isLt
    have eq : natOfBytes (b :: r) = b.toNat + 256 * natOfBytes r := rfl
    have rest : natOfBytes (b :: r) / 256 = natOfBytes r := by omega
    have first : BitVec.ofNat 8 (natOfBytes (b :: r)) = b := by
      apply BitVec.eq_of_toNat_eq
      rw [BitVec.toNat_ofNat]
      omega
    rw [List.length_cons, bytesOf, first, rest, ih]

theorem memBytes_length (s : State) (a n : Nat) : (memBytes s a n).length = n := by simp [memBytes]

theorem memNat_lt (s : State) (a : Nat) : memNat s a 8 < 2 ^ 64 := by
  have low := natOfBytes_lt (memBytes s a 8)
  rw [memBytes_length] at low
  exact low

/-- Up to 8 bytes spell a number of 64 bits. -/
theorem natOfBytes_take_lt (l : List Byte) : natOfBytes (l.take 8) < 2 ^ 64 :=
  (natOfBytes_lt _).trans_le (Nat.pow_le_pow_right (by decide) (List.length_take_le 8 l))

/-! What a request finds (R260, R270, R473). -/

section
variable {s : State} {p : Packet}

theorem holdTranslation_rest (s : State) (p : Packet) : { holdTranslation s p with hports := s.hports } = s := by
  unfold holdTranslation
  split
  · dsimp only
    split <;> rfl
  · rfl

/-- A port keeps a translation under ATS alone. -/
theorem holdTranslation_none (h : ∀ q, regionOf p.addr.toNat ≠ some (.host q) ∨ (getHp s q).atsEnabled = false) : holdTranslation s p = s := by
  unfold holdTranslation
  split
  · rename_i q host
    have off := (h q).resolve_left fun ne => ne host
    dsimp only
    rw [off, Bool.false_and, if_neg Bool.false_ne_true]
  · rfl

theorem checkLine_clean (s : State) (r : Region) (l : Nat) (foreground : Bool) : checkLine s r l .clean foreground = s := by
  unfold checkLine
  split <;> rfl

theorem findLine_clean (s : State) (a : Nat) : findLine s a .clean = s := by
  unfold findLine
  split
  · exact checkLine_clean ..
  · exact checkLine_clean ..
  · rfl
  · rfl

theorem countPoisonRead_rest (s : State) (a : Nat) : { countPoisonRead s a with xports := s.xports } = s := by
  unfold countPoisonRead
  split <;> rfl

/-- Serving a request leaves power, functions, time, the queue and the fuses. -/
theorem finish_of_served {u : State} (h : besideMemory { u with packets := s.packets, hbm := s.hbm, xports := s.xports, hports := s.hports } = besideMemory s) :
    finish s u = .next u :=
  finish_of_same s u (congrArg State.pw h :) (congrArg State.fns h :) (congrArg State.tb h :) (congrArg State.pending h :)
    (congrArg (fun x : State => x.weala.fuses) h :)

section
variable (h : Delivered s p) (room : controllerRoom s p = true)
include h room

theorem arriveRequest_delivered (deliver : State → State) : arriveRequest s p deliver = deliver (taken s p) := by
  unfold arriveRequest
  rw [if_pos room, arrive_delivered h]

/-! Reads. -/

section
variable {e : Ecc}

theorem exec_rdReq_refused {st : BitVec 4} (refused : serveRefusal s p .read p.length.toNat = some st) :
    exec (.rdReq p e) s = .next (send (taken s p) [errTo p p.dstTile p.dstUnit st]) := by
  have refused' : serveRefusal (taken s p) p .read p.length.toNat = some st := refused
  show execRdReq p e s = _
  unfold execRdReq
  rw [arriveRequest_delivered h room]
  dsimp only
  rw [refused']
  exact finish_of_served rfl

theorem exec_wrReq_refused {st : BitVec 4} (refused : serveRefusal s p .write p.length.toNat = some st) :
    exec (.wrReq p e) s = .next (send (taken s p) [errTo p p.dstTile p.dstUnit st]) := by
  have refused' : serveRefusal (taken s p) p .write p.length.toNat = some st := refused
  show execWrReq p e s = _
  unfold execWrReq
  rw [arriveRequest_delivered h room]
  dsimp only
  rw [refused']
  exact finish_of_served rfl

theorem exec_rdReq (served : serveRefusal s p .read p.length.toNat = none) {v : State}
    (finds : findLine (holdTranslation (taken s p) p) p.addr.toNat e = v) :
    exec (.rdReq p e) s = finish s (if rangePoisoned v p.addr.toNat p.length.toNat
      then send (countPoisonRead v p.addr.toNat) [errTo p p.dstTile p.dstUnit 6]
      else send v [readAnswer p (memBytes v p.addr.toNat p.length.toNat)]) := by
  have served' : serveRefusal (taken s p) p .read p.length.toNat = none := served
  show execRdReq p e s = _
  unfold execRdReq
  rw [arriveRequest_delivered h room]
  dsimp only
  rw [served']
  dsimp only
  rw [finds]

end

section
variable (served : serveRefusal s p .read p.length.toNat = none)
include served

theorem exec_rdReq_clean (clean : rangePoisoned s p.addr.toNat p.length.toNat = false) : exec (.rdReq p .clean) s =
    .next (send (holdTranslation (taken s p) p) [readAnswer p (memBytes s p.addr.toNat p.length.toNat)]) := by
  have rest := holdTranslation_rest (taken s p) p
  have run := exec_rdReq h room served (findLine_clean (holdTranslation (taken s p) p) p.addr.toNat)
  generalize holdTranslation (taken s p) p = v at rest run ⊢
  have poison : v.poison = s.poison := (congrArg State.poison rest :)
  have clean' : rangePoisoned v p.addr.toNat p.length.toNat = false :=
    (rangePoisoned_of poison ..).trans clean
  have bytes : memBytes v p.addr.toNat p.length.toNat = memBytes s p.addr.toNat p.length.toNat :=
    memBytes_of fun j _ => (congrArg (fun x : State => memByte x (p.addr.toNat + j)) rest :)
  rw [run, clean', if_neg Bool.false_ne_true, bytes]
  exact finish_of_served (congrArg (fun x : State => besideMemory { x with packets := s.packets, hbm := s.hbm, xports := s.xports, hports := s.hports }) rest :)

theorem exec_rdReq_poisoned (poisoned : rangePoisoned s p.addr.toNat p.length.toNat = true) : exec (.rdReq p .clean) s =
    .next (send (countPoisonRead (holdTranslation (taken s p) p) p.addr.toNat) [errTo p p.dstTile p.dstUnit 6]) := by
  have rest := holdTranslation_rest (taken s p) p
  have run := exec_rdReq h room served (findLine_clean (holdTranslation (taken s p) p) p.addr.toNat)
  generalize holdTranslation (taken s p) p = v at rest run ⊢
  have poison : v.poison = s.poison := (congrArg State.poison rest :)
  have poisoned' : rangePoisoned v p.addr.toNat p.length.toNat = true :=
    (rangePoisoned_of poison ..).trans poisoned
  rw [run, if_pos poisoned']
  refine finish_of_served ?_
  have counted := congrArg (fun x : State => besideMemory { x with packets := s.packets, hbm := s.hbm, xports := s.xports, hports := s.hports })
    (countPoisonRead_rest v p.addr.toNat)
  exact counted.trans (congrArg (fun x : State => besideMemory { x with packets := s.packets, hbm := s.hbm, xports := s.xports, hports := s.hports }) rest :)

/-- A corrected line of a stack is counted and will be written back. -/
theorem exec_rdReq_corrected {k : StackNo} (region : regionOf p.addr.toNat = some (.stack k))
    (clean : rangePoisoned s p.addr.toNat p.length.toNat = false) (unmarked : linePoison s (p.addr.toNat / 64) = false) :
    exec (.rdReq p .corrected) s = .next (setStack
      { send (taken s p) [readAnswer p (memBytes s p.addr.toNat p.length.toNat)] with
        writeback := tput false s.writeback (p.addr.toNat / 64) true } k { getStack s k with ceCtrl := satInc (getStack s k).ceCtrl }) := by
  have finds : findLine (holdTranslation (taken s p) p) p.addr.toNat .corrected =
      countCorrected { taken s p with writeback := tput false s.writeback (p.addr.toNat / 64) true } (.stack k) := by
    rw [holdTranslation_none fun q => .inl (by rw [region]; exact fun e => by cases e)]
    unfold findLine checkLine
    rw [region]
    exact if_neg (Bool.eq_false_iff.mp unmarked)
  have clean' : rangePoisoned (countCorrected { taken s p with writeback := tput false s.writeback (p.addr.toNat / 64) true } (.stack k))
      p.addr.toNat p.length.toNat = false := clean
  rw [exec_rdReq h room served finds, clean', if_neg Bool.false_ne_true]
  exact finish_of_served rfl

end

/-! Writes. -/

theorem exec_wrReq_clean (served : serveRefusal s p .write p.length.toNat = none) (length : p.payload.length = p.length.toNat)
    (clean : rangePoisoned s p.addr.toNat p.length.toNat = false) :
    ∃ u, exec (.wrReq p .clean) s = .next u ∧ u.packets = (taken s p).packets ++ [answer p 3 []] ∧
      (∀ a, memByte u a = if p.addr.toNat ≤ a ∧ a < p.addr.toNat + p.length.toNat then p.payload.getD (a - p.addr.toNat) 0 else memByte s a) ∧
      besideMemory { u with packets := s.packets, hports := s.hports } = besideMemory s := by
  have served' : serveRefusal (taken s p) p .write p.length.toNat = none := served
  have rest := holdTranslation_rest (taken s p) p
  have run : exec (.wrReq p .clean) s = finish s
      (if (writeMem (holdTranslation (taken s p) p) p.addr.toNat p.payload).2
       then send (writeMem (holdTranslation (taken s p) p) p.addr.toNat p.payload).1 [answer p 3 []]
       else send (writeMem (holdTranslation (taken s p) p) p.addr.toNat p.payload).1 [errTo p p.dstTile p.dstUnit 6]) := by
    show execWrReq p .clean s = _
    unfold execWrReq
    rw [arriveRequest_delivered h room]
    dsimp only
    rw [served']
    dsimp only
    rw [findLine_clean, findLine_clean, ite_self, ite_self, ite_self]
  generalize holdTranslation (taken s p) p = v at rest run
  have poison : v.poison = s.poison := (congrArg State.poison rest :)
  rw [← length] at clean ⊢
  obtain ⟨stored, -, bytes⟩ := writeMem_clean v p.addr.toNat p.payload ((rangePoisoned_of poison ..).trans clean)
  have beside := besideMemory_writeMem v p.addr.toNat p.payload
  generalize writeMem v p.addr.toNat p.payload = w at run stored bytes beside
  have whole : besideMemory { w.1 with packets := s.packets, hports := s.hports } = besideMemory s :=
    (congrArg (fun x : State => { x with packets := s.packets, hports := s.hports }) beside :).trans
      (congrArg (fun x : State => besideMemory { x with packets := s.packets }) rest :)
  rw [if_pos stored] at run
  refine ⟨_, run.trans (finish_of_served (congrArg (fun x : State => { x with hbm := s.hbm, xports := s.xports }) whole :)), ?_, fun a => ?_, whole⟩
  · have packets : w.1.packets = (taken s p).packets := (congrArg State.packets beside :).trans (congrArg State.packets rest :)
    exact congrArg (· ++ [answer p 3 []]) packets
  · have same : memByte v a = memByte s a := (congrArg (fun x : State => memByte x a) rest :)
    rw [← same]
    exact bytes a

/-! Adds (R262). -/

section
variable (aligned : p.addr.toNat % 8 = 0) (device : ∀ q, regionOf p.addr.toNat ≠ some (.host q)) (served : serveRefusal s p .add 8 = none)
  (clean : rangePoisoned s p.addr.toNat 8 = false) {made : Word64 → Bool}
include aligned device served clean

omit h room in
theorem serveAdd_clean : serveAdd (taken s p) p .clean made =
    send (if made (BitVec.ofNat 64 (memNat s p.addr.toNat 8)) then storeMem (taken s p) p.addr.toNat
        (bytesOf 8 (BitVec.ofNat 64 (memNat s p.addr.toNat 8) + BitVec.ofNat 64 (natOfBytes (p.payload.take 8))).toNat) else taken s p)
      [answer p 5 (bytesOf 8 (BitVec.ofNat 64 (memNat s p.addr.toNat 8)).toNat)] := by
  have served' : serveRefusal (taken s p) p .add 8 = none := served
  have clean' : rangePoisoned (taken s p) p.addr.toNat 8 = false := clean
  have onWafer : (match regionOf p.addr.toNat with | some (.host _) => true | _ => false) = false := by
    split
    · rename_i q host
      exact absurd host (device q)
    · rfl
  unfold serveAdd
  dsimp only
  rw [if_neg (by rw [aligned, bne_self_eq_false, Bool.false_or]; exact Bool.eq_false_iff.mp onWafer), served']
  dsimp only
  rw [findLine_clean, clean', if_neg Bool.false_ne_true]
  rfl

/-- An add that is made leaves the sum, wrapped to 64 bits; either way the answer is the old value. -/
theorem exec_add {i : Instr} (row : exec i s = finish s (arriveRequest s p fun s => serveAdd s p .clean made)) :
    ∃ u, exec i s = .next u ∧ u.packets = (taken s p).packets ++ [answer p 5 (memBytes s p.addr.toNat 8)] ∧
      memNat u p.addr.toNat 8 = (if made (BitVec.ofNat 64 (memNat s p.addr.toNat 8)) then
        (memNat s p.addr.toNat 8 + natOfBytes (p.payload.take 8)) % 2 ^ 64 else memNat s p.addr.toNat 8) ∧
      (∀ b, b < p.addr.toNat ∨ p.addr.toNat + 8 ≤ b → memByte u b = memByte s b) ∧
      besideMemory { u with packets := s.packets } = besideMemory s := by
  have old : (BitVec.ofNat 64 (memNat s p.addr.toNat 8)).toNat = memNat s p.addr.toNat 8 := by
    rw [BitVec.toNat_ofNat, Nat.mod_eq_of_lt (memNat_lt ..)]
  have sum : (BitVec.ofNat 64 (memNat s p.addr.toNat 8) + BitVec.ofNat 64 (natOfBytes (p.payload.take 8))).toNat =
      (memNat s p.addr.toNat 8 + natOfBytes (p.payload.take 8)) % 2 ^ 64 := by
    rw [BitVec.toNat_add, old, BitVec.toNat_ofNat, Nat.add_mod_mod]
  have word : bytesOf 8 (memNat s p.addr.toNat 8) = memBytes s p.addr.toNat 8 := by
    have whole := bytesOf_natOfBytes (memBytes s p.addr.toNat 8)
    rwa [memBytes_length] at whole
  rw [arriveRequest_delivered h room, serveAdd_clean aligned device served clean, old, sum, word] at row
  split at row
  · rename_i yes
    generalize hn : (memNat s p.addr.toNat 8 + natOfBytes (p.payload.take 8)) % 2 ^ 64 = n at row
    have small : n < 2 ^ 64 := hn ▸ Nat.mod_lt _ (by decide)
    obtain ⟨-, -, bytes⟩ := writeMem_clean (taken s p) p.addr.toNat (bytesOf 8 n) (by rw [bytesOf_length]; exact clean)
    have beside := besideMemory_writeMem (taken s p) p.addr.toNat (bytesOf 8 n)
    have packets : (writeMem (taken s p) p.addr.toNat (bytesOf 8 n)).1.packets = (taken s p).packets := (congrArg State.packets beside :)
    unfold storeMem at row
    generalize (writeMem (taken s p) p.addr.toNat (bytesOf 8 n)).1 = w at row bytes beside packets
    rw [bytesOf_length] at bytes
    have whole : besideMemory { w with packets := s.packets } = besideMemory s := (congrArg (fun x : State => { x with packets := s.packets }) beside :)
    refine ⟨_, row.trans (finish_of_served (congrArg (fun x : State => { x with hbm := s.hbm, xports := s.xports, hports := s.hports }) whole :)),
      congrArg (· ++ [answer p 5 (memBytes s p.addr.toNat 8)]) packets, ?_, fun b out => ?_, whole⟩
    · have stored : memBytes w p.addr.toNat 8 = bytesOf 8 n := by
        have all := memBytes_eq (s := w) (a := p.addr.toNat) (bs := bytesOf 8 n) fun j hj => by
          rw [bytesOf_length] at hj
          rw [bytes, if_pos (by omega), Nat.add_sub_cancel_left]
        rwa [bytesOf_length] at all
      have word : memNat w p.addr.toNat 8 = n := by
        unfold memNat
        rw [stored, natOfBytes_bytesOf]
        exact Nat.mod_eq_of_lt small
      rw [if_pos yes]
      exact word
    · exact (bytes b).trans (if_neg (by omega))
  · rename_i no
    refine ⟨_, row.trans (finish_of_served rfl), rfl, ?_, fun b _ => rfl, rfl⟩
    rw [if_neg no]
    rfl

end

end

end

/-- Settles O32: a request is refused, answered or made by what its lines hold, and nothing else changes. -/
theorem servesReadsWritesAndAdds : Obligations.ServesReadsWritesAndAdds := by
  unfold Obligations.ServesReadsWritesAndAdds
  refine ⟨⟨fun s p e h room => ⟨fun st refused => exec_rdReq_refused h room refused, fun st refused => exec_wrReq_refused h room refused⟩,
    fun s p h room served => ⟨fun clean => ?_, fun poisoned => ?_, fun k region clean unmarked => exec_rdReq_corrected h room served region clean unmarked⟩,
    fun s p h room served length clean => exec_wrReq_clean h room served length clean⟩,
    fun s p h room aligned device served clean => ⟨?_, ?_⟩⟩
  · have rest := holdTranslation_rest (taken s p) p
    refine ⟨_, exec_rdReq_clean h room served clean, congrArg (· ++ _) (congrArg State.packets rest :),
      (congrArg (fun x : State => { x with packets := s.packets }) rest :), fun none => ?_⟩
    rw [holdTranslation_none (s := taken s p) none]
    rfl
  · have rest := holdTranslation_rest (taken s p) p
    have counted := countPoisonRead_rest (holdTranslation (taken s p) p) p.addr.toNat
    refine ⟨_, exec_rdReq_poisoned h room served poisoned, congrArg (· ++ _) ((congrArg State.packets counted :).trans (congrArg State.packets rest :)),
      (congrArg (fun x : State => { x with packets := s.packets, xports := s.xports, hports := s.hports }) counted :).trans
        (congrArg (fun x : State => { x with packets := s.packets, xports := s.xports }) rest :)⟩
  · obtain ⟨u, run, packets, word, others, rest⟩ := exec_add h room aligned device served clean (made := fun _ => true) (i := .addReq p .clean) rfl
    exact ⟨u, run, packets, by rw [word, if_pos rfl], others, rest⟩
  · obtain ⟨u, run, packets, word, others, rest⟩ := exec_add h room aligned device served clean (i := .addlReq p .clean)
      (made := fun old => decide (old.toNat + natOfBytes (p.payload.take 8) ≤ natOfBytes ((p.payload.drop 8).take 8))) rfl
    refine ⟨u, run, packets, word.trans ?_, others, rest⟩
    have bound := natOfBytes_take_lt (p.payload.drop 8)
    rw [BitVec.toNat_ofNat, Nat.mod_eq_of_lt (memNat_lt ..)]
    simp only [decide_eq_true_eq]
    split
    · rename_i within
      exact Nat.mod_eq_of_lt (within.trans_lt bound)
    · rfl

end Sys2Proof.Proofs.Serving

/-!
SUPPORT. Power requests: the register write, what it asks for, and how a tile answers (R443 to R446, R454, R464).
-/
namespace Sys2Proof.Proofs.PowerWrites
open Sys2Proof Sys2Proof.Machine Sys2Proof.Proofs.Outcomes Sys2Proof.Proofs.Ends Sys2Proof.Proofs.FabricRows

/-! A table's entry written twice. -/

/-- A value that is listed gives way to the next one for the same index. -/
theorem tput_tput {α : Type} [DecidableEq α] {d v : α} (listed : v ≠ d) (t : Tbl α) (k : Nat) (w : α) : tput d (tput d t k v) k w = tput d t k w := by
  induction t with
  | nil => simp [tput, listed]
  | cons e r ih =>
    obtain ⟨j, x⟩ := e
    by_cases before : k < j
    · by_cases gone : w = d
      · simp [tput, before, listed, gone]
      · simp [tput, before, listed, gone]
    · by_cases same : k = j
      · simp [tput, same, listed]
      · simp [tput, before, same, ih]

section
variable {s : State} {port : HostPort} {n : TileNo} {v : Word64} {w : Nat} {goal : PState}

/-! The counts of refusals (R464). -/

/-- The counts once each of the refusers in a list that the mask names has counted. -/
def refusals (mask : Nat) (l : List Nat) (counts : Tbl (BitVec 16)) : Tbl (BitVec 16) :=
  l.foldl (fun l i => if mask.testBit i then tput 0 l i (satInc (tget 0 l i)) else l) counts

theorem refusals_append (mask : Nat) (l : List Nat) (i : Nat) (counts : Tbl (BitVec 16)) : refusals mask (l ++ [i]) counts =
    if mask.testBit i then tput 0 (refusals mask l counts) i (satInc (tget 0 (refusals mask l counts) i)) else refusals mask l counts :=
  List.foldl_append

theorem tget_refusals_beyond (mask : Nat) (counts : Tbl (BitVec 16)) {m j : Nat} (beyond : m ≤ j) :
    tget 0 (refusals mask (List.range m) counts) j = tget 0 counts j := by
  induction m with
  | zero => rfl
  | succ m ih =>
    rw [List.range_succ, refusals_append]
    split
    · rw [tget_tput_other _ _ _ (by omega)]
      exact ih (by omega)
    · exact ih (by omega)

theorem tget_refusals {mask : Nat} (counts : Tbl (BitVec 16)) {m j : Nat} (within : j < m) (objects : mask.testBit j = true) :
    tget 0 (refusals mask (List.range m) counts) j = satInc (tget 0 counts j) := by
  induction m with
  | zero => exact absurd within (Nat.not_lt_zero j)
  | succ m ih =>
    rw [List.range_succ, refusals_append]
    by_cases last : j = m
    · rw [last] at objects ⊢
      rw [if_pos objects, tget_tput_same, tget_refusals_beyond mask counts (Nat.le_refl m)]
    · have before := ih (by omega)
      split
      · rw [tget_tput_other _ _ _ last]
        exact before
      · exact before

theorem refuse_spec (s : State) (n : TileNo) (goal mask : Nat) :
    (getTile (refuse s n goal mask) n).refuse = refusals mask (List.range 16) (getTile s n).refuse ∧
      (getTile (refuse s n goal mask) n).power = (getTile s n).power ∧
      OnlyReports (setTile s n (getTile (refuse s n goal mask) n)) (refuse s n goal mask) := by
  unfold refuse
  dsimp only
  rw [getTile_of _ (raise _ _) n (raise_tiles _ _), getTile_same]
  exact ⟨rfl, rfl, onlyReports_raise _ _⟩

/-! The register write. -/

theorem exec_powerRow {i : Instr} (row : i = .runRequest port n v ∨ i = .napRequest port n v ∨ i = .dozeRequest port n v ∨ i = .offRequest port n v)
    (s : State) : exec i s = finish s (powerWrite port n v s) := by
  rcases row with rfl | rfl | rfl | rfl <;> rfl

/-- A STATE that names no state (R462). -/
theorem goalOf_reserved {k : Nat} (reserved : k = 1 ∨ 5 ≤ k) : goalOf k = none := by
  rcases reserved with rfl | five
  · rfl
  · obtain ⟨m, rfl⟩ := Nat.exists_eq_add_of_le' five
    rfl

theorem powerWrite_reserved (isOpen : bar0Open s port false = true) (bad : pairOk v = false ∨ goalOf (pairVal v % 8) = none) :
    powerWrite port n v s = setupRefused s (offPwReq n) := by
  have refused : (!pairOk v || (goalOf (pairVal v % 8)).isNone) = true := by
    rcases bad with bad | none
    · rw [bad]; rfl
    · rw [none]; exact Bool.or_true _
  unfold powerWrite
  rw [isOpen, refused]
  rfl

section
variable (isOpen : bar0Open s port false = true) (whole : isHole s n = false) (ok : pairOk v = true) (names : goalOf (pairVal v % 8) = some goal)
include isOpen whole ok names

theorem powerWrite_held (busy : (getTile s n).power = .entering ∨ (getTile s n).power = .waking) :
    powerWrite port n v s = setTile s n { getTile s n with heldReq := some v } := by
  unfold powerWrite
  rw [isOpen, ok, names, whole]
  rcases busy with entering | waking
  · simp only [entering]; rfl
  · simp only [waking]; rfl

theorem powerWrite_taken (entering : (getTile s n).power ≠ .entering) (waking : (getTile s n).power ≠ .waking) :
    powerWrite port n v s = powerRequest s n (pairVal v) := by
  unfold powerWrite
  rw [isOpen, ok, names, whole]
  simp only [Bool.not_true, Bool.false_eq_true, if_false, Option.isNone_some, Bool.or_false]

end

/-! What a request that is taken does (R443). -/

theorem goalOf_nap {k : Nat} (names : goalOf k = some .nap) : k = 2 := by
  unfold goalOf at names
  split at names <;> cases names
  rfl

/-- The tile with the request in its register. -/
abbrev asked (x : Tile) (w : Nat) : Tile := { x with autoNap := w.testBit 3, reqState := BitVec.ofNat 3 (w % 8) }

/-- A tile that was asked to nap is listed: its register holds STATE 2. -/
theorem asked_listed {x : Tile} (two : w % 8 = 2) : asked x w ≠ {} := fun blank => by
  have state := congrArg Tile.reqState blank
  rw [asked, two] at state
  exact absurd (show (2#3 : BitVec 3) = 0 from state) (by decide)

/-- A DOZE whose retention word and its complement agree is no malformed one (R445). -/
theorem retention_whole {x : Tile} (retains : goal = .doze → x.retCompl = ~~~x.retWord) :
    (goal == .doze && x.retCompl != ~~~x.retWord) = false := by
  by_cases doze : goal = .doze
  · rw [retains doze]; simp
  · simp [doze]

section
variable (names : goalOf (w % 8) = some goal) (retains : goal = .doze → (getTile s n).retCompl = ~~~(getTile s n).retWord)
include names retains

theorem powerRequest_refused (objects : objections s n goal ≠ 0) : powerRequest s n w = refuse s n (w % 8) (objections s n goal) := by
  unfold powerRequest
  simp only [names, retention_whole retains]
  exact if_pos objects

/-- With no objection the request stands in its register and the tile sets out for its goal. -/
theorem powerRequest_taken (objects : objections s n goal = 0) :
    ((getTile s n).power = .run → goal = .nap → powerRequest s n w = toState (setTile s n (asked (getTile s n) w)) n .nap 0) ∧
    ((getTile s n).power = .run → goal = .doze ∨ goal = .off →
      powerRequest s n w = beginEntry (setTile s n (asked (getTile s n) w)) n goal) ∧
    ((getTile s n).power = .doze ∨ (getTile s n).power = .off → goal = .run ∨ goal = .nap →
      powerRequest s n w = beginWake (setTile s n (asked (getTile s n) w)) n goal) := by
  unfold powerRequest
  simp only [names, retention_whole retains, objects, ne_eq, not_true, if_false, Bool.false_eq_true]
  generalize setTile s n (asked (getTile s n) w) = u
  refine ⟨fun run nap => ?_, fun run deep => ?_, fun down up => ?_⟩
  · rw [run, nap]
  · rw [run]
    rcases deep with rfl | rfl <;> rfl
  · rcases down with down | down <;> rw [down] <;> rcases up with rfl | rfl <;> rfl

end

/-! The rows. -/

/-- An entry changes the tile and the tables' load. -/
theorem rest_beginEntry (u : State) (n : TileNo) (goal : PState) :
    { beginEntry u n goal with tiles := u.tiles, escapeLoading := u.escapeLoading } = u := rfl

theorem onlyReports_napped (listed : asked (getTile s n) w ≠ {}) :
    (getTile (toState (setTile s n (asked (getTile s n) w)) n .nap 0) n) = { asked (getTile s n) w with power := .nap } ∧
      OnlyReports (setTile s n { asked (getTile s n) w with power := .nap }) (toState (setTile s n (asked (getTile s n) w)) n .nap 0) := by
  have reports := onlyReports_toState (setTile s n (asked (getTile s n) w)) n .nap 0
  have once : setTile (setTile s n (asked (getTile s n) w)) n { asked (getTile s n) w with power := .nap } =
      setTile s n { asked (getTile s n) w with power := .nap } :=
    congrArg (fun tiles => { s with tiles := tiles }) (tput_tput listed s.tiles n.val _)
  rw [getTile_same, once] at reports
  exact ⟨(getTile_of _ _ n (congrArg (fun x : State => x.tiles) reports.rest :)).trans (getTile_same _ _ _), reports⟩

/-- A change of one tile, with reports after it, is the row's next state. -/
theorem finish_of_tile {u : State} {x : Tile} (h : OnlyReports (setTile s n x) u) : finish s u = .next u :=
  finish_of_reports h rfl rfl rfl rfl rfl

section
variable {i : Instr} (row : i = .runRequest port n v ∨ i = .napRequest port n v ∨ i = .dozeRequest port n v ∨ i = .offRequest port n v)
  (isOpen : bar0Open s port false = true)
include row isOpen

theorem exec_powerReserved (bad : pairOk v = false ∨ pairVal v % 8 = 1 ∨ 5 ≤ pairVal v % 8) : ∃ u, exec i s = .next u ∧ OnlyReports s u := by
  have run := exec_powerRow row s
  rw [powerWrite_reserved isOpen (bad.imp_right goalOf_reserved)] at run
  have reports := onlyReports_setupRefused s (offPwReq n)
  exact ⟨_, run.trans (finish_of_reports reports rfl rfl rfl rfl rfl), reports⟩

section
variable (whole : isHole s n = false) (ok : pairOk v = true) (names : goalOf (pairVal v % 8) = some goal)
include whole ok names

theorem exec_powerHeld (busy : (getTile s n).power = .entering ∨ (getTile s n).power = .waking) :
    exec i s = .next (setTile s n { getTile s n with heldReq := some v }) := by
  rw [exec_powerRow row s, powerWrite_held isOpen whole ok names busy]
  exact finish_of_same _ _ rfl rfl rfl rfl rfl

theorem exec_powerTaken (entering : (getTile s n).power ≠ .entering) (waking : (getTile s n).power ≠ .waking) :
    exec i s = finish s (powerRequest s n (pairVal v)) :=
  (exec_powerRow row s).trans (congrArg (finish s) (powerWrite_taken isOpen whole ok names entering waking))

variable (retains : goal = .doze → (getTile s n).retCompl = ~~~(getTile s n).retWord)
include retains

theorem exec_powerRefused (objects : objections s n goal ≠ 0) (awake : (getTile s n).power = .run ∨ (getTile s n).power = .nap) :
    ∃ u, exec i s = .next u ∧ (getTile u n).power = (getTile s n).power ∧ OnlyReports (setTile s n (getTile u n)) u ∧
      ∀ j, j < 16 → (objections s n goal).testBit j = true → tget 0 (getTile u n).refuse j = satInc (tget 0 (getTile s n).refuse j) := by
  have run := exec_powerTaken row isOpen whole ok names (by rcases awake with h | h <;> rw [h] <;> decide) (by rcases awake with h | h <;> rw [h] <;> decide)
  rw [powerRequest_refused names retains objects] at run
  obtain ⟨counts, power, reports⟩ := refuse_spec s n (pairVal v % 8) (objections s n goal)
  refine ⟨_, run.trans (finish_of_tile reports), power, reports, fun j within objects => ?_⟩
  rw [counts]
  exact tget_refusals _ within objects

variable (agrees : objections s n goal = 0)
include agrees

theorem exec_powerNap (power : (getTile s n).power = .run) (nap : goal = .nap) :
    ∃ u, exec i s = .next u ∧ OnlyReports (setTile s n (getTile u n)) u ∧ getTile u n = { asked (getTile s n) (pairVal v) with power := .nap } := by
  have run := exec_powerTaken row isOpen whole ok names (by rw [power]; decide) (by rw [power]; decide)
  rw [(powerRequest_taken names retains agrees).1 power nap] at run
  have two : pairVal v % 8 = 2 := goalOf_nap (nap ▸ names)
  obtain ⟨tile, reports⟩ := onlyReports_napped (s := s) (n := n) (w := pairVal v) (asked_listed two)
  exact ⟨_, run.trans (finish_of_tile reports), tile ▸ reports, tile⟩

theorem exec_powerEntry (power : (getTile s n).power = .run) (deep : goal = .doze ∨ goal = .off) :
    ∃ u, exec i s = .next u ∧ { u with tiles := s.tiles, escapeLoading := s.escapeLoading } = s ∧ u.escapeLoading = true ∧
      (∀ m, m ≠ n → getTile u m = getTile s m) ∧
      getTile u n = { asked (getTile s n) (pairVal v) with
        power := .entering, goal := goal, fromState := .run, retained := if goal = .doze then (getTile s n).retWord else 0 } := by
  have run := exec_powerTaken row isOpen whole ok names (by rw [power]; decide) (by rw [power]; decide)
  rw [(powerRequest_taken names retains agrees).2.1 power deep] at run
  have rest := congrArg (fun u : State => { u with tiles := s.tiles }) (rest_beginEntry (setTile s n (asked (getTile s n) (pairVal v))) n goal)
  refine ⟨_, run.trans (finish_of_same _ _ rfl rfl rfl rfl rfl), rest, rfl, fun m ne => ?_, ?_⟩
  · exact (getTile_other _ _ ne).trans (getTile_other _ _ ne)
  · refine (getTile_same _ _ _).trans ?_
    rw [getTile_same]
    rcases deep with rfl | rfl <;> simp [power]

theorem exec_powerWake (power : (getTile s n).power = .doze ∨ (getTile s n).power = .off) (up : goal = .run ∨ goal = .nap) :
    ∃ u, exec i s = .next u ∧ { u with tiles := s.tiles } = s ∧ (∀ m, m ≠ n → getTile u m = getTile s m) ∧
      getTile u n = { asked (getTile s n) (pairVal v) with
        power := .waking, goal := goal, fromState := (getTile s n).power, ramping := tileDomains n &&& ~~~(getTile s n).faulted, domainsUp := 0 } := by
  have run := exec_powerTaken row isOpen whole ok names (by rcases power with h | h <;> rw [h] <;> decide)
    (by rcases power with h | h <;> rw [h] <;> decide)
  rw [(powerRequest_taken names retains agrees).2.2 power up] at run
  refine ⟨_, run.trans (finish_of_same _ _ rfl rfl rfl rfl rfl), rfl, fun m ne => ?_, ?_⟩
  · exact (getTile_other _ _ ne).trans (getTile_other _ _ ne)
  · refine (getTile_same _ _ _).trans ?_
    rw [getTile_same]

end
end

/-- A tile whose slots hold nothing has no slot of any kind. -/
theorem someSlot_none (p : Slot → Bool) (empty : ∀ c ∈ tileCores n, (getCore s c).slots = []) : someSlot s n p = false := by
  unfold someSlot
  refine List.any_eq_false.mpr fun c mem => ?_
  rw [empty c mem]
  exact Bool.false_ne_true

theorem exec_autoNap (auto : (getTile s n).autoNap = true) (power : (getTile s n).power = .run) (whole : isHole s n = false)
    (empty : ∀ c ∈ tileCores n, (getCore s c).slots = []) (agrees : objections s n .nap = 0) :
    ∃ u, exec (.autoNapEntry n) s = .next u ∧ OnlyReports (setTile s n { getTile s n with power := .nap }) u := by
  have idle := someSlot_none (fun sl => sl.state != .empty && sl.state != .blocked) empty
  have run : exec (.autoNapEntry n) s = finish s (toState s n .nap 1) :=
    congrArg (finish s) (if_neg (by rw [auto, power, whole, idle, agrees]; decide))
  have reports := onlyReports_toState s n .nap 1
  exact ⟨_, run.trans (finish_of_tile reports), reports⟩

theorem exec_clockWakes (power : (getTile s n).power = .nap) (cool : (getTile s n).thermal = false) :
    ∃ u, exec (.clockWake n) s = .next u ∧ OnlyReports (setTile s n { getTile s n with power := .run }) u := by
  have run : exec (.clockWake n) s = finish s (toState s n .run 0) :=
    congrArg (finish s) (if_pos (by rw [power, cool]; rfl))
  have reports := onlyReports_toState s n .run 0
  exact ⟨_, run.trans (finish_of_tile reports), reports⟩

end

/-- Settles O57: one register write, which a reserved STATE makes a report, an entry or a wake holds, an objection refuses and counts, and which else
sends the tile to its goal. -/
theorem powerRequests : Obligations.PowerRequests := by
  unfold Obligations.PowerRequests
  refine ⟨fun i s port n v row isOpen whole => ⟨fun bad => exec_powerReserved row isOpen bad, fun goal ok names retains =>
    ⟨exec_powerHeld row isOpen whole ok names, fun agrees => ⟨?_, ?_, ?_⟩, exec_powerRefused row isOpen whole ok names retains⟩⟩,
    fun s n auto power whole empty agrees => exec_autoNap auto power whole empty agrees, fun s n power cool => exec_clockWakes power cool⟩
  · exact exec_powerNap row isOpen whole ok names retains agrees
  · exact exec_powerEntry row isOpen whole ok names retains agrees
  · exact exec_powerWake row isOpen whole ok names retains agrees

end Sys2Proof.Proofs.PowerWrites

/-!
SUPPORT. A station's reads of its STREAM's source (R213): the cuts of the source, one read after the other.
-/
namespace Sys2Proof.Proofs.StationReads
open Sys2Proof Sys2Proof.Machine Sys2Proof.Proofs.Outcomes

/-! The packets' payloads, from the first on (R92, R142). -/

theorem packetCuts_zero (a : Nat) : packetCuts a 0 = [] := if_pos rfl

/-- The length of the first packet: as far as the next multiple of 4 KiB, or all that is left. -/
def firstCut (a n : Nat) : Nat := min (4096 - a % 4096) n

theorem packetCuts_step {a n : Nat} (some_ : n ≠ 0) : packetCuts a n = (a, firstCut a n) :: packetCuts (a + firstCut a n) (n - firstCut a n) := by
  unfold packetCuts firstCut
  rw [if_neg some_]
  by_cases one : n ≤ 4096 - a % 4096
  · have line : (a + n - 1) / 4096 - a / 4096 = 0 := by omega
    have len : min (a + n) ((a / 4096 + 0 + 1) * 4096) - a = n := by omega
    have lo : max a ((a / 4096 + 0) * 4096) = a := by omega
    rw [line, Nat.min_eq_right one, if_pos (Nat.sub_self n)]
    simp only [Nat.zero_add, List.range_one, List.map_cons, List.map_nil, lo, len]
  · have first : min (4096 - a % 4096) n = 4096 - a % 4096 := by omega
    have lines : (a + n - 1) / 4096 - a / 4096 = (a + n - 1) / 4096 - (a / 4096 + 1) + 1 := by omega
    have next : (a + (4096 - a % 4096)) / 4096 = a / 4096 + 1 := by omega
    have tail : a + (4096 - a % 4096) + (n - (4096 - a % 4096)) = a + n := by omega
    rw [first, if_neg (by omega), lines, next, tail, List.range_succ_eq_map, List.map_cons, List.map_map]
    refine congrArg₂ List.cons (Prod.ext ?_ ?_) (List.map_congr_left fun i _ => Prod.ext ?_ ?_) <;>
      simp only [Function.comp_apply, Nat.succ_eq_add_one] <;> omega

/-! One read more. -/

/-- The request of a station's read: a cut of the source, and its tag. -/
def ask (n : TileNo) (t : Task) (e : (Nat × Nat) × Nat) : Packet :=
  unitRequest n 0xE t 0x00 (BitVec.ofNat 8 e.2) e.1.1 e.1.2 (e.1.1 - stSrc t) (e.1.1 - stSrc t + e.1.2 == stBytes t) []

/-- The read that waits for its data. -/
def waits (t : Task) (e : (Nat × Nat) × Nat) : StationRead := { tag := e.2, offset := e.1.1 - stSrc t, len := e.1.2 }

/-- The STREAM with some reads more outstanding. -/
def asking (r : StreamRun) (l : List ((Nat × Nat) × Nat)) : StreamRun :=
  { r with asked := r.asked + (l.map fun e => e.1.2).sum, reads := r.reads ++ l.map (waits r.task) }

theorem asking_nil (r : StreamRun) : asking r [] = r := by
  simp [asking]

theorem asking_cons (r : StreamRun) (e : (Nat × Nat) × Nat) (l : List ((Nat × Nat) × Nat)) : asking r (e :: l) = asking (asking r [e]) l := by
  simp [asking, Nat.add_assoc]

/-- A tile whose station runs a STREAM. -/
def runs (x : Tile) (r : StreamRun) : Tile := { x with station := { x.station with running := some r } }

theorem runs_self {x : Tile} {r : StreamRun} (h : x.station.running = some r) : runs x r = x := by
  unfold runs
  rw [← h]

section
variable {s u v : State} {n : TileNo} {r : StreamRun} {l : List ((Nat × Nat) × Nat)} {e : (Nat × Nat) × Nat}

/-- From s to u the station at n, which ran r, has asked for some cuts of its source, and nothing else has changed. -/
structure Asks (n : TileNo) (r : StreamRun) (l : List ((Nat × Nat) × Nat)) (s u : State) : Prop where
  packets : u.packets = s.packets ++ l.map (ask n r.task)
  tile : getTile u n = runs (getTile s n) (asking r l)
  others : ∀ m, m ≠ n → getTile u m = getTile s m
  rest : { u with tiles := s.tiles, packets := s.packets } = s

theorem Asks.none (h : (getTile s n).station.running = some r) : Asks n r [] s s :=
  ⟨(List.append_nil _).symm, (by rw [asking_nil, runs_self h]), fun _ _ => rfl, rfl⟩

/-- The state with one read more. -/
def askOne (s : State) (n : TileNo) (r : StreamRun) (e : (Nat × Nat) × Nat) : State := send (setRun s n (asking r [e])) [ask n r.task e]

theorem getTile_askOne (s : State) (n : TileNo) (r : StreamRun) (e : (Nat × Nat) × Nat) : getTile (askOne s n r e) n = runs (getTile s n) (asking r [e]) :=
  getTile_same s n (runs (getTile s n) (asking r [e]))

theorem rest_askOne (s : State) (n : TileNo) (r : StreamRun) (e : (Nat × Nat) × Nat) :
    { askOne s n r e with tiles := s.tiles, packets := s.packets } = s := rfl

theorem Asks.cons (h : Asks n (asking r [e]) l (askOne s n r e) u) : Asks n r (e :: l) s u := by
  obtain ⟨packets, tile, others, rest⟩ := h
  refine ⟨?_, ?_, fun m ne => (others m ne).trans (getTile_other s _ ne), ?_⟩
  · rw [packets]
    exact List.append_assoc _ _ _
  · rw [tile, getTile_askOne, asking_cons r e l]
    rfl
  · exact (congrArg (fun x : State => { x with tiles := s.tiles, packets := s.packets }) rest :).trans (rest_askOne s n r e)

/-- The reads that are out carry the tags from 0 on, and none has its data. -/
structure Tagged (r : StreamRun) : Prop where
  tags : r.reads.map StationRead.tag = List.range r.reads.length
  open_ : ∀ x ∈ r.reads, x.data = none

theorem Tagged.pending (h : Tagged r) : r.pending = r.reads :=
  List.filter_eq_self.mpr fun x mem => by rw [h.open_ x mem]; rfl

/-- The next read takes the next tag. -/
theorem Tagged.next (h : Tagged r) (room : r.reads.length < 16) :
    ((List.range 16).find? fun k => !r.pending.any fun x => x.tag == k) = some r.reads.length := by
  have used (k : Nat) : (r.pending.any fun x => x.tag == k) = decide (k < r.reads.length) := by
    have mem : (r.reads.any fun x => x.tag == k) = (r.reads.map StationRead.tag).any (· == k) := by rw [List.any_map]; rfl
    rw [h.pending, mem, h.tags, Bool.eq_iff_iff]
    simp
  simp only [used]
  rw [List.find?_range_eq_some]
  refine ⟨by simp, List.mem_range.mpr room, fun j less => by simpa using less⟩

theorem Tagged.asking (h : Tagged r) (e : Nat × Nat) : Tagged (asking r [(e, r.reads.length)]) := by
  refine ⟨?_, fun x mem => ?_⟩
  · simp [StationReads.asking, h.tags, waits, List.range_succ]
  · rcases List.mem_append.mp mem with old | new
    · exact h.open_ x old
    · rw [List.mem_singleton.mp new]
      rfl

section
variable (run : (getTile s n).station.running = some r) (goes : r.stopped = false) (stands : resettingPart s r.task.part = false) (tagged : Tagged r)
include run tagged

theorem askReads_over (fuel : Nat) (room : r.reads.length < 16) (all : stBytes r.task - r.asked = 0) : askReads n (fuel + 1) s = s := by
  have none_ : min (4096 - (stSrc r.task + r.asked) % 4096) (stBytes r.task - r.asked) = 0 := by omega
  unfold askReads
  simp only [run, tagged.next room, none_]
  exact if_pos (by simp)

include goes stands

theorem askReads_step (fuel : Nat) (room : r.reads.length < 16) (left : stBytes r.task - r.asked ≠ 0) : askReads n (fuel + 1) s = askReads n fuel
    (askOne s n r ((stSrc r.task + r.asked, firstCut (stSrc r.task + r.asked) (stBytes r.task - r.asked)), r.reads.length)) := by
  have some_ : (min (4096 - (stSrc r.task + r.asked) % 4096) (stBytes r.task - r.asked) == 0) = false := by
    rw [beq_eq_false_iff_ne]
    omega
  have offset : stSrc r.task + r.asked - stSrc r.task = r.asked := by omega
  rw [askReads]
  simp only [run, tagged.next room, goes, stands, some_, askOne, asking, ask, waits, firstCut, offset, List.map_cons, List.map_nil, List.sum_singleton]
  rfl

end

/-- A station reads on while tags are free: one cut after the other. -/
theorem askReads_asks (fuel : Nat) : ∀ {s : State} {r : StreamRun}, (getTile s n).station.running = some r → r.stopped = false →
    resettingPart s r.task.part = false → Tagged r → r.reads.length + fuel ≤ 16 →
    Asks n r (((packetCuts (stSrc r.task + r.asked) (stBytes r.task - r.asked)).take fuel).zipIdx r.reads.length) s (askReads n fuel s) := by
  induction fuel with
  | zero => exact fun run _ _ _ _ => .none run
  | succ fuel ih =>
    intro s r run goes stands tagged room
    by_cases left : stBytes r.task - r.asked = 0
    · rw [askReads_over run tagged fuel (by omega) left, left, packetCuts_zero]
      exact .none run
    · rw [askReads_step run goes stands tagged fuel (by omega) left, packetCuts_step left, List.take_succ_cons, List.zipIdx_cons]
      generalize cut : firstCut (stSrc r.task + r.asked) (stBytes r.task - r.asked) = k
      have more := ih (s := askOne s n r ((stSrc r.task + r.asked, k), r.reads.length)) (congrArg (fun x : Tile => x.station.running) (getTile_askOne ..) :)
        goes stands (tagged.asking _) (by simp [asking]; omega)
      have asked : (asking r [((stSrc r.task + r.asked, k), r.reads.length)]).asked = r.asked + k := by simp [asking]
      have len : (asking r [((stSrc r.task + r.asked, k), r.reads.length)]).reads.length = r.reads.length + 1 := by simp [asking]
      rw [asked, len] at more
      have same : stSrc r.task + (r.asked + k) = stSrc r.task + r.asked + k := (Nat.add_assoc ..).symm
      have less : stBytes r.task - (r.asked + k) = stBytes r.task - r.asked - k := Nat.sub_add_eq ..
      refine Asks.cons ?_
      rw [← same, ← less]
      exact more

end
end Sys2Proof.Proofs.StationReads

/-!
SUPPORT. STREAM at its station: its queue, and its start (R191, R211, R213).
-/
namespace Sys2Proof.Proofs.StationRows
open Sys2Proof Sys2Proof.Machine Sys2Proof.Proofs.Outcomes Sys2Proof.Proofs.StationReads

section
variable {s : State} {n : TileNo} {t : Task} {rest : List Task}

section
variable (inbox : (getTile s n).station.inbox = t :: rest)
include inbox

theorem exec_streamHeld (holds : genWhen (getPart s t.part) t.mapGen t.afterMark = .hold) (room : (getTile s n).station.held.length < 16) :
    exec (.stream n) s = .next (setTile s n { getTile s n with
      station := { (getTile s n).station with inbox := rest, held := (getTile s n).station.held ++ [t] } }) := by
  show execStream n s = _
  unfold execStream
  simp only [inbox, holds, room, if_true]
  exact finish_of_work rfl

theorem exec_streamQueued (goes : genWhen (getPart s t.part) t.mapGen t.afterMark ≠ .hold)
    (passes : admissionFailure (genFails (genWhen (getPart s t.part) t.mapGen t.afterMark) ++ streamFails s n t) = none)
    (step : stepWhen (getPart s t.part) t.step ≠ .next) (room : (getTile s n).station.queue.length < 64) :
    exec (.stream n) s = .next (setTile s n { getTile s n with
      station := { (getTile s n).station with inbox := rest, queue := (getTile s n).station.queue ++ [admitMark s t] } }) := by
  have waits : (stepWhen (getPart s t.part) t.step = .next || decide (64 ≤ (getTile s n).station.queue.length)) = false := by
    simp [step, room]
  show execStream n s = _
  unfold execStream
  simp only [inbox, if_neg goes, passes, waits]
  exact finish_of_work rfl

end

/-- The STREAM that a station sets out with. -/
def newRun (s : State) (t : Task) (g : Nat) : StreamRun :=
  { task := t, group := g, remaining := stBytes t * (groupSlots (getPart s t.part).map g).length, status := stOk }

/-- A STREAM with reads outstanding does not end. -/
theorem endStream_reads {u : State} {r : StreamRun} (run : (getTile u n).station.running = some r) (reads : r.pending ≠ []) : endStream u n = u := by
  unfold endStream
  simp only [run]
  refine if_pos ?_
  cases pending : r.pending with
  | nil => exact absurd pending reads
  | cons => simp

/-- The station's queue without the STREAM that starts. -/
def started (s : State) (n : TileNo) (rest : List Task) : State :=
  setTile s n { getTile s n with station := { (getTile s n).station with queue := rest } }

/-- The station with the STREAM that starts. -/
def running (s : State) (n : TileNo) (rest : List Task) (r : StreamRun) : State := setRun (started s n rest) n r

theorem exec_streamStart_reads {g : Nat} (idle : (getTile s n).station.running = none) (queue : (getTile s n).station.queue = t :: rest)
    (stands : resettingPart s t.part = false) (group : streamGroup (started s n rest) n t = .ok g)
    (ranges : admissionFailure (streamRanges (started s n rest) t g) = none) :
    exec (.streamStart n) s = finish s (endStream (askReads n 16 (running s n rest (newRun s t g))) n) := by
  show execStreamStart n s = _
  unfold execStreamStart
  dsimp only
  split
  case h_1 next others _ waiting =>
    obtain ⟨rfl, rfl⟩ := List.cons.inj (queue.symm.trans waiting)
    unfold started at group ranges
    rw [if_neg (Bool.eq_false_iff.mp stands), group]
    dsimp only
    rw [ranges]
    rfl
  case h_2 busy => exact absurd queue (busy t rest idle)

theorem tile_running (s : State) (n : TileNo) (rest : List Task) (r : StreamRun) :
    getTile (running s n rest r) n = runs { getTile s n with station := { (getTile s n).station with queue := rest } } r := by
  refine (getTile_same _ _ _).trans ?_
  rw [started, getTile_same]
  rfl

theorem rest_started (s : State) (n : TileNo) (rest : List Task) : { started s n rest with tiles := s.tiles } = s := rfl

theorem rest_running (s : State) (n : TileNo) (rest : List Task) (r : StreamRun) : { running s n rest r with tiles := s.tiles } = s :=
  (show { running s n rest r with tiles := s.tiles } = { started s n rest with tiles := s.tiles } from rfl).trans (rest_started s n rest)

/-- A STREAM that starts has asked for the first reads of its source. -/
theorem asks_started {g : Nat} (stands : resettingPart s t.part = false) : Asks n (newRun s t g) (((packetCuts (stSrc t) (stBytes t)).take 16).zipIdx)
    (running s n rest (newRun s t g)) (askReads n 16 (running s n rest (newRun s t g))) :=
  askReads_asks 16 (congrArg (fun x : Tile => x.station.running) (tile_running ..) :) rfl stands ⟨rfl, fun _ mem => absurd mem List.not_mem_nil⟩
    (Nat.le_refl 16)

theorem exec_streamStarts {g : Nat} (idle : (getTile s n).station.running = none) (queue : (getTile s n).station.queue = t :: rest)
    (stands : resettingPart s t.part = false) (group : streamGroup (started s n rest) n t = .ok g)
    (ranges : admissionFailure (streamRanges (started s n rest) t g) = none) (some_ : 1 ≤ stBytes t) :
    ∃ u, exec (.streamStart n) s = .next u ∧
      Asks n (newRun s t g) (((packetCuts (stSrc t) (stBytes t)).take 16).zipIdx) (running s n rest (newRun s t g)) u := by
  have run := exec_streamStart_reads idle queue stands group ranges
  have asks := asks_started (s := s) (n := n) (t := t) (rest := rest) (g := g) stands
  have reads : (asking (newRun s t g) (((packetCuts (stSrc t) (stBytes t)).take 16).zipIdx)).pending ≠ [] := by
    rw [packetCuts_step (Nat.ne_of_gt some_)]
    simp [asking, StreamRun.pending, waits]
  rw [endStream_reads (congrArg (fun x : Tile => x.station.running) asks.tile :) reads] at run
  exact ⟨_, run.trans (finish_of_work (besideWork_askReads ..)), asks⟩

end
end Sys2Proof.Proofs.StationRows

/-!
SUPPORT. Bursts: the Brim as it stands beside the stations, a burst that sets off, and one that crosses a segment (R164 to R167, R171).
-/
namespace Sys2Proof.Proofs.Bursts
open Sys2Proof Sys2Proof.Machine Sys2Proof.Proofs.Outcomes Sys2Proof.Proofs.Arrivals Sys2Proof.Proofs.StationReads Sys2Proof.Proofs.StationRows

/-! A station's STREAM replaced. -/

section
variable {s u v : State} {n : TileNo} {q r : StreamRun}

/-- From s to v the station at n has come to run r, and nothing else has changed. -/
structure Reruns (n : TileNo) (r : StreamRun) (s v : State) : Prop where
  tile : getTile v n = runs (getTile s n) r
  others : ∀ m, m ≠ n → getTile v m = getTile s m
  rest : { v with tiles := s.tiles } = s

theorem Reruns.setRun (s : State) (n : TileNo) (r : StreamRun) : Reruns n r s (setRun s n r) :=
  ⟨getTile_same s n (runs (getTile s n) r), fun _ ne => getTile_other s _ ne, rfl⟩

theorem Reruns.trans (h : Reruns n q s u) (k : Reruns n r u v) : Reruns n r s v :=
  ⟨k.tile.trans (by rw [h.tile]; rfl), fun m ne => (k.others m ne).trans (h.others m ne),
    (congrArg (fun x : State => { x with tiles := s.tiles }) k.rest :).trans h.rest⟩

theorem Reruns.running (h : Reruns n r s v) : (getTile v n).station.running = some r := (congrArg (fun x : Tile => x.station.running) h.tile :)

/-- What the ways of the Brim depend on: the partitions' tiles, and the tiles that carry traffic. -/
structure SameBrim (s v : State) : Prop where
  parts : v.parts = s.parts
  out : ∀ m, tileOut v m = tileOut s m

theorem Reruns.brim (h : Reruns n r s v) : SameBrim s v := by
  refine ⟨(congrArg (fun x : State => x.parts) h.rest :), fun m => ?_⟩
  have holes : v.holes = s.holes := (congrArg (fun x : State => x.holes) h.rest :)
  have power : (getTile v m).power = (getTile s m).power := by
    by_cases same : m = n
    · rw [same, h.tile]
      rfl
    · rw [h.others m same]
  unfold tileOut isHole poweredIn
  rw [holes, power]

theorem SameBrim.spineNext (h : SameBrim s v) (p : PartNo) (t : TileNo) (d : Fin 4) : spineNext v p t d = spineNext s p t d := by
  have tiles (m : TileNo) : partHasTile v p m = partHasTile s p m := by
    unfold partHasTile
    rw [getPart_of s v p h.parts]
  unfold Machine.spineNext
  simp only [tiles]

theorem SameBrim.segment (h : SameBrim s v) (p : PartNo) (t : TileNo) (d : Fin 4) : segment v p t d = segment s p t d := by
  unfold Machine.segment
  simp only [h.spineNext, h.out]

theorem SameBrim.burstWays (h : SameBrim s v) (p : PartNo) (dests : List TileNo) (t : TileNo) (heading : Option (Fin 4)) :
    burstWays v p dests t heading = burstWays s p dests t heading := by
  unfold Machine.burstWays
  simp only [h.spineNext]

theorem SameBrim.brimReaches (h : SameBrim s v) (src dst : TileNo) : brimReaches v src dst = brimReaches s src dst := by
  unfold Machine.brimReaches
  simp only [h.out]

end

/-! Ways on (R165, R171). -/

section
variable {s v : State} {b : Burst} {ways : List (Fin 4)} {dests : List TileNo} {n : TileNo}

/-- Over closed segments a burst sets off on each of its ways. -/
theorem launch_closed (closed : ∀ d ∈ ways, (segment s b.partition b.here d).isSome = true) :
    launch s b ways dests = { s with bursts := s.bursts ++ ways.map fun d => { b with heading := d } } := by
  unfold launch
  induction ways generalizing s with
  | nil => simp
  | cons d l ih =>
    obtain ⟨first, others⟩ := List.forall_mem_cons.mp closed
    rw [List.foldl_cons, if_pos first, ih (s := { s with bursts := s.bursts ++ [{ b with heading := d }] }) others]
    simp only [List.map_cons, List.append_assoc, List.singleton_append]

/-- A burst with the tiles that get mesh copies of it. -/
def withCopies (s : State) (b : Burst) (dests : List TileNo) : Burst := { b with copied := dests.filter fun m => !brimReaches s b.srcTile m }

theorem SameBrim.withCopies (h : SameBrim s v) (b : Burst) (dests : List TileNo) : withCopies v b dests = withCopies s b dests := by
  unfold Bursts.withCopies
  simp only [h.brimReaches]

/-- What a burst leaves that sets off over closed segments: itself on each way, and mesh copies for the tiles that the Brim does not reach. -/
def leaves (s : State) (b : Burst) (dests : List TileNo) : State :=
  { s with
    packets := s.packets ++ (withCopies s b dests).copied.flatMap (bcastPackets (withCopies s b dests))
    bursts := s.bursts ++ (burstWays s b.partition dests b.srcTile none).map fun d => { withCopies s b dests with heading := d } }

/-- A burst for other tiles, over closed segments, leaves as bursts and as mesh copies. -/
theorem sendBurst_away (away : dests.contains b.srcTile = false) (here : b.here = b.srcTile)
    (closed : ∀ d ∈ burstWays s b.partition dests b.srcTile none, (segment s b.partition b.srcTile d).isSome = true) :
    sendBurst s b dests = leaves s b dests := by
  have go := launch_closed (s := meshCopies s (withCopies s b dests) (withCopies s b dests).copied) (b := withCopies s b dests) (dests := dests)
    (ways := burstWays s b.partition dests b.srcTile none) (by rw [show (withCopies s b dests).here = b.srcTile from here]; exact closed)
  exact (if_neg (Bool.eq_false_iff.mp away)).trans go

end

/-! The last burst of a broadcast (R164, R213). -/

section
variable {s v : State} {n : TileNo} {r : StreamRun}

/-- The burst that carries what the station has gathered, the last of its broadcast. -/
def lastBurst (n : TileNo) (r : StreamRun) : Burst :=
  { srcTile := n, partition := r.task.part, group := BitVec.ofNat 12 r.group, seq := BitVec.ofNat 32 (r.sent / 16384), last := true
    poison := r.poison, offset := stDoff r.task + r.sent, data := r.buffer, here := n, heading := 0 }

/-- The STREAM when its last burst has left. -/
def allSent (r : StreamRun) : StreamRun := { r with buffer := [], sent := stBytes r.task, poison := false }

theorem cutBursts_over (run : (getTile s n).station.running = some r) (sent : r.sent = stBytes r.task) (fuel : Nat) : cutBursts n fuel s = s := by
  cases fuel with
  | zero => rfl
  | succ fuel =>
    unfold cutBursts
    simp only [run, sent, Nat.sub_self, Nat.min_zero]
    exact if_pos (by simp)

theorem cutBursts_last (run : (getTile s n).station.running = some r) (goes : r.stopped = false) (stands : resettingPart s r.task.part = false)
    (less : r.sent < stBytes r.task) (fits : stBytes r.task - r.sent ≤ 16384) (come : r.buffer.length = stBytes r.task - r.sent) (fuel : Nat) :
    cutBursts n (fuel + 1) s =
      cutBursts n fuel (sendBurst (setRun s n (allSent r)) (lastBurst n r) (groupTiles (getPart s r.task.part).map r.group)) := by
  have all : min 16384 (stBytes r.task - r.sent) = r.buffer.length := by omega
  have upto : r.sent + r.buffer.length = stBytes r.task := by omega
  have some_ : (r.buffer.length == 0) = false := by
    rw [beq_eq_false_iff_ne]
    omega
  rw [cutBursts]
  simp only [run, goes, stands, all, upto, some_, Nat.lt_irrefl, decide_false, Bool.or_false, Bool.false_eq_true, if_false, List.take_length,
    List.drop_length, List.isEmpty_nil, Bool.not_true, Bool.and_false, beq_self_eq_true, allSent, lastBurst]

/-- A STREAM whose bytes have not all been delivered does not end. -/
theorem endStream_left (run : (getTile s n).station.running = some r) (left : r.remaining ≠ 0) : endStream s n = s := by
  unfold endStream
  simp only [run]
  exact if_pos (by simp [left])

/-- The STREAM with the data of its one read. -/
def answered (r : StreamRun) (x : StationRead) (data : List Byte) (poison : Bool) : StreamRun :=
  { r with reads := [{ x with data := some data }], poison := r.poison || poison }

/-- The STREAM with those data gathered. -/
def gathered (r : StreamRun) (data : List Byte) (poison : Bool) : StreamRun :=
  { r with reads := [], buffer := r.buffer ++ data, poison := r.poison || poison }

theorem stationGo_answered {x : StationRead} {data : List Byte} {poison : Bool} (run : (getTile s n).station.running = some (answered r x data poison))
    (goes : r.stopped = false) : stationGo s n = endStream (askReads n 16 (cutBursts n ((r.buffer ++ data).length / 16384 + 1)
      (setRun s n (gathered r data poison)))) n := by
  unfold stationGo
  simp only [run]
  simp only [answered, gathered, goes, List.takeWhile_cons, List.takeWhile_nil, Option.isSome_some, if_true, List.flatMap_cons, List.flatMap_nil, List.append_nil,
    Option.getD_some, List.length_singleton, List.drop_one, List.tail_cons, Bool.false_eq_true, if_false]

theorem stationLanded_one {x : StationRead} {tag : Nat} {data : List Byte} {poison : Bool} (run : (getTile s n).station.running = some r)
    (one : r.reads = [x]) (open_ : x.data = none) (same : x.tag = tag) :
    stationLanded s n tag data poison = stationGo (setRun s n (answered r x data poison)) n := by
  have pending : (r.pending.any fun x => x.tag == tag) = true := by simp [StreamRun.pending, one, open_, same]
  unfold stationLanded
  simp only [run, pending, if_true]
  simp only [answered, one, open_, same, List.map_cons, List.map_nil, beq_self_eq_true, Option.isNone_none, Bool.and_self, if_true]

end
end Sys2Proof.Proofs.Bursts

/-!
SUPPORT. The rows of the Brim: the last data of a broadcast, and a burst's hop (R165 to R167, R171, R213).
-/
namespace Sys2Proof.Proofs.BrimRows
open Sys2Proof Sys2Proof.Machine Sys2Proof.Proofs.Outcomes Sys2Proof.Proofs.Arrivals Sys2Proof.Proofs.StationReads Sys2Proof.Proofs.StationRows
  Sys2Proof.Proofs.Bursts

/-! The last data of a broadcast have come (R164, R213). -/

section
variable {s v w : State} {n : TileNo} {r : StreamRun} {x : StationRead} {data : List Byte} {poison : Bool} {dests : List TileNo}

/-- A STREAM that has asked for all and sent all, but whose copies have not all been delivered, waits. -/
theorem station_waits (run : (getTile w n).station.running = some r) (reads : r.reads = []) (asked : r.asked = stBytes r.task) (sent : r.sent = stBytes r.task)
    (left : r.remaining ≠ 0) (fuel : Nat) : endStream (askReads n 16 (cutBursts n fuel w)) n = w := by
  have tagged : Tagged r := ⟨by rw [reads]; rfl, fun x mem => by rw [reads] at mem; exact absurd mem List.not_mem_nil⟩
  rw [cutBursts_over run sent, askReads_over run tagged 15 (by rw [reads]; decide) (by rw [asked, Nat.sub_self]), endStream_left run left]

theorem stationLanded_last (run : (getTile v n).station.running = some r) (one : r.reads = [x]) (open_ : x.data = none) (goes : r.stopped = false)
    (left : r.remaining ≠ 0) (stands : resettingPart v r.task.part = false) (asked : r.asked = stBytes r.task) (less : r.sent < stBytes r.task)
    (fits : stBytes r.task - r.sent ≤ 16384) (come : (r.buffer ++ data).length = stBytes r.task - r.sent)
    (group : groupTiles (getPart v r.task.part).map r.group = dests) (away : dests.contains n = false)
    (closed : ∀ d ∈ burstWays v r.task.part dests n none, (segment v r.task.part n d).isSome = true) :
    ∃ w, Reruns n (allSent (gathered r data poison)) v w ∧
      stationLanded v n x.tag data poison = leaves w (lastBurst n (gathered r data poison)) dests := by
  have first := Reruns.setRun v n (answered r x data poison)
  have second := first.trans (.setRun _ n (gathered r data poison))
  have third := second.trans (.setRun _ n (allSent (gathered r data poison)))
  have sent := sendBurst_away (b := lastBurst n (gathered r data poison)) away rfl fun d mem =>
    (congrArg Option.isSome (third.brim.segment ..)).trans (closed d ((third.brim.burstWays r.task.part dests n none) ▸ mem))
  refine ⟨_, third, ?_⟩
  have resets : resettingPart (setRun (setRun v n (answered r x data poison)) n (gathered r data poison)) r.task.part = false := stands
  have groups : groupTiles (getPart (setRun (setRun v n (answered r x data poison)) n (gathered r data poison)) (gathered r data poison).task.part).map
    (gathered r data poison).group = dests := group
  rw [stationLanded_one run one open_ rfl, stationGo_answered first.running goes, cutBursts_last second.running goes resets less fits come, groups, sent]
  refine station_waits (r := allSent (gathered r data poison)) ?_ rfl asked rfl left _
  exact third.running

theorem exec_lastRead {p : Packet} (h : Delivered s p) (unit : p.dstUnit = 0xE) (run : (getTile s p.dstTile).station.running = some r) (one : r.reads = [x])
    (open_ : x.data = none) (tag : x.tag = p.tag.toNat) (goes : r.stopped = false) (left : r.remaining ≠ 0)
    (stands : resettingPart s r.task.part = false) (asked : r.asked = stBytes r.task) (less : r.sent < stBytes r.task)
    (fits : stBytes r.task - r.sent ≤ 16384) (come : (r.buffer ++ p.payload).length = stBytes r.task - r.sent)
    (group : groupTiles (getPart s r.task.part).map r.group = dests) (away : dests.contains p.dstTile = false)
    (closed : ∀ d ∈ burstWays s r.task.part dests p.dstTile none, (segment s r.task.part p.dstTile d).isSome = true) :
    ∃ w, Reruns p.dstTile (allSent (gathered r p.payload p.poison)) (taken s p) w ∧
      exec (.rdRsp p) s = .next (leaves w (lastBurst p.dstTile (gathered r p.payload p.poison)) dests) := by
  obtain ⟨w, reruns, landed⟩ := stationLanded_last (v := taken s p) (poison := p.poison) run one open_ goes left stands asked less fits come group
    away closed
  refine ⟨w, reruns, ?_⟩
  have row : exec (.rdRsp p) s = finish s (arrive s p _) := rfl
  rw [row, arrive_delivered h]
  have station : (p.dstUnit == 0xE) = true := by rw [unit]; rfl
  rw [if_pos station, ← tag, landed]
  exact finish_of_work (congrArg besideWork reruns.rest :)

end

/-! A burst's hop (R165 to R169). -/

section
variable {s : State}

theorem besideRecords_setRun (s : State) (n : TileNo) (r : StreamRun) : besideRecords (setRun s n r) = besideRecords s := rfl

theorem besideRecords_endStream (s : State) (n : TileNo) : besideRecords (endStream s n) = besideRecords s := by
  unfold endStream
  split
  · rfl
  · dsimp only
    split
    · rfl
    · split <;> simp [besideRecords_setRun]

theorem besideRecords_streamDone (s : State) (n : TileNo) (k : Nat) (st : BitVec 8) : besideRecords (streamDone s n k st) = besideRecords s := by
  unfold streamDone
  split
  · rfl
  · rw [besideRecords_endStream, besideRecords_setRun]

/-- Delivering a copy of a burst is deliveries and records alone. -/
theorem besideRecords_deliverCopy (s : State) (src : TileNo) (p : PartNo) (g : Nat) (tile : TileNo) (offset : Nat) (data : List Byte) :
    besideRecords (deliverCopy s src p g tile offset data) = besideRecords s := by
  unfold deliverCopy
  refine besideRecords_foldl _ _ _ fun s sl => ?_
  split
  · rw [besideRecords_streamDone]
    exact besideRecords_setTile ..
  · split
    · rw [besideRecords_streamDone]
    · rw [besideRecords_streamDone, besideRecords_storeMem]

variable {i : Nat} {b : Burst} {n : TileNo}

theorem burstStarts_of (way : segment s b.partition b.here b.heading = some n)
    (first : ∀ x ∈ s.bursts.take i, ¬ (x.here = b.here ∧ x.heading = b.heading ∧ x.srcTile = b.srcTile ∧ x.group = b.group))
    (free : ∀ x ∈ s.bursts, ¬ (x.here = n ∧ x.via = some b.heading)) : burstStarts s i b = some n := by
  have goesFirst : ((s.bursts.take i).all fun x => !(x.here == b.here && x.heading == b.heading && x.srcTile == b.srcTile && x.group == b.group)) = true := by
    refine List.all_eq_true.mpr fun x mem => ?_
    rw [Bool.not_eq_true', ← Bool.not_eq_true]
    simp only [Bool.and_eq_true, beq_iff_eq, and_assoc]
    exact first x mem
  have isFree : (s.bursts.any fun x => x.here == n && x.via == some b.heading) = false := by
    refine List.any_eq_false.mpr fun x mem => ?_
    simpa using free x mem
  unfold burstStarts
  simp only [way, goesFirst, isFree]
  rfl

theorem facing_none (none_ : ∀ x ∈ s.bursts, ¬ (x.here = n ∧ x.heading = opposite b.heading ∧ x.srcTile ≠ b.srcTile)) : facing s n b = [] := by
  unfold facing
  rw [List.map_eq_nil_iff, List.filter_eq_nil_iff]
  intro x mem all
  have inList := (List.mem_zipIdx' mem).2 ▸ List.getElem_mem _
  simp only [Bool.and_eq_true, beq_iff_eq, bne_iff_ne] at all
  obtain ⟨⟨⟨here, heading⟩, src⟩, -⟩ := all
  exact none_ x.1 inList ⟨here, heading, src⟩

section
variable (burst : s.bursts[i]? = some b) (way : segment s b.partition b.here b.heading = some n) (starts : burstStarts s i b = some n)
include burst way starts

theorem exec_hop_waits (unlost : b.lost = false) (others : ∀ x ∈ facing s n b, x.lost = false)
    (lower : ∃ x ∈ facing s n b, x.srcTile.val < b.srcTile.val) :
    exec (.brimBurstHop i) s = .next { s with bursts := s.bursts.set i { b with lost := true } } := by
  have noneLost : (facing s n b).any (·.lost) = false := List.any_eq_false.mpr fun x mem => by rw [others x mem]; exact Bool.false_ne_true
  have someLower : ((facing s n b).any fun x => decide (x.srcTile.val < b.srcTile.val)) = true := by
    obtain ⟨x, mem, less⟩ := lower
    exact List.any_eq_true.mpr ⟨x, mem, decide_eq_true less⟩
  show execBrimBurstHop i s = _
  unfold execBrimBurstHop
  simp only [burst, way, starts, noneLost, someLower]
  rw [unlost]
  exact finish_of_work rfl

theorem exec_hop_alone (alone : facing s n b = []) :
    exec (.brimBurstHop i) s = finish s (burstArrives { s with bursts := s.bursts.eraseIdx i } b n) := by
  show execBrimBurstHop i s = _
  unfold execBrimBurstHop
  simp only [burst, way, starts, alone]
  simp

end

theorem burstArrives_closed (closed : ∀ d ∈ burstWays s b.partition (groupTiles (getPart s b.partition).map b.group.toNat) n (some b.heading),
    (segment s b.partition n d).isSome = true) :
    besideRecords (burstArrives s b n) = besideRecords { s with bursts := s.bursts ++
      (burstWays s b.partition (groupTiles (getPart s b.partition).map b.group.toNat) n (some b.heading)).map fun d =>
        { b with here := n, via := some b.heading, lost := false, heading := d } } := by
  unfold burstArrives
  rw [besideRecords_deliverCopy, launch_closed closed]

theorem besideWork_burstArrives (s : State) (b : Burst) (n : TileNo) : besideWork (burstArrives s b n) = besideWork s := by
  simp [burstArrives]

end

/-- Settles O36: the station queues its STREAMs and reads one's source cut by cut; the last data leave as a burst on each way and as mesh copies; a burst
that faces no other stands at the next station, and one that faces a burst of a lower tile waits. -/
theorem streamsAndBursts : Obligations.StreamsAndBursts := by
  unfold Obligations.StreamsAndBursts
  refine ⟨fun s n t rest inbox => ⟨exec_streamHeld inbox, exec_streamQueued inbox⟩, ?_, ?_, ?_⟩
  · rintro s _ n t rest g idle queue stands rfl group ranges some_
    obtain ⟨u, run, packets, tile, others, unchanged⟩ := exec_streamStarts idle queue stands group ranges some_
    rw [tile_running] at tile
    refine ⟨u, asking (newRun s t g) (((packetCuts (stSrc t) (stBytes t)).take 16).zipIdx), run, ⟨packets, List.nil_append _, Nat.zero_add _⟩,
      (congrArg (fun x : Tile => x.station.running) tile :), rfl, rfl, rfl, rfl, rfl, rfl, (congrArg (fun x : Tile => x.station.queue) tile :),
      fun m ne => ?_, ?_⟩
    · exact (others m ne).trans ((getTile_other _ _ ne).trans (getTile_other _ _ ne))
    · exact (congrArg (fun x : State => { x with tiles := s.tiles }) unchanged :).trans (rest_running s n rest _)
  · rintro s p _ r x delivered unit rfl run one open_ tag goes left stands asked less fits come dests ways away closed
    obtain ⟨w, reruns, next⟩ := exec_lastRead delivered unit run one open_ tag goes left stands asked less fits come rfl away closed
    have brim : SameBrim s w := ⟨reruns.brim.parts, reruns.brim.out⟩
    have copies := brim.withCopies (lastBurst p.dstTile (gathered r p.payload p.poison)) dests
    have bursts : w.bursts = s.bursts := (congrArg (fun x : State => x.bursts) reruns.rest :)
    have packets : w.packets = (taken s p).packets := (congrArg (fun x : State => x.packets) reruns.rest :)
    refine ⟨_, next, ⟨?_, ?_⟩, reruns.running, reruns.others,
      (congrArg (fun x : State => { x with bursts := s.bursts, packets := s.packets }) reruns.rest :)⟩
    · rw [leaves, copies, brim.burstWays, bursts]
      rfl
    · rw [leaves, copies, packets]
      rfl
  · intro s i b n burst way first free
    have starts := burstStarts_of way first free
    refine ⟨fun none_ closed => ?_, exec_hop_waits burst way starts⟩
    rw [exec_hop_alone burst way starts (facing_none none_)]
    exact ⟨_, finish_of_work (besideWork_burstArrives ..), burstArrives_closed closed⟩

end Sys2Proof.Proofs.BrimRows

/-!
SUPPORT. DISPATCH once its participants have come (R206, R220): the count phase, and a directory that becomes valid.
-/
namespace Sys2Proof.Proofs.DispatchRows
open Sys2Proof Sys2Proof.Machine Sys2Proof.Proofs.Outcomes Sys2Proof.Proofs.Phases Sys2Proof.Proofs.Engines Sys2Proof.Proofs.SlotRequests
  Sys2Proof.Proofs.Transfers Sys2Proof.Proofs.Cuts Sys2Proof.Proofs.Copies Sys2Proof.Proofs.StationReads

/-! Output leaves every partition as it was. -/

theorem parts_grantStores (n : CoreNo) (fuel : Nat) (s : State) : (grantStores n fuel s).parts = s.parts :=
  (congrArg (fun x : State => x.parts) (granted_grantStores n fuel s).rest :)

theorem parts_addWord (s : State) (a : Nat) (v : Word64) : (addWord s a v).1.parts = s.parts := parts_of_records (besideRecords_addWord s a v)

theorem parts_requestStores (n : CoreNo) (k : SlotNo) (fuel : Nat) (s : State) : (requestStores n k fuel s).parts = s.parts := by
  induction fuel generalizing s with
  | zero => rfl
  | succ fuel ih =>
    unfold requestStores
    dsimp only
    split
    -- a transfer
    · split
      · rfl
      · split
        · rw [ih, parts_grantStores]; rfl
        · rfl
    -- a frame
    · split <;> rfl
    -- a tally
    · split
      · rfl
      · split
        · rw [ih, parts_addWord]; rfl
        · rfl
    -- a barrier
    · split
      · rw [ih]; rfl
      · rfl
    · rfl

theorem parts_giveOuts (s : State) (m : CoreNo × SlotNo × Task) (outs : List Out) : (giveOuts s m outs).parts = s.parts := by
  unfold giveOuts drainSlot
  dsimp only
  split
  · rw [parts_requestStores, setSlot_parts]
  · rfl

theorem parts_foldl_giveOuts (l : List ((CoreNo × SlotNo × Task) × List Out)) (s : State) :
    (l.foldl (fun s e => giveOuts s e.1 e.2) s).parts = s.parts :=
  foldl_keeps (fun u : State => u.parts = s.parts) _ l s rfl fun u e _ h => (parts_giveOuts u e.1 e.2).trans h

theorem besideWork_giveOuts (s : State) (m : CoreNo × SlotNo × Task) (outs : List Out) : besideWork (giveOuts s m outs) = besideWork s := by
  simp [giveOuts]

/-! The count phase (R206, R220). -/

section
variable {s : State} {p : PartNo} {x : Coll}

theorem besideWork_freeCtr (s : State) (n : Nat) : besideWork { s with freeCtr := n } = besideWork s := rfl

/-- A partition with its counts of dropped and spilled assignments set. -/
def withCounts (q : Partition) (dropped spilled : BitVec 48) : Partition := { q with dropped := dropped, spilled := spilled }

theorem dropped_withCounts (q : Partition) (d e : BitVec 48) : (withCounts q d e).dropped = d := rfl
theorem spilled_withCounts (q : Partition) (d e : BitVec 48) : (withCounts q d e).spilled = e := rfl
theorem colls_withCounts (q : Partition) (d e : BitVec 48) : (withCounts q d e).colls = q.colls := rfl

/-- The partition with its counts grown by the assignments that a collective drops and spills. Named, so that no proof about it makes the kernel place the
assignments. -/
def grown (s : State) (p : PartNo) (x : Coll) : Partition :=
  withCounts (getPart s p) (satAdd (getPart s p).dropped (droppedCount (countInput s x) (countRows s p x)))
    (satAdd (getPart s p).spilled (spilledCount (countInput s x) (countRows s p x)))

/-- The counts have grown, and the members' free values are numbered. -/
def counted (s : State) (p : PartNo) (x : Coll) : State :=
  setPart { s with freeCtr := s.freeCtr + (inOrder s x).zipIdx.length * (65536 * 8) } p (grown s p x)

/-- What each member is given to store. -/
def memberStores (s : State) (p : PartNo) (x : Coll) : List ((CoreNo × SlotNo × Task) × List Out) :=
  (inOrder s x).zipIdx.map fun e =>
    (e.1, memberOuts s (countInput s x) (countRows s p x) (countDirs s p x) (s.freeCtr + e.2 * (65536 * 8)) e)

theorem countStores_eq (s : State) (p : PartNo) (x : Coll) :
    countStores s p x = (memberStores s p x).foldl (fun s e => giveOuts s e.1 e.2) (counted s p x) := rfl

theorem getPart_countStores (s : State) (p : PartNo) (x : Coll) : getPart (countStores s p x) p = grown s p x := by
  rw [countStores_eq, getPart_of _ _ p (parts_foldl_giveOuts ..)]
  exact getPart_same ..

theorem besideWork_countStores (s : State) (p : PartNo) (x : Coll) : besideWork (countStores s p x) = besideWork s := by
  rw [countStores_eq]
  refine (besideWork_foldl _ _ _ fun u e => ?_).trans ((besideWork_setPart ..).trans (besideWork_freeCtr ..))
  exact besideWork_giveOuts ..

/-- With every check passed steps 3 and 4 begin, and the collective is at stage 2. -/
theorem countPhase_passed (reads : lowestStatus (countReadFails s p x) = none) (room : lowestStatus (countFails s p x) = none) :
    countPhase s p x = setColl (countStores s p x) x.first { x with stage := 2 } := by
  unfold countPhase
  dsimp only
  rw [reads]
  dsimp only
  rw [room]

theorem getPart_setColl (s : State) (t : Task) (y : Coll) : getPart (setColl s t y) t.part =
    { getPart s t.part with colls := (getPart s t.part).colls.map fun z => if z.opcode == y.opcode && z.key == y.key then y else z } :=
  getPart_same ..

/-- Setting a collective leaves the partition's counts. -/
theorem counts_setColl (s : State) (t : Task) (y : Coll) : (getPart (setColl s t y) t.part).dropped = (getPart s t.part).dropped ∧
    (getPart (setColl s t y) t.part).spilled = (getPart s t.part).spilled := by
  rw [getPart_setColl]
  exact ⟨rfl, rfl⟩

/-- A collective stands for every listed one of its opcode and key once it is set. -/
theorem mem_colls_setColl {t : Task} {y : Coll} (listed : x ∈ (getPart s t.part).colls) (opcode : x.opcode = y.opcode) (key : x.key = y.key) :
    y ∈ (getPart (setColl s t y) t.part).colls := by
  rw [getPart_setColl]
  exact List.mem_map.mpr ⟨x, listed, if_pos (by simp [opcode, key])⟩

theorem exec_dispatchCountPhase {key : Nat}
    (found : (getPart s p).colls.find? (fun x => x.first.op == some .dispatch && x.key == key && x.stage == 1) = some x)
    (stands : resettingPart s p = false) : exec (.dispatchCountPhase p key) s = finish s (countPhase s p x) := by
  have run : exec (.dispatchCountPhase p key) s = execDispatchCountPhase p key s := rfl
  unfold execDispatchCountPhase at run
  rw [run, found]
  dsimp only
  rw [stands, if_neg Bool.false_ne_true]

end

/-! The end of a directory's DISPATCH (R206, step 5). -/

section
variable {s u : State} {n c : CoreNo} {k : SlotNo} {t : Task}

/-- A task that is over with one transfer to store, from a free engine: the transfer leaves, and the slot waits for it. -/
theorem endTask_single {st : BitVec 8} {p : List (Nat × List Byte)} {tag : Nat} {more : List Nat} (task : (getSlot s n k).task = some t)
    (adding : (getSlot s n k).adding = none) (tags : (getSlot s n k).storeTags = []) (queue : (getCore s n).storeQueue = [])
    (free : freeTags (storeInUse (getCore s n)) = tag :: more) (stands : resettingCore s n = false)
    (good : ∀ e ∈ p, rangeOk s t.ctx .write e.1 e.2.length = true) :
    ∃ u, endTask s n k st 0 [.store p] false = u ∧ getSlot u n k = { overStored (getSlot s n k) st [] with storeTags := [newStore n t tag p] } ∧
      u.packets = s.packets ++ storePackets n t tag p ∧ { u with cores := s.cores, packets := s.packets } = s ∧
      ∀ m, m ≠ n → getCore u m = getCore s m := by
  obtain ⟨v, eq, rest, others, core⟩ := endTask_unswapped (s := s) (n := n) (k := k) st (outs := [.store p]) (by simp)
  have slot : getSlot v n k = overStored (getSlot s n k) st [.store p] := by
    rw [getSlot_eq_coreSlot, core]
    exact coreSlot_retired _ _ _ rfl
  have whole := rest_of_cores rest
  have sent := drainSlot_single (s := v) (n := n) (k := k) (t := t) (p := p) (tag := tag) (more := more) (by rw [slot]; rfl)
    (by rw [slot]; exact task) (by rw [slot]; exact adding) (by rw [slot]; rfl) (by rw [slot]; exact tags) (by rw [core, storeQueue_retired]; exact queue)
    (by rw [core, freeTags_retired (x := overStored (getSlot s n k) st [.store p]) (t := t) task rfl]; exact free)
    ((resettingCore_of whole n).trans stands) fun e he => (rangeOk_of whole ..).trans (good e he)
  rw [settleSlot_waits (storesOut_of_tags (by rw [sent.slot]; simp))] at eq
  refine ⟨_, eq, ?_, ?_, rest_trans whole sent.rest, fun m hm => (sent.others m hm).trans (others m hm)⟩
  · rw [sent.slot, slot]
    exact congrArg (fun l => { overStored (getSlot s n k) st [] with storeTags := l ++ [newStore n t tag p] }) tags
  · have packets : v.packets = s.packets := (congrArg State.packets rest :)
    rw [sent.packets, packets]

/-- A byte is one packet. -/
theorem length_storePackets_byte (c : CoreNo) (t : Task) (tag a : Nat) (b : Byte) : (storePackets c t tag [(a, [b])]).length = 1 := by
  have cut : firstCut a 1 = 1 := by unfold firstCut; omega
  have cuts : transferCuts [(a, [b].length)] = [(a, 1, 0)] := by
    rw [transferCuts_single, List.length_singleton, packetCuts_step Nat.one_ne_zero, cut, Nat.sub_self, packetCuts_zero,
      List.map_singleton, Nat.sub_self]
  unfold storePackets
  dsimp only
  rw [List.map_singleton, cuts]
  rfl

/-- A task that leaves its collective changes its partition at most. -/
theorem rest_leaveColl (s : State) (t : Task) : { leaveColl s t with parts := s.parts } = s := by
  unfold leaveColl
  split
  · rfl
  · split <;> rfl

theorem exec_dispatchDirectoryValid {x : Coll} (task : (getSlot s c k).task = some t) (op : t.op = some .dispatch) (found : findColl s t = some x)
    (stage : x.stage = 2) (mine : (x.members.any fun m => m.1 == c && m.2.1 == k && memberRuns s m) = true)
    (ready : (x.members.all fun m => !memberRuns s m || (step3Over s m && !storingInto s c m)) = true) (outs : (getSlot s c k).outs = []) :
    exec (.dispatchDirectoryValid c k) s =
      finish s (leaveColl (endTask s c k stOk 0 [.store [(cmemBase c + diDirOff t + 6, [1])]] false) t) := by
  have run : exec (.dispatchDirectoryValid c k) s = execDispatchDirectoryValid c k s := rfl
  unfold execDispatchDirectoryValid at run
  rw [run, task]
  dsimp only
  rw [found]
  dsimp only
  rw [mine, ready, op, stage, if_neg (by decide), outs]
  rfl

end

/-- Settles O26: the count phase changes its partition's counts before it sets the collective, and a directory's VALID bit is the one store that its
DISPATCH ends with. -/
theorem dispatchPhases : Obligations.DispatchPhases := by
  unfold Obligations.DispatchPhases
  refine ⟨?_, ?_⟩
  · rintro s _ x key found rfl stands reads room
    have run := exec_dispatchCountPhase found stands
    rw [countPhase_passed reads room] at run
    have beside := (besideWork_setColl (countStores s x.first.part x) x.first { x with stage := 2 }).trans (besideWork_countStores ..)
    have listed : x ∈ (getPart (countStores s x.first.part x) x.first.part).colls := by
      rw [getPart_countStores, grown, colls_withCounts]
      exact List.mem_of_find?_eq_some found
    obtain ⟨dropped, spilled⟩ := counts_setColl (countStores s x.first.part x) x.first { x with stage := 2 }
    rw [getPart_countStores, grown] at dropped spilled
    exact ⟨_, run.trans (finish_of_work beside), mem_colls_setColl listed rfl rfl, dropped.trans (dropped_withCounts ..),
      spilled.trans (spilled_withCounts ..), beside⟩
  · intro s c k t x tag more task op found stage mine ready writes outs adding tags queue free stands
    obtain ⟨u, ends, slot, packets, rest, others⟩ := endTask_single (st := stOk) (p := [(cmemBase c + diDirOff t + 6, [1])]) task adding tags
      queue free stands (by simpa using writes)
    have run := exec_dispatchDirectoryValid task op found stage mine ready outs
    rw [ends] at run
    have left := rest_leaveColl u t
    have core (m : CoreNo) : getCore (leaveColl u t) m = getCore u m := (congrArg (fun v : State => getCore v m) left :)
    have same : getSlot (leaveColl u t) c k = getSlot u c k := (congrArg (fun v : State => getSlot v c k) left :)
    refine ⟨leaveColl u t, run.trans (finish_of_work ((besideWork_leaveColl u t).trans (congrArg besideWork rest :))), ?_, ?_,
      (congrArg State.packets left :).trans packets, ?_, ?_, fun m hm => (core m).trans (others m hm)⟩
    · rw [same, slot]
      rfl
    · rw [same, slot]
      rfl
    · rw [same, slot, newStore, length_storePackets_byte]
      rfl
    · exact (congrArg (fun v : State => { v with cores := s.cores, packets := s.packets, parts := s.parts }) left :).trans
        (congrArg (fun v : State => { v with parts := s.parts }) rest :)

end Sys2Proof.Proofs.DispatchRows

/-!
SUPPORT. Registers of the memory tiers, the mailbox of an expansion port, and the map area of a partition (R218, R220, R270, R274, R284, R285, R296,
R509).
-/
namespace Sys2Proof.Proofs.TierRegisters
open Sys2Proof Sys2Proof.Machine Sys2Proof.Proofs.Outcomes Sys2Proof.Proofs.Requests

/-- A row that changes nothing but registers of the tiers ends with that change. -/
theorem finish_of_tiers {s t : State} (h : { t with hbm := s.hbm, xports := s.xports, writeback := s.writeback } = s) : finish s t = .next t :=
  finish_of_same s t (congrArg (fun x : State => x.pw) h :) (congrArg (fun x : State => x.fns) h :) (congrArg (fun x : State => x.tb) h :)
    (congrArg (fun x : State => x.pending) h :) (congrArg (fun x : State => x.weala.fuses) h :)

section
variable {s : State} {port : HostPort} {v : Word64}

/-! One register each (R270, R274, R284, R296). -/

theorem exec_correctedWriteback (s : State) (l : Nat) :
    exec (.correctedWriteback l) s = .next { s with writeback := tput false s.writeback l false } := finish_of_tiers rfl

theorem exec_refresh {k : StackNo} (works : stackWorks s k = true) :
    exec (.refresh k) s = .next (setStack s k { getStack s k with forcedSlots := (getStack s k).forcedSlots + 1 }) :=
  (congrArg (finish s) (if_pos works)).trans (finish_of_tiers rfl)

theorem exec_hcLoadRead {k : StackNo} (up : (getHp s port).linkUp = true) :
    exec (.hcLoadRead port k) s = .next (setStack s k { getStack s k with peak := 0 }) :=
  (congrArg (finish s) (if_pos up)).trans (finish_of_tiers rfl)

section
variable {p : PortNo}

theorem exec_xpLinkRecovery (stands : (getXp s p).withdrawn = false) (up : (getXp s p).linkUp = true) :
    exec (.xpLinkRecovery p) s = .next (setXp s p { getXp s p with linkUp := false, recovering := true }) :=
  (congrArg (finish s) (if_pos (by simp [stands, up]))).trans (finish_of_tiers rfl)

theorem exec_xpLinkReturnL0 (stands : (getXp s p).withdrawn = false) (recovers : (getXp s p).recovering = true) :
    exec (.xpLinkReturnL0 p) s = .next (setXp s p { getXp s p with
      linkUp := true, recovering := false, recoveries := satInc (getXp s p).recoveries }) :=
  (congrArg (finish s) (if_pos (by simp [stands, recovers]))).trans (finish_of_tiers rfl)

/-! The mailbox (R285, R509). -/

theorem exec_mboxTimeout (busy : (getXp s p).mboxBusy = true) :
    exec (.mboxTimeout p) s = .next (setXp s p { getXp s p with mboxBusy := false, mboxTimeout := true }) :=
  (congrArg (finish s) (if_pos busy)).trans (finish_of_tiers rfl)

/-- A port whose mailbox holds a command's answer: its return code, and the first 4,096 bytes of its output. -/
def answered (x : XPort) (rc : BitVec 16) (out : List Byte) : XPort :=
  { x with
    mboxBusy := false, mboxReturn := rc, mboxTruncated := decide (4096 < out.length), mboxOutLength := min 4096 out.length
    mboxPayload := (out.take 4096).zipIdx.foldl (fun t e => tput 0 t e.2 e.1) x.mboxPayload }

theorem payload_answered (x : XPort) (rc : BitVec 16) {out : List Byte} {i : Nat} (h : i < min 4096 out.length) :
    tget 0 (answered x rc out).mboxPayload i = out.getD i 0 := by
  have row := tget_putRow (0 : Byte) (out.take 4096) 0 x.mboxPayload i
  simp only [Nat.zero_add, List.length_take, Nat.zero_le, true_and, Nat.sub_zero, if_pos h] at row
  refine row.trans ?_
  rw [List.getD_eq_getElem?_getD, List.getD_eq_getElem?_getD, List.getElem?_take_of_lt (by omega)]

theorem exec_mboxComplete (busy : (getXp s p).mboxBusy = true) (rc : BitVec 16) (out : List Byte) :
    exec (.mboxComplete p rc out) s = .next (setXp s p (answered (getXp s p) rc out)) :=
  (congrArg (finish s) (if_neg (by simp [busy]))).trans (finish_of_tiers rfl)

/-- A port whose mailbox has a new command, with the last one's status cleared. -/
def commanded (x : XPort) (v : Word64) : XPort :=
  { x with mboxCmd := (v.extractLsb' 0 29).setWidth 64, mboxRefused := false, mboxNoLink := false, mboxTimeout := false
           mboxTruncated := false, mboxReturn := 0, mboxOutLength := 0 }

/-- The port after a command with GO: a forbidden one is refused, one without a link is told so, any other begins. -/
def begun (s : State) (p : PortNo) (v : Word64) : XPort :=
  let x := commanded (getXp s p) v
  if portMapped s p && mboxForbidden (bits v.toNat 0 16) then { x with mboxRefused := true }
  else if !x.linkUp then { x with mboxNoLink := true }
  else { x with mboxBusy := true }

theorem exec_mboxGo (isOpen : bar0Open s port false = true) (go : v.getLsbD 63 = true) (idle : (getXp s p).mboxBusy = false) :
    exec (.mboxGo port p v) s = .next (setXp s p (begun s p v)) := by
  have write : mboxWrite s p v = setXp s p (begun s p v) := by
    refine (if_neg (by simp [go])).trans ((if_neg (by simp [idle])).trans ?_)
    unfold begun
    dsimp only
    rw [apply_ite (setXp s p), apply_ite (setXp s p)]
    rfl
  have run : exec (.mboxGo port p v) s = finish s (mboxWrite s p v) := congrArg (finish s) (if_pos isOpen)
  rw [run, write]
  exact finish_of_tiers rfl

theorem begun_status (s : State) (p : PortNo) (v : Word64) (idle : (getXp s p).mboxBusy = false) :
    (begun s p v).mboxCmd = (v.extractLsb' 0 29).setWidth 64 ∧ (begun s p v).mboxRefused = (portMapped s p && mboxForbidden (bits v.toNat 0 16)) ∧
    ((begun s p v).mboxRefused = false → (begun s p v).mboxNoLink = !(getXp s p).linkUp ∧ (begun s p v).mboxBusy = (getXp s p).linkUp) := by
  have link : (commanded (getXp s p) v).linkUp = (getXp s p).linkUp := rfl
  unfold begun
  dsimp only
  rw [link]
  cases forbidden : portMapped s p && mboxForbidden (bits v.toNat 0 16) with
  | true => exact ⟨rfl, rfl, fun h => nomatch h⟩
  | false =>
    cases (getXp s p).linkUp with
    | false => exact ⟨rfl, rfl, fun _ => ⟨rfl, idle⟩⟩
    | true => exact ⟨rfl, rfl, fun _ => ⟨rfl, rfl⟩⟩

end

/-! The map area and the counts of a partition (R218, R220). -/

section
variable {p : PartNo}

theorem exec_fbMoeClear (isOpen : bar0Open s port false = true) :
    exec (.fbMoeClear port p v) s = .next (if v.toNat.testBit 0 then setPart s p { getPart s p with dropped := 0, spilled := 0 } else s) := by
  have run : exec (.fbMoeClear port p v) s = execFbMoeClear port p v s := rfl
  unfold execFbMoeClear at run
  rw [run, isOpen]
  cases v.toNat.testBit 0 <;> exact finish_of_work rfl

/-- The area that a write of FB_MAP_AREA names. -/
def areaOf (v : Word64) : BitVec 15 := v.extractLsb' 0 15

/-- Why FB_MAP_AREA does not take a write: no pair, a PHASE that has begun, or an area that can take none. -/
def areaRefused (s : State) (p : PartNo) (v : Word64) : Bool :=
  !pairOk v || ((getPart s p).phases.any fun h => h.step ≠ 1) || (mapAreaValid (areaOf v) && !mapAreaUsable s p (areaOf v))

theorem areaRefused_iff : areaRefused s p v = true ↔ pairOk v = false ∨ (∃ h ∈ (getPart s p).phases, h.step ≠ 1) ∨
    mapAreaValid (areaOf v) = true ∧ mapAreaUsable s p (areaOf v) = false := by
  simp [areaRefused, or_assoc]

/-- The partition with an area set. -/
def withArea (s : State) (p : PartNo) (v : Word64) : State := setPart s p { getPart s p with mapArea := areaOf v, secondHalf := false }

theorem exec_fbMapAreaWrite (isOpen : bar0Open s port false = true) : exec (.fbMapAreaWrite port p v) s = finish s
    (if areaRefused s p v then setupRefused s (offMapArea p)
     else if (getPart s p).gen == 0 || !mapAreaValid (areaOf v) then withArea s p v
     else storeMem (withArea s p v) (mapAreaBase (areaOf v)) (getPart s p).map) :=
  congrArg (finish s) (if_neg (by simp [isOpen]))

theorem exec_fbMapAreaWrite_refused (isOpen : bar0Open s port false = true) (refused : areaRefused s p v = true) :
    ∃ u, exec (.fbMapAreaWrite port p v) s = .next u ∧ OnlyReports s u := by
  rw [exec_fbMapAreaWrite isOpen, if_pos refused]
  exact ⟨_, finish_of_work (besideWork_setupRefused ..), onlyReports_setupRefused ..⟩

/-- With no map in force, or no area, there is nothing to copy. -/
theorem exec_fbMapAreaWrite_set (isOpen : bar0Open s port false = true) (taken : areaRefused s p v = false)
    (unmapped : mapAreaValid (areaOf v) = false ∨ (getPart s p).gen = 0) : exec (.fbMapAreaWrite port p v) s = .next (withArea s p v) := by
  rw [exec_fbMapAreaWrite isOpen, if_neg (by simp [taken]), if_pos (by rcases unmapped with h | h <;> simp [h])]
  exact finish_of_work rfl

/-- The map in force stands in the first half of a new area without markers. -/
theorem exec_fbMapAreaWrite_copies (isOpen : bar0Open s port false = true) (taken : areaRefused s p v = false)
    (valid : mapAreaValid (areaOf v) = true) (mapped : (getPart s p).gen ≠ 0)
    (clean : rangePoisoned s (mapAreaBase (areaOf v)) (getPart s p).map.length = false) :
    ∃ u, exec (.fbMapAreaWrite port p v) s = .next u ∧
      (∀ b, memByte u b = if mapAreaBase (areaOf v) ≤ b ∧ b < mapAreaBase (areaOf v) + (getPart s p).map.length
        then (getPart s p).map.getD (b - mapAreaBase (areaOf v)) 0 else memByte s b) ∧
      besideMemory u = besideMemory (withArea s p v) := by
  rw [exec_fbMapAreaWrite isOpen, if_neg (by simp [taken]), if_neg (by simpa [valid] using mapped)]
  obtain ⟨-, -, bytes⟩ := writeMem_clean (withArea s p v) (mapAreaBase (areaOf v)) (getPart s p).map clean
  exact ⟨_, finish_of_work (besideWork_storeMem ..), bytes, besideMemory_storeMem ..⟩

end

end

/-- Settles O39: each register's row is the change that it names; FB_MAP_AREA refuses, sets the area, or sets it and copies the map there. -/
theorem mapAndTierRegisters : Obligations.MapAndTierRegisters := by
  unfold Obligations.MapAndTierRegisters
  refine ⟨⟨exec_correctedWriteback, fun s k => exec_refresh, fun s port k => exec_hcLoadRead,
    fun s p stands => ⟨exec_xpLinkRecovery stands, exec_xpLinkReturnL0 stands⟩, fun s p busy => ⟨exec_mboxTimeout busy, fun rc out => ?_⟩, ?_⟩,
    fun s port p v => exec_fbMoeClear, ?_⟩
  · refine ⟨_, exec_mboxComplete busy rc out, rfl, ?_⟩
    rw [getXp_same]
    exact ⟨rfl, rfl, rfl, rfl, fun i => payload_answered _ rc, fun q => getXp_other s _⟩
  · intro s port p v isOpen go idle
    obtain ⟨cmd, refused, begins⟩ := begun_status s p v idle
    refine ⟨_, exec_mboxGo isOpen go idle, rfl, ?_⟩
    rw [getXp_same]
    exact ⟨cmd, refused, begins, fun q => getXp_other s _⟩
  · intro s port p v isOpen
    refine ⟨fun refused => exec_fbMapAreaWrite_refused isOpen (areaRefused_iff.mpr refused), fun pair phases => ?_⟩
    have taken (usable : mapAreaValid (areaOf v) = true → mapAreaUsable s p (areaOf v) = true) : areaRefused s p v = false := by
      rw [Bool.eq_false_iff, ne_eq, areaRefused_iff]
      rintro (bad | ⟨h, listed, other⟩ | ⟨valid, unusable⟩)
      · simp [pair] at bad
      · exact other (phases h listed)
      · simp [usable valid] at unusable
    refine ⟨fun unmapped => exec_fbMapAreaWrite_set isOpen ?_ ?_, fun valid usable mapped clean =>
      exec_fbMapAreaWrite_copies isOpen (taken fun _ => usable) valid mapped clean⟩
    · refine taken fun valid => ?_
      rcases unmapped with invalid | ⟨usable, -⟩
      · exact absurd (valid.symm.trans invalid) (by decide)
      · exact usable
    · exact unmapped.imp id And.right

end Sys2Proof.Proofs.TierRegisters

/-!
SUPPORT. The end of a Cuff's operation (R251, R252): its record gives up the entry or keeps it marked, and no operation becomes active by it.
-/
namespace Sys2Proof.Proofs.CuffEnds
open Sys2Proof Sys2Proof.Machine Sys2Proof.Proofs.RecordEnds

/-! The relation. -/

/-- From c to d a Cuff keeps its count of early ends, and operations have left it at most. -/
structure OnlyLeave (c d : Cuff) : Prop where
  aborts : d.aborts = c.aborts
  active : d.active ⊆ c.active

theorem OnlyLeave.refl (c : Cuff) : OnlyLeave c c := ⟨rfl, List.Subset.refl _⟩

theorem OnlyLeave.trans {c d e : Cuff} (h : OnlyLeave c d) (k : OnlyLeave d e) : OnlyLeave c e :=
  ⟨k.aborts.trans h.aborts, List.Subset.trans k.active h.active⟩

theorem onlyLeave_dropActive (c : Cuff) (gone : CuffOp → Bool) : OnlyLeave c (dropActive c gone) := ⟨rfl, List.filter_subset_self _⟩

/-- Where a change leaves the Cuffs alone, none leaves. -/
theorem onlyLeave_of_cuffs {s t : State} (h : t.cuffs = s.cuffs) (n : CuffNo) : OnlyLeave (getCuff s n) (getCuff t n) := by
  rw [getCuff_of s t n h]
  exact .refl _

/-! Records (R325, R326). -/

theorem cuffs_of_memory {s t : State} (h : besideMemory t = besideMemory s) : t.cuffs = s.cuffs := (congrArg (fun x : State => x.cuffs) h :)

@[simp] theorem cuffs_raiseMsix (s : State) (n : Nat) : (raiseMsix s n).cuffs = s.cuffs :=
  (congrArg (fun x : State => x.cuffs) (onlyReports_raiseMsix s n).rest :)

@[simp] theorem cuffs_faultRing (s : State) (n : Nat) (st : BitVec 8) : (faultRing s n st).cuffs = s.cuffs := by
  unfold faultRing
  dsimp only
  rw [raise_cuffs]
  split <;> rfl

theorem onlyLeave_releaseHolder (s : State) (t : Task) (n : CuffNo) : OnlyLeave (getCuff s n) (getCuff (releaseHolder s t) n) := by
  have read : getCuff (releaseHolder s t) n = dropActive (getCuff s n) fun o => o.recordHeld && sameTask o.task t := tget_tmap _ _ _ _ rfl
  rw [read]
  exact onlyLeave_dropActive ..

/-- The Cuffs' part in a record: they stand until the record is out, and then the entry that it held is free. -/
theorem onlyLeave_released {s v : State} (h : v.cuffs = s.cuffs) (t : Task) (n : CuffNo) : OnlyLeave (getCuff s n) (getCuff (releaseHolder v t) n) :=
  (onlyLeave_of_cuffs h n).trans (onlyLeave_releaseHolder v t n)

theorem onlyLeave_writeOutcome (s : State) (o : Outcome) (n : CuffNo) : OnlyLeave (getCuff s n) (getCuff (writeOutcome s o).1 n) := by
  unfold writeOutcome
  dsimp only
  generalize (getRing s o.task.ring.toNat).link = link
  generalize getRing s link = r
  split
  · exact onlyLeave_releaseHolder ..
  · split
    · exact .refl _
    · split
      · exact onlyLeave_released (cuffs_faultRing ..) ..
      · generalize bytesOf 32 _ = bytes
        have written := cuffs_of_memory (besideMemory_writeMem s (r.slotAddr r.tail) bytes)
        generalize writeMem s (r.slotAddr r.tail) bytes = w at written ⊢
        split
        · exact onlyLeave_released ((cuffs_faultRing ..).trans written) ..
        · refine onlyLeave_released ?_ ..
          split
          · exact (cuffs_raiseMsix ..).trans written
          · exact written

theorem onlyLeave_outcome (s : State) (t : Task) (st : BitVec 8) (d : BitVec 16) (census : Bool) (w : Word64) (q : BitVec 4) (n : CuffNo) :
    OnlyLeave (getCuff s n) (getCuff (outcome s t st d census w q).1 n) := by
  unfold outcome
  have signalled := onlyLeave_of_cuffs (cuffs_of_memory (besideMemory_headerSignal s t st)) n
  generalize headerSignal s t st = u at signalled ⊢
  dsimp only
  generalize (if u.2 = true then d else 0xFFFF) = d'
  split
  · exact signalled
  · have written := signalled.trans (onlyLeave_writeOutcome u.1 { task := t, status := st, detail := d', time := w, quality := q, census := census } n)
    generalize writeOutcome u.1 _ = v at written ⊢
    split
    · exact written
    · exact written

/-! The end of an operation (R251, R252). -/

theorem onlyLeave_forgetOp (s : State) (m n : CuffNo) (t : Task) : OnlyLeave (getCuff s n) (getCuff (forgetOp s m t) n) := by
  have read : getCuff (forgetOp s m t) n = dropActive { getCuff s n with queue := (getCuff s n).queue.filter fun o => !sameTask o.task t }
      fun o => sameTask o.task t && !((n.val == m.val) && o.recordHeld) := tget_tmap _ _ _ _ rfl
  rw [read]
  exact ⟨rfl, List.filter_subset_self _⟩

theorem sameTask_self (t : Task) : sameTask t t = true := by simp [sameTask]

/-- What stays of an operation that has ended before its last record: the end is counted, and an entry that is left waits for its record. -/
structure OpStopped (s u : State) (n : CuffNo) : Prop where
  counted : (getCuff u n).aborts = satInc (getCuff s n).aborts
  held : ∀ x ∈ (getCuff u n).active, x.recordHeld = true
  rest : besideRecords u = besideRecords s

section
variable (s : State) (n : CuffNo) (o : CuffOp)

/-- The end of an operation is counted. -/
def stopCounted : State := setCuff s n { getCuff s n with aborts := satInc (getCuff s n).aborts }

/-- Its report is in memory, where it can be written. -/
def reportStored : State :=
  if uReport o.task != 0 && (serveStatus s (cuffTile n) false (uReport o.task) 32).isNone then
    storeMem s (uReport o.task) (bytesOf 32 (updateReport o))
  else s

/-- Its entry waits for its record. -/
def entryHeld : State :=
  setCuff s n { getCuff s n with active := (getCuff s n).active.map fun x => if sameTask x.task o.task then { x with recordHeld := true } else x }

theorem besideMemory_reportStored : besideMemory (reportStored s n o) = besideMemory s := by
  unfold reportStored
  split
  · exact besideMemory_storeMem ..
  · rfl

/-- An operation whose records are counted ends early: the count, the report, the entry, the record, and then its guests are forgotten. -/
theorem endCuffOp_stopped {o : CuffOp} (counts : opCounts o.task = true) (st : BitVec 8) :
    endCuffOp s n o st true = forgetOp (outcome (entryHeld (reportStored (stopCounted s n) n o) n o) o.task st 0
      (decide (0 < o.nonfinite) || o.gradNonfinite) (now (entryHeld (reportStored (stopCounted s n) n o) n o))
      (quality (entryHeld (reportStored (stopCounted s n) n o) n o))).1 n o.task := by
  unfold endCuffOp
  dsimp only
  rw [counts, Bool.and_self, if_pos rfl]
  rfl

end

/-- The only active operation of a Cuff is stopped. -/
theorem opStopped_endCuffOp {s : State} {n : CuffNo} {o : CuffOp} (alone : (getCuff s n).active = [o]) (counts : opCounts o.task = true) (st : BitVec 8) :
    OpStopped s (endCuffOp s n o st true) n := by
  have reported := besideMemory_reportStored (stopCounted s n) n o
  have cuff : getCuff (reportStored (stopCounted s n) n o) n = { getCuff s n with aborts := satInc (getCuff s n).aborts } :=
    (getCuff_of _ _ n (cuffs_of_memory reported)).trans (getCuff_same ..)
  have entry : getCuff (entryHeld (reportStored (stopCounted s n) n o) n o) n =
      { getCuff s n with aborts := satInc (getCuff s n).aborts, active := [{ o with recordHeld := true }] } := by
    unfold entryHeld
    rw [getCuff_same, cuff, alone, List.map_singleton, sameTask_self, if_pos rfl]
  rw [endCuffOp_stopped s n counts]
  have beside : besideRecords (entryHeld (reportStored (stopCounted s n) n o) n o) = besideRecords s := (besideRecords_of_memory reported :)
  generalize entryHeld (reportStored (stopCounted s n) n o) n o = v at entry beside ⊢
  have leave := (onlyLeave_outcome v o.task st 0 (decide (0 < o.nonfinite) || o.gradNonfinite) (now v) (quality v) n).trans
    (onlyLeave_forgetOp _ n n o.task)
  rw [entry] at leave
  refine ⟨leave.aborts, fun x hx => ?_, (besideRecords_outcome ..).trans beside⟩
  obtain rfl := List.mem_singleton.mp (leave.active hx)
  rfl

end Sys2Proof.Proofs.CuffEnds

/-!
SUPPORT. Operations at a Cuff before they run: arrivals are queued or refused, the front of the queue becomes active, and a tree's root buffer times out
(R237, R238, R252, R286 to R288).
-/
namespace Sys2Proof.Proofs.CuffAdmission
open Sys2Proof Sys2Proof.Machine Sys2Proof.Proofs.Outcomes Sys2Proof.Proofs.CuffEnds

/-! Arrivals (R237, R286 to R288). -/

/-- What the generation of an arrival makes of it: an UPDATE alone names one. -/
def arrivalGen (s : State) (t : Task) : GenWhen := if t.op = some .update then genWhen (getPart s t.part) t.mapGen t.afterMark else .run

/-- Every check of an arrival that failed: the generation, those of its kind, the overlap rule. -/
def arrivalFails (s : State) (n : CuffNo) (t : Task) (fails : List Fail) : List Fail :=
  genFails (arrivalGen s t) ++ fails ++ need (!((opCuffs n t).any fun m => overlapsAt s m (rangesAt (opRanges n t) m))) stOverlap 48

/-- An accepted arrival, with the exponent of its step. -/
def arrivalMarked (s : State) (t : Task) : Task :=
  { admitMark s t with exp := some (if t.op = some .update then stepExp (getPart s t.part) t.step else 0) }

/-- The rows that take arrivals, each with its kind and the checks of that kind. -/
def TakesArrival (i : Instr) (s : State) (n : CuffNo) (t : Task) (fails : List Fail) : Prop :=
  (i = .updateApply n ∧ t.op = some .update ∧ uPark t = false ∧ fails = updateFails s n t) ∨
  (i = .updatePark n ∧ uPark t = true ∧ fails = updateFails s n t) ∨
  (i = .promote n ∧ t.op = some .promote ∧ fails = moveFails s n t) ∨
  (i = .drain n ∧ t.op = some .drain ∧ fails = moveFails s n t)

section
variable {s : State} {n : CuffNo} {t : Task} {rest : List Task} (front : (getCuff s n).inbox = t :: rest)
include front

theorem inboxFront_eq : inboxFront s n = some t := congrArg List.head? front

theorem popInbox_eq : popInbox s n = setCuff s n { getCuff s n with inbox := rest } := by
  unfold popInbox
  dsimp only
  rw [front, List.tail_cons]

/-- A row whose kind the first arrival is of takes it. -/
theorem exec_takesArrival {i : Instr} {fails : List Fail} (takes : TakesArrival i s n t fails) :
    ∃ kind : Task → Bool, kind t = true ∧ exec i s = finish s (cuffAdmit s n kind fails) := by
  have taken (f : Task → State) : finish s (match inboxFront s n with | none => s | some t => f t) = finish s (f t) := by rw [inboxFront_eq front]
  rcases takes with ⟨row, op, apply, checks⟩ | ⟨row, park, checks⟩ | ⟨row, op, checks⟩ | ⟨row, op, checks⟩
  · rw [row, checks]
    exact ⟨fun t => t.op == some .update && !uPark t, by simp [op, apply], taken fun t => cuffAdmit s n _ (updateFails s n t)⟩
  · rw [row, checks]
    exact ⟨uPark, park, taken fun t => cuffAdmit s n uPark (updateFails s n t)⟩
  · rw [row, checks]
    exact ⟨fun t => t.op == some .promote, by simp [op], taken fun t => cuffAdmit s n _ (moveFails s n t)⟩
  · rw [row, checks]
    exact ⟨fun t => t.op == some .drain, by simp [op], taken fun t => cuffAdmit s n _ (moveFails s n t)⟩

variable {kind : Task → Bool} {fails : List Fail} (same : kind t = true) (unheld : arrivalGen s t ≠ .hold)
include same unheld

/-- An arrival that is not held for a switch: refused, waiting at the front, or queued. -/
theorem cuffAdmit_arrival : cuffAdmit s n kind fails =
    match admissionFailure (arrivalFails s n t fails) with
    | some (st, d) => rejectTask (setCuff s n { getCuff s n with inbox := rest }) t st d
    | none =>
      if stepWhen (getPart s t.part) t.step = .next then s
      else if !((opCuffs n t).all (cuffRoom s)) then s
      else enqueueOp (setCuff s n { getCuff s n with inbox := rest }) n (arrivalMarked s t) := by
  unfold cuffAdmit
  dsimp only
  rw [front, popInbox_eq front]
  dsimp only
  rw [same, Bool.not_true, if_neg Bool.false_ne_true]
  simp only [beq_iff_eq]
  rw [if_neg (show ¬ (if t.op = some .update then genWhen (getPart s t.part) t.mapGen t.afterMark else .run) = .hold from unheld)]
  rfl

theorem cuffAdmit_refused {st : BitVec 8} {d : BitVec 16} (refused : admissionFailure (arrivalFails s n t fails) = some (st, d)) :
    cuffAdmit s n kind fails = rejectTask (setCuff s n { getCuff s n with inbox := rest }) t st d := by
  rw [cuffAdmit_arrival front same unheld, refused]

theorem cuffAdmit_queued (passed : admissionFailure (arrivalFails s n t fails) = none) (turn : stepWhen (getPart s t.part) t.step ≠ .next)
    (room : ∀ m ∈ opCuffs n t, (getCuff s m).queue.length < 16) :
    cuffAdmit s n kind fails = enqueueOp (setCuff s n { getCuff s n with inbox := rest }) n (arrivalMarked s t) := by
  have fits : (opCuffs n t).all (cuffRoom s) = true := List.all_eq_true.mpr fun m hm => decide_eq_true (room m hm)
  rw [cuffAdmit_arrival front same unheld, passed]
  dsimp only
  rw [if_neg turn, fits, Bool.not_true, if_neg Bool.false_ne_true]

end

theorem besideWork_enqueueOp (s : State) (n : CuffNo) (t : Task) : besideWork (enqueueOp s n t) = besideWork s :=
  besideWork_foldl _ _ _ fun s m => besideWork_setCuff s m _

section
variable {i : Instr} {s : State} {n : CuffNo} {t : Task} {rest : List Task} {fails : List Fail} (front : (getCuff s n).inbox = t :: rest)
  (takes : TakesArrival i s n t fails) (unheld : arrivalGen s t ≠ .hold)
include front takes unheld

theorem exec_arrival_queued (passed : admissionFailure (arrivalFails s n t fails) = none) (turn : stepWhen (getPart s t.part) t.step ≠ .next)
    (room : ∀ m ∈ opCuffs n t, (getCuff s m).queue.length < 16) :
    exec i s = .next (enqueueOp (setCuff s n { getCuff s n with inbox := rest }) n (arrivalMarked s t)) := by
  obtain ⟨kind, same, run⟩ := exec_takesArrival front takes
  rw [run, cuffAdmit_queued front same unheld passed turn room]
  exact finish_of_work (besideWork_enqueueOp ..)

theorem exec_arrival_refused {st : BitVec 8} {d : BitVec 16} (refused : admissionFailure (arrivalFails s n t fails) = some (st, d)) :
    ∃ u, exec i s = .next u ∧ besideRecords u = besideRecords s := by
  obtain ⟨kind, same, run⟩ := exec_takesArrival front takes
  rw [run, cuffAdmit_refused front same unheld refused]
  exact ⟨_, finish_of_work (besideWork_rejectTask ..), besideRecords_rejectTask ..⟩

end

/-! CUFF_UPDATE_START (R238). -/

/-- The memory of an operation stands, and no chunk of an UPDATE's tree was discarded before it came. -/
def CanStart (s : State) (n : CuffNo) (o : CuffOp) : Prop :=
  (o.task.op = some .update → (getCuff s n).discarded.contains (BitVec.ofNat 16 (uTree o.task)) = false) ∧
  regionMaps s (cuffRegion n) (uBase o.task) ((if uPark o.task then 8 else 16) * uRecords o.task) = true

theorem exec_cuffUpdateStart {s : State} {n : CuffNo} {o : CuffOp} {rest : List CuffOp} (front : (getCuff s n).queue = o :: rest)
    (room : (getCuff s n).active.length < 4) (stands : resettingPart s o.task.part = false) (starts : o.guest = true ∨ CanStart s n o) :
    exec (.cuffUpdateStart n) s = .next (setCuff s n { getCuff s n with queue := rest, active := (getCuff s n).active ++ [o] }) := by
  have undiscarded : (!o.guest && o.task.op == some .update && (getCuff s n).discarded.contains (BitVec.ofNat 16 (uTree o.task))) = false := by
    rcases starts with guest | ⟨kept, -⟩
    · rw [guest, Bool.not_true, Bool.false_and, Bool.false_and]
    · by_cases op : o.task.op = some .update
      · rw [kept op, Bool.and_false]
      · rw [beq_false_of_ne op, Bool.and_false, Bool.false_and]
  have mapped : (!o.guest && !regionMaps s (cuffRegion n) (uBase o.task) ((if uPark o.task then 8 else 16) * uRecords o.task)) = false := by
    rcases starts with guest | ⟨-, maps⟩
    · rw [guest, Bool.not_true, Bool.false_and]
    · rw [maps, Bool.not_true, Bool.and_false]
  have begins : (decide (4 ≤ (getCuff s n).active.length) || resettingPart s o.task.part) = false := by
    rw [stands, decide_eq_false (Nat.not_le.mpr room), Bool.or_false]
  show execCuffUpdateStart n s = _
  unfold execCuffUpdateStart
  dsimp only
  rw [front]
  dsimp only
  rw [begins, if_neg Bool.false_ne_true, undiscarded, if_neg Bool.false_ne_true]
  refine (congrArg (finish s) (if_neg ?_)).trans (finish_of_work (besideWork_setCuff ..))
  exact Bool.eq_false_iff.mp mapped

/-! ROOT_BUFFER_TIMEOUT (R238, R252). -/

/-- A Cuff without a tree's chunks, which remembers the tree. -/
def withoutTree (c : Cuff) (tree : BitVec 16) : Cuff :=
  { c with
    roots := c.roots.filter fun b => b.tree != tree
    discarded := if c.discarded.contains tree then c.discarded else c.discarded ++ [tree] }

theorem onlyReports_discardTree (s : State) (n : CuffNo) (tree : BitVec 16) :
    OnlyReports (setCuff s n (withoutTree (getCuff s n) tree)) (discardTree s n tree) := by
  unfold discardTree discardEvent
  exact onlyReports_raise ..

theorem exec_rootBufferTimeout_discards {s : State} {n : CuffNo} {tree : BitVec 16} (waits : ∃ b ∈ (getCuff s n).roots, b.tree = tree)
    (unmatched : treeMatched (getCuff s n) tree = false) : exec (.rootBufferTimeout n tree) s = .next (discardTree s n tree) := by
  have waiting : ((getCuff s n).roots.any fun b => b.tree == tree) = true := by simpa using waits
  show execRootBufferTimeout n tree s = _
  unfold execRootBufferTimeout
  dsimp only
  rw [waiting, if_pos rfl, unmatched, if_neg Bool.false_ne_true]
  exact finish_of_work ((besideWork_of_reports (onlyReports_discardTree s n tree)).trans (besideWork_setCuff ..))

theorem opCounts_update {t : Task} (op : t.op = some .update) : opCounts t = true := by
  unfold opCounts
  rw [op]
  rfl

theorem exec_rootBufferTimeout_stops {s : State} {n : CuffNo} {o : CuffOp} (unbuffered : (getCuff s n).roots = []) (alone : (getCuff s n).active = [o])
    (own : o.guest = false) (runs : o.recordHeld = false) (op : o.task.op = some .update) :
    ∃ u, exec (.rootBufferTimeout n (BitVec.ofNat 16 (uTree o.task))) s = .next u ∧ OpStopped s u n := by
  refine ⟨endCuffOp s n o stRedTimeout true, ?_, opStopped_endCuffOp alone (opCounts_update op) stRedTimeout⟩
  have waits : (!o.guest && !o.recordHeld && o.task.op == some .update && BitVec.ofNat 16 (uTree o.task) == BitVec.ofNat 16 (uTree o.task)) = true := by
    simp [own, runs, op]
  show execRootBufferTimeout n _ s = _
  unfold execRootBufferTimeout
  dsimp only
  rw [unbuffered, alone, List.any_nil, if_neg Bool.false_ne_true, List.find?_singleton, if_pos waits]
  exact finish_of_work (besideWork_endCuffOp ..)

/-- Settles O37: an arrival of the row's kind is queued or leaves its record; the front of the queue becomes active; a root buffer's timeout discards
chunks that no operation matches, or stops the UPDATE that waits. -/
theorem cuffsAdmitAndTimeOut : Obligations.CuffsAdmitAndTimeOut := by
  unfold Obligations.CuffsAdmitAndTimeOut
  refine ⟨⟨fun i s n t rest fails front takes unheld => ⟨exec_arrival_queued front takes unheld, fun st d => exec_arrival_refused front takes unheld⟩,
    fun s n o rest => exec_cuffUpdateStart⟩, fun s n tree waits unmatched => ?_, fun s n o unbuffered alone own runs op => ?_⟩
  · exact ⟨_, exec_rootBufferTimeout_discards waits unmatched, onlyReports_discardTree s n tree⟩
  · obtain ⟨u, run, counted, held, rest⟩ := exec_rootBufferTimeout_stops unbuffered alone own runs op
    exact ⟨u, run, counted, held, rest⟩

end Sys2Proof.Proofs.CuffAdmission

/-!
SUPPORT. A Cuff's turn with one UPDATE (R238, R239, R242, R244, R248, R252): the chunk it takes, the record or park entry that it writes, and a chunk out of
place.
-/
namespace Sys2Proof.Proofs.CuffChunks
open Sys2Proof Sys2Proof.Machine Sys2Proof.Proofs.Outcomes Sys2Proof.Proofs.CuffEnds Sys2Proof.Proofs.CuffAdmission Sys2Proof.Proofs.Palms
  Sys2Proof.Proofs.Serving

/-! A write within one line (R270). -/

section
variable {s : State} {a : Nat} {bs : List Byte} (clean : linePoison s (a / 64) = false) (fits : a % 64 + bs.length ≤ 64)
include clean fits

theorem memByte_storeMem_line (x : Nat) : memByte (storeMem s a bs) x = if a ≤ x ∧ x < a + bs.length then bs.getD (x - a) 0 else memByte s x := by
  unfold storeMem writeMem
  split
  · rename_i none
    rw [none, List.length_nil, if_neg (by omega)]
  · rename_i some
    have long : 0 < bs.length := List.length_pos_iff.mpr some
    have one : (a + bs.length - 1) / 64 - a / 64 + 1 = 1 := by omega
    obtain ⟨-, -, bytes⟩ := writeLine_clean s (a / 64) a bs clean
    dsimp only
    rw [one, List.range_one, List.foldl_cons, List.foldl_nil, Nat.add_zero, bytes]
    exact if_congr (by omega) rfl rfl

/-- The number that was written stands there. -/
theorem memNat_storeMem_line {w v : Nat} (bytes : bs = bytesOf w v) (small : v < 256 ^ w) : memNat (storeMem s a bs) a w = v := by
  have length : bs.length = w := by rw [bytes, bytesOf_length]
  have stored := memBytes_eq (s := storeMem s a bs) (a := a) (bs := bs) fun j hj => by
    rw [memByte_storeMem_line clean fits, if_pos (by omega), Nat.add_sub_cancel_left]
  rw [length] at stored
  rw [memNat, stored, bytes, natOfBytes_bytesOf, Nat.mod_eq_of_lt small]

end

/-! Pairs and records as numbers (R68, R235). -/

theorem recordNat_lt (r : Record) : recordNat r < 256 ^ 16 := by
  have hi := r.hi.isLt
  have lo := r.lo.isLt
  have m := r.m.isLt
  have v := r.v.isLt
  unfold recordNat
  omega

theorem pairNat_lt (v : Pair) : v.hi.toNat + v.lo.toNat * 2 ^ 32 < 256 ^ 8 := by
  have hi := v.hi.isLt
  have lo := v.lo.isLt
  omega

theorem pairsBytes_single (v : Pair) : pairsBytes [v] = bytesOf 8 (v.hi.toNat + v.lo.toNat * 2 ^ 32) := List.append_nil _

theorem chunkPairs_single (v : Pair) : chunkPairs (pairsBytes [v]) 1 = [v] := by
  have hi := v.hi.isLt
  have lo := v.lo.isLt
  have low (x : Nat) : natOfBytes ((bytesOf 8 x).take 4) = x % 256 ^ 4 := natOfBytes_bytesOf 4 x
  have high (x : Nat) : natOfBytes (((bytesOf 8 x).drop 4).take 4) = x / 256 / 256 / 256 / 256 % 256 ^ 4 := natOfBytes_bytesOf 4 _
  have first : BitVec.ofNat 32 ((v.hi.toNat + v.lo.toNat * 2 ^ 32) % 256 ^ 4) = v.hi :=
    BitVec.eq_of_toNat_eq (by rw [BitVec.toNat_ofNat]; omega)
  have second : BitVec.ofNat 32 ((v.hi.toNat + v.lo.toNat * 2 ^ 32) / 256 / 256 / 256 / 256 % 256 ^ 4) = v.lo :=
    BitVec.eq_of_toNat_eq (by rw [BitVec.toNat_ofNat]; omega)
  rw [pairsBytes_single, chunkPairs, chunkPairs, low, high, first, second]

/-! Whose turn it is (R238, R288). -/

/-- An UPDATE that runs at its own Cuff and writes neither a working copy nor a record of R246. -/
structure PlainUpdate (o : CuffOp) : Prop where
  own : o.guest = false
  runs : o.recordHeld = false
  op : o.task.op = some .update
  copyless : uWcopy o.task = false
  unexported : uExport o.task = false

theorem opExports_plain {o : CuffOp} (plain : PlainUpdate o) : opExports o.task = false := by
  unfold opExports
  rw [plain.unexported, Bool.false_and]

/-- An UPDATE has entries at its own Cuff alone. -/
theorem opCuffs_update {t : Task} (n : CuffNo) (op : t.op = some .update) : ∀ m ∈ opCuffs n t, m = n := by
  intro m hm
  have ranges : opRanges n t = [(n, unitRange n (uBase t) ((if uPark t then 8 else 16) * uRecords t))] := if_pos (by rw [op]; rfl)
  unfold opCuffs at hm
  rw [ranges] at hm
  simpa using hm

section
variable {s : State} {n : CuffNo} {o : CuffOp} {c : Packet} {later : List Packet} (plain : PlainUpdate o) (alone : (getCuff s n).active = [o])
  (stands : resettingPart s o.task.part = false) (buffer : (getCuff s n).roots = [{ tree := BitVec.ofNat 16 (uTree o.task), chunks := c :: later }])
include plain alone stands buffer

theorem opReady_alone : opReady s n 0 o = true := by
  have ready : exportReady s o.task = true := by rw [exportReady, opExports_plain plain]; rfl
  have guests : guestsActive s n o.task = true := by
    refine List.all_eq_true.mpr fun m hm => ?_
    rw [opCuffs_update n plain.op m hm, alone]
    simp [sameTask_self]
  have waits : chunkWaits (getCuff s n) o.task = true := by rw [chunkWaits, buffer]; simp
  unfold opReady
  dsimp only
  rw [plain.own, plain.runs, ready, stands, guests, waits]
  simp

theorem nextOp_alone : nextOp s n = some (0, o) := by
  have order (k : Nat) : ([(0, o)].drop k ++ [(0, o)].take k) = [(0, o)] := by cases k <;> simp
  unfold nextOp
  dsimp only
  rw [alone, List.zipIdx_singleton, List.map_singleton, order, List.find?_singleton, if_pos (opReady_alone plain alone stands buffer)]

/-- From s to v the Cuff has taken a chunk from a root buffer, with its latency shown. -/
structure ChunkTaken (s v : State) (n : CuffNo) (lat : BitVec 16) : Prop where
  active : (getCuff v n).active = (getCuff s n).active
  aborts : (getCuff v n).aborts = (getCuff s n).aborts
  records : (getCuff v n).records = (getCuff s n).records
  latency : (getCuff v n).latNs = if 32 ≤ n.val then lat else (getCuff s n).latNs
  rest : { v with cuffs := s.cuffs } = s

omit plain alone stands in
theorem takeRoot_front : ∃ roots, takeRoot s n (BitVec.ofNat 16 (uTree o.task)) = some (c, setCuff s n { getCuff s n with roots := roots }) := by
  unfold takeRoot
  dsimp only
  rw [buffer, List.find?_singleton, if_pos (by simp)]
  exact ⟨_, rfl⟩

theorem exec_cuffChunk_update (lat : BitVec 16) :
    ∃ v, ChunkTaken s v n lat ∧ exec (.cuffChunk n ⟨.clean, lat⟩) s = finish s (updateChunk v n o c) := by
  generalize hz : setCuff s n { getCuff s n with turn := 0 + 1, latNs := if 32 ≤ n.val then lat else (getCuff s n).latNs } = z
  have cuff : getCuff z n = { getCuff s n with turn := 0 + 1, latNs := if 32 ≤ n.val then lat else (getCuff s n).latNs } := by rw [← hz, getCuff_same]
  have rest : { z with cuffs := s.cuffs } = s := by rw [← hz]; rfl
  obtain ⟨roots, takes⟩ := takeRoot_front (s := z) (n := n) (o := o) (c := c) (later := later) (by rw [cuff]; exact buffer)
  refine ⟨setCuff z n { getCuff z n with roots := roots }, ?_, ?_⟩
  · rw [cuff]
    constructor
    case rest => exact rest
    all_goals rw [getCuff_same]
  · show execCuffChunk n ⟨.clean, lat⟩ s = _
    unfold execCuffChunk
    rw [nextOp_alone plain alone stands buffer]
    dsimp only
    rw [hz, findLine_clean, plain.op, if_pos (by rfl), takes]

end

/-! A chunk out of place (R239, R252). -/

theorem updateChunk_outOfPlace {s : State} {n : CuffNo} {o : CuffOp} {c : Packet} (data : c.typ ≠ 0x0B) (off : c.offset.toNat ≠ 8 * o.done) :
    updateChunk s n o c = endCuffOp s n o stRedMismatch true := by
  unfold updateChunk
  dsimp only
  rw [if_neg (by simpa using data), if_pos (by simp [off])]

/-! A chunk of one pair (R242, R244, R248). -/

/-- The operation with what a chunk says of its gradient. -/
def gradMarked (o : CuffOp) (c : Packet) : CuffOp :=
  { o with gradNonfinite := o.gradNonfinite || c.nonfinite, gradPoison := o.gradPoison || c.poison }

theorem PlainUpdate.gradMarked {o : CuffOp} (h : PlainUpdate o) (c : Packet) : PlainUpdate (gradMarked o c) :=
  ⟨h.own, h.runs, h.op, h.copyless, h.unexported⟩

/-- Where the next record or entry stands, and how wide it is. -/
def nextWidth (o : CuffOp) : Nat := if uPark o.task then 8 else 16
def nextAddr (o : CuffOp) : Nat := uBase o.task + nextWidth o * o.done

/-- What a park entry becomes with a pair, and a record with a pair's hi. -/
def parkValue (s : State) (o : CuffOp) (a : Nat) (pr : Pair) : Nat :=
  let e := o.task.exp.getD 0
  let old : Pair := ⟨BitVec.ofNat 32 (memNat s a 4), BitVec.ofNat 32 (memNat s (a + 4) 4)⟩
  let v := pairAdd old ⟨f32Scale pr.hi (-e), f32Scale pr.lo (-e)⟩
  v.hi.toNat + v.lo.toNat * 2 ^ 32
def recordValue (s : State) (o : CuffOp) (a : Nat) (pr : Pair) : Nat :=
  recordNat (applyRecord o.task (o.task.exp.getD 0) pr.hi (recordOf (memNat s a 16)))
def nextValue (s : State) (o : CuffOp) (pr : Pair) : Nat := if uPark o.task then parkValue s o (nextAddr o) pr else recordValue s o (nextAddr o) pr

theorem nextValue_lt (s : State) (o : CuffOp) (pr : Pair) : nextValue s o pr < 256 ^ nextWidth o := by
  unfold nextValue nextWidth
  split
  · exact pairNat_lt _
  · exact recordNat_lt _

/-- The Cuff's records are counted, under APPLY. -/
def nextCounted (s : State) (n : CuffNo) (o : CuffOp) : State :=
  if uPark o.task then s else setCuff s n { getCuff s n with records := (getCuff s n).records + 1 }

/-- The state once the next record or entry is written. -/
def nextStored (s : State) (n : CuffNo) (o : CuffOp) (pr : Pair) : State :=
  storeMem (nextCounted s n o) (nextAddr o) (bytesOf (nextWidth o) (nextValue s o pr))

/-- A record or entry taken by an operation. -/
def nextRun (n : CuffNo) (s : State) (o : CuffOp) (pr : Pair) : Run :=
  if uPark o.task then parkOne n false { s := s, op := o } o.done pr else applyOne n false { s := s, op := o } o.done pr.hi

section
variable {s : State} {n : CuffNo} {o : CuffOp}

/-- A run of one record or entry: v is the state with it written, and the operation stands at the next. -/
structure WroteNext (o : CuffOp) (v : State) (r : Run) : Prop where
  state : r.s = v
  goes : r.stop = none
  done : r.op.done = o.done + 1
  task : r.op.task = o.task
  time : r.op.lastWrite = now v

theorem parkOne_clean {a : Nat} (place : a = uBase o.task + 8 * o.done) (pr : Pair) (clean : linePoison s (a / 64) = false) :
    WroteNext o (storeMem s a (bytesOf 8 (parkValue s o a pr))) (parkOne n false { s := s, op := o } o.done pr) := by
  unfold parkOne
  dsimp only
  rw [← place, clean, Bool.or_false, if_neg Bool.false_ne_true]
  exact ⟨rfl, rfl, rfl, rfl, rfl⟩

theorem putRecord_wrote (a : Nat) (v : Record) (counts : opCounts o.task = true) :
    WroteNext o (storeMem (setCuff s n { getCuff s n with records := (getCuff s n).records + 1 }) a (bytesOf 16 (recordNat v)))
      (putRecord n { s := s, op := o } o.done a v) := by
  unfold putRecord
  dsimp only
  rw [counts, if_pos rfl]
  exact ⟨rfl, rfl, rfl, rfl, rfl⟩

theorem copyRecord_none (n : CuffNo) {r : Run} (i base : Nat) (none : uWcopy r.op.task = false) : copyRecord n r i base = r := by
  unfold copyRecord
  dsimp only
  rw [none, Bool.not_false, Bool.true_or, if_pos rfl]

theorem applyOne_clean {a : Nat} (place : a = uBase o.task + 16 * o.done) (pr : Pair) (plain : PlainUpdate o) (clean : linePoison s (a / 64) = false) :
    WroteNext o (storeMem (setCuff s n { getCuff s n with records := (getCuff s n).records + 1 }) a (bytesOf 16 (recordValue s o a pr)))
      (applyOne n false { s := s, op := o } o.done pr.hi) := by
  have counted : countRead { s := s, op := o } a = { s := s, op := o } := by
    unfold countRead
    rw [clean, Bool.false_and, if_neg Bool.false_ne_true]
  have wrote := putRecord_wrote (s := s) (n := n) a (applyRecord o.task (o.task.exp.getD 0) pr.hi (recordOf (memNat s a 16))) (opCounts_update plain.op)
  unfold applyOne
  dsimp only
  rw [← place, counted]
  dsimp only
  rw [clean, Bool.or_false, if_neg Bool.false_ne_true]
  generalize putRecord n { s := s, op := o } o.done a _ = r at wrote ⊢
  rw [copyRecord_none _ _ _ (by rw [wrote.task]; exact plain.copyless)]
  exact wrote

/-- Over a line without a marker the next record or entry is written. -/
theorem nextRun_clean (pr : Pair) (plain : PlainUpdate o) (clean : linePoison s (nextAddr o / 64) = false) :
    WroteNext o (nextStored s n o pr) (nextRun n s o pr) := by
  unfold nextRun nextStored nextCounted nextValue
  cases park : uPark o.task with
  | true =>
    have width : nextWidth o = 8 := if_pos park
    rw [if_pos rfl, if_pos rfl, if_pos rfl, width]
    exact parkOne_clean (by rw [nextAddr, width]) pr clean
  | false =>
    have width : nextWidth o = 16 := if_neg (Bool.eq_false_iff.mp park)
    rw [if_neg Bool.false_ne_true, if_neg Bool.false_ne_true, if_neg Bool.false_ne_true, width]
    exact applyOne_clean (by rw [nextAddr, width]) pr plain clean

/-- A run that neither stops nor completes its operation leaves it at its place. -/
theorem closeRun_goesOn {r : Run} (first : Nat) (goes : r.stop = none) (unexported : opExports r.op.task = false)
    (more : r.op.done ≠ uRecords r.op.task) : closeRun n first r = storeOp r.s n r.op := by
  unfold closeRun
  dsimp only
  rw [goes, unexported, if_neg Bool.false_ne_true]
  exact if_neg (by simpa using more)

theorem updateChunk_single {c : Packet} {pr : Pair} (data : c.typ ≠ 0x0B) (payload : c.payload = pairsBytes [pr]) (last : c.last = false)
    (more : o.done + 1 < uRecords o.task) (inPlace : c.offset.toNat = 8 * o.done) (sound : c.poison = false) :
    updateChunk s n o c = closeRun n o.done (nextRun n (send s [rootCredit n c]) (gradMarked o c) pr) := by
  have length : c.payload.length = 8 := by rw [payload, pairsBytes_single, bytesOf_length]
  have fits : (c.offset.toNat != 8 * o.done || c.payload.length % 8 != 0 || c.payload.length / 8 == 0 ||
      decide (uRecords o.task < o.done + c.payload.length / 8) || c.last != (o.done + c.payload.length / 8 == uRecords o.task)) = false := by
    rw [length, inPlace, last]
    simp
    omega
  unfold updateChunk gradMarked
  dsimp only
  rw [if_neg (by simpa using data), fits, if_neg Bool.false_ne_true, length, payload, chunkPairs_single, sound]
  rfl

end

/-- The operation alone at its Cuff is put back. -/
theorem storeOp_alone {s : State} {n : CuffNo} {o x : CuffOp} (alone : (getCuff s n).active = [o]) (same : x.task = o.task) :
    storeOp s n x = setCuff s n { getCuff s n with active := [x] } := by
  unfold storeOp
  dsimp only
  rw [alone, List.map_singleton, same, sameTask_self, if_pos rfl]

/-! What the write leaves (R239). -/

section
variable (s : State) (n : CuffNo) (o : CuffOp) (pr : Pair)

theorem nextCounted_rest : { nextCounted s n o with cuffs := s.cuffs } = s := by
  unfold nextCounted
  split <;> rfl

/-- Under APPLY the Cuff counts one record more; nothing else of it changes. -/
theorem getCuff_nextCounted :
    getCuff (nextCounted s n o) n = { getCuff s n with records := (getCuff s n).records + (if uPark o.task then 0 else 1) } := by
  unfold nextCounted
  split
  · exact congrArg (fun r => { getCuff s n with records := r }) (BitVec.add_zero _).symm
  · exact getCuff_same ..

theorem besideMemory_nextStored : besideMemory (nextStored s n o pr) = besideMemory (nextCounted s n o) := besideMemory_storeMem ..

theorem getCuff_nextStored :
    getCuff (nextStored s n o pr) n = { getCuff s n with records := (getCuff s n).records + (if uPark o.task then 0 else 1) } :=
  (getCuff_of _ _ n (cuffs_of_memory (besideMemory_nextStored s n o pr))).trans (getCuff_nextCounted s n o)

theorem nextStored_rest : besideMemory { nextStored s n o pr with cuffs := s.cuffs } = besideMemory s :=
  (congrArg (fun x : State => { x with cuffs := s.cuffs }) (besideMemory_nextStored s n o pr) :).trans (congrArg besideMemory (nextCounted_rest s n o) :)

end

/-- What a record or entry becomes follows from memory. -/
theorem nextValue_of {s t : State} (h : t.mem = s.mem) (o : CuffOp) (pr : Pair) : nextValue t o pr = nextValue s o pr := by
  have same (a k : Nat) : memNat t a k = memNat s a k := memNat_of fun j _ => by rw [memByte, memByte, h]
  unfold nextValue parkValue recordValue
  simp only [same]

theorem nextWidth_eq (o : CuffOp) : nextWidth o = 8 ∨ nextWidth o = 16 := ite_eq_or_eq ..

/-- An aligned record or entry lies in one line. -/
theorem next_in_line {o : CuffOp} (aligned : nextAddr o % nextWidth o = 0) : nextAddr o % 64 + nextWidth o ≤ 64 := by
  rcases nextWidth_eq o with w | w
  · rw [w] at aligned ⊢; omega
  · rw [w] at aligned ⊢; omega

section
variable {s : State} {n : CuffNo} {o : CuffOp} {pr : Pair} (aligned : nextAddr o % nextWidth o = 0) (clean : linePoison s (nextAddr o / 64) = false)
include aligned clean

theorem memory_nextStored : memNat (nextStored s n o pr) (nextAddr o) (nextWidth o) = nextValue s o pr ∧
    ∀ b, b < nextAddr o ∨ nextAddr o + nextWidth o ≤ b → memByte (nextStored s n o pr) b = memByte s b := by
  have rest := nextCounted_rest s n o
  have clean' : linePoison (nextCounted s n o) (nextAddr o / 64) = false :=
    (congrArg (fun x : State => linePoison x (nextAddr o / 64)) rest :).trans clean
  have fits : nextAddr o % 64 + (bytesOf (nextWidth o) (nextValue s o pr)).length ≤ 64 := by rw [bytesOf_length]; exact next_in_line aligned
  have value : nextValue (nextCounted s n o) o pr = nextValue s o pr := nextValue_of (congrArg State.mem rest :) o pr
  unfold nextStored
  refine ⟨memNat_storeMem_line clean' fits rfl (nextValue_lt s o pr), fun b outside => ?_⟩
  rw [memByte_storeMem_line clean' fits, bytesOf_length, if_neg (by omega)]
  exact (congrArg (fun x : State => memByte x b) rest :)

end

/-- The child has its credit, and the pair of its chunk is in the next record or entry. -/
def chunkStored (s : State) (n : CuffNo) (o : CuffOp) (c : Packet) (pr : Pair) : State := nextStored (send s [rootCredit n c]) n (gradMarked o c) pr

/-- A chunk of one pair in its place, at the only operation of a Cuff: it stands at the next record. -/
theorem updateChunk_writes {s : State} {n : CuffNo} {o : CuffOp} {c : Packet} {pr : Pair} (plain : PlainUpdate o) (alone : (getCuff s n).active = [o])
    (data : c.typ ≠ 0x0B) (payload : c.payload = pairsBytes [pr]) (last : c.last = false) (more : o.done + 1 < uRecords o.task)
    (inPlace : c.offset.toNat = 8 * o.done) (sound : c.poison = false) (clean : linePoison s (nextAddr o / 64) = false) :
    ∃ x, x.done = o.done + 1 ∧ x.task = o.task ∧ x.lastWrite = now (chunkStored s n o c pr) ∧
      updateChunk s n o c = setCuff (chunkStored s n o c pr) n { getCuff (chunkStored s n o c pr) n with active := [x] } := by
  obtain ⟨state, goes, done, task, time⟩ := nextRun_clean (s := send s [rootCredit n c]) (n := n) pr (plain.gradMarked c) clean
  have active : (getCuff (chunkStored s n o c pr) n).active = [o] := by rw [chunkStored, getCuff_nextStored]; exact alone
  refine ⟨_, done, task, time, ?_⟩
  rw [updateChunk_single data payload last more inPlace sound,
    closeRun_goesOn _ goes (by rw [task]; exact opExports_plain (plain.gradMarked c)) (by rw [task, done]; exact Nat.ne_of_lt more), state]
  exact storeOp_alone active task

/-! CUFF_CHUNK (R239, R252). -/

section
variable {s : State} {n : CuffNo} {o : CuffOp} {c : Packet} {later : List Packet} (plain : PlainUpdate o) (alone : (getCuff s n).active = [o])
  (stands : resettingPart s o.task.part = false) (buffer : (getCuff s n).roots = [{ tree := BitVec.ofNat 16 (uTree o.task), chunks := c :: later }])
  (data : c.typ ≠ 0x0B) (lat : BitVec 16)
include plain alone stands buffer data

theorem exec_cuffChunk_outOfPlace (off : c.offset.toNat ≠ 8 * o.done) : ∃ u, exec (.cuffChunk n ⟨.clean, lat⟩) s = .next u ∧ OpStopped s u n := by
  obtain ⟨v, taken, run⟩ := exec_cuffChunk_update plain alone stands buffer lat
  have work : besideWork v = besideWork s := (congrArg besideWork taken.rest :)
  obtain ⟨counted, held, rest⟩ := opStopped_endCuffOp (taken.active.trans alone) (opCounts_update plain.op) stRedMismatch
  rw [updateChunk_outOfPlace data off] at run
  refine ⟨_, run.trans (finish_of_work ((besideWork_endCuffOp ..).trans work)), ?_, held, rest.trans (congrArg besideRecords taken.rest :)⟩
  rw [counted, taken.aborts]

/-- A chunk in its place: one record or entry is written, the operation stands at the next, and the child has its credit. -/
theorem exec_cuffChunk_writes {pr : Pair} (payload : c.payload = pairsBytes [pr]) (last : c.last = false) (more : o.done + 1 < uRecords o.task)
    (inPlace : c.offset.toNat = 8 * o.done) (sound : c.poison = false) (aligned : nextAddr o % nextWidth o = 0)
    (clean : linePoison s (nextAddr o / 64) = false) :
    ∃ u x, exec (.cuffChunk n ⟨.clean, lat⟩) s = .next u ∧ (getCuff u n).active = [x] ∧ x.done = o.done + 1 ∧ x.task = o.task ∧
      x.lastWrite = now s ∧ (getCuff u n).latNs = (if 32 ≤ n.val then lat else (getCuff s n).latNs) ∧
      u.packets = s.packets ++ [rootCredit n c] ∧ (getCuff u n).records = (getCuff s n).records + (if uPark o.task then 0 else 1) ∧
      memNat u (nextAddr o) (nextWidth o) = nextValue s o pr ∧
      (∀ b, b < nextAddr o ∨ nextAddr o + nextWidth o ≤ b → memByte u b = memByte s b) ∧
      besideMemory { u with cuffs := s.cuffs, packets := s.packets } = besideMemory s := by
  obtain ⟨v, taken, run⟩ := exec_cuffChunk_update plain alone stands buffer lat
  have clean' : linePoison v (nextAddr o / 64) = false := (congrArg (fun x : State => linePoison x (nextAddr o / 64)) taken.rest :).trans clean
  obtain ⟨x, done, task, time, wrote⟩ := updateChunk_writes plain (taken.active.trans alone) data payload last more inPlace sound clean'
  obtain ⟨value, others⟩ := memory_nextStored (s := send v [rootCredit n c]) (n := n) (o := gradMarked o c) (pr := pr) aligned clean'
  have same : nextValue (send v [rootCredit n c]) o pr = nextValue s o pr := nextValue_of (congrArg State.mem taken.rest :) o pr
  have cuff := getCuff_nextStored (send v [rootCredit n c]) n (gradMarked o c) pr
  have rest := nextStored_rest (send v [rootCredit n c]) n (gradMarked o c) pr
  rw [wrote] at run
  unfold chunkStored at run time
  generalize nextStored (send v [rootCredit n c]) n (gradMarked o c) pr = y at *
  have whole : besideMemory { y with cuffs := s.cuffs, packets := s.packets } = besideMemory s :=
    (congrArg (fun x : State => { x with cuffs := s.cuffs, packets := s.packets }) rest :).trans
      (congrArg (fun x : State => besideMemory { x with packets := s.packets }) taken.rest :)
  refine ⟨_, x, run.trans (finish_of_work (congrArg besideWork whole :)), ?_, done, task, ?_, ?_, ?_, ?_, value.trans same, fun b outside => ?_, whole⟩
  · rw [getCuff_same]
  · exact time.trans (congrArg now whole :)
  · rw [getCuff_same, cuff]
    exact taken.latency
  · exact (congrArg State.packets rest :).trans (congrArg (fun x : State => x.packets ++ [rootCredit n c]) taken.rest :)
  · rw [getCuff_same, cuff]
    exact congrArg (· + _) taken.records
  · exact (others b outside).trans (congrArg (fun x : State => memByte x b) taken.rest :)

end

/-- Settles O38: the chunk at the front of the buffer is taken; in its place it writes the next record or entry, out of place it stops the UPDATE. -/
theorem cuffTakesChunk : Obligations.CuffTakesChunk := by
  unfold Obligations.CuffTakesChunk
  intro s n lat o c rest pr alone own runs op copyless unexported stands buffer data payload last more
  have plain : PlainUpdate o := ⟨own, runs, op, copyless, unexported⟩
  refine ⟨fun inPlace sound => exec_cuffChunk_writes plain alone stands buffer data lat payload last more inPlace sound, fun off => ?_⟩
  obtain ⟨u, run, counted, held, beside⟩ := exec_cuffChunk_outOfPlace plain alone stands buffer data lat off
  exact ⟨u, run, counted, held, beside⟩

end Sys2Proof.Proofs.CuffChunks

/-!
SUPPORT. The memory tiers' background work and losses: scrubbing, load, recalibration, and the withdrawal of stacks and ports (R273, R275, R278, R279,
R284, R294, R296 to R298).
-/
namespace Sys2Proof.Proofs.TierLosses
open Sys2Proof Sys2Proof.Machine Sys2Proof.Proofs.Units Sys2Proof.Proofs.Grid Sys2Proof.Proofs.FnOutcomes Sys2Proof.Proofs.FabricRows
  Sys2Proof.Proofs.Serving Sys2Proof.Proofs.TierRegisters

/-! Scrubbing (R273, R275, R294). -/

/-- A stack whose scrub position is about to be read: at the start of a pass that has not begun, the pass takes the settings. -/
def atLine (x : Stack) : Stack :=
  if x.position == 0 && !(x.passBegun && x.passEnable) then { x with passEnable := x.scrubEnable, passPeriodH := x.periodH, passBegun := true } else x

theorem atLine_inPass {x : Stack} (begun : x.position ≠ 0 ∨ x.passBegun = true) (enabled : x.passEnable = true) : atLine x = x := by
  unfold atLine
  rw [if_neg]
  rcases begun with moved | begun
  · exact fun h => moved (by simpa using (Bool.and_eq_true_iff.mp h).1)
  · simp [begun, enabled]

theorem atLine_first {x : Stack} {on : Bool} (first : x.position = 0) (fresh : x.passBegun = false) (set : x.scrubEnable = on) :
    atLine x = { x with passEnable := on, passPeriodH := x.periodH, passBegun := true } := by
  unfold atLine
  rw [if_pos (by simp [first, fresh]), set]

theorem nextScrub_first (s : State) {x : Stack} (first : x.position = 0) : nextScrub s x = { x with position := 1 } := by
  unfold nextScrub
  rw [first, if_pos (by decide)]
  rfl

section
variable {s : State} {k : StackNo}

/-- A line without an error moves the position on where scrubbing is enabled for the pass, and changes nothing else. -/
theorem exec_scrubLine_clean (works : stackWorks s k = true) : exec (.scrubLine k .clean) s =
    .next (if (atLine (getStack s k)).passEnable then setStack s k (nextScrub s (atLine (getStack s k))) else s) := by
  have run : exec (.scrubLine k .clean) s = execScrubLine k .clean s := rfl
  unfold execScrubLine at run
  dsimp only at run
  rw [run, works]
  change finish s (if (!true || !(atLine (getStack s k)).passEnable) = true then s else _) = _
  cases (atLine (getStack s k)).passEnable with
  | false => exact finish_of_tiers rfl
  | true =>
    refine (congrArg (finish s) ?_).trans (finish_of_tiers rfl)
    refine (if_neg (by decide)).trans ?_
    split
    · exact checkLine_clean ..
    · rfl

/-- Inside a pass a clean line moves the position on by one. -/
theorem exec_scrubLine_next (works : stackWorks s k = true) (begun : (getStack s k).position ≠ 0 ∨ (getStack s k).passBegun = true)
    (enabled : (getStack s k).passEnable = true) (more : (getStack s k).position.toNat + 1 < 603979776) :
    exec (.scrubLine k .clean) s = .next (setStack s k { getStack s k with position := (getStack s k).position + 1 }) := by
  rw [exec_scrubLine_clean works, atLine_inPass begun enabled, if_pos enabled, nextScrub, if_pos more]

/-- A pass that is enabled begins with its first line and takes the period then set. -/
theorem exec_scrubLine_first (works : stackWorks s k = true) (first : (getStack s k).position = 0) (fresh : (getStack s k).passBegun = false)
    (enabled : (getStack s k).scrubEnable = true) :
    exec (.scrubLine k .clean) s = .next (setStack s k { getStack s k with
      position := 1, passEnable := true, passPeriodH := (getStack s k).periodH, passBegun := true }) := by
  rw [exec_scrubLine_clean works, atLine_first first fresh enabled, if_pos rfl]
  exact congrArg (fun x => Host.Outcome.next (setStack s k x)) (nextScrub_first s first)

theorem exec_scrubLine_disabled (works : stackWorks s k = true) (first : (getStack s k).position = 0) (fresh : (getStack s k).passBegun = false)
    (disabled : (getStack s k).scrubEnable = false) : exec (.scrubLine k .clean) s = .next s := by
  rw [exec_scrubLine_clean works, atLine_first first fresh disabled, if_neg Bool.false_ne_true]

end

/-- A clean line of a cluster memory's bank changes its tile's scrub registers, the bank's position among them. -/
theorem exec_cmemScrubLine_clean {s : State} {c : CoreNo} (b : Fin 16) (mapped : cmemMapped s (coreTile c) (Fin.ofNat 4 (coreCluster c)) = true) :
    ∃ x, exec (.cmemScrubLine c b .clean) s = .next (setTile s (coreTile c) x) ∧
      tget 0 x.cmemPos (coreCluster c * 16 + b.val) =
        (if 262144 ≤ tget 0 (getTile s (coreTile c)).cmemPos (coreCluster c * 16 + b.val) + 1 then 0
         else tget 0 (getTile s (coreTile c)).cmemPos (coreCluster c * 16 + b.val) + 1) := by
  refine ⟨_, (congrArg (finish s) ((if_neg (by rw [mapped]; decide)).trans (checkLine_clean ..))).trans
    (finish_of_reports (.refl _) rfl rfl rfl rfl rfl), ?_⟩
  simp

/-! Load (R296). -/

theorem onlyReports_raiseIf (s : State) (due : Bool) (ev : Event) : OnlyReports s (if due then raise s ev else s) := by
  cases due with
  | false => exact .refl s
  | true => exact onlyReports_raise s ev

/-- A new load is a change of the stack's registers, with a report where BUSY rises. -/
theorem onlyReports_loadChange (s : State) (k : StackNo) (x : Stack) :
    ∃ t, OnlyReports (setStack s k { x with busy := decide (x.busyThresh.toNat ≤ x.util.toNat), busyEventTime := t }) (loadChange s k x) :=
  ⟨_, onlyReports_raiseIf ..⟩

theorem getStack_of_reports {s t : State} (h : OnlyReports s t) (k : StackNo) : getStack t k = getStack s k :=
  getStack_of s t k (congrArg (fun x : State => x.hbm) h.rest :)

/-- A stack that shows a window's load and keeps its peak. -/
def loaded (x : Stack) (util : Byte) : Stack := { x with util := util, peak := if x.peak.toNat < util.toNat then util else x.peak }

theorem exec_hcLoadWindow (s : State) (k : StackNo) (util : Byte) : ∃ u, exec (.hcLoadWindow k util) s = .next u ∧ (getStack u k).util = util ∧
    (getStack u k).peak = (if (getStack s k).peak.toNat < util.toNat then util else (getStack s k).peak) ∧
    (getStack u k).busy = decide ((getStack s k).busyThresh.toNat ≤ util.toNat) ∧ OnlyReports (setStack s k (getStack u k)) u := by
  obtain ⟨t, reports⟩ := onlyReports_loadChange s k (loaded (getStack s k) util)
  have shown := (getStack_of_reports reports k).trans (getStack_same ..)
  have run : exec (.hcLoadWindow k util) s = finish s (loadChange s k (loaded (getStack s k) util)) := rfl
  refine ⟨_, run.trans (finish_of_reports reports rfl rfl rfl rfl rfl), ?_⟩
  rw [shown]
  exact ⟨rfl, rfl, rfl, reports⟩

/-! What a loss leaves alone. -/

theorem besideLoss_of_work {s t : State} (h : besideWork t = besideWork s) : besideLoss t = besideLoss s := (congrArg besideLoss h :)

theorem besideLoss_of_fns {s t : State} (h : OnlyFns s t) : besideLoss t = besideLoss s := (congrArg besideLoss h.besideWork :)

/-- What follows the withdrawal of a unit with function f: that function fails and the partition loses the unit. -/
theorem besideLoss_unitsLost_failFn (s : State) (f st c : Nat) (o : Option PartNo) : besideLoss (unitsLost (failFn s f st c) o) = besideLoss s :=
  (besideLoss_of_work (besideWork_unitsLost ..)).trans (besideLoss_of_fns (onlyFns_failFn ..))

theorem besideLoss_settleOwnership (s : State) : besideLoss (settleOwnership s) = besideLoss s := by
  obtain ⟨o, p, q, e⟩ := settleOwnership_eq s
  rw [e]
  rfl

theorem besideLoss_announce (s t : State) : besideLoss (announce s t) = besideLoss t := besideLoss_of_work (besideWork_of_reports (onlyReports_announce s t))

/-- A loss leaves the queue, the time base and the fuses, so that its row ends with it; the module's state may be announced. -/
theorem finish_of_loss {s u : State} (h : besideLoss u = besideLoss s) : finish s u = .next (announce s u) :=
  finish_next (congrArg State.pending h :) (congrArg State.tb h :) (congrArg (fun x : State => x.weala.fuses) h :)

/-! Withdrawal of a stack (R278, R279, R297). -/

/-- From s to u the stack is withdrawn with a cause, and its function is ABSENT. -/
structure StackLost (s u : State) (k : StackNo) (cause : BitVec 4) : Prop where
  withdrawn : (getStack u k).withdrawn = true
  cause : (getStack u k).cause = cause
  fn : fnState u (fnStack k) = 5
  rest : besideLoss u = besideLoss s

theorem stackLost_withdrawStack {s : State} {k : StackNo} {c : Nat} (stands : (getStack s k).withdrawn = false) (trained : c ≠ 1) :
    StackLost s (withdrawStack s k c) k (BitVec.ofNat 4 c) := by
  obtain ⟨v, o, work, e⟩ := withdrawStack_eq s k c stands
  rw [if_neg trained] at e
  obtain ⟨_, _, _, settled⟩ := settleOwnership_eq (unitsLost (failFn v (fnStack k) 5 c) o)
  have rest : besideLoss (withdrawStack s k c) = besideLoss s := by
    rw [e, besideLoss_settleOwnership, besideLoss_unitsLost_failFn]
    exact (besideLoss_of_work work).trans rfl
  have stack : getStack (withdrawStack s k c) k = { getStack s k with withdrawn := true, cause := BitVec.ofNat 4 c, zeroing := false } := by
    have lost := ((hbm_of_work (besideWork_unitsLost (failFn v (fnStack k) 5 c) o)).trans (onlyFns_failFn ..).hbm).trans (hbm_of_work work)
    rw [e, settled]
    exact (getStack_of _ _ k lost).trans (getStack_same ..)
  refine ⟨congrArg Stack.withdrawn stack, congrArg Stack.cause stack, ?_, rest⟩
  rw [e, settled]
  exact (fnState_unitsLost ..).trans (fnState_failFn_same v c (by unfold fnStack fnModule; omega) (by decide))

/-- A row that withdraws a stack, after a change z of the registers of stacks, ends with the stack withdrawn. -/
theorem finish_withdrawStack {s z : State} {k : StackNo} {c : Nat} (registers : besideLoss z = besideLoss s)
    (stands : (getStack z k).withdrawn = false) (trained : c ≠ 1) :
    ∃ u, finish s (withdrawStack z k c) = .next u ∧ StackLost s u k (BitVec.ofNat 4 c) := by
  obtain ⟨withdrawn, cause, fn, rest⟩ := stackLost_withdrawStack stands trained
  exact ⟨_, finish_of_loss (rest.trans registers), withdrawn, cause, fn, (besideLoss_announce ..).trans (rest.trans registers)⟩

theorem stackWorks_stands {s : State} {k : StackNo} (works : stackWorks s k = true) : (getStack s k).withdrawn = false := by
  unfold stackWorks at works
  simpa using (Bool.and_eq_true_iff.mp works).2

section
variable {s : State} {k : StackNo}

theorem exec_ctrlFault_stack (stands : (getStack s k).withdrawn = false) : ∃ u, exec (.ctrlFault (.stack k)) s = .next u ∧ StackLost s u k 3 :=
  finish_withdrawStack rfl stands (by decide)

theorem exec_hcWithdraw {port : HostPort} {v : Word64} (stands : (getStack s k).withdrawn = false) (isOpen : bar0Open s port false = true)
    (ok : pairOk v = true) (one : pairVal v = 1) : ∃ u, exec (.hcWithdraw port k v) s = .next u ∧ StackLost s u k 6 := by
  have run : exec (.hcWithdraw port k v) s = finish s (withdrawStack s k 6) :=
    congrArg (finish s) ((if_neg (by simp [isOpen])).trans (if_pos (by simp [ok, one])))
  rw [run]
  exact finish_withdrawStack rfl stands (by decide)

/-! Recalibration (R274, R278). -/

/-- The failures in succession of a pseudo-channel, the result of another recalibration counted. -/
def failsAfter (x : Stack) (pc : Fin 32) (ok : Bool) : Nat := if ok then 0 else tget 0 x.recalFails pc.val + 1

/-- The stack with that count. -/
def recalibrated (s : State) (k : StackNo) (pc : Fin 32) (ok : Bool) : State :=
  setStack s k { getStack s k with recalFails := tput 0 (getStack s k).recalFails pc.val (failsAfter (getStack s k) pc ok) }

theorem exec_phyRecalibration (works : stackWorks s k = true) (pc : Fin 32) (ok : Bool) : exec (.phyRecalibration k pc ok) s = finish s
    (if 3 ≤ failsAfter (getStack s k) pc ok then withdrawStack (recalibrated s k pc ok) k 2 else recalibrated s k pc ok) :=
  congrArg (finish s) (if_neg (by simp [works]))

theorem exec_phyRecalibration_counts (works : stackWorks s k = true) {pc : Fin 32} {ok : Bool} (few : failsAfter (getStack s k) pc ok < 3) :
    exec (.phyRecalibration k pc ok) s = .next (recalibrated s k pc ok) := by
  rw [exec_phyRecalibration works, if_neg (by omega)]
  exact finish_of_tiers rfl

theorem exec_phyRecalibration_third (works : stackWorks s k = true) {pc : Fin 32} {ok : Bool} (third : 3 ≤ failsAfter (getStack s k) pc ok) :
    ∃ u, exec (.phyRecalibration k pc ok) s = .next u ∧ StackLost s u k 2 := by
  rw [exec_phyRecalibration works, if_pos third]
  refine finish_withdrawStack rfl ?_ (by decide)
  rw [recalibrated, getStack_same]
  exact stackWorks_stands works

end

/-! Withdrawal of an expansion port (R284, R298). -/

/-- From s to u the port is withdrawn with a cause, its link is down and its function ABSENT. -/
structure PortLost (s u : State) (p : PortNo) (cause : BitVec 4) : Prop where
  withdrawn : (getXp u p).withdrawn = true
  linkUp : (getXp u p).linkUp = false
  cause : (getXp u p).cause = cause
  fn : fnState u (fnPort p) = 5
  rest : besideLoss u = besideLoss s

/-- The registers of a port that is withdrawn. -/
def portGone (x : XPort) (c : Nat) : XPort :=
  { x with withdrawn := true, cause := BitVec.ofNat 4 c, linkUp := false, recovering := false, capacity := 0, perstReleased := false }

/-- Withdrawing a port: its registers, the work it stops, its function, and what follows the loss of a unit. -/
theorem withdrawPort_eq (s : State) (p : PortNo) (c : Nat) (stands : (getXp s p).withdrawn = false) :
    ∃ u o, besideWork u = besideWork (setXp s p (portGone (getXp s p) c)) ∧ withdrawPort s p c = unitsLost (failFn u (fnPort p) 5 c) o := by
  unfold withdrawPort
  dsimp only
  rw [if_neg (by simp [stands])]
  refine ⟨_, _, ?_, rfl⟩
  rw [besideWork_raise, besideWork_cutStreams, besideWork_stopCuffOps]
  rfl

theorem xports_of_work {s t : State} (h : besideWork t = besideWork s) : t.xports = s.xports := (congrArg (fun x : State => x.xports) h :)

theorem portLost_withdrawPort {s : State} {p : PortNo} (c : Nat) (stands : (getXp s p).withdrawn = false) :
    PortLost s (withdrawPort s p c) p (BitVec.ofNat 4 c) := by
  obtain ⟨v, o, work, e⟩ := withdrawPort_eq s p c stands
  have port : getXp (withdrawPort s p c) p = portGone (getXp s p) c := by
    have lost := ((xports_of_work (besideWork_unitsLost (failFn v (fnPort p) 5 c) o)).trans (onlyFns_failFn ..).xports).trans (xports_of_work work)
    rw [e]
    exact (getXp_of _ _ p lost).trans (getXp_same ..)
  refine ⟨congrArg XPort.withdrawn port, congrArg XPort.linkUp port, congrArg XPort.cause port, ?_, ?_⟩
  · rw [e, fnState_unitsLost, fnState_failFn_same v c (by unfold fnPort fnModule; omega) (by decide)]
  · rw [e, besideLoss_unitsLost_failFn]
    exact (besideLoss_of_work work).trans rfl

theorem finish_withdrawPort {s : State} {p : PortNo} (c : Nat) (stands : (getXp s p).withdrawn = false) :
    ∃ u, finish s (withdrawPort s p c) = .next u ∧ PortLost s u p (BitVec.ofNat 4 c) := by
  obtain ⟨withdrawn, linkUp, cause, fn, rest⟩ := portLost_withdrawPort c stands
  exact ⟨_, finish_of_loss rest, withdrawn, linkUp, cause, fn, (besideLoss_announce ..).trans rest⟩

section
variable {s : State} {p : PortNo} (stands : (getXp s p).withdrawn = false)
include stands

theorem exec_ctrlFault_port : ∃ u, exec (.ctrlFault (.port p)) s = .next u ∧ PortLost s u p 3 := finish_withdrawPort 3 stands

theorem exec_xpLinkLost (linked : (getXp s p).linkUp = true ∨ (getXp s p).recovering = true) :
    ∃ u, exec (.xpLinkLost p) s = .next u ∧ PortLost s u p 7 := by
  have run : exec (.xpLinkLost p) s = finish s (withdrawPort s p 7) :=
    congrArg (finish s) (if_pos (by rcases linked with h | h <;> simp [h, stands]))
  rw [run]
  exact finish_withdrawPort 7 stands

end

/-- Settles O40: a clean line and a load window are changes of their unit's registers; the four rows that lose a unit each withdraw it with their cause. -/
theorem scrubLoadAndWithdrawal : Obligations.ScrubLoadAndWithdrawal := by
  unfold Obligations.ScrubLoadAndWithdrawal
  refine ⟨fun s k works => ⟨exec_scrubLine_next works, exec_scrubLine_first works, exec_scrubLine_disabled works⟩, fun s c b mapped => ?_,
    exec_hcLoadWindow, fun s k pc ok works => ⟨exec_phyRecalibration_counts works, fun third => ?_⟩, fun s k stands => ⟨?_, fun port v isOpen ok one => ?_⟩,
    fun s p stands => ⟨?_, fun linked => ?_⟩⟩
  · obtain ⟨x, run, position⟩ := exec_cmemScrubLine_clean b mapped
    refine ⟨_, run, rfl, fun n => getTile_other s x, ?_⟩
    rw [getTile_same]
    exact position
  · obtain ⟨u, run, lost⟩ := exec_phyRecalibration_third works third
    exact ⟨u, run, lost.withdrawn, lost.cause, lost.rest⟩
  · obtain ⟨u, run, lost⟩ := exec_ctrlFault_stack stands
    exact ⟨u, run, lost.withdrawn, lost.cause, lost.fn, lost.rest⟩
  · obtain ⟨u, run, lost⟩ := exec_hcWithdraw stands isOpen ok one
    exact ⟨u, run, lost.withdrawn, lost.cause, lost.fn, lost.rest⟩
  · obtain ⟨u, run, lost⟩ := exec_ctrlFault_port stands
    exact ⟨u, run, lost.withdrawn, lost.linkUp, lost.cause, lost.rest⟩
  · obtain ⟨u, run, lost⟩ := exec_xpLinkLost stands linked
    exact ⟨u, run, lost.withdrawn, lost.linkUp, lost.cause, lost.fn, lost.rest⟩

end Sys2Proof.Proofs.TierLosses

/-!
SUPPORT. RG_RING_COMMIT and DOORBELL (R303 to R308, R489).
-/
namespace Sys2Proof.Proofs.RingCommits
open Sys2Proof Sys2Proof.Machine Sys2Proof.Proofs.Outcomes

/-- A refused write has made its report and no more (R334). -/
theorem finish_setupRefused (s : State) (o : Nat) : finish s (setupRefused s o) = .next (setupRefused s o) :=
  finish_of_work (besideWork_setupRefused s o)

/-! RG_RING_COMMIT (R303 to R305, R489). -/

/-- The three rows are one register write. -/
theorem exec_ringRow {i : Instr} {port : HostPort} {v : Word64} (row : i = .ringCreate port v ∨ i = .ringChange port v ∨ i = .ringDisable port v) (s : State) :
    exec i s = finish s (ringCommit s port v) := by
  rcases row with rfl | rfl | rfl <;> rfl

section
variable {s : State} {port : HostPort} {v : Word64} (isOpen : bar0Open s port false = true)
include isOpen

theorem ringCommit_unnamed (bad : pairOk v = false ∨ pairVal v ≠ s.setup.ringSel.toNat) : ringCommit s port v = setupRefused s offRingCommit := by
  have refused : (!pairOk v || pairVal v != s.setup.ringSel.toNat) = true := by simpa using bad
  unfold ringCommit
  rw [isOpen]
  exact if_pos refused

section
variable (ok : pairOk v = true) (named : pairVal v = s.setup.ringSel.toNat)
include ok named

variable {r : Machine.Ring} (ring : getRing s s.setup.ringSel.toNat = r)
include ring

theorem ringCommit_creates (off : r.enabled = false) (on : s.setup.ringShadow.toNat.testBit 135 = true) : ringCommit s port v =
    if ringCreateOk s s.setup.ringSel.toNat s.setup.ringShadow then
      setRing s s.setup.ringSel.toNat
        { entry := s.setup.ringShadow, state := .active, sendQueue := r.sendQueue, open_ := r.open_, gateStarted := r.gateStarted, gateOut := r.gateOut }
    else setupRefused s offRingCommit := by
  unfold ringCommit
  simp [isOpen, ok, named, ring, off, on]

section
variable (enabled : r.enabled = true)
include enabled

theorem ringCommit_changes_other (changes : (s.setup.ringShadow ^^^ r.entry) &&& ~~~ringChangeMask ≠ 0) :
    ringCommit s port v = setupRefused s offRingCommit := by
  have other : ((s.setup.ringShadow ^^^ r.entry) &&& ~~~ringChangeMask != 0) = true := bne_iff_ne.mpr changes
  unfold ringCommit
  simp only [isOpen, ok, named, ring, enabled, other, bne_self_eq_false, Bool.not_true, Bool.or_self, Bool.false_eq_true, if_false, if_true]

variable (within : (s.setup.ringShadow ^^^ r.entry) &&& ~~~ringChangeMask = 0)
include within

theorem ringCommit_changes (on : s.setup.ringShadow.toNat.testBit 135 = true) (msix : r.kind ≠ 0 ∨ s.setup.ringShadow.toNat.testBit 192 = false) :
    ringCommit s port v = setRing s s.setup.ringSel.toNat { r with entry := s.setup.ringShadow } := by
  have silent : (r.kind == 0 && s.setup.ringShadow.toNat.testBit 192) = false := by
    rcases msix with other | none
    · simp [other]
    · simp [none]
  unfold ringCommit
  simp only [isOpen, ok, named, ring, enabled, within, on, silent, bne_self_eq_false, Bool.not_true, Bool.or_self, Bool.false_eq_true, if_false, if_true]

theorem ringCommit_disables (off : s.setup.ringShadow.toNat.testBit 135 = false) (idle : r.waiting = [])
    (unlinked : r.kind = 1 → otherRing s s.setup.ringSel.toNat (fun o => o.kind == 0 && o.link == s.setup.ringSel.toNat) = false) :
    ringCommit s port v = setRing s s.setup.ringSel.toNat
      { r with entry := s.setup.ringShadow, state := .disabled, holdoff := false, holdoffDue := false, waiting := [] } := by
  have free : (r.kind == 1 && otherRing s s.setup.ringSel.toNat fun o => o.kind == 0 && o.link == s.setup.ringSel.toNat) = false := by
    by_cases completes : r.kind = 1
    · simp only [unlinked completes, Bool.and_false]
    · simp [completes]
  unfold ringCommit disableRing
  simp only [isOpen, ok, named, ring, enabled, within, off, free, idle, bne_self_eq_false, Bool.not_true, Bool.or_self, Bool.false_eq_true, if_false,
    List.foldl_nil]

end

end

end

/-! DOORBELL (R306 to R308). -/

section
variable {s : State} {port : HostPort} {ctx : CtxNo} {slot : BitVec 9} {size : Nat} {v : Word64} (up : (getHp s port).linkUp = true)
include up

/-- A doorbell over a link that is up: counted and reported, unless it is the whole pair of an index in the window of a ring at home there. -/
theorem exec_doorbell : exec (.doorbell port ctx slot size v) s = finish s (
    match ringOfSlot s ctx slot.toNat with
    | none => rejectDoorbell s ctx slot v (if size == 8 then 2 else 3)
    | some n =>
      if size != 8 || (getRing s n).home != port then rejectDoorbell s ctx slot v 3
      else if !pairOk v then rejectDoorbell s ctx slot v 0
      else if !doorbellInWindow (getRing s n) (v.extractLsb' 0 32) then rejectDoorbell s ctx slot v 1
      else acceptDoorbell s n (v.extractLsb' 0 32)) :=
  congrArg (finish s) (if_neg (by simp [up]))

theorem exec_doorbell_accepted {n : Nat} (found : ringOfSlot s ctx slot.toNat = some n) (whole : size = 8) (home : (getRing s n).home = port)
    (ok : pairOk v = true) (window : doorbellInWindow (getRing s n) (v.extractLsb' 0 32) = true) (kind : (getRing s n).kind ≠ 1) :
    exec (.doorbell port ctx slot size v) s = .next (setRing s n
      (if (getRing s n).kind = 0 then { getRing s n with tail := v.extractLsb' 0 32 } else { getRing s n with head := v.extractLsb' 0 32 })) := by
  have accepted : acceptDoorbell s n (v.extractLsb' 0 32) = setRing s n
      (if (getRing s n).kind = 0 then { getRing s n with tail := v.extractLsb' 0 32 } else { getRing s n with head := v.extractLsb' 0 32 }) := by
    unfold acceptDoorbell
    by_cases submit : (getRing s n).kind = 0
    · simp [submit]
    · simp [submit, kind]
  rw [exec_doorbell up, found]
  simp only [whole, home, ok, window, bne_self_eq_false, Bool.or_false, Bool.not_true, Bool.false_eq_true, if_false]
  rw [accepted]
  exact finish_of_work (besideWork_setRing ..)

/-- Whatever is wrong with a doorbell, it is rejected. -/
theorem exec_doorbell_rejected (wrong : ringOfSlot s ctx slot.toNat = none ∨ size ≠ 8 ∨ pairOk v = false ∨
      ∃ n, ringOfSlot s ctx slot.toNat = some n ∧ ((getRing s n).home ≠ port ∨ doorbellInWindow (getRing s n) (v.extractLsb' 0 32) = false)) :
    ∃ reason, exec (.doorbell port ctx slot size v) s = finish s (rejectDoorbell s ctx slot v reason) := by
  rw [exec_doorbell up]
  cases found : ringOfSlot s ctx slot.toNat with
  | none => exact ⟨_, rfl⟩
  | some n =>
    dsimp only
    split
    · exact ⟨_, rfl⟩
    · rename_i fits
      split
      · exact ⟨_, rfl⟩
      · rename_i ok
        split
        · exact ⟨_, rfl⟩
        · rename_i window
          simp_all

end

theorem onlyReports_rejectDoorbell (s : State) (ctx : CtxNo) (slot : BitVec 9) (v : Word64) (reason : Nat) :
    OnlyReports (setCtx s ctx { getCtx s ctx with rejects := satInc (getCtx s ctx).rejects }) (rejectDoorbell s ctx slot v reason) := by
  unfold rejectDoorbell
  exact onlyReports_raise ..

theorem finish_rejectDoorbell (s : State) (ctx : CtxNo) (slot : BitVec 9) (v : Word64) (reason : Nat) :
    finish s (rejectDoorbell s ctx slot v reason) = .next (rejectDoorbell s ctx slot v reason) :=
  finish_of_work ((besideWork_of_reports (onlyReports_rejectDoorbell ..)).trans (besideWork_setCtx ..))

/-- Settles O41: the commit's branches follow the ring's state and the shadow's ENABLE; a doorbell moves one index of its ring or is rejected. -/
theorem ringCommitsAndDoorbells : Obligations.RingCommitsAndDoorbells := by
  unfold Obligations.RingCommitsAndDoorbells
  refine ⟨fun i s port v row isOpen => ?_, fun s port ctx slot size v up =>
    ⟨fun n found whole home ok window kind => exec_doorbell_accepted up found whole home ok window kind, fun wrong => ?_⟩⟩
  · rw [exec_ringRow row]
    have refused (e : ringCommit s port v = setupRefused s offRingCommit) : ∃ u, finish s (ringCommit s port v) = .next u ∧ OnlyReports s u :=
      ⟨_, by rw [e, finish_setupRefused], onlyReports_setupRefused ..⟩
    have taken {r : Machine.Ring} (e : ringCommit s port v = setRing s s.setup.ringSel.toNat r) :
        finish s (ringCommit s port v) = .next (setRing s s.setup.ringSel.toNat r) := by rw [e]; exact finish_of_work (besideWork_setRing ..)
    refine ⟨fun bad => refused (ringCommit_unnamed isOpen bad), fun ok named off on => ?_, fun ok named enabled => ?_⟩
    · have creates := ringCommit_creates isOpen ok named rfl off on
      exact ⟨fun accepted => taken (creates.trans (if_pos accepted)), fun bad => refused (creates.trans (if_neg (by simp [bad])))⟩
    · exact ⟨fun changes => refused (ringCommit_changes_other isOpen ok named rfl enabled changes), fun within =>
        ⟨fun on msix => taken (ringCommit_changes isOpen ok named rfl enabled within on msix),
          fun off idle unlinked => taken (ringCommit_disables isOpen ok named rfl enabled within off idle unlinked)⟩⟩
  · obtain ⟨reason, run⟩ := exec_doorbell_rejected up wrong
    exact ⟨_, run.trans (finish_rejectDoorbell ..), onlyReports_rejectDoorbell ..⟩

end Sys2Proof.Proofs.RingCommits

/-!
SUPPORT. The ring unit's queues (R310 to R313, R330): what waits in them while records are written, and the descriptor at the front.
-/
namespace Sys2Proof.Proofs.RingQueues
open Sys2Proof Sys2Proof.Machine Sys2Proof.Proofs.Ends Sys2Proof.Proofs.RecordEnds

/-! The relation. -/

/-- What a ring has to send, and whether the gate at its front has started. -/
def toSend (r : Machine.Ring) : List Task × Bool := (r.sendQueue, r.gateStarted)

/-- From s to t no ring's queue has changed. -/
structure QueuesStand (s t : State) : Prop where
  ring : ∀ n, toSend (getRing t n) = toSend (getRing s n)

theorem QueuesStand.refl (s : State) : QueuesStand s s := ⟨fun _ => rfl⟩

theorem QueuesStand.trans {s t u : State} (h : QueuesStand s t) (k : QueuesStand t u) : QueuesStand s u := ⟨fun n => (k.ring n).trans (h.ring n)⟩

theorem QueuesStand.sendQueue {s t : State} (h : QueuesStand s t) (n : Nat) : (getRing t n).sendQueue = (getRing s n).sendQueue :=
  congrArg Prod.fst (h.ring n)

theorem QueuesStand.gateStarted {s t : State} (h : QueuesStand s t) (n : Nat) : (getRing t n).gateStarted = (getRing s n).gateStarted :=
  congrArg Prod.snd (h.ring n)

theorem queuesStand_of_rings {s t : State} (h : t.rings = s.rings) : QueuesStand s t := ⟨fun n => by rw [getRing_of s t n h]⟩

theorem queuesStand_of_reports {s t : State} (h : OnlyReports s t) : QueuesStand s t := ⟨fun n => (congrArg toSend (h.rings n) :)⟩

theorem queuesStand_of_memory {s t : State} (h : besideMemory t = besideMemory s) : QueuesStand s t := queuesStand_of_rings (rings_of_memory h)

theorem queuesStand_setRing (s : State) (n : Nat) (v : Machine.Ring) (h : toSend v = toSend (getRing s n)) : QueuesStand s (setRing s n v) := by
  refine ⟨fun m => ?_⟩
  by_cases e : m = n
  · rw [e, getRing_same, h]
  · rw [getRing_other s v e]

theorem queuesStand_setCtx (s : State) (c : CtxNo) (v : Context) : QueuesStand s (setCtx s c v) := queuesStand_of_rings rfl

theorem queuesStand_setCore (s : State) (c : CoreNo) (v : Core) : QueuesStand s (setCore s c v) := queuesStand_of_rings rfl

/-! Records (R325, R326, R328). -/

theorem queuesStand_faultRing (s : State) (n : Nat) (st : BitVec 8) : QueuesStand s (faultRing s n st) := by
  have marked : QueuesStand s (setRing s n { getRing s n with state := .faulted, fault := st }) := queuesStand_setRing _ _ _ rfl
  unfold faultRing
  dsimp only
  refine QueuesStand.trans ?_ (queuesStand_of_reports (onlyReports_raise ..))
  split
  · refine marked.trans ⟨fun m => ?_⟩
    generalize setRing s n _ = u
    refine (congrArg toSend (tget_stopped u.rings n m)).trans ?_
    unfold stopIfLinked
    split <;> rfl
  · exact marked

theorem rings_releaseHolder (s : State) (t : Task) : (releaseHolder s t).rings =
    (setRing s t.ring.toNat { getRing s t.ring.toNat with open_ := (getRing s t.ring.toNat).open_.filter (· != t.index) }).rings := rfl

theorem queuesStand_releaseHolder (s : State) (t : Task) : QueuesStand s (releaseHolder s t) :=
  (queuesStand_setRing s t.ring.toNat { getRing s t.ring.toNat with open_ := (getRing s t.ring.toNat).open_.filter (· != t.index) } rfl).trans
    (queuesStand_of_rings (rings_releaseHolder s t))

theorem queuesStand_writeOutcome (s : State) (o : Outcome) : QueuesStand s (writeOutcome s o).1 := by
  unfold writeOutcome
  dsimp only
  generalize (getRing s o.task.ring.toNat).link = link
  split
  · exact queuesStand_releaseHolder ..
  · split
    · exact .refl s
    · split
      · exact (queuesStand_faultRing ..).trans (queuesStand_releaseHolder ..)
      · generalize bytesOf 32 _ = bytes
        have memory := besideMemory_writeMem s ((getRing s link).slotAddr (getRing s link).tail) bytes
        have written := queuesStand_of_memory memory
        have ring := getRing_of _ _ link (rings_of_memory memory)
        generalize getRing s link = r at written ring ⊢
        generalize writeMem s (r.slotAddr r.tail) bytes = w at written ring ⊢
        split
        · exact written.trans ((queuesStand_faultRing ..).trans (queuesStand_releaseHolder ..))
        · refine QueuesStand.trans ?_ (queuesStand_releaseHolder ..)
          have entered := written.trans (queuesStand_setRing w.1 link { r with tail := r.tail + 1 } (by rw [ring]; rfl))
          have counted := entered.trans (queuesStand_setCtx _ r.ctx { getCtx s r.ctx with seq := (getCtx s r.ctx).seq + 1 })
          split
          · exact counted.trans (queuesStand_of_reports (onlyReports_raiseMsix ..))
          · exact counted

theorem queuesStand_outcome (s : State) (t : Task) (st : BitVec 8) (d : BitVec 16) (census : Bool) (w : Word64) (q : BitVec 4) :
    QueuesStand s (outcome s t st d census w q).1 := by
  unfold outcome
  have signalled := queuesStand_of_memory (besideMemory_headerSignal s t st)
  generalize headerSignal s t st = u at signalled ⊢
  dsimp only
  generalize (if u.2 = true then d else 0xFFFF) = d'
  split
  · exact signalled.trans (queuesStand_setRing _ _ _ rfl)
  · have written := signalled.trans (queuesStand_writeOutcome u.1 { task := t, status := st, detail := d', time := w, quality := q, census := census })
    generalize writeOutcome u.1 _ = v at written ⊢
    split
    · exact written
    · exact written.trans (queuesStand_setRing _ _ _ rfl)

/-! Slots that end (R94). -/

theorem queuesStand_recordSlot (s : State) (c : CoreNo) (k : SlotNo) (t : Task) (sl : Slot) : QueuesStand s (recordSlot s c k t sl) := by
  unfold recordSlot
  have spoilt := queuesStand_of_rings (rings_spoilDest s sl)
  generalize spoilDest s sl = u at spoilt ⊢
  dsimp only
  generalize hv : setCore u c _ = v
  have due : QueuesStand u v := queuesStand_of_rings (by rw [← hv]; rfl)
  have written := (spoilt.trans due).trans (queuesStand_outcome v t sl.status sl.detail t.census (now v) (quality v))
  split <;> exact written.trans (queuesStand_setCore ..)

/-- The rings' part in the end of a slot without outstanding stores. -/
theorem queuesStand_endSlot {s : State} {c : CoreNo} {k : SlotNo} {t : Task} (st : BitVec 8) (d : BitVec 16) (task : (getSlot s c k).task = some t)
    (stored : storesOut (getCore s c) k = false) : QueuesStand s (endSlot s c k st d) := by
  obtain ⟨co, e⟩ := endSlot_atOnce st d task stored
  rw [e]
  exact (queuesStand_setCore ..).trans (queuesStand_recordSlot ..)

/-! The front of a ring's queue. -/

/-- With nothing to send a ring unit does nothing. -/
theorem pumpRing_of_empty {s : State} {n : Nat} (h : (getRing s n).sendQueue = []) : pumpRing s n = s := by
  unfold pumpRing
  dsimp only
  rw [h]
  rfl

@[simp] theorem getRing_popSend (s : State) (n : Nat) :
    getRing (popSend s n) n = { getRing s n with sendQueue := (getRing s n).sendQueue.tail, gateStarted := false } := getRing_same ..

theorem recorded_popSend (s : State) (n : Nat) : Recorded s (popSend s n) := recorded_setRing _ _ _ rfl

/-- The descriptor that a ring unit runs next, which nothing holds back: it is one of the ring unit's own (R312, R318). -/
structure Runs (s : State) (n : Nat) (op : Op) (t : Task) : Prop where
  stands : homeStands s (getRing s n) = true
  unfenced : fenceWaits (getRing s n) t = false
  ungated : gateHolds (getRing s n) = false
  unheld : targetHeld s t = false
  op : t.op = some op
  kind : t.tkind = 0

theorem runs_of_ringFront {s : State} {n : Nat} {op : Op} {t : Task} (h : ringFront s n op = some t) : Runs s n op t := by
  unfold ringFront at h
  dsimp only at h
  split at h
  · cases h
  · split at h
    · cases h
    · rename_i free
      split at h
      · rename_i own
        obtain rfl := Option.some.inj h
        simp only [Bool.not_eq_true, Bool.or_eq_false_iff, Bool.not_eq_false'] at free
        simp only [Bool.and_eq_true, beq_iff_eq, decide_eq_true_eq] at own
        obtain ⟨⟨⟨stands, unfenced⟩, ungated⟩, unheld⟩ := free
        obtain ⟨⟨op, kind⟩, -⟩ := own
        exact ⟨stands, unfenced, ungated, unheld, op, kind⟩
      · cases h

/-- The ring unit's own descriptors are judged from its port's tile (R316). -/
theorem taskTile_of_kind {s : State} {t : Task} (kind : t.tkind = 0) : taskTile s t = hostTile (getRing s t.ring.toNat).home := by
  unfold taskTile
  rw [kind]
  rfl

/-- Where the descriptor that stands alone in its ring is over, its ring has nothing left to send, and only its record is written. -/
structure AloneOver (s u : State) (n : Nat) : Prop where
  queue : (getRing u n).sendQueue = []
  gate : (getRing u n).gateStarted = false
  rest : besideRecords u = besideRecords s

section
variable {s : State} {n : Nat} {t : Task} (alone : (getRing s n).sendQueue = [t])
include alone

theorem aloneOver_outcome (st : BitVec 8) (d : BitVec 16) (census : Bool) (w : Word64) (q : BitVec 4) :
    AloneOver s (outcome (popSend s n) t st d census w q).1 n := by
  have stand := queuesStand_outcome (popSend s n) t st d census w q
  refine ⟨(stand.sendQueue n).trans ?_, (stand.gateStarted n).trans ?_, (besideRecords_outcome ..).trans (besideRecords_setRing ..)⟩
  · rw [getRing_popSend, alone]; rfl
  · rw [getRing_popSend]

/-- A gate that ends with OK is over at once. -/
theorem endRingGate_ok (d : BitVec 16) : endRingGate s n t stOk d = (outcome (popSend s n) t stOk d false (now s) (quality s)).1 :=
  pumpRing_of_empty (aloneOver_outcome alone ..).queue

/-- So is one that ends with another status, where its ring does not stop on it (R332). -/
theorem endRingGate_kept (kept : (getRing s n).gateStop = false) {st : BitVec 8} (failed : st ≠ stOk) (d : BitVec 16) :
    endRingGate s n t st d = (outcome (popSend s n) t st d false (now s) (quality s)).1 := by
  have ended := aloneOver_outcome alone st d false (now s) (quality s)
  have signalled := recorded_outcome (popSend s n) t st d false (now s) (quality s)
  have rings : (headerSignal (popSend s n) t st).1.rings = (popSend s n).rings := rings_of_memory (besideMemory_headerSignal ..)
  unfold endRingGate
  generalize (outcome (popSend s n) t st d false (now s) (quality s)).1 = u at ended signalled ⊢
  have entry : (getRing u n).entry = (getRing s n).entry := by
    rw [signalled.entries n, getRing_of _ _ n rings, getRing_popSend]
  have goes : (getRing u n).gateStop = false := by rw [← kept]; unfold Ring.gateStop; rw [entry]
  have skips : ringSkip u n t st = u := by
    unfold ringSkip
    simp [goes]
  dsimp only
  rw [if_neg (by simpa using failed), skips]
  exact pumpRing_of_empty ended.queue

end

end Sys2Proof.Proofs.RingQueues

/-!
SUPPORT. NOP and SIGNAL in the ring unit (R318, R325, R329).
-/
namespace Sys2Proof.Proofs.RingRuns
open Sys2Proof Sys2Proof.Machine Sys2Proof.Proofs.Outcomes Sys2Proof.Proofs.RecordEnds Sys2Proof.Proofs.Palms Sys2Proof.Proofs.Phases Sys2Proof.Proofs.Serving
  Sys2Proof.Proofs.RingQueues

/-! A write to lines without markers (R270). -/

section
variable {s : State} {a n v : Nat} (clean : rangePoisoned s a n = false)
include clean

theorem memByte_writeNumber (x : Nat) : memByte (writeMem s a (bytesOf n v)).1 x = if a ≤ x ∧ x < a + n then (bytesOf n v).getD (x - a) 0 else memByte s x := by
  obtain ⟨-, -, bytes⟩ := writeMem_clean s a (bytesOf n v) (by rw [bytesOf_length]; exact clean)
  rw [bytes, bytesOf_length]

theorem memByte_writeNumber_outside {x : Nat} (out : x < a ∨ a + n ≤ x) : memByte (writeMem s a (bytesOf n v)).1 x = memByte s x :=
  (memByte_writeNumber clean x).trans (if_neg (by omega))

theorem memBytes_writeNumber : memBytes (writeMem s a (bytesOf n v)).1 a n = bytesOf n v := by
  have stored := memBytes_eq (s := (writeMem s a (bytesOf n v)).1) (a := a) (bs := bytesOf n v) fun j hj => by
    rw [bytesOf_length] at hj
    rw [memByte_writeNumber clean, if_pos (by omega), Nat.add_sub_cancel_left]
  rwa [bytesOf_length] at stored

theorem memNat_writeNumber (small : v < 256 ^ n) : memNat (writeMem s a (bytesOf n v)).1 a n = v := by
  unfold memNat
  rw [memBytes_writeNumber clean, natOfBytes_bytesOf, Nat.mod_eq_of_lt small]

end

/-! The header signal (R329). -/

/-- The sum that a tally of 64 bits takes. -/
theorem tally_sum (s : State) (a : Nat) (v : Word64) : (BitVec.ofNat 64 (memNat s a 8) + v).toNat = (memNat s a 8 + v.toNat) % 2 ^ 64 := by
  rw [BitVec.toNat_add, BitVec.toNat_ofNat, Nat.mod_eq_of_lt (memNat_lt ..)]

theorem headerSignal_made {s : State} {t : Task} {st : BitVec 8} (due : t.sigMode = 2 ∨ (t.sigMode = 1 ∧ st = stOk)) (tally : tallyOk t.sigAddr = true)
    (path : transferStatus s (taskTile s t) t.ctx .add t.sigAddr 8 = none) (clean : rangePoisoned s t.sigAddr 8 = false) :
    headerSignal s t st = ((writeMem s t.sigAddr (bytesOf 8 ((memNat s t.sigAddr 8 + t.sigValue.toNat) % 2 ^ 64))).1, true) := by
  have asked : (t.sigMode == 2 || (t.sigMode == 1 && st == stOk)) = true := by simpa using due
  unfold headerSignal addWord storeMem
  simp only [asked, tally, path, clean, tally_sum, Bool.not_true, Bool.false_eq_true, if_false, Option.isSome_some]

/-! Messages and releases (R326, R335). -/

/-- A message stands in the rings' holdoffs and the ports' vectors alone. -/
theorem raiseMsix_rest (s : State) (n : Nat) : { raiseMsix s n with rings := s.rings, msix := s.msix, msixPending := s.msixPending } = s := by
  unfold raiseMsix
  dsimp only
  repeat' split
  all_goals rfl

theorem tail_raiseMsix (s : State) (n m : Nat) : (getRing (raiseMsix s n) m).tail = (getRing s m).tail := by
  have marked (v : Machine.Ring) (h : v.tail = (getRing s n).tail) : (getRing (setRing s n v) m).tail = (getRing s m).tail := by
    by_cases e : m = n
    · rw [e, getRing_same, h]
    · rw [getRing_other s v e]
  unfold raiseMsix
  dsimp only
  split
  · rfl
  · split
    · exact marked _ rfl
    · split
      · rfl
      · split
        · split <;> rfl
        · exact marked _ rfl

/-- What a record's message leaves alone. -/
theorem mem_messages (s : State) (n : Nat) (irq : Bool) : (if irq then raiseMsix s n else s).mem = s.mem ∧ (if irq then raiseMsix s n else s).ctxs = s.ctxs ∧
    ∀ m, (getRing (if irq then raiseMsix s n else s) m).tail = (getRing s m).tail := by
  have rest := raiseMsix_rest s n
  split
  · exact ⟨(congrArg State.mem rest :), (congrArg State.ctxs rest :), tail_raiseMsix s n⟩
  · exact ⟨rfl, rfl, fun _ => rfl⟩

/-- A release takes the descriptor's index from its own ring. -/
theorem getRing_releaseHolder (s : State) (t : Task) {m : Nat} (other : m ≠ t.ring.toNat) : getRing (releaseHolder s t) m = getRing s m :=
  (getRing_of _ _ m (rings_releaseHolder s t)).trans (getRing_other s _ other)

/-! The record of a descriptor of the ring unit (R325). -/

/-- The record that a COMPLETE ring with room takes from another ring's descriptor: it stands at the tail, and the tail and the context's sequence move on. -/
structure Entered (s u : State) (link : Nat) (o : Outcome) : Prop where
  record : memBytes u ((getRing s link).slotAddr (getRing s link).tail) 32 =
    bytesOf 32 (completionRecord o ((getRing s link).pass (getRing s link).tail) (getCtx s (getRing s link).ctx).seq)
  memory : ∀ a, a < (getRing s link).slotAddr (getRing s link).tail ∨ (getRing s link).slotAddr (getRing s link).tail + 32 ≤ a → memByte u a = memByte s a
  tail : (getRing u link).tail = (getRing s link).tail + 1
  seq : (getCtx u (getRing s link).ctx).seq = (getCtx s (getRing s link).ctx).seq + 1

/-- The record of an outcome has been written, and counted in its ring and context. -/
def recordWritten (s : State) (link : Nat) (o : Outcome) : State :=
  let r := getRing s link
  let cx := getCtx s r.ctx
  setCtx (setRing (writeMem s (r.slotAddr r.tail) (bytesOf 32 (completionRecord o (r.pass r.tail) cx.seq))).1 link { r with tail := r.tail + 1 }) r.ctx
    { cx with seq := cx.seq + 1 }

section
variable {s : State} {link : Nat} {o : Outcome} (clean : rangePoisoned s ((getRing s link).slotAddr (getRing s link).tail) 32 = false)
include clean

theorem entered_recordWritten : Entered s (recordWritten s link o) link o where
  record := memBytes_writeNumber clean
  memory _ out := memByte_writeNumber_outside clean out
  tail := congrArg Ring.tail (getRing_same ..)
  seq := congrArg Context.seq (getCtx_same ..)

/-- A message for the record and the release of what its descriptor held leave the record. -/
theorem entered_released (other : link ≠ o.task.ring.toNat) : Entered s
    (releaseHolder (if o.task.irq then raiseMsix (recordWritten s link o) link else recordWritten s link o) o.task) link o := by
  obtain ⟨record, memory, tail, seq⟩ := entered_recordWritten (o := o) clean
  generalize recordWritten s link o = v at record memory tail seq
  have messages := mem_messages v link o.task.irq
  generalize (if o.task.irq then raiseMsix v link else v) = w at messages
  obtain ⟨mem, ctxs, tails⟩ := messages
  have byte (a : Nat) : memByte (releaseHolder w o.task) a = memByte v a := congrArg (fun m => tget 0 m a) mem
  refine ⟨(memBytes_of fun j _ => byte _).trans record, fun a out => (byte a).trans (memory a out), ?_, ?_⟩
  · rw [getRing_releaseHolder w o.task other, tails, tail]
  · rw [getCtx_of v (releaseHolder w o.task) _ ctxs, seq]

variable (elsewhere : (getRing s o.task.ring.toNat).link = link) (on : (getRing s link).enabled = true) (active : (getRing s link).state = .active)
  (room : (getRing s link).count < (getRing s link).size)
  (access : ringAccess s (getRing s link) .write ((getRing s link).slotAddr (getRing s link).tail) 32 = none)
include elsewhere on active room access

theorem writeOutcome_written : writeOutcome s o =
    (releaseHolder (if o.task.irq then raiseMsix (recordWritten s link o) link else recordWritten s link o) o.task, true) := by
  have stored := (writeMem_clean s ((getRing s link).slotAddr (getRing s link).tail) (bytesOf 32 (completionRecord o
    ((getRing s link).pass (getRing s link).tail) (getCtx s (getRing s link).ctx).seq)) (by rw [bytesOf_length]; exact clean)).1
  unfold writeOutcome recordWritten
  simp [elsewhere, on, active, Nat.not_le.mpr room, access, stored]

/-- The outcome of a descriptor that signals nothing and belongs to another ring than its record. -/
theorem outcome_entered (idle : (getRing s link).waiting = []) (other : link ≠ o.task.ring.toNat) (silent : o.task.sigMode = 0) :
    Entered s (outcome s o.task o.status o.detail o.census o.time o.quality).1 link o := by
  unfold outcome
  rw [headerSignal_silent s o.task o.status silent]
  simp only [elsewhere, idle, List.isEmpty_nil, Bool.not_true, Bool.and_false, Bool.false_eq_true, if_false, if_true]
  rw [writeOutcome_written clean elsewhere on active room access, if_pos rfl]
  exact entered_released clean other

end

/-! NOP and SIGNAL (R318). -/

section
variable {s : State} {n : Nat} {op : Op} {t : Task} (front : ringFront s n op = some t) (alone : (getRing s n).sendQueue = [t])
  (good : admissionFailure (emptyBody t ++ headerFails s t) = none) (due : stepWhen (getPart s t.part) t.step ≠ .next)
include front alone good due

/-- The descriptor that stands alone in its ring is over with OK. -/
theorem runPlain_completes : runPlain s n op = (outcome (popSend s n) t stOk 0 t.census (now s) (quality s)).1 := by
  have completed := aloneOver_outcome alone stOk 0 t.census (now s) (quality s)
  unfold runPlain
  rw [front]
  dsimp only
  rw [good]
  dsimp only
  rw [if_neg due]
  exact pumpRing_of_empty completed.queue

theorem finish_runPlain : finish s (runPlain s n op) = .next (outcome (popSend s n) t stOk 0 t.census (now s) (quality s)).1 := by
  have completed := aloneOver_outcome alone stOk 0 t.census (now s) (quality s)
  rw [runPlain_completes front alone good due]
  exact finish_of_work (besideWork_of_records completed.rest)

end

/-- A tally has its signal's value added, wrapped to 64 bits. -/
theorem signal_adds {s : State} {n : Nat} {t : Task} (kind : t.tkind = 0) (mode : t.sigMode = 1 ∨ t.sigMode = 2) (tally : tallyOk t.sigAddr = true)
    (path : transferStatus s (hostTile (getRing s t.ring.toNat).home) t.ctx .add t.sigAddr 8 = none) (clean : rangePoisoned s t.sigAddr 8 = false)
    (d : BitVec 16) (census : Bool) (w : Word64) (q : BitVec 4) :
    ((∀ i, i < 8 → outsideRings s (t.sigAddr + i)) →
      memNat (outcome (popSend s n) t stOk d census w q).1 t.sigAddr 8 = (memNat s t.sigAddr 8 + t.sigValue.toNat) % 2 ^ 64) ∧
    ∀ a, outsideRings s a → a < t.sigAddr ∨ t.sigAddr + 8 ≤ a → memByte (outcome (popSend s n) t stOk d census w q).1 a = memByte s a := by
  have home : (getRing (popSend s n) t.ring.toNat).home = (getRing s t.ring.toNat).home :=
    congrArg (fun e => ({ entry := e } : Machine.Ring).home) ((recorded_popSend s n).entries _)
  have signal := headerSignal_made (s := popSend s n) (st := stOk) (mode.symm.imp id fun one => ⟨one, rfl⟩) tally
    (by rw [taskTile_of_kind kind, home]; exact path) clean
  have recorded := recorded_outcome (popSend s n) t stOk d census w q
  rw [signal] at recorded
  generalize (outcome (popSend s n) t stOk d census w q).1 = u at recorded
  have outside {a : Nat} (out : outsideRings s a) : memByte u a =
      memByte (writeMem (popSend s n) t.sigAddr (bytesOf 8 ((memNat s t.sigAddr 8 + t.sigValue.toNat) % 2 ^ 64))).1 a := by
    refine recorded.memory a (outsideRings_of_entries (s := s) (fun m => ?_) out)
    rw [getRing_of _ _ m (rings_of_memory (besideMemory_writeMem ..))]
    exact (recorded_popSend s n).entries m
  refine ⟨fun out => (memNat_of fun j hj => outside (out j hj)).trans (memNat_writeNumber (s := popSend s n) clean (Nat.mod_lt _ (by decide))), fun a out beyond =>
    (outside out).trans (memByte_writeNumber_outside (s := popSend s n) clean beyond)⟩

/-- Settles O43: both do no more than their header signal, and the record goes where there is room for it. -/
theorem ringUnitRuns : Obligations.RingUnitRuns := by
  unfold Obligations.RingUnitRuns
  refine ⟨fun s n t front alone good due mode tally path clean => ?_, fun s n t r front alone good due silent ring other hr on active idle room access clean => ?_⟩
  · have completed := aloneOver_outcome alone stOk 0 t.census (now s) (quality s)
    obtain ⟨sum, memory⟩ := signal_adds (n := n.toNat) (runs_of_ringFront front).kind mode tally path clean 0 t.census (now s) (quality s)
    exact ⟨_, finish_runPlain front alone good due, completed.queue, completed.rest, sum, memory⟩
  · have completed := aloneOver_outcome alone stOk 0 t.census (now s) (quality s)
    have linked : (getRing (popSend s n.toNat) t.ring.toNat).link = (getRing s n.toNat).link := by rw [ring, getRing_popSend]; rfl
    have link : getRing (popSend s n.toNat) (getRing s n.toNat).link = r := (getRing_other s _ other).trans hr.symm
    obtain ⟨record, memory, tail, seq⟩ := outcome_entered (s := popSend s n.toNat) (link := (getRing s n.toNat).link)
      (o := { task := t, status := stOk, detail := 0, time := now s, quality := quality s, census := t.census }) (by rw [link]; exact clean) linked
      (by rw [link]; exact on) (by rw [link]; exact active) (by rw [link]; exact room) (by rw [link]; exact access) (by rw [link]; exact idle)
      (by rw [ring]; exact other) silent
    rw [link] at record memory tail seq
    exact ⟨_, finish_runPlain front alone good due, completed.queue, record, memory, tail, seq, completed.rest⟩

end Sys2Proof.Proofs.RingRuns

/-!
SUPPORT. Gates in the ring unit and in cores' slots (R329, R330).
-/
namespace Sys2Proof.Proofs.Gates
open Sys2Proof Sys2Proof.Machine Sys2Proof.Proofs.Outcomes Sys2Proof.Proofs.RecordEnds Sys2Proof.Proofs.Phases Sys2Proof.Proofs.RingQueues

/-! Gates that start. -/

section
variable {s : State} {n : RingNo} {t : Task} {op : Op} {fails : State → Task → List Fail}

/-- A gate at the front of its ring whose checks pass and whose condition does not hold has started. -/
theorem startGate_ring (front : ringFront s n.toNat op = some t) (good : admissionFailure (fails s t) = none)
    (fresh : (getRing s n.toNat).gateStarted = false) (due : stepWhen (getPart s t.part) t.step ≠ .next)
    (closed : gateResult s (hostTile (getRing s n.toNat).home) t = none) :
    startGate s op (.ring n) fails = setRing s n.toNat { getRing s n.toNat with gateStarted := true } := by
  unfold startGate
  dsimp only
  rw [front]
  dsimp only
  rw [if_neg (by simp [fresh]), good]
  dsimp only
  rw [if_neg due, closed]

theorem startGate_core {c : CoreNo} {k : SlotNo} (gate : coreGate s c k op false = some t) (closed : gateResult s (coreTile c) t = none) :
    startGate s op (.core c k) fails = setSlot s c k { getSlot s c k with gateStarted := true } := by
  unfold startGate
  dsimp only
  rw [gate]
  dsimp only
  rw [closed]

/-! Gates that open. -/

/-- A started gate alone in its ring whose condition holds is over with OK. -/
theorem pollGate_ring (front : ringFront s n.toNat op = some t) (alone : (getRing s n.toNat).sendQueue = [t])
    (started : (getRing s n.toNat).gateStarted = true) (holds : gateResult s (hostTile (getRing s n.toNat).home) t = some stOk) :
    AloneOver s (pollGate s op (.ring n)) n.toNat := by
  unfold pollGate
  dsimp only
  rw [front]
  dsimp only
  rw [if_neg (by simp [started]), holds]
  dsimp only
  rw [endRingGate_ok alone]
  exact aloneOver_outcome alone ..

/-- The slot's task is what its gate shows. -/
theorem task_of_coreGate {c : CoreNo} {k : SlotNo} {started : Bool} (gate : coreGate s c k op started = some t) : (getSlot s c k).task = some t := by
  unfold coreGate at gate
  dsimp only at gate
  split at gate
  · cases gate
  · rename_i u task
    split at gate
    · exact task.trans gate
    · cases gate

/-- A gate in a slot that ends with OK ends its slot, and its ring with nothing queued has nothing to send. -/
theorem endCoreGate_ok {c : CoreNo} {k : SlotNo} (task : (getSlot s c k).task = some t) (stored : storesOut (getCore s c) k = false)
    (empty : (getRing s t.ring.toNat).sendQueue = []) : endCoreGate s c k t stOk = endSlot s c k stOk 0 :=
  pumpRing_of_empty (((queuesStand_endSlot stOk 0 task stored).sendQueue _).trans empty)

theorem pollGate_core {c : CoreNo} {k : SlotNo} (gate : coreGate s c k op true = some t) (stored : storesOut (getCore s c) k = false)
    (empty : (getRing s t.ring.toNat).sendQueue = []) (holds : gateResult s (coreTile c) t = some stOk) :
    pollGate s op (.core c k) = endSlot s c k stOk 0 := by
  unfold pollGate
  dsimp only
  rw [gate]
  dsimp only
  rw [holds]
  exact endCoreGate_ok (task_of_coreGate gate) stored empty

end

/-- The rows that look at a started gate again are one poll. -/
theorem exec_poll {i : Instr} {g : GatePlace} {op : Op} (row : i = .waitPoll g ∧ op = .wait ∨ i = .notBeforeReached (.gate g) ∧ op = .timed) (s : State) :
    exec i s = finish s (pollGate s op g) := by
  rcases row with ⟨rfl, rfl⟩ | ⟨rfl, rfl⟩ <;> rfl

/-- Settles O44: a gate starts where its condition does not hold yet, and ends where it does. -/
theorem gates : Obligations.Gates := by
  unfold Obligations.Gates
  refine ⟨fun s n t op i front row fresh due closed => ?_, fun s c k t op i gate row closed => ?_, fun s n t op i front alone row started holds => ?_,
    fun s c k t op i gate stored empty row holds => ?_⟩
  · rcases row with ⟨rfl, rfl, good⟩ | ⟨rfl, rfl, good⟩ <;>
      exact (congrArg (finish s) (startGate_ring front good fresh due closed)).trans (finish_of_work (besideWork_setRing ..))
  · rcases row with ⟨rfl, rfl⟩ | ⟨rfl, rfl⟩ <;>
      exact (congrArg (finish s) (startGate_core gate closed)).trans (finish_of_work (besideWork_setSlot ..))
  · have ended := pollGate_ring front alone started holds
    exact ⟨_, (exec_poll row s).trans (finish_of_work (besideWork_of_records ended.rest)), ended.queue, ended.gate, ended.rest⟩
  · have run := exec_poll row s
    rw [pollGate_core gate stored empty holds, finish_of_work (besideWork_endSlot ..)] at run
    exact ⟨_, run, endsAtOnce_endSlot stOk 0 (task_of_coreGate gate) stored⟩

end Sys2Proof.Proofs.Gates

/-!
SUPPORT. Wait timeouts (R331), the holdoff of interrupts (R335) and the platform ring (R339).
-/
namespace Sys2Proof.Proofs.Timeouts
open Sys2Proof Sys2Proof.Machine Sys2Proof.Proofs.Outcomes Sys2Proof.Proofs.RecordEnds Sys2Proof.Proofs.Phases Sys2Proof.Proofs.Reductions
  Sys2Proof.Proofs.RingCommits Sys2Proof.Proofs.RingQueues

/-! WAIT_TIMEOUT_EXPIRY (R331). -/

section
variable {s : State}

/-- A started WAIT alone in a ring that does not stop on it is over, its tally still short. -/
theorem ringExpiry_wait {n : Nat} {t : Task} (front : ringFront s n .wait = some t) (alone : (getRing s n).sendQueue = [t])
    (started : (getRing s n).gateStarted = true) (kept : (getRing s n).gateStop = false)
    (short : waitResult s (hostTile (getRing s n).home) t = none) : AloneOver s (ringExpiry s n) n := by
  obtain ⟨stands, unfenced, ungated, unheld, op, kind⟩ := runs_of_ringFront front
  unfold ringExpiry
  dsimp only
  rw [alone]
  simp only [stands, unfenced, ungated, unheld, op, kind, started, short, Bool.not_true, Bool.or_self, ne_eq, not_true_eq_false, decide_false,
    Bool.false_eq_true, if_false, if_true, beq_self_eq_true, Option.getD_none]
  rw [endRingGate_kept alone kept (by decide)]
  exact aloneOver_outcome alone ..

/-- An entry of a core's held list whose switch has not come leaves the list, and its record is written. -/
theorem coreExpiry_held {c : CoreNo} {i : Nat} {t : Task} (entry : (getCore s c).held[i]? = some t) (early : genWaits s t = true) :
    (getCore (coreExpiry s c i) c).held = (getCore s c).held.eraseIdx i ∧ besideRecords (coreExpiry s c i) = besideRecords s := by
  have run : coreExpiry s c i = complete (setCore s c { getCore s c with held := (getCore s c).held.eraseIdx i }) t stTimeout := by
    unfold coreExpiry
    dsimp only
    rw [entry]
    exact if_pos early
  rw [run]
  refine ⟨?_, (besideRecords_complete ..).trans (besideRecords_setCore ..)⟩
  have waiting := waits_outcome (setCore s c { getCore s c with held := (getCore s c).held.eraseIdx i }) t stTimeout 0 t.census (now s) (quality s) c
  rw [getCore_same] at waiting
  exact (congrArg (fun x => x.2.1) waiting :)

/-- A task that is no gate and is held in its slot for its step gives up. -/
theorem slotExpiry_held {c : CoreNo} {k : SlotNo} {t : Task} (task : (getSlot s c k).task = some t) (runs : (getSlot s c k).ended = false)
    (held : (getSlot s c k).stepHeld = true) (early : stepWaits s t = true) (wait : t.op ≠ some .wait) (timed : t.op ≠ some .timed) :
    slotExpiry s c k = failSlot s c k stTimeout := by
  have noGate : (t.op == some .wait || t.op == some .timed) = false := by simp [wait, timed]
  unfold slotExpiry slotTimesOut
  simp only [task, runs, held, early, noGate, Bool.false_eq_true, if_false, if_true]

theorem besideRecords_withdrawClose (s : State) (p : PartNo) :
    besideRecords (withdrawClose s p) = besideRecords (setPart s p { getPart s p with closing := none }) := rfl

/-- A pending STEP_CLOSE whose step still has tasks is withdrawn. -/
theorem closeExpiry_pending {p : PartNo} {t : Task} (closing : (getPart s p).closing = some t) (runs : stepDone s p = false) :
    closeExpiry s p = complete (withdrawClose s p) t stTimeout := by
  unfold closeExpiry
  rw [closing]
  exact if_neg (by simp [runs])

end

/-! HOLDOFF_EXPIRY (R335). -/

section
variable {s : State} {n : RingNo} {r : Machine.Ring} (ring : getRing s n.toNat = r) (runs : r.holdoff = true)
include ring runs

theorem exec_holdoffExpiry_idle (none : r.holdoffDue = false) :
    exec (.holdoffExpiry n) s = .next (setRing s n.toNat { r with holdoff := false, holdoffDue := false }) := by
  have run : exec (.holdoffExpiry n) s = finish s (setRing s n.toNat { r with holdoff := false, holdoffDue := false }) := by
    subst ring
    refine congrArg (finish s) ?_
    simp [runs, none]
  rw [run]
  exact finish_of_work (besideWork_setRing ..)

theorem exec_holdoffExpiry_due (due : r.holdoffDue = true) :
    exec (.holdoffExpiry n) s = .next (raiseMsix (setRing s n.toNat { r with holdoff := false, holdoffDue := false }) n.toNat) := by
  have run : exec (.holdoffExpiry n) s = finish s (raiseMsix (setRing s n.toNat { r with holdoff := false, holdoffDue := false }) n.toNat) := by
    subst ring
    refine congrArg (finish s) ?_
    simp [runs, due]
  rw [run]
  exact finish_of_work ((besideWork_raiseMsix ..).trans (besideWork_setRing ..))

end

section
variable {s : State} {n : Nat} {r : Machine.Ring} (ring : getRing s n = r) (enabled : r.msixEn = true) (free : r.holdoff = false)
  (up : (getHp s r.msixPort).linkUp = true) (on : (getHp s r.msixPort).msixOn = true)
include ring enabled free up on

/-- A masked vector that is not pending becomes pending. -/
theorem raiseMsix_masked (masked : (getHp s r.msixPort).msixMasked.contains r.msixVec = true) (fresh : s.msixPending.contains (r.msixPort, r.msixVec) = false) :
    raiseMsix s n = { s with msixPending := s.msixPending ++ [(r.msixPort, r.msixVec)] } := by
  unfold raiseMsix
  simp only [ring, enabled, free, up, on, masked, fresh, Bool.not_true, Bool.or_self, Bool.false_eq_true, if_false, if_true]

/-- Any other is sent, and the ring's holdoff begins. -/
theorem raiseMsix_sent (unmasked : (getHp s r.msixPort).msixMasked.contains r.msixVec = false) :
    raiseMsix s n = setRing { s with msix := (r.msixPort, r.msixVec) :: s.msix } n { r with holdoff := decide (0 < r.holdoffUs) } := by
  unfold raiseMsix
  simp only [ring, enabled, free, up, on, unmasked, Bool.not_true, Bool.or_self, Bool.false_eq_true, if_false]

end

/-! RG_PLATFORM_EVENT (R339). -/

section
variable {s : State} {port : HostPort} {v : Word64} (isOpen : bar0Open s port false = true)
include isOpen

theorem exec_platformEventSet_refused (bad : pairOk v = false) : exec (.platformEventSet port v) s = .next (setupRefused s offPlatformEvent) := by
  have run : exec (.platformEventSet port v) s = finish s (setupRefused s offPlatformEvent) := by
    refine congrArg (finish s) ?_
    simp [isOpen, bad]
  rw [run, finish_setupRefused]

theorem exec_platformEventSet (ok : pairOk v = true) : exec (.platformEventSet port v) s =
    .next (if (pairVal v).testBit 20 && !((getRing s (bits (pairVal v) 0 20)).enabled && (getRing s (bits (pairVal v) 0 20)).kind == 2) then s
      else { s with setup := { s.setup with platformEvent := BitVec.ofNat 21 (pairVal v) } }) := by
  have run : exec (.platformEventSet port v) s = finish s
      (if (pairVal v).testBit 20 && !((getRing s (bits (pairVal v) 0 20)).enabled && (getRing s (bits (pairVal v) 0 20)).kind == 2) then s
        else { s with setup := { s.setup with platformEvent := BitVec.ofNat 21 (pairVal v) } }) := by
    refine congrArg (finish s) ?_
    simp only [isOpen, ok, Bool.not_true, Bool.false_eq_true, if_false]
  rw [run]
  split <;> exact finish_of_same s _ rfl rfl rfl rfl rfl

end

/-- Settles O45: a wait that still waits ends where it stands; a holdoff's records make one message; the platform ring is an enabled EVENT ring or none. -/
theorem timeoutsAndInterrupts : Obligations.TimeoutsAndInterrupts := by
  unfold Obligations.TimeoutsAndInterrupts
  refine ⟨fun s n t front alone started kept short => ?_, fun s c i t entry early => ?_, fun s c k t task runs held early stored fresh wait timed => ?_,
    fun s p t closing runs => ?_, fun s n runs => ⟨fun none => exec_holdoffExpiry_idle rfl runs none, fun due enabled up on => ⟨fun masked fresh => ?_,
      fun unmasked => ?_⟩⟩, fun s port v isOpen => ⟨fun bad => ?_, fun ok => exec_platformEventSet isOpen ok⟩⟩
  · have ended := ringExpiry_wait front alone started kept short
    exact ⟨_, finish_of_work (besideWork_of_records ended.rest), ended.queue, ended.rest⟩
  · obtain ⟨left, rest⟩ := coreExpiry_held entry early
    exact ⟨_, finish_of_work (besideWork_of_records rest), left, rest⟩
  · have run : exec (.waitTimeoutExpiry (.slot c k)) s = finish s (failSlot s c k stTimeout) :=
      congrArg (finish s) (slotExpiry_held task runs held early wait timed)
    exact ⟨_, run.trans (finish_of_work (besideWork_failSlot ..)), failSlot_ends stTimeout task runs (fun _ => fresh) stored⟩
  · have run : exec (.waitTimeoutExpiry (.stepClose p)) s = finish s (complete (withdrawClose s p) t stTimeout) :=
      congrArg (finish s) (closeExpiry_pending closing runs)
    have rest := (besideRecords_complete (withdrawClose s p) t stTimeout).trans (besideRecords_withdrawClose s p)
    exact ⟨_, run.trans (finish_of_work ((besideWork_of_records rest).trans (besideWork_setPart ..))), rest⟩
  · have sent := raiseMsix_masked (s := setRing s n.toNat { getRing s n.toNat with holdoff := false, holdoffDue := false }) (getRing_same ..) enabled rfl up on
      masked fresh
    refine ⟨_, (exec_holdoffExpiry_due rfl runs due).trans (congrArg _ sent), rfl, getRing_same .., rfl, fun m other => getRing_other s _ other⟩
  · have sent := raiseMsix_sent (s := setRing s n.toNat { getRing s n.toNat with holdoff := false, holdoffDue := false }) (getRing_same ..) enabled rfl up on
      unmasked
    refine ⟨_, (exec_holdoffExpiry_due rfl runs due).trans (congrArg _ sent), rfl, getRing_same .., rfl, fun m other => ?_⟩
    exact (getRing_other _ _ other).trans (getRing_other s _ other)
  · exact ⟨_, exec_platformEventSet_refused isOpen bad, onlyReports_setupRefused ..⟩

end Sys2Proof.Proofs.Timeouts

/-!
SUPPORT. What ring units read, send to cores and write back (R310 to R313).
-/
namespace Sys2Proof.Proofs.RingSends
open Sys2Proof Sys2Proof.Machine Sys2Proof.Proofs.Outcomes Sys2Proof.Proofs.RingQueues Sys2Proof.Proofs.RingRuns

/-! Sending to a core (R312). -/

/-- The core that a descriptor names. -/
def targetCore (t : Task) : CoreNo := Fin.ofNat 256 t.tindex

theorem deliverTask_core {t : Task} (kind : t.tkind = 1) (run : t.op ≠ some .palmInit) (s : State) : deliverTask s t =
    setCore s (targetCore t) { getCore s (targetCore t) with
      queue := (getCore s (targetCore t)).queue ++ [{ t with afterMark := (getPart s t.part).drainMark }] } := by
  have core : ({ t with afterMark := (getPart s t.part).drainMark } : Task).tkind = 1 := kind
  have other : ({ t with afterMark := (getPart s t.part).drainMark } : Task).op ≠ some .palmInit := run
  unfold deliverTask
  dsimp only
  rw [core]
  simp only [beq_iff_eq, other, if_false]
  rfl

theorem spread_rings (s : State) (rings : List (Nat × Machine.Ring)) (taskCtr k : Nat) (seen : List TileNo) :
    spread { s with rings, taskCtr } k seen = spread s k seen := by
  induction k generalizing seen with
  | zero => rfl
  | succ k ih => exact ih _

/-- Paths join tiles whatever stands in the rings. -/
theorem reachable_rings (s : State) (rings : List (Nat × Machine.Ring)) (taskCtr : Nat) (a b : TileNo) :
    reachable { s with rings, taskCtr } a b = reachable s a b := by
  unfold reachable
  rw [spread_rings]
  rfl

theorem targetTile_of_core {t : Task} (kind : t.tkind = 1) (s : State) : targetTile s t = coreTile (targetCore t) := by
  unfold targetTile
  rw [kind]
  rfl

/-- From s to u a ring's only queued descriptor has gone to its core; but for the ring unit's turn and the gate that it may be, nothing else has changed. -/
structure SentToCore (s u : State) (n : Nat) (t : Task) : Prop where
  core : (getCore u (targetCore t)).queue = (getCore s (targetCore t)).queue ++ [{ t with afterMark := (getPart s t.part).drainMark }]
  others : ∀ c, c ≠ targetCore t → getCore u c = getCore s c
  ring : ∃ g, getRing u n = { getRing s n with sendQueue := [], gateStarted := false, gateOut := g }
  rings : ∀ m, m ≠ n → getRing u m = getRing s m
  rest : { u with cores := s.cores, rings := s.rings, ringTurn := s.ringTurn } = s

/-- A descriptor for a core stands alone in its ring, and nothing keeps it there. -/
structure Sendable (s : State) (n : Nat) (t : Task) : Prop where
  alone : (getRing s n).sendQueue = [t]
  stands : homeStands s (getRing s n) = true
  unfenced : fenceWaits (getRing s n) t = false
  ungated : gateHolds (getRing s n) = false
  unheld : targetHeld s t = false
  good : ringUnitFails s t = []
  kind : t.tkind = 1
  run : t.op ≠ some .palmInit
  path : reachable s (hostTile (getRing s n).home) (targetTile s t) = true

section
variable {s : State} {n : Nat} {t : Task} (h : Sendable s n t)
include h

theorem sendOne_sendable : sendOne s n = some (
    let v := deliverTask (popSend s n) t
    if t.isGate then setRing v n { getRing v n with gateOut := some t.index } else v) := by
  obtain ⟨alone, stands, unfenced, ungated, unheld, good, kind, -, path⟩ := h
  unfold sendOne
  dsimp only
  rw [alone]
  simp only [stands, unfenced, ungated, unheld, good, kind, path, admissionFailure, Bool.not_true, Bool.or_self, Bool.false_eq_true, Nat.one_ne_zero,
    if_false]

theorem sentToCore_sendOne {u : State} (sent : sendOne s n = some u) : SentToCore s u n t := by
  rw [sendOne_sendable h] at sent
  obtain rfl := Option.some.inj sent
  have popped : getRing (popSend s n) n = { getRing s n with sendQueue := [], gateStarted := false } := by rw [getRing_popSend, h.alone]; rfl
  rw [deliverTask_core h.kind h.run]
  generalize hv : setCore (popSend s n) (targetCore t) _ = v
  have ring : getRing v n = { getRing s n with sendQueue := [], gateStarted := false } := by rw [← hv]; exact popped
  have delivered : SentToCore s v n t := by
    refine ⟨?_, fun c other => ?_, ⟨_, ring⟩, fun m other => ?_, ?_⟩
    · rw [← hv, getCore_same]; rfl
    · rw [← hv]; exact getCore_other _ _ other
    · rw [← hv]; exact getRing_other s _ other
    · rw [← hv]; rfl
  dsimp only
  split
  · exact ⟨delivered.core, delivered.others, ⟨_, by rw [getRing_same, ring]⟩, fun m other => (getRing_other v _ other).trans (delivered.rings m other),
      delivered.rest⟩
  · exact delivered

theorem sentToCore_pumpRing : SentToCore s (pumpRing s n) n t := by
  have turn : Sendable (takeTurn s (getRing s n).home n) n t := ⟨h.alone, h.stands, h.unfenced, h.ungated, h.unheld, h.good, h.kind, h.run, h.path⟩
  have sent := sendOne_sendable turn
  have run : some (pumpRing s n) = sendOne (takeTurn s (getRing s n).home n) n := by
    unfold pumpRing
    dsimp only
    rw [h.alone]
    unfold pump
    simp only [List.isEmpty_cons, List.length_singleton, Bool.false_eq_true, if_false, sent]
    rfl
  obtain ⟨core, others, ring, rings, rest⟩ := sentToCore_sendOne turn run.symm
  exact ⟨core, others, ring, rings, (congrArg (fun x : State => { x with ringTurn := s.ringTurn }) rest :)⟩

end

/-! Reading (R310). -/

section
variable {s : State} {n : Nat} {r : Machine.Ring} (one : r.count = 1)
include one

theorem count_advanceHead : (advanceHead r 1).count = 0 := by
  unfold Ring.count at one ⊢
  have next : r.tail - r.head = 1 := BitVec.eq_of_toNat_eq one
  have none : r.tail - (r.head + BitVec.ofNat 32 1) = 0 := by bv_omega
  exact congrArg BitVec.toNat none

variable (access : ringAccess s r .read (r.slotAddr r.head) 64 = none) (short : bits (memNat s (r.slotAddr r.head) 64) 8 2 = 0)
include access short

theorem readDescriptor_single : readDescriptor s n r = .got
    { ring := BitVec.ofNat 20 n, index := r.head, ctx := r.ctx, part := (getCtx s r.ctx).part, raw := BitVec.ofNat 2048 (memNat s (r.slotAddr r.head) 64),
      serial := s.taskCtr } 1 := by
  unfold readDescriptor readEntry
  simp only [one, access, short, readConts, Nat.one_ne_zero, if_false, Nat.add_zero, Nat.lt_irrefl, Nat.zero_mul]

variable (ring : getRing s n = r)
include ring

/-- A run over the only entry of a ring reads it and stops. -/
theorem readRun_single {t : Task} (read : t = { ring := BitVec.ofNat 20 n, index := r.head, ctx := r.ctx, part := (getCtx s r.ctx).part
                                                raw := BitVec.ofNat 2048 (memNat s (r.slotAddr r.head) 64), serial := s.taskCtr }) (fuel left : Nat) :
    readRun s n (fuel + 2) (left + 1) =
      setRing { s with taskCtr := s.taskCtr + 1 } n { advanceHead r 1 with sendQueue := r.sendQueue ++ [t], open_ := r.open_ ++ [t.index] } := by
  have first := readDescriptor_single (n := n) one access short
  rw [← read] at first
  have stop (v : State) (left : Nat) (none : (getRing v n).count = 0) : readRun v n (fuel + 1) left = v := by
    unfold readRun readDescriptor
    simp [none]
  unfold readRun
  simp only [ring, first, Nat.add_one_ne_zero, if_false, Nat.not_lt.mpr (Nat.le_add_left 1 left)]
  refine stop _ _ ?_
  rw [getRing_same]
  exact count_advanceHead one

end

/-! HEAD_WRITEBACK (R311). -/

section
variable {s : State} {n : RingNo} {r : Machine.Ring} (ring : getRing s n.toNat = r) (due : r.headDue = true) (asked : r.headWb ≠ 0)
  (active : r.state = .active) (write : ringAccess s r .write r.headWb 8 = none) (read : ringAccess s r .read r.headWb 8 = none)
  (clean : rangePoisoned s r.headWb 8 = false)
include ring due asked active write read clean

theorem exec_headWriteback : exec (.headWriteback n) s =
    .next (setRing (writeMem s r.headWb (bytesOf 8 (mkPair r.head).toNat)).1 n.toNat { r with headDue := false }) := by
  have stored := (writeMem_clean s r.headWb (bytesOf 8 (mkPair r.head).toNat) (by rw [bytesOf_length]; exact clean)).1
  have run : exec (.headWriteback n) s = finish s (setRing (writeMem s r.headWb (bytesOf 8 (mkPair r.head).toNat)).1 n.toNat { r with headDue := false }) := by
    refine congrArg (finish s) ?_
    simp [ring, due, asked, active, write, read, stored]
  rw [run]
  exact finish_of_work ((besideWork_setRing ..).trans (besideWork_writeMem ..))

end

/-- Settles O42: what stands alone at a ring's head, or in its queue, reaches its core; the head is written back as a pair. -/
theorem ringsReadAndSend : Obligations.RingsReadAndSend := by
  unfold Obligations.RingsReadAndSend
  refine ⟨fun s n t reads empty closed ungated one access short ht good kind unheld path run => ?_,
    fun s n t alone stands unfenced ungated unheld good kind run path => ?_, fun s n due asked active write read clean => ?_⟩
  · have named : BitVec.ofNat 20 n.toNat = n := by simp
    have read := readRun_single (n := n.toNat) one access short rfl (t := t) (by rw [named]; exact ht) 30 31
    rw [empty, closed] at read
    generalize hv : setRing { s with taskCtr := s.taskCtr + 1 } n.toNat _ = v at read
    have ring : getRing v n.toNat = { advanceHead (getRing s n.toNat) 1 with sendQueue := [t], open_ := [t.index] } := by rw [← hv]; exact getRing_same ..
    have stands : homeStands s (getRing s n.toNat) = true := by
      unfold ringReads at reads
      exact (Bool.and_eq_true_iff.mp reads).2
    have ready : Sendable v n.toNat t := by
      refine ⟨by rw [ring], ?_, by rw [ring]; simp [fenceWaits], ?_, ?_, ?_, kind, run, ?_⟩
      · rw [ring, ← hv]; exact stands
      · rw [ring]
        unfold gateHolds
        rw [show (advanceHead (getRing s n.toNat) 1).gateOut = none from ungated]
      · rw [← hv]; exact unheld
      · rw [← hv]; exact good
      · rw [targetTile_of_core kind] at path ⊢
        rw [show (getRing v n.toNat).home = (getRing s n.toNat).home by rw [ring]; rfl, ← hv, setRing, reachable_rings]
        exact path
    have row : exec (.ringRead n) s = finish s (pumpRing v n.toNat) := by
      refine congrArg (finish s) ?_
      rw [if_pos reads, ← read]
    obtain ⟨core, others, ⟨g, sent⟩, rings, rest⟩ := sentToCore_pumpRing ready
    rw [ring] at sent
    have beside : besideWork (pumpRing v n.toNat) = besideWork s := by
      rw [besideWork_pumpRing, ← hv]
      rfl
    subst hv
    refine ⟨_, row.trans (finish_of_work beside), ⟨core, others⟩, by rw [sent]; rfl, by rw [sent]; rfl, by rw [sent]; rfl, by rw [sent, ht],
      by rw [sent], ?_, fun m other => (rings m other).trans (getRing_other _ _ other)⟩
    exact (congrArg (fun x : State => { x with rings := s.rings, taskCtr := s.taskCtr }) rest :)
  · have sent := sentToCore_pumpRing ⟨alone, stands, unfenced, ungated, unheld, good, kind, run, path⟩
    obtain ⟨core, others, ⟨g, ring⟩, rings, rest⟩ := sent
    refine ⟨_, finish_of_work (besideWork_pumpRing ..), ⟨core, others⟩, by rw [ring], by rw [ring], rest, rings⟩
  · have row := exec_headWriteback rfl due asked active write read clean
    have memory := besideMemory_writeMem s (getRing s n.toNat).headWb (bytesOf 8 (mkPair (getRing s n.toNat).head).toNat)
    refine ⟨_, row, getRing_same .., fun m other => (getRing_other _ _ other).trans (getRing_of _ _ m (rings_of_memory memory)),
      memNat_writeNumber clean (BitVec.isLt _), fun a out => memByte_writeNumber_outside clean out, ?_⟩
    exact (congrArg (fun x : State => { x with rings := s.rings }) memory :)

end Sys2Proof.Proofs.RingSends

/-!
SUPPORT. Host ports in service, and writes to registers without a row of their own (R417, R473, R474, R484 to R486, R512).
-/
namespace Sys2Proof.Proofs.HostRegisters
open Sys2Proof Sys2Proof.Machine Sys2Proof.Proofs.Units Sys2Proof.Proofs.Outcomes Sys2Proof.Proofs.RingCommits

/-- From s to t nothing has changed that a row's end looks at: the state sensors (R480), the queue, the time base and the fuses. -/
structure EndStands (s t : State) : Prop where
  sensors : ∀ n, stateSensor t n = stateSensor s n
  pending : t.pending = s.pending
  tb : t.tb = s.tb
  fuses : t.weala.fuses = s.weala.fuses

namespace EndStands

theorem refl (s : State) : EndStands s s := ⟨fun _ => rfl, rfl, rfl, rfl⟩

theorem trans {s t u : State} (h : EndStands s t) (k : EndStands t u) : EndStands s u :=
  ⟨fun n => (k.sensors n).trans (h.sensors n), k.pending.trans h.pending, k.tb.trans h.tb, k.fuses.trans h.fuses⟩

theorem ite {s t u : State} {c : Prop} [Decidable c] (h : EndStands s t) (k : EndStands s u) : EndStands s (if c then t else u) := by
  split
  · exact h
  · exact k

theorem finish {s t : State} (h : EndStands s t) : Machine.finish s t = .next t := by
  rw [finish_next h.pending h.tb h.fuses, announce_of_sensors h.sensors]

end EndStands

/-! Host ports (R473, R474, R512). -/

/-- A host port's function is not the module's, so that no sensor reports it. -/
theorem endStands_setFnHost (s : State) (p : HostPort) (st : Nat) : EndStands s (setFn s (fnHost p) st) := by
  have other : fnModule ≠ fnHost p := by unfold fnHost fnModule; omega
  have ready : fnReady (setFn s (fnHost p) st) fnModule = fnReady s fnModule := by
    unfold fnReady
    rw [fnState_setFn_other s st other]
  rw [setFn_rest] at ready ⊢
  exact ⟨stateSensor_congr rfl ready rfl, rfl, rfl, rfl⟩

section
variable {s z : State} {p : HostPort} {st : Nat} {c : Bool}

/-- A port's change and then, under a condition, its function's: beside that function all is as after the first. -/
theorem finish_portFn (h : EndStands s z) : finish s (if c then setFn z (fnHost p) st else z) = .next (if c then setFn z (fnHost p) st else z) :=
  EndStands.finish (.ite (h.trans (endStands_setFnHost ..)) h)

theorem portFn_rest : (if c then setFn z (fnHost p) st else z) = { z with fns := (if c then setFn z (fnHost p) st else z).fns } := by
  split
  · exact setFn_rest ..
  · rfl

end

/-- PERST_N released, before the controller answers (R474). -/
def released (s : State) (p : HostPort) : State := setHp s p { getHp s p with perstReleased := true }

theorem perst_releases (s : State) (p : HostPort) :
    ∃ u, exec (.perstRelease p) s = .next u ∧ getHp u p = { getHp s p with perstReleased := true } ∧
      (fnState s (fnHost p) = 2 → fnState u (fnHost p) = 1) ∧ (fnState s (fnHost p) ≠ 2 → u.fns = s.fns) ∧
      (∀ q, q ≠ p → getHp u q = getHp s q) ∧ { u with fns := s.fns, hports := s.hports } = s := by
  have run : exec (.perstRelease p) s = finish s (if fnState s (fnHost p) == 2 then setFn (released s p) (fnHost p) 1 else released s p) := rfl
  have rest := portFn_rest (z := released s p) (p := p) (st := 1) (c := fnState s (fnHost p) == 2)
  refine ⟨_, run.trans (finish_portFn ⟨fun _ => rfl, rfl, rfl, rfl⟩), ?_, fun waits => ?_, fun busy => ?_, fun q other => ?_, ?_⟩
  · rw [rest]; exact getHp_same ..
  · rw [if_pos (beq_iff_eq.mpr waits), fnState_setFn_same _ _ _ (by decide)]
  · rw [if_neg (by simpa using busy)]; rfl
  · rw [rest]; exact getHp_other s _ other
  · rw [rest]; rfl

/-- A port down under PERST_N, before its function follows (R474). -/
def asserted (s : State) (p : HostPort) : State :=
  dropPending (setHp s p { getHp s p with perstReleased := false, linkUp := false, recovering := false, width := 0, speed := 0, flit := false
                                          atsEnabled := false, ats := [], latch := none, msixOn := false, msixMasked := [] }) p

theorem perst_asserts (s : State) (p : HostPort) :
    ∃ u, exec (.perstAssert p) s = .next u ∧ (getHp u p).perstReleased = false ∧ (getHp u p).linkUp = false ∧ (getHp u p).ats = [] ∧
      (getHp u p).recoveries = (getHp s p).recoveries ∧ (getHp u p).correctable = (getHp s p).correctable ∧
      (getHp u p).msixOn = false ∧ (∀ e, e ∈ u.msixPending ↔ e ∈ s.msixPending ∧ e.1 ≠ p) ∧
      (fnReady s (fnHost p) = true → fnState u (fnHost p) = 2) ∧ (∀ q, q ≠ p → getHp u q = getHp s q) ∧
      { u with fns := s.fns, hports := s.hports, msixPending := s.msixPending } = s := by
  have run : exec (.perstAssert p) s = finish s (if fnReady s (fnHost p) then setFn (asserted s p) (fnHost p) 2 else asserted s p) := rfl
  have rest := portFn_rest (z := asserted s p) (p := p) (st := 2) (c := fnReady s (fnHost p))
  generalize hu : (if fnReady s (fnHost p) then setFn (asserted s p) (fnHost p) 2 else asserted s p) = u at rest
  have port : getHp u p = { getHp s p with perstReleased := false, linkUp := false, recovering := false, width := 0, speed := 0, flit := false
                                           atsEnabled := false, ats := [], latch := none, msixOn := false, msixMasked := [] } := by
    rw [rest]; exact getHp_same ..
  have pending : u.msixPending = s.msixPending.filter fun e => e.1 != p := by rw [rest]; rfl
  refine ⟨u, ?_, by rw [port], by rw [port], by rw [port], by rw [port], by rw [port], by rw [port], fun e => ?_, fun ready => ?_, fun q other => ?_, ?_⟩
  · rw [run, ← hu]; exact finish_portFn ⟨fun _ => rfl, rfl, rfl, rfl⟩
  · rw [pending, List.mem_filter, bne_iff_ne]
  · rw [← hu, if_pos ready, fnState_setFn_same _ _ _ (by decide)]
  · rw [rest]; exact getHp_other s _ other
  · rw [rest]; rfl

theorem finish_setHp (s : State) (p : HostPort) (h : HPort) : finish s (setHp s p h) = .next (setHp s p h) := finish_of_same _ _ rfl rfl rfl rfl rfl

section
variable {s : State} {p : HostPort} (up : (getHp s p).linkUp = true) (ce ue : Nat)
include up

theorem exec_hostLinkRecovers : exec (.hostLinkRecovery p ⟨false, ce, ue⟩) s = .next (setHp s p { getHp s p with
    linkUp := false, recovering := true, recoveries := satInc (getHp s p).recoveries
    correctable := satAdd (getHp s p).correctable ce, uncorrectable := satAdd (getHp s p).uncorrectable ue }) :=
  Eq.trans (congrArg (finish s) (if_pos up)) (finish_setHp s p _)

theorem exec_hostLinkLost : exec (.hostLinkRecovery p ⟨true, ce, ue⟩) s = .next (setHp s p { getHp s p with
    linkUp := false, recovering := false, width := 0, speed := 0, flit := false, ats := [], latch := none
    correctable := satAdd (getHp s p).correctable ce, uncorrectable := satAdd (getHp s p).uncorrectable ue }) :=
  Eq.trans (congrArg (finish s) (if_pos (Bool.or_eq_true_iff.mpr (.inl up)))) (finish_setHp s p _)

theorem exec_atsInvalidate (c : CtxNo) (page : Nat) : exec (.atsInvalidateRequest p c page) s = .next (setHp s p { getHp s p with
    ats := (getHp s p).ats.filter (· != (c, page)), atsCompleted := (getHp s p).atsCompleted + 1 }) :=
  Eq.trans (congrArg (finish s) (if_pos up)) (finish_setHp s p _)

end

/-! Windows (R417, R486). -/

theorem endStands_setWindowByte (s : State) (w : Window) (i : Nat) (b : Byte) : EndStands s (setWindowByte s w i b) := by
  cases w <;> exact ⟨fun _ => rfl, rfl, rfl, rfl⟩

theorem endStands_setWindow (s : State) (w : Window) (i : Nat) (bs : List Byte) : EndStands s (setWindow s w i bs) := by
  induction bs generalizing s i with
  | nil => exact .refl s
  | cons b bs ih => exact (endStands_setWindowByte s w i b).trans (ih ..)

section
variable {s : State} {port : HostPort} {o : Nat} {bs : List Byte} (isOpen : bar0Open s port (alwaysOpen o) = true)
include isOpen

section
variable {w : Window} {i size : Nat} (window : windowAt o = some (w, i, size))
include window

theorem exec_windowWrite : exec (.registerWrite port o bs) s = finish s
    (if 4 ≤ bs.length ∧ bs.length ≤ 512 ∧ bs.length % 4 = 0 ∧ o % 4 = 0 ∧ i + bs.length ≤ size then setWindow s w i bs else setupRefused s o) := by
  refine congrArg (finish s) ?_
  rw [isOpen, window]
  rfl

theorem exec_windowTaken (fits : 4 ≤ bs.length ∧ bs.length ≤ 512 ∧ bs.length % 4 = 0 ∧ o % 4 = 0 ∧ i + bs.length ≤ size) :
    exec (.registerWrite port o bs) s = .next (setWindow s w i bs) := by
  rw [exec_windowWrite isOpen window, if_pos fits, (endStands_setWindow ..).finish]

theorem exec_windowRefused (wrong : ¬(4 ≤ bs.length ∧ bs.length ≤ 512 ∧ bs.length % 4 = 0 ∧ o % 4 = 0 ∧ i + bs.length ≤ size)) :
    exec (.registerWrite port o bs) s = .next (setupRefused s o) := by
  rw [exec_windowWrite isOpen window, if_neg wrong, finish_setupRefused]

end

/-! Plain registers (R484, R486). -/

section
variable (window : windowAt o = none)
include window

theorem exec_plainWrite : exec (.registerWrite port o bs) s = finish s (writeReg s o bs) := by
  refine congrArg (finish s) ?_
  rw [isOpen, window]
  rfl

theorem exec_plainRefused (wrong : (bs.length ≠ 4 ∧ bs.length ≠ 8) ∨ o % bs.length ≠ 0) :
    exec (.registerWrite port o bs) s = .next (setupRefused s o) := by
  have refused : (!((bs.length == 4 || bs.length == 8) && o % bs.length == 0)) = true := by
    simp only [Bool.not_eq_true', Bool.and_eq_false_iff, Bool.or_eq_false_iff, beq_eq_false_iff_ne]
    exact wrong
  have write : writeReg s o bs = setupRefused s o := if_pos refused
  rw [exec_plainWrite isOpen window, write, finish_setupRefused]

end

end

theorem writeReg_whole {bs : List Byte} {o : Nat} (whole : bs.length = 8) (aligned : o % 8 = 0) (s : State) :
    writeReg s o bs = setReg s (regAt o) (BitVec.ofNat 64 (natOfBytes bs)) := by
  have start : o / 8 * 8 = o := Nat.div_mul_cancel (Nat.dvd_of_mod_eq_zero aligned)
  unfold writeReg
  simp [whole, aligned, start]

/-- A plain register's content is setup, or a value that no state sensor reports. -/
theorem endStands_setReg {r : Reg} (load : ∀ k, r ≠ .load k) (mbox : ∀ p, r ≠ .mboxCmd p) (lines : ∀ n, r ≠ .pwLl n) (s : State) (w : Word64) :
    EndStands s (setReg s r w) := by
  cases r with
  | none | pair => exact .refl s
  | diagTiles | partSel | ctxSel | ctxShadow | pageSel | pageShadow | ringSel | quiet | lsShadow => exact ⟨fun _ => rfl, rfl, rfl, rfl⟩
  | busMin | thermCtl | redTmo | moeClr | scrubCtl | farCtl | evPtr | coreCtl | sparseClr | pwFreq | visorPtr =>
    exact .ite ⟨fun _ => rfl, rfl, rfl, rfl⟩ (.refl s)
  | load k => exact absurd rfl (load k)
  | mboxCmd p => exact absurd rfl (mbox p)
  | pwLl t => exact absurd rfl (lines t)

/-- Settles O8: PERST_N and a port's link by their rows, a window byte by byte, a plain register by its kind. -/
theorem hostPortsAndWrites : Obligations.HostPortsAndWrites := by
  unfold Obligations.HostPortsAndWrites
  refine ⟨fun s p => ⟨perst_releases s p, perst_asserts s p, fun up => ⟨fun ce ue => ⟨exec_hostLinkRecovers up ce ue, ?_⟩, exec_atsInvalidate up⟩⟩,
    fun s port o bs isOpen => ⟨fun w i size window => ⟨fun least most words aligned within => ?_, fun wrong => ?_⟩, fun window => ⟨fun wrong => ?_, ?_⟩⟩⟩
  · refine ⟨_, exec_hostLinkLost up ce ue, ?_, ?_, ?_, ?_, ?_, fun q other => getHp_other s _ other, rfl⟩
    all_goals rw [getHp_same]
  · exact exec_windowTaken isOpen window ⟨least, most, words, aligned, within⟩
  · exact ⟨_, exec_windowRefused isOpen window (by omega), onlyReports_setupRefused ..⟩
  · exact ⟨_, exec_plainRefused isOpen window wrong, onlyReports_setupRefused ..⟩
  · intro whole aligned load mbox lines
    rw [exec_plainWrite isOpen window, writeReg_whole whole aligned]
    exact (endStands_setReg load mbox lines ..).finish

end Sys2Proof.Proofs.HostRegisters
